-- ==== Sys2Proof/Word.lean ====
section
/-! DEFINITION. Machine words: the plain widths the manual names and the sign extension of a field. -/

namespace Sys2Proof

/-- One byte. -/
abbrev Byte := BitVec 8
/-- A halfword, and a predicate register (02 R37). -/
abbrev W16 := BitVec 16
/-- A container of a tile, and an instruction word (03 R59, 11 R265). -/
abbrev W32 := BitVec 32
/-- A scalar register, an address, a CSR (01 R15). -/
abbrev W64 := BitVec 64
/-- The number of a scalar register (11 R270). -/
abbrev Reg := BitVec 5

/-- A field of any width, sign-extended to 64 bits (17 R309). -/
def sext64 {n : Nat} (v : BitVec n) : W64 := v.signExtend 64

/-- A field of any width, zero-extended to 64 bits (17 R309). -/
def zext64 {n : Nat} (v : BitVec n) : W64 := v.setWidth 64

end Sys2Proof
end

