-- ==== Sys2Proof/Syntax.lean ====
section
/-! DEFINITION. The instructions and events of the part: one constructor for each row of the manual's table of
operations and events (spec/opcode_table.json). The stop bit belongs to the bundle (11 R267) and is no operand. -/

namespace Sys2Proof

/-- The four strands of a work item (02 R27), numbered L 0, C 1, S 2, K 3. -/
inductive StrandId | L | C | S | K
  deriving DecidableEq, Repr

/-- Fence and maintenance scopes (05 R133). -/
inductive Scope | core | cluster | die | package | system
  deriving DecidableEq, Repr

/-- Barrier scopes (02 R50). -/
inductive BarScope | core | cluster | die | package
  deriving DecidableEq, Repr

/-- Engine classes (18 R341): copy engine, matrix array, near-bank units, graph search engine. -/
inductive EngClass | ce | mxa | nbu | gse
  deriving DecidableEq, Repr

/-- Element width of tile loads and stores (11 R271). -/
inductive TWidth | w1 | w2 | w4
  deriving DecidableEq, Repr

/-- Size of a scalar store (19 R385). -/
inductive StSize | b | h | w | d
  deriving DecidableEq, Repr

/-- Size of an atomic (17 R312). -/
inductive AmoSize | w | d
  deriving DecidableEq, Repr

/-- Views of a tile (02 R35). -/
inductive View | whole | row | col | diag
  deriving DecidableEq, Repr

/-- Index source of a view (02 R35). -/
inductive IxSrc | zero | la | lb
  deriving DecidableEq, Repr

/-- A tile operand as a source (11 R280). -/
inductive TSrc
  | tile (reg : BitVec 5) (view : View) (ix : IxSrc)
  | lq (q : BitVec 2) (peek : Bool)
  | mq (q : BitVec 3) (peek : Bool)
  deriving DecidableEq, Repr

/-- A tile operand as a destination (11 R280). -/
inductive TDst
  | tile (reg : BitVec 5) (view : View) (ix : IxSrc)
  | sq (q : BitVec 1)
  deriving DecidableEq, Repr

/-- A queue that QSTAT may name (02 R33). -/
inductive QName
  | lq (q : BitVec 2)
  | sq (q : BitVec 1)
  | mq (q : BitVec 3)
  | tf (q : BitVec 3)
  deriving DecidableEq, Repr

/-- Conditions of VCMP (20 R411). -/
inductive Cond | eq | ne | lt | le | gt | ge
  deriving DecidableEq, Repr

/-- Functions of VSF (20 R421). -/
inductive SpecialFn | exp2 | log2 | rcp | rsq | tanh | sigm
  deriving DecidableEq, Repr

/-- Guard, destination and profile that every tile instruction carries (11 R279). -/
structure TileHd where
  qp : BitVec 4
  np : BitVec 8
  deriving DecidableEq, Repr

/-- A firmware image header as BOOT_VERIFY meets it (10 R262): the image bytes, the digest and version it carries, and
its signature. The header's layout is not given, so its fields are the event's arguments. -/
structure BootImage where
  body : List Byte
  digest : BitVec 512
  version : Nat
  signature : List Byte
  wellFormed : Bool
  deriving DecidableEq, Repr

/-- How a host atomic names its operation (10 R257): the AMO op code 0x0 to 0xB and its size. -/
structure HostAmo where
  op : BitVec 4
  size : AmoSize
  operand : W64
  expected : W64
  deriving DecidableEq, Repr

/-- A link that can fail: a Gnostad Link port, a peer-link port, or the link of a die in a direction (0 east, 1 west,
2 south, 3 north; 09 R232, R233). -/
inductive LinkName
  | host (port : Nat)
  | peer (port : Nat)
  | fabric (die hop : Nat)
  deriving DecidableEq, Repr

/-- The instructions and the events of the part. -/
inductive Instr
  -- ALU.R (11 R272)
  | add (d a b : Reg) | sub (d a b : Reg) | mul (d a b : Reg) | mulh (d a b : Reg) | mulhu (d a b : Reg)
  | div (d a b : Reg) | divu (d a b : Reg) | rem (d a b : Reg) | remu (d a b : Reg)
  | and (d a b : Reg) | or (d a b : Reg) | xor (d a b : Reg)
  | shl (d a b : Reg) | shr (d a b : Reg) | shra (d a b : Reg)
  | slt (d a b : Reg) | sltu (d a b : Reg)
  | min (d a b : Reg) | max (d a b : Reg) | minu (d a b : Reg) | maxu (d a b : Reg)
  | clz (d a : Reg) | popc (d a : Reg)
  -- immediates (11 R271)
  | addi (d a : Reg) (imm : BitVec 15) | andi (d a : Reg) (imm : BitVec 15) | ori (d a : Reg) (imm : BitVec 15)
  | xori (d a : Reg) (imm : BitVec 15) | slti (d a : Reg) (imm : BitVec 15)
  | shli (d a : Reg) (n : BitVec 6) | shri (d a : Reg) (n : BitVec 6) | shrai (d a : Reg) (n : BitVec 6)
  | lih (d : Reg) (imm : BitVec 20)
  -- control transfers
  | beq (a b : Reg) (off : BitVec 15) | bne (a b : Reg) (off : BitVec 15) | blt (a b : Reg) (off : BitVec 15)
  | bge (a b : Reg) (off : BitVec 15) | bltu (a b : Reg) (off : BitVec 15) | bgeu (a b : Reg) (off : BitVec 15)
  | jal (d : Reg) (off : BitVec 20) | jalr (d a : Reg) (imm : BitVec 15)
  -- scalar memory
  | ldB (d a : Reg) (off : BitVec 12) | ldH (d a : Reg) (off : BitVec 12) | ldW (d a : Reg) (off : BitVec 12)
  | ldD (d a : Reg) (off : BitVec 12) | ldBz (d a : Reg) (off : BitVec 12) | ldHz (d a : Reg) (off : BitVec 12)
  | ldWz (d a : Reg) (off : BitVec 12)
  | st (v a : Reg) (size : StSize) (off : BitVec 12)
  | amoAdd (d a b : Reg) (z : AmoSize) | amoMin (d a b : Reg) (z : AmoSize) | amoMax (d a b : Reg) (z : AmoSize)
  | amoMinu (d a b : Reg) (z : AmoSize) | amoMaxu (d a b : Reg) (z : AmoSize) | amoAnd (d a b : Reg) (z : AmoSize)
  | amoOr (d a b : Reg) (z : AmoSize) | amoXor (d a b : Reg) (z : AmoSize) | amoSwap (d a b : Reg) (z : AmoSize)
  | amoCas (d a b : Reg) (z : AmoSize) | amoFaddF32 (d a b : Reg) | amoFaddBf16 (d a b : Reg)
  -- fences and maintenance
  | fence (sc : Scope) | bfence (sc : Scope)
  | clInv (sc : Scope) (a : Reg) | clWb (sc : Scope) (a : Reg) | clWbi (sc : Scope) (a : Reg)
  | tlbInv (sc : Scope) (a : Reg)
  -- loops
  | loop (a : Reg) (e : BitVec 15) | loopRot (a : Reg) (e : BitVec 15)
  | loopR (two : Bool) (e : BitVec 3) | brkL
  -- system
  | trap (imm : BitVec 10) | rett | wait (imm : BitVec 10) | waitExpiry (st : StrandId) | halt | nop
  | csrRd (d : Reg) (csr : BitVec 10) | csrWr (d a : Reg) (csr : BitVec 10) | csrSet (d a : Reg) (csr : BitVec 10)
  | csrClr (d a : Reg) (csr : BitVec 10) | knrd (d : Reg) (k : BitVec 4) | dbgMark (a : Reg) (imm : BitVec 10)
  -- queues
  | qpush (q : BitVec 3) (x : Reg) | qpop (x : Reg) (q : BitVec 3) (peek : Bool)
  | tpost (q : BitVec 3) (n : BitVec 8) | twait (q : BitVec 3) (peek : Bool) (n : BitVec 8)
  | qstat (x : Reg) (q : QName)
  -- tile memory
  | tld (q : BitVec 2) (a b : Reg) (rows : BitVec 5) (w : TWidth) (zp : Bool)
  | tldG (q : BitVec 2) (a b : Reg) (m : BitVec 3) (rows : BitVec 5) (w : TWidth) (zp : Bool)
  | tileLineArrival (q : BitVec 2)
  | probe (d a : Reg) (off : BitVec 15)
  | scwFill (cluster slot : Nat) | scwWriteback (cluster slot : Nat)
  | tst (q : BitVec 1) (a b : Reg) (rows : BitVec 5) (w : TWidth)
  | cstq (d a b : Reg) (pair : Bool) (w : TWidth)
  -- PCTL
  | pset (p : BitVec 4) (imm : BitVec 16)
  | plogAnd (d a b : BitVec 4) | plogOr (d a b : BitVec 4) | plogXor (d a b : BitVec 4) | plogAndn (d a b : BitVec 4)
  | pmovToP (p : BitVec 4) (x : Reg) | pmovFromP (p : BitVec 4) (x : Reg)
  | lset (lb : Bool) (a : Reg) (imm : BitVec 6) | trbset (a : Reg) (imm : BitVec 4)
  | shape (d a : Reg) (slot : BitVec 2)
  -- CX units
  | ceCopy (d a : Reg) | ceFill (d a : Reg) | ceGath (d a : Reg) | ceStart (seq : W32) | ceRow (seq : W32)
  | tuneDecl (d : Option Reg) (a b : Reg) | tuneObj (d : Option Reg) (a b : Reg) | tuneStep (d : Option Reg) (a : Reg)
  | tuneFrz (d : Option Reg) | tuneRsm (d : Option Reg) | tuneSave (d : Option Reg) (a : Reg)
  | tuneLoad (d : Option Reg) (a : Reg)
  | wdPush (d a : Reg) | wdPop (d : Reg) | wdSteal (d : Reg)
  | barArrive (sc : BarScope) | barWait (sc : BarScope) | barAw (sc : BarScope) | barrierRelease (st : StrandId)
  | slotSet (d : Option Reg) (a : Reg) | slotInv (d : Option Reg) (a : Reg) (all : Bool)
  | slotWb (d : Option Reg) (a : Reg) (all : Bool)
  | engWait (c : EngClass) (a : Reg) | engSeq (d : Reg) (c : EngClass) | engLnch (d a : Reg)
  | mxLease (d : Reg) | mxFree | mxFmt (d a b : Reg) | mxScl (a : Reg) (all : Bool) | mxAct (d a : Reg)
  | gsCfg (d : Option Reg) (a b : Reg)
  | illegalInstruction (strandFault : Bool) (word : W32) (at_ : W64)
  -- ARITH (11 R281)
  | vadd (h : TileHd) (td : TDst) (ta tb : TSrc) | vsub (h : TileHd) (td : TDst) (ta tb : TSrc)
  | vmul (h : TileHd) (td : TDst) (ta tb : TSrc) | vfma (h : TileHd) (td : TDst) (ta tb tc : TSrc)
  | vmin (h : TileHd) (td : TDst) (ta tb : TSrc) | vmax (h : TileHd) (td : TDst) (ta tb : TSrc)
  | vabs (h : TileHd) (td : TDst) (ta : TSrc) | vneg (h : TileHd) (td : TDst) (ta : TSrc)
  | vcmp (h : TileHd) (pd : BitVec 4) (ta tb : TSrc) (c : Cond)
  | vsel (h : TileHd) (td : TDst) (ta tb : TSrc) (ps : BitVec 4)
  | vaddx (h : TileHd) (td : TDst) (ta tb : TSrc) | vsubx (h : TileHd) (td : TDst) (ta tb : TSrc)
  | vmulx (h : TileHd) (td : TDst) (ta tb : TSrc)
  | dwadd (h : TileHd) (td : TDst) (ta tb : TSrc) | dwmul (h : TileHd) (td : TDst) (ta tb : TSrc)
  | dwfma (h : TileHd) (td : TDst) (ta tb tc : TSrc) | dwnorm (h : TileHd) (td : TDst) (ta : TSrc)
  | vaddSat (h : TileHd) (td : TDst) (ta tb : TSrc) | vsubSat (h : TileHd) (td : TDst) (ta tb : TSrc)
  | vmulSat (h : TileHd) (td : TDst) (ta tb : TSrc)
  -- BITS
  | vlogAnd (h : TileHd) (td : TDst) (ta tb : TSrc) | vlogOr (h : TileHd) (td : TDst) (ta tb : TSrc)
  | vlogXor (h : TileHd) (td : TDst) (ta tb : TSrc) | vlogAndn (h : TileHd) (td : TDst) (ta tb : TSrc)
  | vshShl (h : TileHd) (td : TDst) (ta tb : TSrc) | vshShr (h : TileHd) (td : TDst) (ta tb : TSrc)
  | vshShra (h : TileHd) (td : TDst) (ta tb : TSrc)
  -- PERM
  | vmov (h : TileHd) (td : TDst) (ta : TSrc)
  | vrotr (h : TileHd) (td : TDst) (ta : TSrc) (amt : BitVec 9) | vrotc (h : TileHd) (td : TDst) (ta : TSrc) (amt : BitVec 9)
  | vbcr (h : TileHd) (td : TDst) (ta : TSrc) | vbcc (h : TileHd) (td : TDst) (ta : TSrc)
  | vsplat (h : TileHd) (td : TDst) (ta : TSrc) | vext (h : TileHd) (td : TDst) (ta : TSrc)
  | vins (h : TileHd) (td : TDst) (ta : TSrc)
  -- REDU
  | vredrAdd (h : TileHd) (td : TDst) (ta : TSrc) | vredrMax (h : TileHd) (td : TDst) (ta : TSrc)
  | vredrMin (h : TileHd) (td : TDst) (ta : TSrc) | vredrCadd (h : TileHd) (td : TDst) (ta : TSrc)
  | vredcAdd (h : TileHd) (td : TDst) (ta : TSrc) | vredcMax (h : TileHd) (td : TDst) (ta : TSrc)
  | vredcMin (h : TileHd) (td : TDst) (ta : TSrc) | vredcCadd (h : TileHd) (td : TDst) (ta : TSrc)
  | vsf (h : TileHd) (td : TDst) (ta : TSrc) (f : SpecialFn)
  | vcvt (h : TileHd) (td : TDst) (ta : TSrc) (code : BitVec 4)
  -- MATRIX (11 R283)
  | mma (qp : BitVec 4) (acc : BitVec 5) (a b : Reg) (slot : BitVec 2) (ft : Bool) (d1 d2 : BitVec 6) (np : BitVec 8)
  | mmaZ (qp : BitVec 4) (acc : BitVec 5) (a b : Reg) (slot : BitVec 2) (ft : Bool) (d1 d2 : BitVec 6) (np : BitVec 8)
  | mxDrain (qp : BitVec 4) (td : TDst) (first : BitVec 5) (count : BitVec 6) (a : Reg) (bias act rq ft : Bool)
      (np : BitVec 8)
  | mxaCommandRetire | leaseGrant (cluster : Nat)
  -- NB (07 R166)
  | nbMv (d a b c : Reg) (rows : BitVec 6) (d1 d2 : BitVec 6) (np : BitVec 8)
  | nbSaxpy (d a b c : Reg) (rows : BitVec 6) (d1 d2 : BitVec 6) (np : BitVec 8)
  | nbRcpy (d a c : Reg) (rows : BitVec 6) (d1 d2 : BitVec 6) (np : BitVec 8)
  | nbRzero (d a : Reg) (rows : BitVec 6) (d1 d2 : BitVec 6) (np : BitVec 8)
  | nbStart (seq : W32) | nbRowStep (seq : W32) | nbAllowanceAdmit (seq : W32)
  | nbRequestService (stack pch : Nat) | nbL2Invalidate (seq : W32)
  -- GS (07 R186)
  | gsQry (d a b : Reg) (slot : BitVec 2) (d1 d2 : BitVec 6) (np : BitVec 8)
  | gsQueryStart (seq : W32) | gsExpansion (seq : W32) | gsRemoteDistance (seq : W32) | gsQueryFinish (seq : W32)
  -- faults, memory system, counters
  | deferredTrap
  | pageFault (st : StrandId) (addr : W64) (write : Bool) | pageFaultAnswered (resolved : Bool)
  | engineFaultDelivery (seq : W32)
  | postedWritePerform (n : Nat) | cacheLeaseExpiry (copy : Nat) | tlbPrefetch (stream : Nat) (va : W64)
  | queueDeadlock | bypassExpiry (slot : BitVec 2) | modeWrite (value : W64)
  | sampctlWrite (value : W64) | trcctlWrite (value : W64) | sampleMark (st : StrandId) (pc : W64)
  | sampleRecord (killed : Bool) (fetch decode opwait issue exec retire : W32)
  -- front end, dispatcher, firmware
  | notify (die : Nat) (value : W64) | notifyDelivery (die : Nat) | notifyRetry (die : Nat)
  | readRecord (die pasid queue : Nat) | dispatch (die : Nat) | preemption (area : W64) | taskComplete (task : Nat) (giveUp : Bool)
  | coreDump (die task : Nat) | teardown (die pasid : Nat) | qcbinv (die : Nat) (value : W64)
  | routeInstall (die : Nat) (value : W64) | registerWrite (die : Nat) (off value : W64)
  | attest (die : Nat) | readIdentityKey (die : Nat)
  -- links
  | hostRead (port : Nat) (addr : W64) (size : Nat) | hostWrite (port : Nat) (addr : W64) (data : List Byte)
  | hostAtomic (port : Nat) (addr : W64) (amo : HostAmo)
  | peerAccess (port : Nat) (addr : W64) (size : Nat) (write : Option (List Byte))
  | linkDown (link : LinkName)
  -- thermal, DRAM, boot
  | sensorSample (die : Nat) (temps : List W16) | thermalStep (die : Nat) (overPower : Bool)
  | rowTest (stack row : Nat) (bad : Option Nat) (lasting : Bool)
  | rowScrub (stack row : Nat) (error : Option (Option Nat)) (lasting : Bool)
  | stripeRefresh (stack : Nat) | channelRetire (stack half channel : Nat) | selfRefreshEntry (stack pch : Nat)
  | reset (part : Nat) | bootVerify (die : Nat) (stage : Nat) (image : BootImage)
  | mboxBadCommand (die : Nat)
  | clk | watchdog
  deriving DecidableEq, Repr

end Sys2Proof
end

