-- ==== Sys2Proof/WellFormed.lean ====
section
/-! DEFINITION. Which terms stand for words: an instruction is well formed when the fields that the manual restricts hold
permitted values. An event is well formed always: it has no word. -/

namespace Sys2Proof

/-- A register field that may not name X0. -/
def Reg.isResult (d : Reg) : Bool := d ≠ 0

/-- The restrictions the encodings leave to the operands: a token count is 1 to 255 (02 R33), a loop body has a word
(11 R277), an engine command names a result register (17 R321, 18 R340, 07 R167, R186), an MMA that takes its profile
from the format table has a zero profile field (06 R160), and a drain names a parameter block only when it reads one
(06 R163). -/
def Instr.wellFormed (i : Instr) : Bool :=
  match i with
  | .tpost _ n | .twait _ _ n => n ≠ 0
  | .loop _ e | .loopRot _ e => decide (2 ≤ e.toNat)
  | .ceCopy d _ | .ceFill d _ | .ceGath d _ | .engLnch d _ => d.isResult
  | .nbMv d .. | .nbSaxpy d .. | .nbRcpy d .. | .nbRzero d .. | .gsQry d .. => d.isResult
  | .mma _ _ _ _ _ ft _ _ np | .mmaZ _ _ _ _ _ ft _ _ np => !ft || np = 0
  | .mxDrain _ _ _ _ a bias _ rq _ _ => a = 0 || bias || rq
  | _ => true

end Sys2Proof
end

