-- ==== Sys2Proof/Decode.lean ====
section
/-! DEFINITION. The decoder, total on every word, the encoder beside it, and the framing of bundles (11 R265 to R285).
A field is read from a word as a number, by division and remainder. -/

namespace Sys2Proof

/-- The n bits of a word from bit lo upwards. -/
def fld (w lo n : Nat) : Nat := w / 2 ^ lo % 2 ^ n

/-- A register field whose lowest bit is lo. -/
def regAt (w lo : Nat) : Reg := BitVec.ofNat 5 (w / 2 ^ lo)

/-- A field of n bits whose lowest bit is lo. -/
def bvAt (n w lo : Nat) : BitVec n := BitVec.ofNat n (w / 2 ^ lo)

/-- A one-bit field. -/
def bitAt (w i : Nat) : Bool := w / 2 ^ i % 2 == 1

/-- A flag as a bit. -/
def bit (b : Bool) : Nat := if b then 1 else 0

/-- The codes of the small sets, in the manual's order. -/
def StrandId.code : StrandId → Nat | .L => 0 | .C => 1 | .S => 2 | .K => 3
def StrandId.ofCode (n : Nat) : StrandId := match n % 4 with | 0 => .L | 1 => .C | 2 => .S | _ => .K
def Scope.code : Scope → Nat | .core => 0 | .cluster => 1 | .die => 2 | .package => 3 | .system => 4
def Scope.ofCode (n : Nat) : Option Scope :=
  match n with | 0 => some .core | 1 => some .cluster | 2 => some .die | 3 => some .package | 4 => some .system | _ => none
def BarScope.code : BarScope → Nat | .core => 0 | .cluster => 1 | .die => 2 | .package => 3
def BarScope.ofCode (n : Nat) : Option BarScope :=
  match n with | 0 => some .core | 1 => some .cluster | 2 => some .die | 3 => some .package | _ => none
def EngClass.code : EngClass → Nat | .ce => 0 | .mxa => 1 | .nbu => 2 | .gse => 3
def EngClass.ofCode (n : Nat) : Option EngClass :=
  match n with | 0 => some .ce | 1 => some .mxa | 2 => some .nbu | 3 => some .gse | _ => none
def TWidth.code : TWidth → Nat | .w1 => 0 | .w2 => 1 | .w4 => 2
def TWidth.ofCode (n : Nat) : Option TWidth := match n with | 0 => some .w1 | 1 => some .w2 | 2 => some .w4 | _ => none
/-- Bytes of an element of a tile access. -/
def TWidth.bytes : TWidth → Nat | .w1 => 1 | .w2 => 2 | .w4 => 4
def StSize.code : StSize → Nat | .b => 0 | .h => 1 | .w => 2 | .d => 3
def StSize.ofCode (n : Nat) : Option StSize :=
  match n with | 0 => some .b | 1 => some .h | 2 => some .w | 3 => some .d | _ => none
/-- Bytes of a scalar store. -/
def StSize.bytes : StSize → Nat | .b => 1 | .h => 2 | .w => 4 | .d => 8
def AmoSize.code : AmoSize → Nat | .w => 0 | .d => 1
def AmoSize.ofCode (n : Nat) : Option AmoSize := match n with | 0 => some .w | 1 => some .d | _ => none
def Cond.code : Cond → Nat | .eq => 0 | .ne => 1 | .lt => 2 | .le => 3 | .gt => 4 | .ge => 5
def Cond.ofCode (n : Nat) : Option Cond :=
  match n with | 0 => some .eq | 1 => some .ne | 2 => some .lt | 3 => some .le | 4 => some .gt | 5 => some .ge | _ => none
def SpecialFn.code : SpecialFn → Nat | .exp2 => 0 | .log2 => 1 | .rcp => 2 | .rsq => 3 | .tanh => 4 | .sigm => 5
def SpecialFn.ofCode (n : Nat) : Option SpecialFn :=
  match n with
  | 0 => some .exp2 | 1 => some .log2 | 2 => some .rcp | 3 => some .rsq | 4 => some .tanh | 5 => some .sigm | _ => none
def View.code : View → Nat | .whole => 0 | .row => 1 | .col => 2 | .diag => 3
def View.ofCode (n : Nat) : View := match n % 4 with | 0 => .whole | 1 => .row | 2 => .col | _ => .diag
def IxSrc.code : IxSrc → Nat | .zero => 0 | .la => 1 | .lb => 2
def IxSrc.ofCode (n : Nat) : IxSrc := match n with | 0 => .zero | 1 => .la | _ => .lb

/-- The queue field of a queue operation (02 R33). -/
def QName.code : QName → Nat
  | .lq q => q.toNat | .sq q => 4 + q.toNat | .mq q => 8 + q.toNat | .tf q => 16 + q.toNat
def QName.ofCode (n : Nat) : Option QName :=
  if n < 4 then some (.lq (BitVec.ofNat 2 n)) else if n < 6 then some (.sq (BitVec.ofNat 1 (n - 4)))
  else if 8 ≤ n ∧ n < 16 then some (.mq (BitVec.ofNat 3 (n - 8)))
  else if 16 ≤ n ∧ n < 24 then some (.tf (BitVec.ofNat 3 (n - 16))) else none

/-- A 9-bit tile operand as a source (11 R280). -/
def TSrc.code : TSrc → Nat
  | .tile r v x => r.toNat * 16 + v.code * 4 + x.code
  | .lq q pk => q.toNat * 16 + bit pk * 8 + 3
  | .mq q pk => (8 + q.toNat) * 16 + bit pk * 8 + 3
def TSrc.ofCode (c : Nat) : Option TSrc :=
  if c % 4 ≠ 3 then some (.tile (bvAt 5 c 4) (View.ofCode (c / 4)) (IxSrc.ofCode (c % 4)))
  else if bitAt c 2 then none
  else
    let q := c / 16 % 32
    if q < 4 then some (.lq (BitVec.ofNat 2 q) (bitAt c 3))
    else if 8 ≤ q ∧ q < 16 then some (.mq (BitVec.ofNat 3 (q - 8)) (bitAt c 3)) else none

/-- A 9-bit tile operand as a destination (11 R280). -/
def TDst.code : TDst → Nat
  | .tile r v x => r.toNat * 16 + v.code * 4 + x.code
  | .sq q => q.toNat * 16 + 3
def TDst.ofCode (c : Nat) : Option TDst :=
  if c % 4 ≠ 3 then some (.tile (bvAt 5 c 4) (View.ofCode (c / 4)) (IxSrc.ofCode (c % 4)))
  else if bitAt c 2 || bitAt c 3 then none
  else
    let q := c / 16 % 32
    if q < 2 then some (.sq (BitVec.ofNat 1 q)) else none

/-- A result register that reply announces: reply 1 names one, reply 0 requires the field to be 0 (11 R278). -/
def replyReg (w : Nat) : Option (Option Reg) :=
  if bitAt w 2 then some (some (regAt w 20)) else if fld w 20 5 = 0 then some none else none

/-- A condition as an option, for the checks of reserved fields. -/
def need (c : Bool) : Option Unit := if c then some () else none

/-- ALU.R words (11 R272). -/
def decodeAlu (w : Nat) : Option Instr :=
  let d := regAt w 20
  let a := regAt w 15
  let b := regAt w 10
  if fld w 0 4 ≠ 0 then none else
  match fld w 4 6 with
  | 0 => some (.add d a b)
  | 1 => some (.sub d a b)
  | 2 => some (.mul d a b)
  | 3 => some (.mulh d a b)
  | 4 => some (.mulhu d a b)
  | 5 => some (.div d a b)
  | 6 => some (.divu d a b)
  | 7 => some (.rem d a b)
  | 8 => some (.remu d a b)
  | 9 => some (.and d a b)
  | 10 => some (.or d a b)
  | 11 => some (.xor d a b)
  | 12 => some (.shl d a b)
  | 13 => some (.shr d a b)
  | 14 => some (.shra d a b)
  | 15 => some (.slt d a b)
  | 16 => some (.sltu d a b)
  | 17 => some (.min d a b)
  | 18 => some (.max d a b)
  | 19 => some (.minu d a b)
  | 20 => some (.maxu d a b)
  | 21 => if fld w 10 5 = 0 then some (.clz d a) else none
  | 22 => if fld w 10 5 = 0 then some (.popc d a) else none
  | _ => none

/-- Shift immediates (11 R271, MAJ 0x06). -/
def decodeShi (w : Nat) : Option Instr :=
  let d := regAt w 20
  let a := regAt w 15
  let n := bvAt 6 w 0
  if fld w 6 6 ≠ 0 then none else
  match fld w 12 3 with
  | 0 => some (.shli d a n)
  | 1 => some (.shri d a n)
  | 2 => some (.shrai d a n)
  | _ => none

/-- Scalar loads (MAJ 0x10). -/
def decodeLd (w : Nat) : Option Instr :=
  let d := regAt w 20
  let a := regAt w 15
  let o := bvAt 12 w 0
  match fld w 12 3 with
  | 0 => some (.ldB d a o) | 1 => some (.ldH d a o) | 2 => some (.ldW d a o) | 3 => some (.ldD d a o)
  | 4 => some (.ldBz d a o) | 5 => some (.ldHz d a o) | 6 => some (.ldWz d a o) | _ => none

/-- Atomics (11 R273, MAJ 0x12). -/
def decodeAmo (w : Nat) : Option Instr := do
  let d := regAt w 20
  let a := regAt w 15
  let b := regAt w 10
  need (fld w 0 4 == 0)
  let z ← AmoSize.ofCode (fld w 4 2)
  match fld w 6 4 with
  | 0 => some (.amoAdd d a b z) | 1 => some (.amoMin d a b z) | 2 => some (.amoMax d a b z)
  | 3 => some (.amoMinu d a b z) | 4 => some (.amoMaxu d a b z) | 5 => some (.amoAnd d a b z)
  | 6 => some (.amoOr d a b z) | 7 => some (.amoXor d a b z) | 8 => some (.amoSwap d a b z)
  | 9 => some (.amoCas d a b z)
  | 10 => if z = .w then some (.amoFaddF32 d a b) else none
  | 11 => if z = .w then some (.amoFaddBf16 d a b) else none
  | _ => none

/-- The fence group (11 R274, MAJ 0x13). -/
def decodeFence (w : Nat) : Option Instr := do
  need (fld w 0 14 == 0)
  let sc ← Scope.ofCode (fld w 19 3)
  let a := regAt w 14
  match fld w 22 3 with
  | 0 => if a = 0 then some (.fence sc) else none
  | 1 => if a = 0 then some (.bfence sc) else none
  | 2 => some (.clInv sc a) | 3 => some (.clWb sc a) | 4 => some (.clWbi sc a) | 5 => some (.tlbInv sc a)
  | _ => none

/-- LOOP (11 R277, MAJ 0x14). -/
def decodeLoop (w : Nat) : Option Instr :=
  if fld w 20 4 ≠ 0 ∨ fld w 0 15 < 2 then none
  else if bitAt w 24 then some (.loopRot (regAt w 15) (bvAt 15 w 0)) else some (.loop (regAt w 15) (bvAt 15 w 0))

/-- SYS words (11 R275, MAJ 0x17). -/
def decodeSys (w : Nat) : Option Instr :=
  let d := regAt w 15
  let a := regAt w 10
  let m := bvAt 10 w 0
  match fld w 20 5 with
  | 0 => if d = 0 ∧ a = 0 then some (.trap m) else none
  | 1 => if d = 0 ∧ a = 0 ∧ m = 0 then some .rett else none
  | 2 => if d = 0 ∧ a = 0 then some (.wait m) else none
  | 3 => if d = 0 ∧ a = 0 ∧ m = 0 then some .halt else none
  | 4 => if d = 0 ∧ a = 0 ∧ m = 0 then some .nop else none
  | 5 => if a = 0 then some (.csrRd d m) else none
  | 6 => some (.csrWr d a m)
  | 7 => some (.csrSet d a m)
  | 8 => some (.csrClr d a m)
  | 9 => if a = 0 ∧ fld w 4 6 = 0 then some (.knrd d (bvAt 4 w 0)) else none
  | 10 => if d = 0 then some (.dbgMark a m) else none
  | _ => none

/-- Queue operations (02 R33, MAJ 0x18). -/
def decodeQop (w : Nat) : Option Instr :=
  let x := regAt w 17
  let q := fld w 12 5
  let pk := bitAt w 11
  let n := bvAt 8 w 0
  let mq := 8 ≤ q ∧ q < 16
  let tf := 16 ≤ q ∧ q < 24
  if fld w 8 3 ≠ 0 then none else
  match fld w 22 3 with
  | 0 => if mq ∧ pk = false ∧ n = 0 then some (.qpush (BitVec.ofNat 3 (q - 8)) x) else none
  | 1 => if mq ∧ n = 0 then some (.qpop x (BitVec.ofNat 3 (q - 8)) pk) else none
  | 2 => if tf ∧ x = 0 ∧ pk = false ∧ n ≠ 0 then some (.tpost (BitVec.ofNat 3 (q - 16)) n) else none
  | 3 => if tf ∧ x = 0 ∧ n ≠ 0 then some (.twait (BitVec.ofNat 3 (q - 16)) pk n) else none
  | 4 => if pk = false ∧ n = 0 then (QName.ofCode q).map (fun q => .qstat x q) else none
  | _ => none

/-- TLD, TLD.G, TST and CSTQ (11 R271, MAJ 0x19, 0x1A, 0x1C, 0x1D). -/
def decodeTld (w : Nat) : Option Instr := do
  need (fld w 0 5 == 0)
  let z ← TWidth.ofCode (fld w 6 2)
  some (.tld (bvAt 2 w 23) (regAt w 18) (regAt w 13) (bvAt 5 w 8) z (bitAt w 5))
def decodeTldG (w : Nat) : Option Instr := do
  need (fld w 0 2 == 0)
  let z ← TWidth.ofCode (fld w 3 2)
  some (.tldG (bvAt 2 w 23) (regAt w 18) (regAt w 13) (bvAt 3 w 10) (bvAt 5 w 5) z (bitAt w 2))
def decodeTst (w : Nat) : Option Instr := do
  need (fld w 0 7 == 0)
  let z ← TWidth.ofCode (fld w 7 2)
  some (.tst (bvAt 1 w 24) (regAt w 19) (regAt w 14) (bvAt 5 w 9) z)
def decodeCstq (w : Nat) : Option Instr := do
  need (fld w 0 7 == 0)
  let z ← TWidth.ofCode (fld w 7 2)
  some (.cstq (regAt w 19) (regAt w 14) (regAt w 9) (bitAt w 24) z)

/-- PCTL (11 R276, MAJ 0x1E). -/
def decodePctl (w : Nat) : Option Instr :=
  let pd := bvAt 4 w 18
  match fld w 22 3 with
  | 0 => if fld w 16 2 = 0 then some (.pset pd (bvAt 16 w 0)) else none
  | 1 =>
    if fld w 0 8 ≠ 0 then none else
    let pa := bvAt 4 w 14
    let pb := bvAt 4 w 10
    match fld w 8 2 with
    | 0 => some (.plogAnd pd pa pb) | 1 => some (.plogOr pd pa pb) | 2 => some (.plogXor pd pa pb)
    | _ => some (.plogAndn pd pa pb)
  | 2 =>
    if fld w 0 12 ≠ 0 then none
    else if bitAt w 17 then some (.pmovFromP pd (regAt w 12)) else some (.pmovToP pd (regAt w 12))
  | 3 => if fld w 6 10 = 0 then some (.lset (bitAt w 21) (regAt w 16) (bvAt 6 w 0)) else none
  | 4 => if fld w 4 13 = 0 then some (.trbset (regAt w 17) (bvAt 4 w 0)) else none
  | _ => none

/-- CX words, MAJ 0x30 to 0x37 (11 R278; 08 R195, 04 R93, 06 R154, 07 R183). -/
def decodeCx (unit w : Nat) : Option Instr :=
  let d := regAt w 20
  let a := regAt w 15
  let b := regAt w 10
  let xb := fld w 10 5
  let fn := fld w 3 7
  let reply := bitAt w 2
  if fld w 0 2 ≠ 0 then none else
  match unit with
  | 0 =>
    if reply = false ∨ d = 0 ∨ xb ≠ 0 then none else
    match fn with
    | 0 => some (.ceCopy d a) | 1 => some (.ceFill d a) | 2 => some (.ceGath d a) | _ => none
  | 1 => do
    let r ← replyReg w
    match fn with
    | 0 => some (.tuneDecl r a b)
    | 1 => some (.tuneObj r a b)
    | 2 => if xb = 0 then some (.tuneStep r a) else none
    | 3 => if xb = 0 ∧ a = 0 then some (.tuneFrz r) else none
    | 4 => if xb = 0 ∧ a = 0 then some (.tuneRsm r) else none
    | 5 => if xb = 0 then some (.tuneSave r a) else none
    | 6 => if xb = 0 then some (.tuneLoad r a) else none
    | _ => none
  | 2 =>
    if reply = false ∨ xb ≠ 0 then none else
    match fn with
    | 0 => some (.wdPush d a)
    | 1 => if a = 0 then some (.wdPop d) else none
    | 2 => if a = 0 then some (.wdSteal d) else none
    | _ => none
  | 3 => do
    need (!reply && d == 0 && a == 0)
    let sc ← BarScope.ofCode xb
    match fn with
    | 0 => some (.barArrive sc) | 1 => some (.barWait sc) | 2 => some (.barAw sc) | _ => none
  | 4 => do
    let r ← replyReg w
    match fn with
    | 0 => if xb = 0 then some (.slotSet r a) else none
    | 1 => if xb < 2 then some (.slotInv r a (xb == 1)) else none
    | 2 => if xb < 2 then some (.slotWb r a (xb == 1)) else none
    | _ => none
  | 5 =>
    match fn with
    | 0 => if reply = false ∧ d = 0 then (EngClass.ofCode xb).map (fun c => .engWait c a) else none
    | 1 => if reply = true ∧ a = 0 then (EngClass.ofCode xb).map (fun c => .engSeq d c) else none
    | 2 => if reply = true ∧ d ≠ 0 ∧ xb = 0 then some (.engLnch d a) else none
    | _ => none
  | 6 =>
    match fn with
    | 0 => if reply = true ∧ a = 0 ∧ xb = 0 then some (.mxLease d) else none
    | 1 => if reply = false ∧ d = 0 ∧ a = 0 ∧ xb = 0 then some .mxFree else none
    | 2 => if reply = true then some (.mxFmt d a b) else none
    | 3 => if reply = false ∧ d = 0 ∧ xb < 2 then some (.mxScl a (xb == 1)) else none
    | 4 => if reply = true ∧ xb = 0 then some (.mxAct d a) else none
    | _ => none
  | 7 => do
    let r ← replyReg w
    if fn = 0 then some (.gsCfg r a b) else none
  | _ => none

/-- A short word, whose stop bit plays no part (11 R271). -/
def decodeShort (w : Nat) : Option Instr :=
  let d := regAt w 20
  let a := regAt w 15
  let m := bvAt 15 w 0
  match fld w 25 6 with
  | 0x00 => decodeAlu w
  | 0x01 => some (.addi d a m)
  | 0x02 => some (.andi d a m)
  | 0x03 => some (.ori d a m)
  | 0x04 => some (.xori d a m)
  | 0x05 => some (.slti d a m)
  | 0x06 => decodeShi w
  | 0x07 => some (.lih d (bvAt 20 w 0))
  | 0x08 => some (.beq d a m)
  | 0x09 => some (.bne d a m)
  | 0x0A => some (.blt d a m)
  | 0x0B => some (.bge d a m)
  | 0x0C => some (.bltu d a m)
  | 0x0D => some (.bgeu d a m)
  | 0x0E => some (.jal d (bvAt 20 w 0))
  | 0x0F => some (.jalr d a m)
  | 0x10 => decodeLd w
  | 0x11 => (StSize.ofCode (fld w 12 3)).map (fun z => .st d a z (bvAt 12 w 0))
  | 0x12 => decodeAmo w
  | 0x13 => decodeFence w
  | 0x14 => decodeLoop w
  | 0x15 => if fld w 0 21 = 0 then some (.loopR (bitAt w 24) (bvAt 3 w 21)) else none
  | 0x16 => if fld w 0 25 = 0 then some .brkL else none
  | 0x17 => decodeSys w
  | 0x18 => decodeQop w
  | 0x19 => decodeTld w
  | 0x1A => decodeTldG w
  | 0x1B => some (.probe d a m)
  | 0x1C => decodeTst w
  | 0x1D => decodeCstq w
  | 0x1E => decodePctl w
  | 0x1F => if fld w 0 13 = 0 then some (.shape d a (bvAt 2 w 13)) else none
  | 0x30 => decodeCx 0 w
  | 0x31 => decodeCx 1 w
  | 0x32 => decodeCx 2 w
  | 0x33 => decodeCx 3 w
  | 0x34 => decodeCx 4 w
  | 0x35 => decodeCx 5 w
  | 0x36 => decodeCx 6 w
  | 0x37 => decodeCx 7 w
  | _ => none

/-- Guard and profile of a tile instruction (11 R279). -/
def hdAt (v : Nat) : TileHd := { qp := bvAt 4 v 44, np := bvAt 8 v 0 }

/-- ARITH (11 R281, MAJ 0x38) from the 56 field bits L55 to L0. -/
def decodeArith (v : Nat) : Option Instr :=
  let h := hdAt v
  let tb := fld v 17 9
  let tc := fld v 8 9
  let td := TDst.ofCode (fld v 35 9)
  let ta := TSrc.ofCode (fld v 26 9)
  let three (f : TileHd → TDst → TSrc → TSrc → Instr) : Option Instr := do
    need (tc == 0); let d ← td; let a ← ta; let b ← TSrc.ofCode tb; some (f h d a b)
  let four (f : TileHd → TDst → TSrc → TSrc → TSrc → Instr) : Option Instr := do
    let d ← td; let a ← ta; let b ← TSrc.ofCode tb; let c ← TSrc.ofCode tc; some (f h d a b c)
  let two (f : TileHd → TDst → TSrc → Instr) : Option Instr := do
    need (tb == 0 && tc == 0); let d ← td; let a ← ta; some (f h d a)
  match fld v 48 8 with
  | 0 => three .vadd
  | 1 => three .vsub
  | 2 => three .vmul
  | 3 => four .vfma
  | 4 => three .vmin
  | 5 => three .vmax
  | 6 => two .vabs
  | 7 => two .vneg
  | 8 => do
    need (fld v 43 1 == 0 && fld v 35 4 == 0)
    let a ← ta; let b ← TSrc.ofCode tb; let c ← Cond.ofCode tc
    some (.vcmp h (bvAt 4 v 39) a b c)
  | 9 => do
    need (fld v 16 1 == 0 && fld v 8 4 == 0)
    let d ← td; let a ← ta; let b ← TSrc.ofCode tb
    some (.vsel h d a b (bvAt 4 v 12))
  | 0x10 => three .vaddx
  | 0x11 => three .vsubx
  | 0x12 => three .vmulx
  | 0x18 => three .dwadd
  | 0x19 => three .dwmul
  | 0x1A => four .dwfma
  | 0x1B => two .dwnorm
  | 0x20 => three .vaddSat
  | 0x21 => three .vsubSat
  | 0x22 => three .vmulSat
  | _ => none

/-- BITS (11 R281, MAJ 0x39). -/
def decodeBits (v : Nat) : Option Instr := do
  need (fld v 8 9 == 0)
  let h := hdAt v
  let d ← TDst.ofCode (fld v 35 9)
  let a ← TSrc.ofCode (fld v 26 9)
  let b ← TSrc.ofCode (fld v 17 9)
  match fld v 48 8 with
  | 0 => some (.vlogAnd h d a b)
  | 1 => some (.vlogOr h d a b)
  | 2 => some (.vlogXor h d a b)
  | 3 => some (.vlogAndn h d a b)
  | 8 => some (.vshShl h d a b)
  | 9 => some (.vshShr h d a b)
  | 10 => some (.vshShra h d a b)
  | _ => none

/-- PERM (11 R281, MAJ 0x3A). -/
def decodePerm (v : Nat) : Option Instr := do
  need (fld v 8 9 == 0)
  let h := hdAt v
  let d ← TDst.ofCode (fld v 35 9)
  let a ← TSrc.ofCode (fld v 26 9)
  let plain (i : Instr) : Option Instr := if fld v 17 9 = 0 then some i else none
  match fld v 48 8 with
  | 0 => plain (.vmov h d a)
  | 1 => some (.vrotr h d a (bvAt 9 v 17))
  | 2 => some (.vrotc h d a (bvAt 9 v 17))
  | 3 => plain (.vbcr h d a)
  | 4 => plain (.vbcc h d a)
  | 5 => plain (.vsplat h d a)
  | 6 => plain (.vext h d a)
  | 7 => plain (.vins h d a)
  | _ => none

/-- REDU (11 R281, MAJ 0x3B). -/
def decodeRedu (v : Nat) : Option Instr := do
  need (fld v 17 9 == 0)
  let h := hdAt v
  let tc := fld v 8 9
  let d ← TDst.ofCode (fld v 35 9)
  let a ← TSrc.ofCode (fld v 26 9)
  let plain (i : Instr) : Option Instr := if tc = 0 then some i else none
  match fld v 48 8 with
  | 0 => plain (.vredrAdd h d a)
  | 1 => plain (.vredrMax h d a)
  | 2 => plain (.vredrMin h d a)
  | 3 => plain (.vredrCadd h d a)
  | 8 => plain (.vredcAdd h d a)
  | 9 => plain (.vredcMax h d a)
  | 10 => plain (.vredcMin h d a)
  | 11 => plain (.vredcCadd h d a)
  | 0x10 => (SpecialFn.ofCode tc).map (fun f => .vsf h d a f)
  | 0x18 => if tc < 16 then some (.vcvt h d a (BitVec.ofNat 4 tc)) else none
  | _ => none

/-- MATRIX (11 R283, MAJ 0x3C). -/
def decodeMatrix (v : Nat) : Option Instr :=
  let qp := bvAt 4 v 48
  let np := bvAt 8 v 0
  let acc := bvAt 5 v 43
  let a := regAt v 38
  let b := regAt v 33
  let slot := bvAt 2 v 31
  let ft := bitAt v 30
  let d1 := bvAt 6 v 24
  let d2 := bvAt 6 v 18
  match fld v 52 4 with
  | 0 => if fld v 8 10 ≠ 0 ∨ (ft = true ∧ np ≠ 0) then none else some (.mma qp acc a b slot ft d1 d2 np)
  | 1 => if fld v 8 10 ≠ 0 ∨ (ft = true ∧ np ≠ 0) then none else some (.mmaZ qp acc a b slot ft d1 d2 np)
  | 2 => do
    let x := regAt v 23
    let bias := bitAt v 22
    let rq := bitAt v 20
    need (fld v 8 11 == 0 && (x == 0 || bias || rq))
    let td ← TDst.ofCode (fld v 39 9)
    some (.mxDrain qp td (bvAt 5 v 34) (bvAt 6 v 28) x bias (bitAt v 21) rq (bitAt v 19) np)
  | _ => none

/-- NB (07 R166, R167, MAJ 0x3D). -/
def decodeNb (v : Nat) : Option Instr :=
  let d := regAt v 47
  let a := regAt v 42
  let b := regAt v 37
  let c := regAt v 32
  let rows := bvAt 6 v 26
  let d1 := bvAt 6 v 20
  let d2 := bvAt 6 v 14
  let np := bvAt 8 v 0
  if fld v 8 6 ≠ 0 ∨ d = 0 then none else
  match fld v 52 4 with
  | 0 => some (.nbMv d a b c rows d1 d2 np)
  | 1 => some (.nbSaxpy d a b c rows d1 d2 np)
  | 2 => if b = 0 then some (.nbRcpy d a c rows d1 d2 np) else none
  | 3 => if b = 0 ∧ c = 0 then some (.nbRzero d a rows d1 d2 np) else none
  | _ => none

/-- GS (07 R186, MAJ 0x3E). -/
def decodeGs (v : Nat) : Option Instr :=
  let d := regAt v 47
  if fld v 52 4 ≠ 0 ∨ fld v 8 15 ≠ 0 ∨ d = 0 then none
  else some (.gsQry d (regAt v 42) (regAt v 37) (bvAt 2 v 35) (bvAt 6 v 29) (bvAt 6 v 23) (bvAt 8 v 0))

/-- The 56 field bits of a long instruction (11 R266). -/
def longBits (w0 w1 : Nat) : Nat := w0 % 2 ^ 25 * 2 ^ 31 + w1 % 2 ^ 31

/-- A long instruction, whose stop bit plays no part. -/
def decodeLong (w0 w1 : Nat) : Option Instr :=
  let v := longBits w0 w1
  match fld w0 25 6 with
  | 0x38 => decodeArith v
  | 0x39 => decodeBits v
  | 0x3A => decodePerm v
  | 0x3B => decodeRedu v
  | 0x3C => decodeMatrix v
  | 0x3D => decodeNb v
  | 0x3E => decodeGs v
  | _ => none

/-- Whether a word is the first word of a 64-bit member (11 R265, R269). -/
def isLongWord (w0 : Nat) : Bool := decide (56 ≤ fld w0 25 6) && !bitAt w0 31

/-- The instruction of one member, given its words; `w1` matters for a long one alone. -/
def decodeMember (w0 w1 : Nat) : Option Instr := if isLongWord w0 then decodeLong w0 w1 else decodeShort w0

/-- A word number written little-endian. -/
def wordBytes (w : Nat) : List Byte := [bvAt 8 w 0, bvAt 8 w 8, bvAt 8 w 16, bvAt 8 w 24]

/-- The word of four bytes in memory order (11 R265). -/
def bytesWord : List Byte → Nat
  | b0 :: b1 :: b2 :: b3 :: _ => b0.toNat + b1.toNat * 2 ^ 8 + b2.toNat * 2 ^ 16 + b3.toNat * 2 ^ 24
  | _ => 0

/-- The instruction at the front of a byte list, and the bytes after it: total on any bytes. -/
def decodeBytes (bs : List Byte) : Option (Instr × List Byte) :=
  if bs.length < 4 then none
  else
    let w0 := bytesWord bs
    if isLongWord w0 then
      if bs.length < 8 then none else (decodeLong w0 (bytesWord (bs.drop 4))).map (fun i => (i, bs.drop 8))
    else (decodeShort w0).map (fun i => (i, bs.drop 4))

/-- The instruction of an opcode-table word: its bytes as they are stored, given to the decoder (the words above nbits
are zero). -/
def decodeTableWord (nbits w : Nat) : Option Instr :=
  let v := w % 2 ^ nbits
  (decodeBytes (wordBytes (v % 2 ^ 32) ++ wordBytes (v / 2 ^ 32))).map (·.1)

/-- The words of an instruction as numbers, stop bits clear. -/
inductive Code
  | short (w : Nat)
  | long (maj v : Nat)
  deriving DecidableEq, Repr

/-- The words as they are stored; `stop` sets the stop bit on the last (11 R265, R266). -/
def Code.words (stop : Bool) : Code → List W32
  | .short w => [BitVec.ofNat 32 (w + bit stop * 2 ^ 31)]
  | .long maj v => [BitVec.ofNat 32 (maj * 2 ^ 25 + v / 2 ^ 31), BitVec.ofNat 32 (v % 2 ^ 31 + bit stop * 2 ^ 31)]

/-- A short word from its major opcode and its 25 lower bits. -/
def mkShort (maj body : Nat) : Code := .short (maj * 2 ^ 25 + body)

/-- RR format. -/
def rr (d a b : Reg) (fn : Nat) : Code :=
  mkShort 0 (d.toNat * 2 ^ 20 + a.toNat * 2 ^ 15 + b.toNat * 2 ^ 10 + fn * 2 ^ 4)
/-- RI, BR and MEM formats: two registers and 15 lower bits. -/
def ri (maj : Nat) (d a : Reg) (low : Nat) : Code := mkShort maj (d.toNat * 2 ^ 20 + a.toNat * 2 ^ 15 + low)
/-- J format. -/
def jf (maj : Nat) (d : Reg) (m : BitVec 20) : Code := mkShort maj (d.toNat * 2 ^ 20 + m.toNat)
/-- AMO words. -/
def amoCode (d a b : Reg) (op : Nat) (z : AmoSize) : Code :=
  mkShort 0x12 (d.toNat * 2 ^ 20 + a.toNat * 2 ^ 15 + b.toNat * 2 ^ 10 + op * 2 ^ 6 + z.code * 2 ^ 4)
/-- FENCE-group words. -/
def fenceCode (kind : Nat) (sc : Scope) (a : Reg) : Code :=
  mkShort 0x13 (kind * 2 ^ 22 + sc.code * 2 ^ 19 + a.toNat * 2 ^ 14)
/-- SYS words. -/
def sysCode (fn : Nat) (d a : Reg) (m : Nat) : Code :=
  mkShort 0x17 (fn * 2 ^ 20 + d.toNat * 2 ^ 15 + a.toNat * 2 ^ 10 + m)
/-- Queue operations. -/
def qopCode (fn : Nat) (x : Reg) (q : Nat) (pk : Bool) (n : Nat) : Code :=
  mkShort 0x18 (fn * 2 ^ 22 + x.toNat * 2 ^ 17 + q * 2 ^ 12 + bit pk * 2 ^ 11 + n)
/-- CX words. -/
def cxCode (unit fn : Nat) (reply : Bool) (d a : Reg) (xb : Nat) : Code :=
  mkShort (0x30 + unit) (d.toNat * 2 ^ 20 + a.toNat * 2 ^ 15 + xb * 2 ^ 10 + fn * 2 ^ 3 + bit reply * 2 ^ 2)
/-- CX words whose result register is optional. -/
def cxOpt (unit fn : Nat) (d : Option Reg) (a : Reg) (xb : Nat) : Code :=
  cxCode unit fn d.isSome (d.getD 0) a xb
/-- Tile words (11 R279); a field the form leaves unused is 0. -/
def tileCode (maj fn : Nat) (h : TileHd) (td ta tb tc : Nat) : Code :=
  .long maj (fn * 2 ^ 48 + h.qp.toNat * 2 ^ 44 + td * 2 ^ 35 + ta * 2 ^ 26 + tb * 2 ^ 17 + tc * 2 ^ 8 + h.np.toNat)
/-- MMA words (11 R283). -/
def mmaCode (fn : Nat) (qp : BitVec 4) (acc : BitVec 5) (a b : Reg) (slot : BitVec 2) (ft : Bool) (d1 d2 : BitVec 6)
    (np : BitVec 8) : Code :=
  .long 0x3C (fn * 2 ^ 52 + qp.toNat * 2 ^ 48 + acc.toNat * 2 ^ 43 + a.toNat * 2 ^ 38 + b.toNat * 2 ^ 33 +
    slot.toNat * 2 ^ 31 + bit ft * 2 ^ 30 + d1.toNat * 2 ^ 24 + d2.toNat * 2 ^ 18 + np.toNat)
/-- NB words (07 R166). -/
def nbCode (fn : Nat) (d a b c : Reg) (rows d1 d2 : BitVec 6) (np : BitVec 8) : Code :=
  .long 0x3D (fn * 2 ^ 52 + d.toNat * 2 ^ 47 + a.toNat * 2 ^ 42 + b.toNat * 2 ^ 37 + c.toNat * 2 ^ 32 +
    rows.toNat * 2 ^ 26 + d1.toNat * 2 ^ 20 + d2.toNat * 2 ^ 14 + np.toNat)

/-- The words of an instruction; an event has none. -/
def encode (i : Instr) : Option Code :=
  match i with
  | .add d a b => some (rr d a b 0)
  | .sub d a b => some (rr d a b 1)
  | .mul d a b => some (rr d a b 2)
  | .mulh d a b => some (rr d a b 3)
  | .mulhu d a b => some (rr d a b 4)
  | .div d a b => some (rr d a b 5)
  | .divu d a b => some (rr d a b 6)
  | .rem d a b => some (rr d a b 7)
  | .remu d a b => some (rr d a b 8)
  | .and d a b => some (rr d a b 9)
  | .or d a b => some (rr d a b 10)
  | .xor d a b => some (rr d a b 11)
  | .shl d a b => some (rr d a b 12)
  | .shr d a b => some (rr d a b 13)
  | .shra d a b => some (rr d a b 14)
  | .slt d a b => some (rr d a b 15)
  | .sltu d a b => some (rr d a b 16)
  | .min d a b => some (rr d a b 17)
  | .max d a b => some (rr d a b 18)
  | .minu d a b => some (rr d a b 19)
  | .maxu d a b => some (rr d a b 20)
  | .clz d a => some (rr d a 0 21)
  | .popc d a => some (rr d a 0 22)
  | .addi d a m => some (ri 0x01 d a m.toNat)
  | .andi d a m => some (ri 0x02 d a m.toNat)
  | .ori d a m => some (ri 0x03 d a m.toNat)
  | .xori d a m => some (ri 0x04 d a m.toNat)
  | .slti d a m => some (ri 0x05 d a m.toNat)
  | .shli d a n => some (ri 0x06 d a n.toNat)
  | .shri d a n => some (ri 0x06 d a (2 ^ 12 + n.toNat))
  | .shrai d a n => some (ri 0x06 d a (2 * 2 ^ 12 + n.toNat))
  | .lih d m => some (jf 0x07 d m)
  | .beq a b o => some (ri 0x08 a b o.toNat)
  | .bne a b o => some (ri 0x09 a b o.toNat)
  | .blt a b o => some (ri 0x0A a b o.toNat)
  | .bge a b o => some (ri 0x0B a b o.toNat)
  | .bltu a b o => some (ri 0x0C a b o.toNat)
  | .bgeu a b o => some (ri 0x0D a b o.toNat)
  | .jal d m => some (jf 0x0E d m)
  | .jalr d a m => some (ri 0x0F d a m.toNat)
  | .ldB d a o => some (ri 0x10 d a o.toNat)
  | .ldH d a o => some (ri 0x10 d a (2 ^ 12 + o.toNat))
  | .ldW d a o => some (ri 0x10 d a (2 * 2 ^ 12 + o.toNat))
  | .ldD d a o => some (ri 0x10 d a (3 * 2 ^ 12 + o.toNat))
  | .ldBz d a o => some (ri 0x10 d a (4 * 2 ^ 12 + o.toNat))
  | .ldHz d a o => some (ri 0x10 d a (5 * 2 ^ 12 + o.toNat))
  | .ldWz d a o => some (ri 0x10 d a (6 * 2 ^ 12 + o.toNat))
  | .st s a z o => some (ri 0x11 s a (z.code * 2 ^ 12 + o.toNat))
  | .amoAdd d a b z => some (amoCode d a b 0 z)
  | .amoMin d a b z => some (amoCode d a b 1 z)
  | .amoMax d a b z => some (amoCode d a b 2 z)
  | .amoMinu d a b z => some (amoCode d a b 3 z)
  | .amoMaxu d a b z => some (amoCode d a b 4 z)
  | .amoAnd d a b z => some (amoCode d a b 5 z)
  | .amoOr d a b z => some (amoCode d a b 6 z)
  | .amoXor d a b z => some (amoCode d a b 7 z)
  | .amoSwap d a b z => some (amoCode d a b 8 z)
  | .amoCas d a b z => some (amoCode d a b 9 z)
  | .amoFaddF32 d a b => some (amoCode d a b 10 .w)
  | .amoFaddBf16 d a b => some (amoCode d a b 11 .w)
  | .fence sc => some (fenceCode 0 sc 0)
  | .bfence sc => some (fenceCode 1 sc 0)
  | .clInv sc a => some (fenceCode 2 sc a)
  | .clWb sc a => some (fenceCode 3 sc a)
  | .clWbi sc a => some (fenceCode 4 sc a)
  | .tlbInv sc a => some (fenceCode 5 sc a)
  | .loop a e => some (mkShort 0x14 (a.toNat * 2 ^ 15 + e.toNat))
  | .loopRot a e => some (mkShort 0x14 (2 ^ 24 + a.toNat * 2 ^ 15 + e.toNat))
  | .loopR two e => some (mkShort 0x15 (bit two * 2 ^ 24 + e.toNat * 2 ^ 21))
  | .brkL => some (mkShort 0x16 0)
  | .trap m => some (sysCode 0 0 0 m.toNat)
  | .rett => some (sysCode 1 0 0 0)
  | .wait m => some (sysCode 2 0 0 m.toNat)
  | .halt => some (sysCode 3 0 0 0)
  | .nop => some (sysCode 4 0 0 0)
  | .csrRd d m => some (sysCode 5 d 0 m.toNat)
  | .csrWr d a m => some (sysCode 6 d a m.toNat)
  | .csrSet d a m => some (sysCode 7 d a m.toNat)
  | .csrClr d a m => some (sysCode 8 d a m.toNat)
  | .knrd d k => some (sysCode 9 d 0 k.toNat)
  | .dbgMark a m => some (sysCode 10 0 a m.toNat)
  | .qpush q x => some (qopCode 0 x (8 + q.toNat) false 0)
  | .qpop x q pk => some (qopCode 1 x (8 + q.toNat) pk 0)
  | .tpost q n => some (qopCode 2 0 (16 + q.toNat) false n.toNat)
  | .twait q pk n => some (qopCode 3 0 (16 + q.toNat) pk n.toNat)
  | .qstat x q => some (qopCode 4 x q.code false 0)
  | .tld q a b rows w zp =>
    some (mkShort 0x19 (q.toNat * 2 ^ 23 + a.toNat * 2 ^ 18 + b.toNat * 2 ^ 13 + rows.toNat * 2 ^ 8 + w.code * 2 ^ 6 +
      bit zp * 2 ^ 5))
  | .tldG q a b m rows w zp =>
    some (mkShort 0x1A (q.toNat * 2 ^ 23 + a.toNat * 2 ^ 18 + b.toNat * 2 ^ 13 + m.toNat * 2 ^ 10 + rows.toNat * 2 ^ 5 +
      w.code * 2 ^ 3 + bit zp * 2 ^ 2))
  | .probe d a o => some (ri 0x1B d a o.toNat)
  | .tst q a b rows w =>
    some (mkShort 0x1C (q.toNat * 2 ^ 24 + a.toNat * 2 ^ 19 + b.toNat * 2 ^ 14 + rows.toNat * 2 ^ 9 + w.code * 2 ^ 7))
  | .cstq d a b pair w =>
    some (mkShort 0x1D (bit pair * 2 ^ 24 + d.toNat * 2 ^ 19 + a.toNat * 2 ^ 14 + b.toNat * 2 ^ 9 + w.code * 2 ^ 7))
  | .pset p m => some (mkShort 0x1E (p.toNat * 2 ^ 18 + m.toNat))
  | .plogAnd d a b => some (mkShort 0x1E (2 ^ 22 + d.toNat * 2 ^ 18 + a.toNat * 2 ^ 14 + b.toNat * 2 ^ 10))
  | .plogOr d a b => some (mkShort 0x1E (2 ^ 22 + d.toNat * 2 ^ 18 + a.toNat * 2 ^ 14 + b.toNat * 2 ^ 10 + 2 ^ 8))
  | .plogXor d a b => some (mkShort 0x1E (2 ^ 22 + d.toNat * 2 ^ 18 + a.toNat * 2 ^ 14 + b.toNat * 2 ^ 10 + 2 * 2 ^ 8))
  | .plogAndn d a b => some (mkShort 0x1E (2 ^ 22 + d.toNat * 2 ^ 18 + a.toNat * 2 ^ 14 + b.toNat * 2 ^ 10 + 3 * 2 ^ 8))
  | .pmovToP p x => some (mkShort 0x1E (2 * 2 ^ 22 + p.toNat * 2 ^ 18 + x.toNat * 2 ^ 12))
  | .pmovFromP p x => some (mkShort 0x1E (2 * 2 ^ 22 + p.toNat * 2 ^ 18 + 2 ^ 17 + x.toNat * 2 ^ 12))
  | .lset lb a m => some (mkShort 0x1E (3 * 2 ^ 22 + bit lb * 2 ^ 21 + a.toNat * 2 ^ 16 + m.toNat))
  | .trbset a m => some (mkShort 0x1E (4 * 2 ^ 22 + a.toNat * 2 ^ 17 + m.toNat))
  | .shape d a slot => some (ri 0x1F d a (slot.toNat * 2 ^ 13))
  | .ceCopy d a => some (cxCode 0 0 true d a 0)
  | .ceFill d a => some (cxCode 0 1 true d a 0)
  | .ceGath d a => some (cxCode 0 2 true d a 0)
  | .tuneDecl d a b => some (cxOpt 1 0 d a b.toNat)
  | .tuneObj d a b => some (cxOpt 1 1 d a b.toNat)
  | .tuneStep d a => some (cxOpt 1 2 d a 0)
  | .tuneFrz d => some (cxOpt 1 3 d 0 0)
  | .tuneRsm d => some (cxOpt 1 4 d 0 0)
  | .tuneSave d a => some (cxOpt 1 5 d a 0)
  | .tuneLoad d a => some (cxOpt 1 6 d a 0)
  | .wdPush d a => some (cxCode 2 0 true d a 0)
  | .wdPop d => some (cxCode 2 1 true d 0 0)
  | .wdSteal d => some (cxCode 2 2 true d 0 0)
  | .barArrive sc => some (cxCode 3 0 false 0 0 sc.code)
  | .barWait sc => some (cxCode 3 1 false 0 0 sc.code)
  | .barAw sc => some (cxCode 3 2 false 0 0 sc.code)
  | .slotSet d a => some (cxOpt 4 0 d a 0)
  | .slotInv d a all => some (cxOpt 4 1 d a (bit all))
  | .slotWb d a all => some (cxOpt 4 2 d a (bit all))
  | .engWait c a => some (cxCode 5 0 false 0 a c.code)
  | .engSeq d c => some (cxCode 5 1 true d 0 c.code)
  | .engLnch d a => some (cxCode 5 2 true d a 0)
  | .mxLease d => some (cxCode 6 0 true d 0 0)
  | .mxFree => some (cxCode 6 1 false 0 0 0)
  | .mxFmt d a b => some (cxCode 6 2 true d a b.toNat)
  | .mxScl a all => some (cxCode 6 3 false 0 a (bit all))
  | .mxAct d a => some (cxCode 6 4 true d a 0)
  | .gsCfg d a b => some (cxOpt 7 0 d a b.toNat)
  | .vadd h td ta tb => some (tileCode 0x38 0x00 h td.code ta.code tb.code 0)
  | .vsub h td ta tb => some (tileCode 0x38 0x01 h td.code ta.code tb.code 0)
  | .vmul h td ta tb => some (tileCode 0x38 0x02 h td.code ta.code tb.code 0)
  | .vfma h td ta tb tc => some (tileCode 0x38 0x03 h td.code ta.code tb.code tc.code)
  | .vmin h td ta tb => some (tileCode 0x38 0x04 h td.code ta.code tb.code 0)
  | .vmax h td ta tb => some (tileCode 0x38 0x05 h td.code ta.code tb.code 0)
  | .vabs h td ta => some (tileCode 0x38 0x06 h td.code ta.code 0 0)
  | .vneg h td ta => some (tileCode 0x38 0x07 h td.code ta.code 0 0)
  | .vcmp h pd ta tb c => some (tileCode 0x38 0x08 h (pd.toNat * 2 ^ 4) ta.code tb.code c.code)
  | .vsel h td ta tb ps => some (tileCode 0x38 0x09 h td.code ta.code tb.code (ps.toNat * 2 ^ 4))
  | .vaddx h td ta tb => some (tileCode 0x38 0x10 h td.code ta.code tb.code 0)
  | .vsubx h td ta tb => some (tileCode 0x38 0x11 h td.code ta.code tb.code 0)
  | .vmulx h td ta tb => some (tileCode 0x38 0x12 h td.code ta.code tb.code 0)
  | .dwadd h td ta tb => some (tileCode 0x38 0x18 h td.code ta.code tb.code 0)
  | .dwmul h td ta tb => some (tileCode 0x38 0x19 h td.code ta.code tb.code 0)
  | .dwfma h td ta tb tc => some (tileCode 0x38 0x1A h td.code ta.code tb.code tc.code)
  | .dwnorm h td ta => some (tileCode 0x38 0x1B h td.code ta.code 0 0)
  | .vaddSat h td ta tb => some (tileCode 0x38 0x20 h td.code ta.code tb.code 0)
  | .vsubSat h td ta tb => some (tileCode 0x38 0x21 h td.code ta.code tb.code 0)
  | .vmulSat h td ta tb => some (tileCode 0x38 0x22 h td.code ta.code tb.code 0)
  | .vlogAnd h td ta tb => some (tileCode 0x39 0x00 h td.code ta.code tb.code 0)
  | .vlogOr h td ta tb => some (tileCode 0x39 0x01 h td.code ta.code tb.code 0)
  | .vlogXor h td ta tb => some (tileCode 0x39 0x02 h td.code ta.code tb.code 0)
  | .vlogAndn h td ta tb => some (tileCode 0x39 0x03 h td.code ta.code tb.code 0)
  | .vshShl h td ta tb => some (tileCode 0x39 0x08 h td.code ta.code tb.code 0)
  | .vshShr h td ta tb => some (tileCode 0x39 0x09 h td.code ta.code tb.code 0)
  | .vshShra h td ta tb => some (tileCode 0x39 0x0A h td.code ta.code tb.code 0)
  | .vmov h td ta => some (tileCode 0x3A 0x00 h td.code ta.code 0 0)
  | .vrotr h td ta amt => some (tileCode 0x3A 0x01 h td.code ta.code amt.toNat 0)
  | .vrotc h td ta amt => some (tileCode 0x3A 0x02 h td.code ta.code amt.toNat 0)
  | .vbcr h td ta => some (tileCode 0x3A 0x03 h td.code ta.code 0 0)
  | .vbcc h td ta => some (tileCode 0x3A 0x04 h td.code ta.code 0 0)
  | .vsplat h td ta => some (tileCode 0x3A 0x05 h td.code ta.code 0 0)
  | .vext h td ta => some (tileCode 0x3A 0x06 h td.code ta.code 0 0)
  | .vins h td ta => some (tileCode 0x3A 0x07 h td.code ta.code 0 0)
  | .vredrAdd h td ta => some (tileCode 0x3B 0x00 h td.code ta.code 0 0)
  | .vredrMax h td ta => some (tileCode 0x3B 0x01 h td.code ta.code 0 0)
  | .vredrMin h td ta => some (tileCode 0x3B 0x02 h td.code ta.code 0 0)
  | .vredrCadd h td ta => some (tileCode 0x3B 0x03 h td.code ta.code 0 0)
  | .vredcAdd h td ta => some (tileCode 0x3B 0x08 h td.code ta.code 0 0)
  | .vredcMax h td ta => some (tileCode 0x3B 0x09 h td.code ta.code 0 0)
  | .vredcMin h td ta => some (tileCode 0x3B 0x0A h td.code ta.code 0 0)
  | .vredcCadd h td ta => some (tileCode 0x3B 0x0B h td.code ta.code 0 0)
  | .vsf h td ta f => some (tileCode 0x3B 0x10 h td.code ta.code 0 f.code)
  | .vcvt h td ta code => some (tileCode 0x3B 0x18 h td.code ta.code 0 code.toNat)
  | .mma qp acc a b slot ft d1 d2 np => some (mmaCode 0 qp acc a b slot ft d1 d2 np)
  | .mmaZ qp acc a b slot ft d1 d2 np => some (mmaCode 1 qp acc a b slot ft d1 d2 np)
  | .mxDrain qp td first count a bias act rq ft np =>
    some (.long 0x3C (2 * 2 ^ 52 + qp.toNat * 2 ^ 48 + td.code * 2 ^ 39 + first.toNat * 2 ^ 34 + count.toNat * 2 ^ 28 +
      a.toNat * 2 ^ 23 + bit bias * 2 ^ 22 + bit act * 2 ^ 21 + bit rq * 2 ^ 20 + bit ft * 2 ^ 19 + np.toNat))
  | .nbMv d a b c rows d1 d2 np => some (nbCode 0 d a b c rows d1 d2 np)
  | .nbSaxpy d a b c rows d1 d2 np => some (nbCode 1 d a b c rows d1 d2 np)
  | .nbRcpy d a c rows d1 d2 np => some (nbCode 2 d a 0 c rows d1 d2 np)
  | .nbRzero d a rows d1 d2 np => some (nbCode 3 d a 0 0 rows d1 d2 np)
  | .gsQry d a b slot d1 d2 np =>
    some (.long 0x3E (d.toNat * 2 ^ 47 + a.toNat * 2 ^ 42 + b.toNat * 2 ^ 37 + slot.toNat * 2 ^ 35 + d1.toNat * 2 ^ 29 +
      d2.toNat * 2 ^ 23 + np.toNat))
  | _ => none

/-- What the decoder reads from the words of a code. -/
def Code.decode : Code → Option Instr
  | .short w => decodeShort w
  | .long maj v => decodeLong (maj * 2 ^ 25 + v / 2 ^ 31) (v % 2 ^ 31)

/-- A member of a bundle as framing sees it (11 R267, R269): the offset of its first word from the bundle's first word,
its words, its instruction if it is one, and its size in bits. -/
structure Member where
  off : Nat
  word : W32
  instr : Option Instr
  bits : Nat
  deriving DecidableEq, Repr

/-- Members that stand last in a bundle: the control members (11 R267), and PROBE (19 R374). -/
def Instr.isControl (i : Instr) : Bool :=
  match i with
  | .beq .. | .bne .. | .blt .. | .bge .. | .bltu .. | .bgeu .. | .jal .. | .jalr .. | .loop .. | .loopRot .. | .loopR ..
  | .brkL | .trap _ | .rett | .halt | .probe .. => true
  | _ => false

/-- MATRIX words (11 R267). -/
def Instr.isMatrix (i : Instr) : Bool :=
  match i with
  | .mma .. | .mmaZ .. | .mxDrain .. => true
  | _ => false

/-- What a bundle of words is: its members and its length in bytes, or a word that is still to be read. -/
structure Framed where
  members : List Member
  bytes : Nat
  complete : Bool
  deriving DecidableEq, Repr

/-- Splits words into the members of one bundle (11 R265, R267, R269): up to the first stop bit, up to the member that
passes the size limit, or to `fuel` members; `off` bytes stand before these words. -/
def frame (limit : Nat) : Nat → Nat → List Nat → Framed
  | 0, off, _ => { members := [], bytes := off, complete := true }
  | _ + 1, off, [] => { members := [], bytes := off, complete := false }
  | fuel + 1, off, w0 :: rest =>
    let here (instr : Option Instr) (bits : Nat) : Member := { off, word := BitVec.ofNat 32 w0, instr, bits }
    if isLongWord w0 then
      match rest with
      | [] => { members := [], bytes := off, complete := false }
      | w1 :: rest' =>
        let m := here (decodeLong w0 w1) 64
        if bitAt w1 31 || decide (limit < 8 * (off + 8)) then { members := [m], bytes := off + 8, complete := true }
        else let r := frame limit fuel (off + 8) rest'; { r with members := m :: r.members }
    else
      let legal := decide (fld w0 25 6 < 56)
      let m := here (if legal then decodeShort w0 else none) 32
      if bitAt w0 31 || decide (limit < 8 * (off + 4)) then { members := [m], bytes := off + 4, complete := true }
      else let r := frame limit fuel (off + 4) rest; { r with members := m :: r.members }

end Sys2Proof
end

