-- ==== Sys2Proof/Machine/State.lean ====
section
/-! DEFINITION. The state of the machine as plain data: everything the manual gives the device, one home for each piece,
and the machine right after reset. -/

namespace Sys2Proof.Machine

/-- A sparse table: keys strictly rising, no entry equal to what an unlisted key reads as. The operations are in
Machine/Cells.lean. -/
abbrev Cells (α : Type) := List (Nat × α)

/-- 64 containers of 32 bits (02 R29). -/
abbrev Row := Vector W32 64
/-- One tile register, 16 rows (02 R35). -/
abbrev Tile := Vector Row 16

/-- A tile line in a queue with a poison mark for each of its eight 32-byte sectors (02 R29, 10 R236). -/
structure Line where
  data : Row
  poison : BitVec 8
  deriving DecidableEq, Repr

/-- The line whose containers are all zero. -/
def Line.zero : Line := { data := Vector.replicate 64 0, poison := 0 }

/-- An entry of a load queue: readable, or reserved for a row that has not arrived, as a marker's are (02 R30, 09 R229). -/
inductive LqEntry
  | line (l : Line)
  | reserved
  deriving DecidableEq, Repr

/-- An entry of a message queue with its taint bit (08 R206) and the clk of its push (02 R34). -/
structure MqEntry where
  value : W64
  taint : Bool
  clk : W64
  deriving DecidableEq, Repr

/-- What the head of a strand is blocked on (02 R34, 10 R245). -/
inductive Block
  | lq (q : Nat) | sq (q : Nat) | mq (q : Nat) | tf (q : Nat)
  | engine | lease | barrier | victim | fill | posted | interlock | waiting
  /-- a SLOT.SET that has begun to reconfigure the window of its cluster (19 R375) -/
  | slotSet
  /-- a TLB.INV that is not complete (02 R53, 19 R389) -/
  | upkeep
  /-- an access that waits at a pseudo-channel for a near-bank command (07 R178) -/
  | request
  /-- a BFENCE, with its point: SEQNO at its issue (05 R135) -/
  | fence (point : W32)
  deriving DecidableEq, Repr

/-- One hardware-loop level (02 R38, 18 R352, R355). `start` is the first word of the body, `stop` its end address. -/
structure LoopLevel where
  active : Bool
  rotating : Bool
  cnt : W32
  idx : BitVec 35
  start : W64
  stop : W64
  deriving DecidableEq, Repr

def LoopLevel.reset : LoopLevel :=
  { active := false, rotating := false, cnt := 0, idx := 0, start := 0, stop := 0 }

/-- One bypass slot: its value and the clk of its last write (02 R56). -/
structure Bypass where
  value : W64
  live : Bool
  writtenAt : Nat
  deriving DecidableEq, Repr

/-- A tile load whose remaining rows stand as a marker in its queue (09 R229): `idx` holds the captured indices of a
gather that are still to be performed. -/
structure TileLoad where
  q : Nat
  addr : W64
  stride : W64
  rows : Nat
  width : TWidth
  zp : Bool
  idx : Option (List W64)
  pc : W64
  /-- the number the context's next command had when it issued (05 R139) -/
  seq : W32
  deriving DecidableEq, Repr

/-- Producer and consumer of a bound MQ or TF (02 R32). -/
structure Binding where
  producer : StrandId
  consumer : StrandId
  deriving DecidableEq, Repr

/-- The queues of a context (02 R29). -/
structure Queues where
  lq : Vector (List LqEntry) 4
  sq : Vector (List Line) 2
  mq : Vector (List MqEntry) 8
  tf : Vector Nat 8
  mqMap : Vector (Option Binding) 8
  tfMap : Vector (Option Binding) 8
  /-- what TWAITs have taken from each token FIFO in a clk, with that clk: a TPOST of the clk is applied before them (02 R34) -/
  tfTaken : W64 × Vector Nat 8
  deriving DecidableEq, Repr

def Queues.reset : Queues :=
  { lq := Vector.replicate 4 [], sq := Vector.replicate 2 [], mq := Vector.replicate 8 [], tf := Vector.replicate 8 0,
    mqMap := Vector.replicate 8 none, tfMap := Vector.replicate 8 none, tfTaken := (0, Vector.replicate 8 0) }

/-- The activation table (06 R162). -/
structure ActTable where
  l : W32
  e : Int
  slope : Vector W32 256
  icept : Vector W32 256
  deriving DecidableEq, Repr

/-- What the compute strand owns (02 R35, R37, R40; 06 R149, R155, R159, R162). -/
structure Compute where
  tiles : Vector Tile 32
  preds : Vector W16 16
  la : BitVec 6
  lb : BitVec 6
  trb : BitVec 4
  slots : Vector W64 4
  fmt : Vector W64 16
  act : Option ActTable
  acc : Vector (Vector W32 256) 128
  accInt : Vector Bool 32
  /-- sectors of tile rows that an error has marked (10 R236), as 128 × physical tile + 8 × row + sector -/
  tilePoison : List Nat
  deriving DecidableEq, Repr

/-- A refused grant with nothing requested (06 R149). -/
def emptySlot : W64 := 0x8000000000000000#64

def Compute.reset : Compute :=
  { tiles := Vector.replicate 32 (Vector.replicate 16 (Vector.replicate 64 0)),
    preds := Vector.replicate 16 0, la := 0, lb := 0, trb := 0,
    slots := Vector.replicate 4 emptySlot, fmt := Vector.replicate 16 0, act := none,
    acc := Vector.replicate 128 (Vector.replicate 256 0), accInt := Vector.replicate 32 false, tilePoison := [] }

/-- First-error records: CEERR (17 R326) and NBERR (07 R182). -/
structure ErrRec where
  seq : W32
  count : W16
  code : BitVec 4
  deriving DecidableEq, Repr

def ErrRec.reset : ErrRec := { seq := 0, count := 0, code := 0 }

/-- The sampling registers and the sampler behind them (10 R247, R248). -/
structure Sampling where
  seed : W16
  per : BitVec 4
  smask : BitVec 4
  en : Bool
  v : Bool
  kill : Bool
  strand : StrandId
  pc : W64
  t : W64
  durations : Vector W32 6
  lfsr : W16
  count : Nat
  /-- the marked bundle: its strand, address, CYCLE of its fetch, and that it was discarded -/
  marked : Option (StrandId × W64 × W64 × Bool)
  deriving DecidableEq, Repr

def Sampling.reset : Sampling :=
  { seed := 0, per := 8, smask := 0xF, en := false, v := false, kill := false, strand := .L, pc := 0, t := 0,
    durations := Vector.replicate 6 0, lfsr := 1, count := 0, marked := none }

/-- TRCBASE and TRCCTL (10 R252). -/
structure Trace where
  base : BitVec 39
  pages : W16
  hdrop : W16
  wrap : Bool
  samp : Bool
  mark : Bool
  en : Bool
  deriving DecidableEq, Repr

def Trace.reset : Trace := { base := 0, pages := 0, hdrop := 0, wrap := false, samp := false, mark := false, en := false }

/-- ECCLOG (10 R244). -/
structure EccLog where
  kind : BitVec 2
  mult : Bool
  addr : BitVec 50
  deriving DecidableEq, Repr

/-- The per-context CSRs that hold plain fields. -/
structure Csrs where
  frm : BitVec 2
  ftz : Bool
  fflags : BitVec 7
  /-- FRM and FTZ before the first write by another strand than the compute strand in a clk, with that clk (03 R73) -/
  earlier : Option (W64 × BitVec 2 × Bool)
  /-- flags raised in a clk, with that clk (03 R73) -/
  raised : W64 × BitVec 7
  miss : W32
  hit : W32
  nbwin : BitVec 4
  nbmsel : BitVec 15
  nberr : ErrRec
  ceerr : ErrRec
  ecczcnt : W32
  ecclog : EccLog
  qhc : Vector W64 16
  prov : Vector W64 8
  samp : Sampling
  trace : Trace
  deriving DecidableEq, Repr

def Csrs.reset : Csrs :=
  { frm := 0, ftz := false, fflags := 0, earlier := none, raised := (0, 0), miss := 0, hit := 0, nbwin := 2, nbmsel := 0, nberr := ErrRec.reset,
    ceerr := ErrRec.reset, ecczcnt := 0, ecclog := { kind := 0, mult := false, addr := 0 },
    qhc := Vector.replicate 16 0, prov := Vector.replicate 8 0, samp := Sampling.reset, trace := Trace.reset }

/-- A bundle that has issued and whose accesses still wait for what its earlier members have begun, its own tile loads,
commands and posted writes (05 R123, R124, R134; 19 R389): its address and the one its strand goes on at, the members that are
left, with their addresses and words, SEQNO and the clk of its issue, a transfer it has taken, and what its members read as the
bundle found it (11 R268). -/
structure Held where
  start : W64
  next : W64
  rest : List (W64 × W32 × Instr)
  seq : W32
  clk : W64
  taken : Bool
  x : Vector W64 32
  taint : Vector Bool 32
  bypass : Vector Bypass 4
  comp : Compute
  csr : Csrs
  deriving DecidableEq, Repr

/-- The state of one strand (01 R15, 02 R28, R38, R51, R56, 08 R193). -/
structure Strand where
  pc : W64
  halted : Bool
  x : Vector W64 32
  taint : Vector Bool 32
  loop0 : LoopLevel
  loop1 : LoopLevel
  bypass : Vector Bypass 4
  view : Vector W16 16
  viewEpoch : Nat
  /-- the view before a commit that wrote it directly, with the clk of that commit (08 R209) -/
  wasView : Option (W64 × Vector W16 16)
  waitUntil : Option Nat
  blocked : Option Block
  /-- for each barrier scope, the generation of the strand's last arrive, until its wait completes -/
  arrived : Vector (Option Nat) 4
  /-- the wait half of a BAR.AW that has issued (17 R316) -/
  barWait : Option BarScope
  /-- a bundle of the strand that has issued and is not complete -/
  held : Option Held
  /-- results of QSTAT that the end of the clk writes (19 R376) -/
  qstats : List (Reg × QName)
  /-- deferred adds since residency (05 R146) -/
  adds : Nat
  /-- a bundle issued in the current clk -/
  issued : Bool
  deriving DecidableEq, Repr

def Strand.reset : Strand :=
  { pc := 0, halted := false, x := Vector.replicate 32 0, taint := Vector.replicate 32 false,
    loop0 := LoopLevel.reset, loop1 := LoopLevel.reset,
    bypass := Vector.replicate 4 { value := 0, live := false, writtenAt := 0 },
    view := Vector.replicate 16 0, viewEpoch := 0, wasView := none, waitUntil := none, blocked := none,
    arrived := Vector.replicate 4 none, barWait := none, held := none, qstats := [], adds := 0,
    issued := false }

/-- The trap registers of a context (09 R225), and whether the control strand had halted when the handler began
(R432). -/
structure TrapRegs where
  active : Bool
  defer : Bool
  strand : StrandId
  cause : BitVec 8
  addr : W64
  pc : W64
  vec : W64
  rpc : W64
  kHalted : Bool
  /-- the wait half of a BAR.AW that the control strand stood in when the handler began -/
  kWait : Option BarScope
  /-- the bundle of the control strand that was not complete when the handler began -/
  kHeld : Option Held
  deriving DecidableEq, Repr

def TrapRegs.reset : TrapRegs :=
  { active := false, defer := false, strand := .L, cause := 0, addr := 0, pc := 0, vec := 0, rpc := 0, kHalted := false, kWait := none, kHeld := none }

/-- The kind of a tuning trial (08 R200). -/
inductive TrialKind | sweep | exploit | probe
  deriving DecidableEq, Repr

/-- The phases of the search, frozen kept apart (08 R192, R202). -/
inductive TuneTarget | sweep | exploit
  deriving DecidableEq, Repr

/-- A declared knob (08 R196). -/
structure Knob where
  num : BitVec 4
  lo : W16
  hi : W16
  deriving DecidableEq, Repr

/-- The open trial: its kind, its point and the start of its measurement (08 R198, R208). -/
structure Trial where
  kind : TrialKind
  point : Nat
  start : W64
  deriving DecidableEq, Repr

/-- The objective source (08 R198). -/
inductive Objective
  | clks
  | qhc (index : BitVec 4)
  | software
  | replay (table : W64) (length : Nat)
  deriving DecidableEq, Repr

/-- The tuning search unit of a context (08 R208). `phase = none` is IDLE. -/
structure Tsu where
  phase : Option TuneTarget
  frozen : Bool
  knobs : List Knob
  setting : Vector W16 16
  epoch : Nat
  objective : Option Objective
  trials : W64
  cursor : Nat
  best : Option (Nat × W64)
  ecnt : Nat
  pptr : Nat
  trial : Option Trial
  /-- clk in which the bank issued, since residency (08 R198 source 0) -/
  clks : W64
  /-- the clk of the last commit: other strands take it in a later clk (08 R193) -/
  commitClk : W64
  /-- the setting and its epoch before the commits of that clk (08 R209) -/
  before : Vector W16 16
  beforeEpoch : Nat
  deriving DecidableEq, Repr

def Tsu.reset : Tsu :=
  { phase := none, frozen := false, knobs := [], setting := Vector.replicate 16 0, epoch := 0, objective := none,
    trials := 0, cursor := 0, best := none, ecnt := 0, pptr := 0, trial := none, clks := 0, commitClk := 0, before := Vector.replicate 16 0, beforeEpoch := 0 }

/-- The vertex table of one stack (07 R184). -/
structure VertexTable where
  base : W64
  count : Nat
  deriving DecidableEq, Repr

/-- A captured graph descriptor (07 R184). -/
structure GraphDesc where
  dim : Nat
  deg : Nat
  inner : Bool
  vfmt : BitVec 4
  tables : List VertexTable
  deriving DecidableEq, Repr

/-- A key of the graph search: the distance bits and the vertex id (07 R188). -/
structure GKey where
  dist : W32
  id : W32
  deriving DecidableEq, Repr

/-- A byte range of a footprint: in the scratchpad or at virtual addresses, from `lo` up to and without `hi` (05 R140). -/
structure Range where
  scratch : Bool
  lo : Nat
  hi : Nat
  deriving DecidableEq, Repr

/-- A command's footprint (05 R140). -/
structure Foot where
  reads : List Range
  writes : List Range
  deriving DecidableEq, Repr

/-- Operations of the copy engine (17 R321). -/
inductive CeOp | copy | fill | gath
  deriving DecidableEq, Repr

/-- Near-bank commands (07 R166). -/
inductive NbFn | mv | saxpy | rcpy | rzero
  deriving DecidableEq, Repr

/-- What a cell meets on its way: the block of k-steps, the event, the operand it comes from and its format (10 R249). -/
structure ProvEvent where
  kblk : Nat
  row : Nat
  col : Nat
  event : Nat
  opnd : Nat
  fmt : BitVec 4
  deriving DecidableEq, Repr

/-- Where an access goes once its address is known (04 R88, R89, R91; 10 R259). -/
inductive Target
  | scratch (cluster off : Nat)
  /-- DRAM through the caches with a leaf's CACHE code, or directly -/
  | hbm (key : Nat) (bank : Bool) (cache : Nat) (direct : Bool)
  | host (addr : Nat)
  /-- an offset in a peer window of a die; the window's entry names device and stack when the access is performed -/
  | peer (die win off : Nat)
  | regs (die off : Nat)
  | priv (die off : Nat)
  deriving DecidableEq, Repr

/-- Where a running query stands (07 R189): `out` holds the pieces of its result buffer, `loaded` says that its packet has
been read, `taken` counts the entry vertices taken so far; `visiting` holds the vertices whose distances are awaited, each
with its distance once it has returned. -/
structure GsRun where
  out : List (W64 × Nat × Target)
  loaded : Bool
  k : Nat
  ef : Nat
  vcap : Nat
  filt : Bool
  maxExp : Nat
  entries : List W32
  taken : Nat
  query : List Byte
  cand : List GKey
  res : List GKey
  visited : List W32
  expansions : Nat
  evaluated : Nat
  visiting : List (W32 × Option W32)
  /-- the candidate that was removed last, until its neighbours have been read -/
  current : Option GKey
  status : Option (BitVec 4)
  deriving DecidableEq, Repr

/-- A near-bank command once its operands are known (07 R174 to R177): pages and first rows as virtual address and DRAM
byte; x and y as the pieces their held translations give. Rows are counted by `row`, steps by `mpc`. -/
structure NbRun where
  efmt : BitVec 4
  xfmt : BitVec 4
  z : Bool
  x : List (W64 × Nat × Target)
  y : List (W64 × Nat × Target)
  pages : List (W64 × Nat)
  src : W64 × Nat
  dst : W64 × Nat
  home : Nat
  /-- the banks of the operands, as 16 × pseudo-channel + bank, taken when the command started (04 R108, R113) -/
  banks : List Nat
  /-- rows of weights that have been read, by 64 × page + row -/
  got : List (Nat × List Byte)
  /-- outputs that met poisoned data -/
  bad : List Nat
  /-- the stack logic's row buffer: bytes, and whether a sector was poisoned -/
  buffer : Option (List Byte × Bool)
  row : Nat
  mpc : Nat
  sinceCheck : Nat
  suspended : Bool
  held : Bool
  poisoned : Option W64
  flags : BitVec 7
  event : Option ProvEvent
  written : List Nat
  deriving DecidableEq, Repr

/-- A drain whose lines are formed: those still to be pushed, and its flags and event for its retirement (18 R363). -/
structure DrainOut where
  lines : List Line
  flags : BitVec 7
  event : Option ProvEvent
  deriving DecidableEq, Repr

/-- What a command does. -/
inductive CmdBody
  | ce (op : CeOp) (card : Vector W64 4) (row : Nat)
  | mma (zero : Bool) (prof : BitVec 8) (af bf : BitVec 4) (m n k : Nat) (block : Nat) (qp : W16) (aDesc bDesc : W64)
  | drain (td : TDst) (trb : BitVec 4) (qp : W16) (first count : Nat) (param : W64) (bias act rq : Bool)
      (fmt : BitVec 4) (out : Option DrainOut)
  | act (addr : W64)
  | nb (fn : NbFn) (a b c : W64) (rows : Nat) (np : BitVec 8) (window : Nat) (run : Option NbRun)
  | gs (desc : GraphDesc) (slot : BitVec 2) (packet result : W64) (np : BitVec 8) (run : Option GsRun)
  deriving DecidableEq, Repr

/-- An engine command in flight (05 R136): its number, class, issuing strand and program counter, named predecessors,
footprint, and whether it has started or stalls on a page fault at an address. -/
structure Cmd where
  seq : W32
  cls : EngClass
  strand : StrandId
  pc : W64
  d1 : BitVec 6
  d2 : BitVec 6
  foot : Foot
  started : Bool
  stalled : Option W64
  body : CmdBody
  /-- its work is done and it waits to retire in its place (05 R138) -/
  finished : Bool
  /-- causes to raise on its strand once it has retired (09 R433) -/
  causes : List (BitVec 8 × W64)
  /-- the error or layout code it retires with (17 R324, 07 R175); 0 for none -/
  code : BitVec 4
  /-- the words of an NB.MV's descriptor, once the start checks have read it (07 R174) -/
  desc : Option (W64 × W64)
  /-- the grant of the lease under which a class-1 command issued (06 R151) -/
  lease : Nat
  /-- its number is assigned, but it belongs to a held bundle and its card is still to be read (05 R136, 11 R268, 17 R321) -/
  unread : Bool
  deriving DecidableEq, Repr

/-- Rows of a retired near-bank command whose L2 copies still stand (05 R144). -/
structure NbInval where
  seq : W32
  rows : List Nat
  foot : Foot
  deriving DecidableEq, Repr

/-- A posted write that has not been performed (05 R130). -/
structure Posted where
  strand : StrandId
  pc : W64
  va : W64
  target : Target
  data : List Byte
  /-- the data came from a poisoned sector (19 R398) -/
  poison : Bool
  /-- the number the context's next command had when it was posted (05 R139) -/
  seq : W32
  deriving DecidableEq, Repr

/-- A cause to be raised at the issuing strand's next bundle boundary (09 R433). -/
structure DeferredCause where
  strand : StrandId
  cause : BitVec 8
  pc : W64
  addr : W64
  deriving DecidableEq, Repr

/-- A page fault that a bank awaits (09 R228). -/
structure FaultRec where
  strand : StrandId
  addr : W64
  pc : W64
  /-- the slot whose fill met the fault (04 R98) -/
  slot : Option Nat
  deriving DecidableEq, Repr

/-- The reservation a CSTQ keeps across a page fault (17 R335), and the rows a TST has already written (19 R399). -/
structure Replay where
  pc : W64
  n : Nat
  k : Nat
  done : Nat
  deriving DecidableEq, Repr

/-- A SLOT.INV or SLOT.WB in progress (04 R99, 19 R383): the slots still to be handled, the count so far, and whether the
first of them has been counted. -/
structure SlotRun where
  todo : List Nat
  count : Nat
  seen : Bool
  deriving DecidableEq, Repr

/-- The engine side of a context (05 R136 to R145). -/
structure Engines where
  seqno : W32
  last : W32
  /-- the numbers have wrapped since residency -/
  wrapped : Bool
  cmds : List Cmd
  invals : List NbInval
  posted : List Posted
  deferred : List DeferredCause
  graphs : Vector (Option GraphDesc) 4
  /-- MX.SCL instructions that earlier class-1 commands may still undo: the number of the command that follows, and the tensor, none
  for all (06 R158) -/
  scls : List (W32 × Option W32)
  deriving DecidableEq, Repr

def Engines.reset : Engines :=
  { seqno := 1, last := 0, wrapped := false, cmds := [], invals := [], posted := [], deferred := [], graphs := Vector.replicate 4 none, scls := [] }

/-- The four kinds of context (02 R44, R45, 10 R258). -/
inductive CtxKind | A | B | F | clove
  deriving DecidableEq, Repr

/-- Where an item stands (02 R44, 09 R220, R230, 20 R428): resident, stopped for a pre-emption whose save is not yet made,
saved, or ended. -/
inductive Residency | resident | stopping | saved | ended
  deriving DecidableEq, Repr

/-- Who a context is (02 R45, 09 R216). -/
structure Ident where
  kind : CtxKind
  die : Nat
  core : Nat
  pasid : BitVec 20
  item : W32
  pers : Bool
  det : Bool
  task : Nat
  gang : Nat
  residency : Residency
  /-- µs at which the item last became resident, for step 4 of R220; of a saved item, µs at which it was saved -/
  since : Nat
  /-- the save area firmware assigned (09 R230) -/
  area : W64
  deriving DecidableEq, Repr

/-- What a hint record says about the pages of its range (04 R116): mostly unwritten, the home stack, and the dies that map the
range remotely. -/
structure Hint where
  mu : Bool
  home : BitVec 5
  keep : W32
  deriving DecidableEq, Repr

/-- A context: everything one work item, one core's F or one die's Clove holds (02 R44, 09 R231). -/
structure Ctx where
  id : Ident
  l : Strand
  c : Strand
  s : Strand
  k : Strand
  comp : Compute
  q : Queues
  csr : Csrs
  trap : TrapRegs
  eng : Engines
  tsu : Tsu
  loads : List TileLoad
  holds : List Nat
  /-- the cluster in which the item has issued SLOT.SET or PROBE (04 R97) -/
  window : Option Nat
  deque : List (BitVec 63)
  /-- the clk of the last operation on the deque, and the package core number it came from (20 R429) -/
  dequeAt : W64 × Nat
  fault : Option FaultRec
  /-- the address and the stride of each store stream's last row (04 R114) -/
  sqAt : Vector (Option (W64 × W64)) 2
  /-- the tile loads that stand as markers are replayed before the load strand issues anything new (09 R229) -/
  replaying : Bool
  slotRun : Option SlotRun
  cstq : Option Replay
  tst : Option Replay
  deadlock : Nat
  wdog : Nat
  wdogLimit : Nat
  barGen : Nat
  /-- MODE.SETUP of F and of Clove (02 R58), and that it has been cleared while a bypass slot is still live -/
  setup : Bool
  leaving : Bool
  /-- the pre-emption of its gang has been requested and is held off by a live bypass value (02 R57) -/
  stopReq : Bool
  /-- the hint record that governs the address of its last page fault (04 R116) -/
  hint : Option Hint
  deriving DecidableEq, Repr

/-- A context of the given identity with every register at the value it has when an item becomes resident (09 R217),
before the launch record's own fields are put in. -/
def Ctx.fresh (id : Ident) : Ctx :=
  { id, l := Strand.reset, c := Strand.reset, s := Strand.reset, k := Strand.reset, comp := Compute.reset,
    q := Queues.reset, csr := Csrs.reset, trap := TrapRegs.reset, eng := Engines.reset, tsu := Tsu.reset,
    loads := [], holds := [], window := none, deque := [], dequeAt := (0, 0), fault := none, sqAt := Vector.replicate 2 none, replaying := false, slotRun := none,
    cstq := none, tst := none, 
    deadlock := 0, wdog := 0, wdogLimit := 0, barGen := 0, setup := false, leaving := false,
    stopReq := false, hint := none }

/-- Per-core registers (02 R54, 06 R153, 09 R221, R223, R224, 19 R390) and which bank issues (02 R46). -/
structure Core where
  issuing : CtxKind
  /-- the bank that is to issue once F holds no live bypass value (02 R57) -/
  next : Option CtxKind
  fwshare : BitVec 7
  leaselim : BitVec 7
  qdlimit : W32
  ageq : W16
  tlbAll : Bool
  tlbPasid : BitVec 20
  fSlots : Nat
  deriving DecidableEq, Repr

def Core.reset : Core :=
  { issuing := .A, next := none, fwshare := 8, leaselim := 8, qdlimit := 0x00100000, ageq := 0x64,
    tlbAll := false, tlbPasid := 0, fSlots := 0 }

/-- One slot of a scratch cache window (04 R96 to R99). -/
structure Slot where
  valid : Bool
  pasid : BitVec 20
  block : Nat
  pending : Bool
  ref : Bool
  dirty : Bool
  /-- an earlier block of the slot that is still to be written back before the fill (04 R98) -/
  victim : Option (BitVec 20 × Nat)
  /-- who probed, by task and item, and the PROBE's address -/
  prober : Nat × W32
  pc : W64
  deriving DecidableEq, Repr

def Slot.reset : Slot :=
  { valid := false, pasid := 0, block := 0, pending := false, ref := false, dirty := false, victim := none,
    prober := (0, 0), pc := 0 }

/-- A scale-cache entry (06 R158). -/
structure ScaleEntry where
  pasid : BitVec 20
  tid : W32
  addr : W64
  value : Byte
  deriving DecidableEq, Repr

/-- Cluster state (04 R92 to R99, 06 R152, R158). -/
structure Cluster where
  mem : Cells Byte
  poison : List Nat
  base : BitVec 6
  size : BitVec 2
  count : BitVec 11
  owner : BitVec 20
  hand : Nat
  /-- the clk of the last PROBE or SLOT.SET at the tag table, and the package core number it came from, one past all for a
  SLOT.SET (04 R98, 19 R375) -/
  tagAt : W64 × Nat
  slots : Cells Slot
  holder : Option (Nat × CtxKind)
  lastHolder : Nat
  issued : Nat
  /-- the number of the last grant, a resumed item's commands counting as one, and the number of the lease held last (06 R151) -/
  grants : Nat
  lease : Nat
  scales : List ScaleEntry
  deriving DecidableEq, Repr

def Cluster.reset : Cluster :=
  { mem := [], poison := [], base := 0, size := 0, count := 0, owner := 0, hand := 0, tagAt := (0, 0), slots := [], holder := none,
    lastHolder := 3, issued := 0, grants := 0, lease := 0, scales := [] }

/-- A ring of 32-byte log entries in memory (09 R235, 10 R238, R256). -/
structure RingReg where
  base : W64
  size : W64
  head : W64
  overflow : W64
  deriving DecidableEq, Repr

def RingReg.reset : RingReg := { base := 0, size := 0, head := 0, overflow := 0 }

/-- The thermal registers of a die and Clove's two counts (10 R260, R261). -/
structure Thermal where
  sens : Vector W16 16
  alert : W16
  hyst : W16
  crit : W16
  level : BitVec 3
  down : W16
  up : W16
  upCount : Nat
  downCount : Nat
  deriving DecidableEq, Repr

def Thermal.reset : Thermal :=
  { sens := Vector.replicate 16 0x8000, alert := 0x02F8, hyst := 0x0028, crit := 0x0348, level := 0, down := 0x0064,
    up := 0x000A, upCount := 0, downCount := 0 }

/-- A deferred add waiting at its home slice (05 R146): key (ITEM, strand index, n), the operand and its form. -/
structure PendingAdd where
  key : Nat
  /-- the layout of the leaf it came through: the home slice follows from it (04 R101) -/
  bank : Bool
  item : W32
  strand : Nat
  n : Nat
  value : W32
  bf16 : Bool
  deriving DecidableEq, Repr

/-- A cached queue control block (09 R211): the process, the queue and the block's address. -/
structure QcbEntry where
  pasid : Nat
  queue : Nat
  qcb : Nat
  deriving DecidableEq, Repr

/-- A task waiting in a die's launch queue or running (09 R214, R218, R219). Status fields follow the completion record. -/
structure Task where
  id : Nat
  die : Nat
  pasid : BitVec 20
  /-- the queue it came from and its control block; none for a device-side launch -/
  queue : Option (Nat × Nat)
  lrec : Vector W64 16
  /-- the route generation of every die at launch (09 R233) -/
  gens : List W32
  /-- the µs at which its next gang became a candidate (09 R220) -/
  since : Nat
  /-- gangs placed so far -/
  placed : Nat
  status : BitVec 8
  cause : BitVec 8
  item : W32
  tpc : W64
  dead : Bool
  done : Bool
  dumped : Bool
  deriving DecidableEq, Repr

/-- A barrier instance wider than a core (02 R50, R51). -/
structure Barrier where
  task : Nat
  gang : Nat
  scope : BarScope
  instance_ : Nat
  gen : Nat
  arrived : List Nat
  deriving DecidableEq, Repr

/-- The mailbox of a die (10 R264). -/
structure Mbox where
  req : W64
  nonce : List Byte
  rsp : W64
  bootErr : W64
  answer : List Byte
  deriving DecidableEq, Repr

def Mbox.reset : Mbox := { req := 0, nonce := [], rsp := 0, bootErr := 0, answer := [] }

/-- Boot state of a die (10 R262): stages verified, versions and the measurement. -/
structure Boot where
  stage : Nat
  failed : Bool
  cloveVersion : W32
  fVersion : W32
  meas : BitVec 512
  nonceCount : Nat
  deriving DecidableEq, Repr

/-- Both images are verified: the cores of the die have left reset (10 R262). -/
def Boot.ready (b : Boot) : Bool := !b.failed && b.stage == 2

def Boot.reset : Boot := { stage := 0, failed := false, cloveVersion := 0, fVersion := 0, meas := 0, nonceCount := 0 }

/-- Die state (09 R210 to R222, R233; 10 R256 to R264). -/
structure Die where
  qt1base : W64
  vring : RingReg
  ering : RingReg
  sridle : W32
  dumpBase : W64
  dumpCount : W64
  peerwin : Cells W64
  gen : W32
  tbase : W64
  pend : W64
  mbox : Mbox
  qcbs : List QcbEntry
  /-- the front end is gated: notifies wait in the latches; those beyond the 64th hold their port (09 R213) -/
  gated : Bool
  latches : List W64
  /-- notifies held on a queue fault (09 R211) -/
  held : List W64
  /-- the last served key of the dispatcher (09 R220) -/
  served : Nat × Nat
  tearing : List (BitVec 20)
  thermal : Thermal
  boot : Boot
  cloveMem : Cells Byte
  deriving DecidableEq, Repr

def Die.reset : Die :=
  { qt1base := 0, vring := RingReg.reset, ering := RingReg.reset, sridle := 10000, dumpBase := 0, dumpCount := 0,
    peerwin := [], gen := 0, tbase := 0, pend := 0, mbox := Mbox.reset, qcbs := [], gated := false, latches := [],
    held := [], served := (0, 0), tearing := [], thermal := Thermal.reset, boot := Boot.reset,
    cloveMem := [] }

/-- Whose accesses wait at a pseudo-channel (07 R178): a strand of a context, in a trap handler or not, an event of a unit, or the
home L2's write-back of a sector. -/
inductive Asker
  | strand (ctx : Nat × W32) (k : StrandId) (handler : Bool)
  | event (ctx : Nat × W32) (i : Instr)
  | writeBack (sector : Nat)
  deriving DecidableEq, Repr

/-- An ordinary request that waits at a pseudo-channel (07 R178): the clk of its arrival, and who waits for its service. -/
structure Request where
  at_ : Nat
  who : Option Asker
  deriving DecidableEq, Repr

/-- One pseudo-channel (07 R177, R178; 10 R241): the near-bank commands it has accepted, in order, named by context and
sequence number; the ordinary requests that wait, in their order; those whose requests have been served, with the clk of the last
service; that what is being done asks here and has to wait; and that its command is held by the row-read allowance. -/
structure Pch where
  accepted : List (Nat × W32 × W32)
  requests : List Request
  passed : List Asker
  servedAt : Nat
  asked : Bool
  allowance : Bool
  selfRefresh : Bool
  /-- the ns of its latest request or near-bank step -/
  last : Nat
  deriving DecidableEq, Repr

def Pch.reset : Pch :=
  { accepted := [], requests := [], passed := [], servedAt := 0, asked := false, allowance := false, selfRefresh := false, last := 0 }

/-- Whether the service of a pseudo-channel still lasts: one takes 14 ns, 24 clk (07 R178). -/
def Pch.serving (y : Pch) (cycle : Nat) : Bool := decide (cycle < y.servedAt + 24)

/-- Health of one DRAM row (10 R237 to R240). -/
structure RowHealth where
  score : Nat
  hot : Bool
  clean : Nat
  entered : Nat
  remaps : Nat
  deriving DecidableEq, Repr

def RowHealth.reset : RowHealth := { score := 0, hot := false, clean := 0, entered := 0, remaps := 0 }

/-- Stack state beside its bytes (04 R111 to R113, 07 R177, 10 R239 to R241). -/
structure Stack where
  stale : List Nat
  retired : Vector (Option Nat) 2
  pchs : Cells Pch
  /-- recent row reads of near-bank steps: time in ns and how many -/
  reads : List (Nat × Nat)
  rows : Cells RowHealth
  spares : Cells Nat
  deriving DecidableEq, Repr

def Stack.reset : Stack :=
  { stale := [], retired := Vector.replicate 2 none, pchs := [], reads := [], rows := [], spares := [] }

/-- A sector held by a home L2 slice (04 R101, 05 R129); a poisoned one may carry the lost mark (04 R113, 10 R244). -/
structure Sector where
  data : Vector Byte 32
  dirty : Bool
  poison : Bool
  lost : Bool
  bank : Bool
  deriving DecidableEq, Repr

/-- The caches that hold read copies (01 R15, 04 R101): the L1 and the instruction cache of a core, the RDC of a die. -/
inductive CopyIn | l1 | icache | rdc
  deriving DecidableEq, Repr

/-- A read copy of a 128-byte line, by the package number of its core or the number of its die, with the end of its lease in clk
(04 R101, 05 R122) and the sectors of it that an error has marked (10 R236). The copy's bytes are the home's: R119's order drops it
at the next write. -/
structure Copy where
  cache : CopyIn
  holder : Nat
  line : Nat
  expiry : Nat
  poison : BitVec 4
  deriving DecidableEq, Repr

/-- A cached translation (04 R114). `stream` names the TLB within its core: 0 the control strand's, then the streams. -/
structure TlbEntry where
  core : Nat
  stream : Nat
  pasid : BitVec 20
  vpage : Nat
  pages : Nat
  leaf : W64
  deriving DecidableEq, Repr

/-- The memory system of the package: DRAM, the home L2 slices, copies, translations and outside memory. DRAM bytes are
keyed by (stack × 2^36) + the offset a BANK page of the frame gives the byte (04 R108, R110). -/
structure Mem where
  dram : Cells Byte
  /-- poisoned sectors of DRAM, by sector number -/
  poison : List Nat
  /-- poisoned sectors that carry the lost mark (04 R113) -/
  lost : List Nat
  l2 : Cells (Option Sector)
  copies : List Copy
  tlb : List TlbEntry
  adds : List PendingAdd
  host : Cells Byte
  peer : Cells Byte
  /-- deferred adds to words of host and of peer memory (05 R146) -/
  hostAdds : List PendingAdd
  peerAdds : List PendingAdd
  /-- sectors that stand poisoned outside the package: the mark travels over the links (10 R236) -/
  hostPoison : List Nat
  peerPoison : List Nat
  deriving DecidableEq, Repr

def Mem.reset : Mem :=
  { dram := [], poison := [], lost := [], l2 := [], copies := [], tlb := [], adds := [], host := [], peer := [],
    hostAdds := [], peerAdds := [], hostPoison := [], peerPoison := [] }

/-- A host request that left a port and awaits its answer, and the answers given: link events (10 R257). -/
inductive LinkAnswer
  | data (bytes : List Byte) (error poison : Bool)
  | done (error : Bool)
  deriving DecidableEq, Repr

/-- A port: whether it is up, the answers it returned, newest first (10 R257), and its requests from a notify on that found every
latch of a gated front end taken (09 R213). -/
structure Port where
  up : Bool
  answers : List LinkAnswer
  waiting : List Instr
  deriving DecidableEq, Repr

def Port.reset : Port := { up := true, answers := [], waiting := [] }

/-- The three parts of the family (00 R1). -/
inductive Part | sl3240 | sl3240m | sl3216
  deriving DecidableEq, Repr

/-- How the instruction that is being executed ended: it completed, it blocked, it trapped at issue with a cause and an
address (`kind` is the KIND its violation is logged under, 0 for none), it met a fault after its issue (11 R268, R269), or a page fault for which it will be replayed (09 R228), or it waits after its issue. -/
inductive IssueEnd
  | completed
  | blocked (b : Block)
  | trapped (cause : BitVec 8) (addr : W64) (kind : Nat)
  | faulted
  | replayed
  /-- it has begun and waits for earlier members of its own bundle -/
  | waits (b : Block)
  deriving DecidableEq, Repr

/-- What the members of a bundle read, as it stood when the bundle issued (11 R268): the acting context, and the registers
that cores, clusters and dies hold (17 R329), with the clk of its issue. The model's own. -/
structure Snap where
  clk : W64
  ctx : Ctx
  cores : Cells Core
  clusters : Cells Cluster
  dies : Cells Die
  deriving DecidableEq, Repr

/-- The bundle being issued: the address of the member, the address after the bundle, the context as its members read it
(11 R268), a taken transfer, and how the member ended. The model's own. -/
structure Issue where
  pc : W64
  word : W32
  snap : Option Snap
  taken : Bool
  ended : IssueEnd
  deriving DecidableEq, Repr

def Issue.idle : Issue := { pc := 0, word := 0, snap := none, taken := false, ended := .completed }

/-- Where an uncorrectable error outside the DRAM marks a 32-byte sector (10 R236): the home L2, the RDC copy of a line in a die, a
scratchpad, a queue line or a physical tile row of the acting context, with the sector within the line or row. -/
inductive ErrorAt
  | l2 (sector : Nat)
  | rdc (die line sector : Nat)
  | scratch (cluster sector : Nat)
  | lq (q entry sector : Nat)
  | sq (q entry sector : Nat)
  | tile (phys row sector : Nat)
  deriving DecidableEq, Repr

/-- What reaches the machine beside the events of the opcode table: the front end of a die is gated (09 R213); an event is posted
to F of a core or to Clove of a die (18 R346); firmware of a core asks to migrate, replicate or move a page (04 R118); the home L2
evicts a sector, a cache drops a copy (05 R129, R131, R144); an uncorrectable error (10 R236). The model's own (log 7). -/
inductive Input
  | gate (die : Nat)
  | posted (clove : Bool) (n : Nat)
  | movePage (core : Nat) (pasid : BitVec 20) (va : W64)
  | evict (sector : Nat)
  | dropCopy (n : Nat)
  | error (place : ErrorAt)
  deriving DecidableEq, Repr

/-- Who acts next: a strand of the acting context issues a bundle, or an event or input takes place; `focus` first makes
the context of that place among `others` the acting one. The model's own (log 7). -/
inductive Agent
  | strand (s : StrandId)
  | event (i : Instr)
  | focus (n : Nat)
  /-- F of core `n`, or Clove of die `n`, becomes the acting context (made fresh when it is not listed) -/
  | firmware (clove : Bool) (n : Nat)
  | input (i : Input)
  deriving DecidableEq, Repr

/-- The whole machine. -/
structure State where
  part : Part
  cycle : W64
  /-- the acting context and strand -/
  ctx : Ctx
  strand : StrandId
  /-- every other context: other banks and cores, F, Clove, saved and ended items -/
  others : List Ctx
  cores : Cells Core
  clusters : Cells Cluster
  dies : Cells Die
  hbms : Cells Stack
  mem : Mem
  hostPorts : Vector Port 4
  peerPorts : Vector Port 32
  /-- die-to-die links that are down: a die and a hop code 0 to 3 (09 R232, R233) -/
  downLinks : List (Nat × Nat)
  tasks : List Task
  barriers : List Barrier
  /-- the number the next task gets; 0 names no task (the model's own) -/
  nextTask : Nat
  /-- what happens next, in order; when empty, the strands take turns (log 7) -/
  agenda : List Agent
  /-- the turn of the default schedule: contexts still to act in this clk -/
  round : Nat
  issue : Issue
  /-- whose accesses the step is making (07 R178; the model's own) -/
  asker : Option Asker
  /-- counter of values the manual leaves open (log 5) -/
  free : Nat
  deriving DecidableEq, Repr

/-- Why the machine stops. There is no reason: the manual gives every cause an effect (a trap, a page fault posted to
firmware, an error answer), so this type has no constructor and no step answers a fault. -/
inductive Fault
  deriving DecidableEq, Repr

/-- Why an instruction has no meaning. -/
inductive Refusal
  /-- Raised by an arm of `exec` for a row of the opcode table that has no meaning yet. Safe: nothing is claimed of it. -/
  | notModelled (mnemonic : String)
  deriving DecidableEq, Repr

/-- A context of core 0, bank A, that no item occupies. -/
def Ctx.vacant : Ctx :=
  Ctx.fresh { kind := .A, die := 0, core := 0, pasid := 0, item := 0, pers := false, det := false, task := 0, gang := 0,
              residency := .ended, since := 0, area := 0 }

/-- The machine right after reset: no item anywhere, every CYCLE counter zero (01 R23), capability registers of the
SL3240 (00 R5; RESET gives the other parts), memory with nothing listed. -/
def State.reset : State :=
  { part := .sl3240, cycle := 0, ctx := Ctx.vacant, strand := .L, others := [], cores := [], clusters := [], dies := [],
    hbms := [], mem := Mem.reset, hostPorts := Vector.replicate 4 Port.reset, peerPorts := Vector.replicate 32 Port.reset,
    downLinks := [], tasks := [], barriers := [], nextTask := 1, agenda := [], round := 0, issue := Issue.idle, asker := none, free := 0 }

end Sys2Proof.Machine
end

