-- ==== Sys2Proof/Machine/Cells.lean ====
section
/-! DEFINITION. Sparse tables in canonical form: keys strictly rising and no entry equal to what an unlisted key reads
as. Memory, registers of many units and their like are such tables. -/

namespace Sys2Proof.Machine

/-- The value at a key; `d` is what an unlisted key reads as. -/
def Cells.get {α : Type} (d : α) : Cells α → Nat → α
  | [], _ => d
  | (k, v) :: m, i => if k = i then v else Cells.get d m i

/-- Removes a key, wherever it stands. -/
def Cells.erase {α : Type} : Cells α → Nat → Cells α
  | [], _ => []
  | (k, v) :: m, i => if k = i then Cells.erase m i else (k, v) :: Cells.erase m i

/-- Lists a value at a key, in its place. -/
def Cells.insert {α : Type} : Cells α → Nat → α → Cells α
  | [], i, x => [(i, x)]
  | (k, v) :: m, i, x =>
    if i < k then (i, x) :: (k, v) :: m else if i = k then (i, x) :: m else (k, v) :: Cells.insert m i x

/-- Writes a key; writing what an unlisted key reads as removes the entry. -/
def Cells.set {α : Type} [DecidableEq α] (d : α) (m : Cells α) (i : Nat) (x : α) : Cells α :=
  if x = d then m.erase i else m.insert i x

/-- Every key of the table is above a bound, and the keys rise; no entry is the unlisted value. -/
def Cells.wfFrom {α : Type} [DecidableEq α] (d : α) : Option Nat → Cells α → Bool
  | _, [] => true
  | lo, (k, v) :: m => (match lo with | none => true | some b => decide (b < k)) && decide (v ≠ d) && Cells.wfFrom d (some k) m

/-- The canonical form. -/
def Cells.wf {α : Type} [DecidableEq α] (d : α) (m : Cells α) : Bool := Cells.wfFrom d none m

/-- Changes one element of a vector. -/
def vecMod {α : Type} {n : Nat} (v : Vector α n) (i : Nat) (f : α → α) : Vector α n :=
  match v[i]? with
  | some x => v.setIfInBounds i (f x)
  | none => v

/-- Membership in a sorted list of keys, used for marks (poison, stale stripes). -/
def Marks.mem (m : List Nat) (i : Nat) : Bool := m.contains i

/-- Adds a mark in its place. -/
def Marks.add : List Nat → Nat → List Nat
  | [], i => [i]
  | k :: m, i => if i < k then i :: k :: m else if i = k then k :: m else k :: Marks.add m i

/-- Removes a mark. -/
def Marks.del (m : List Nat) (i : Nat) : List Nat := m.filter (· ≠ i)

end Sys2Proof.Machine
end

