-- ==== Sys2Proof/Machine/Float.lean ====
section
/-! DEFINITION. Element types, exact values and the one rounding function (03 R59 to R72). A finite value is an exact
dyadic number; every operation is exact and is rounded once. -/

namespace Sys2Proof.Machine

/-- Element types with their 4-bit codes (03 R66). -/
inductive EType | i8 | n8 | i16 | n16 | i32 | n32 | fp16 | bf16 | fp32 | e4m3 | e5m2 | b4
  deriving DecidableEq, Repr

/-- The type of an ETYPE code; codes 12 to 15 are reserved (03 R66). -/
def EType.ofCode (c : BitVec 4) : Option EType :=
  match c.toNat with
  | 0 => some .i8 | 1 => some .n8 | 2 => some .i16 | 3 => some .n16 | 4 => some .i32 | 5 => some .n32
  | 6 => some .fp16 | 7 => some .bf16 | 8 => some .fp32 | 9 => some .e4m3 | 10 => some .e5m2 | 11 => some .b4
  | _ => none

/-- The code of a type (03 R66). -/
def EType.code : EType → BitVec 4
  | .i8 => 0 | .n8 => 1 | .i16 => 2 | .n16 => 3 | .i32 => 4 | .n32 => 5
  | .fp16 => 6 | .bf16 => 7 | .fp32 => 8 | .e4m3 => 9 | .e5m2 => 10 | .b4 => 11

/-- The width of a type's elements in bits (03 R60, R61, R64). -/
def EType.bits : EType → Nat
  | .i8 | .n8 | .e4m3 | .e5m2 => 8
  | .i16 | .n16 | .fp16 | .bf16 => 16
  | .i32 | .n32 | .fp32 => 32
  | .b4 => 4

def EType.isInt : EType → Bool
  | .i8 | .n8 | .i16 | .n16 | .i32 | .n32 => true
  | _ => false

def EType.isFloat : EType → Bool
  | .fp16 | .bf16 | .fp32 | .e4m3 | .e5m2 => true
  | _ => false

/-- Two's-complement integer types (03 R60). -/
def EType.signed : EType → Bool
  | .i8 | .i16 | .i32 => true
  | _ => false

/-- Rounding modes of FRM (03 R68). -/
inductive Rnd | rne | rtz | rup | rdn
  deriving DecidableEq, Repr

/-- The mode a FRM value selects (03 R68). -/
def Rnd.ofFrm (m : BitVec 2) : Rnd :=
  match m.toNat with
  | 0 => .rne | 1 => .rtz | 2 => .rup | _ => .rdn

/-- A floating-point format: exponent bits, fraction bits, bias, and whether its all-ones exponent holds infinities
(03 R61). -/
structure FFmt where
  eb : Nat
  fb : Nat
  bias : Int
  hasInf : Bool
  deriving DecidableEq, Repr

def FFmt.fp32 : FFmt := { eb := 8, fb := 23, bias := 127, hasInf := true }
def FFmt.fp16 : FFmt := { eb := 5, fb := 10, bias := 15, hasInf := true }
def FFmt.bf16 : FFmt := { eb := 8, fb := 7, bias := 127, hasInf := true }
def FFmt.e5m2 : FFmt := { eb := 5, fb := 2, bias := 15, hasInf := true }
def FFmt.e4m3 : FFmt := { eb := 4, fb := 3, bias := 7, hasInf := false }

/-- The format of a floating type; FP32 for the others, which no caller asks. -/
def EType.fmt : EType → FFmt
  | .fp16 => .fp16 | .bf16 => .bf16 | .e4m3 => .e4m3 | .e5m2 => .e5m2 | _ => .fp32

/-- The exact value of a number: NaN, an infinity, or (−1)^neg × m × 2^e with the sign of a zero kept. -/
inductive FVal
  | nan
  | inf (neg : Bool)
  | num (neg : Bool) (m : Nat) (e : Int)
  deriving DecidableEq, Repr

namespace FFmt

/-- Smallest exponent of a normal number. -/
def emin (f : FFmt) : Int := 1 - f.bias

/-- The exponent field of a bit pattern. -/
def expOf (f : FFmt) (b : Nat) : Nat := (b / 2 ^ f.fb) % 2 ^ f.eb

/-- The fraction field of a bit pattern. -/
def fracOf (f : FFmt) (b : Nat) : Nat := b % 2 ^ f.fb

/-- The sign of a bit pattern. -/
def negOf (f : FFmt) (b : Nat) : Bool := (b / 2 ^ (f.fb + f.eb)) % 2 == 1

/-- Bit pattern of a sign. -/
def signBit (f : FFmt) (neg : Bool) : Nat := if neg then 2 ^ (f.fb + f.eb) else 0

/-- The canonical NaN (03 R62). -/
def canonNaN (f : FFmt) : Nat :=
  if f.hasInf then (2 ^ f.eb - 1) * 2 ^ f.fb + 2 ^ (f.fb - 1) else 2 ^ (f.eb + f.fb) - 1

/-- The NaN a pair's low part takes when its high part overflows (03 R62, R77). -/
def pairNaN (f : FFmt) : Nat := f.canonNaN + 1

/-- The infinity of a sign, in a format that has infinities. -/
def infBits (f : FFmt) (neg : Bool) : Nat := f.signBit neg + (2 ^ f.eb - 1) * 2 ^ f.fb

/-- The largest finite value of a sign (03 R61). -/
def maxBits (f : FFmt) (neg : Bool) : Nat :=
  f.signBit neg + (if f.hasInf then (2 ^ f.eb - 1) * 2 ^ f.fb - 1 else 2 ^ (f.eb + f.fb) - 2)

/-- Whether a bit pattern is a subnormal number. -/
def isSub (f : FFmt) (b : Nat) : Bool := f.expOf b == 0 && f.fracOf b != 0

/-- The value of a bit pattern (03 R61). -/
def decode (f : FFmt) (b : Nat) : FVal :=
  let x := f.expOf b
  let fr := f.fracOf b
  let neg := f.negOf b
  if x == 0 then .num neg fr (f.emin - f.fb)
  else if x == 2 ^ f.eb - 1 && f.hasInf then (if fr == 0 then .inf neg else .nan)
  else if x == 2 ^ f.eb - 1 && fr == 2 ^ f.fb - 1 then .nan
  else .num neg (2 ^ f.fb + fr) ((x : Int) - f.bias - f.fb)

end FFmt

/-- Flags of FFLAGS (03 R71). -/
abbrev Fl := BitVec 7

namespace Fl
def nv : Fl := 0x01
def dz : Fl := 0x02
def of : Fl := 0x04
def uf : Fl := 0x08
def nx : Fl := 0x10
def pi : Fl := 0x20
def sat : Fl := 0x40
/-- A flag when a condition holds. -/
def when (c : Bool) (f : Fl) : Fl := if c then f else 0
end Fl

/-- m × 2^e at the grid 2^q, rounded under a mode for the given sign: the multiple of the grid, and whether it differs. -/
def roundGrid (mode : Rnd) (neg : Bool) (m : Nat) (e q : Int) : Nat × Bool :=
  if q ≤ e then (m * 2 ^ (e - q).toNat, false)
  else
    let s := (q - e).toNat
    let lo := m / 2 ^ s
    let rem := m % 2 ^ s
    let half := 2 ^ (s - 1)
    let up := match mode with
      | .rne => decide (rem > half) || (rem == half && lo % 2 == 1)
      | .rtz => false
      | .rup => !neg && rem != 0
      | .rdn => neg && rem != 0
    (if up then lo + 1 else lo, rem != 0)

/-- What a rounding gives: the bit pattern, and whether it was inexact, tiny or an overflow (03 R69, R72). -/
structure Rounded where
  bits : Nat
  inexact : Bool
  tiny : Bool
  ovf : Bool
  deriving DecidableEq, Repr

/-- The magnitude m × 2^e rounded to a format (03 R69); tininess is judged after rounding with an unbounded exponent
(R72). An overflow gives the value the mode names; a format without infinities gives its largest finite value. -/
def roundMag (f : FFmt) (mode : Rnd) (neg : Bool) (m : Nat) (e : Int) : Rounded :=
  if m = 0 then { bits := f.signBit neg, inexact := false, tiny := false, ovf := false }
  else
    let lead : Int := e + (Nat.log2 m : Int)
    let (n, ix) := roundGrid mode neg m e (lead - f.fb)
    let lead' : Int := if n ≥ 2 ^ (f.fb + 1) then lead + 1 else lead
    let n' := if n ≥ 2 ^ (f.fb + 1) then n / 2 else n
    let top : Int := (2 ^ f.eb - 1 : Nat) - f.bias
    let ovf := if f.hasInf then decide (lead' ≥ top)
      else decide (lead' > top) || (lead' == top && n' == 2 ^ (f.fb + 1) - 1)
    if ovf then
      let toInf := match mode with
        | .rne => true | .rtz => false | .rup => !neg | .rdn => neg
      { bits := if toInf && f.hasInf then f.infBits neg else f.maxBits neg, inexact := true, tiny := false, ovf := true }
    else if lead' < f.emin then
      let (r, ix') := roundGrid mode neg m e (f.emin - f.fb)
      { bits := f.signBit neg + r, inexact := ix', tiny := true, ovf := false }
    else if lead < f.emin then
      -- rounds up to the smallest normal number at its own precision
      let (r, ix') := roundGrid mode neg m e (f.emin - f.fb)
      { bits := f.signBit neg + r, inexact := ix', tiny := false, ovf := false }
    else
      { bits := f.signBit neg + (lead' + f.bias).toNat * 2 ^ f.fb + (n' - 2 ^ f.fb), inexact := ix, tiny := false,
        ovf := false }

/-- The flags of a rounding (03 R72). -/
def Rounded.flags (r : Rounded) : Fl :=
  Fl.when r.ovf Fl.of ||| Fl.when (r.tiny && r.inexact) Fl.uf ||| Fl.when r.inexact Fl.nx

/-- An exact value rounded to a format: bits and flags. An infinity in a format without infinities becomes the largest
finite value with OF and NX (20 R407); the conversions treat it before they come here. -/
def FVal.round (f : FFmt) (mode : Rnd) : FVal → Nat × Fl
  | .nan => (f.canonNaN, 0)
  | .inf neg => if f.hasInf then (f.infBits neg, 0) else (f.maxBits neg, Fl.of ||| Fl.nx)
  | .num neg m e => let r := roundMag f mode neg m e; (r.bits, r.flags)

/-- The signed integer significand of a finite value. -/
def signedM (neg : Bool) (m : Nat) : Int := if neg then -(m : Int) else m

/-- The exact sum; an exact zero sum of opposite signs is +0, or −0 under RDN (03 R69). Inf − Inf is a NaN. -/
def FVal.add (mode : Rnd) : FVal → FVal → FVal
  | .nan, _ => .nan
  | _, .nan => .nan
  | .inf a, .inf b => if a == b then .inf a else .nan
  | .inf a, _ => .inf a
  | _, .inf b => .inf b
  | .num na ma ea, .num nb mb eb =>
    let e := if ea ≤ eb then ea else eb
    let t := signedM na (ma * 2 ^ (ea - e).toNat) + signedM nb (mb * 2 ^ (eb - e).toNat)
    if t = 0 then .num (if na == nb then na else (match mode with | .rdn => true | _ => false)) 0 e
    else .num (decide (t < 0)) t.natAbs e

/-- The exact product; 0 × Inf is a NaN (03 R72). -/
def FVal.mul : FVal → FVal → FVal
  | .nan, _ => .nan
  | _, .nan => .nan
  | .inf a, .inf b => .inf (a != b)
  | .inf a, .num nb mb _ => if mb = 0 then .nan else .inf (a != nb)
  | .num na ma _, .inf b => if ma = 0 then .nan else .inf (na != b)
  | .num na ma ea, .num nb mb eb => .num (na != nb) (ma * mb) (ea + eb)

/-- The value with its sign inverted. -/
def FVal.neg : FVal → FVal
  | .nan => .nan
  | .inf a => .inf (!a)
  | .num a m e => .num (!a) m e

def FVal.isNaN : FVal → Bool
  | .nan => true
  | _ => false

def FVal.isInf : FVal → Bool
  | .inf _ => true
  | _ => false

def FVal.isZero : FVal → Bool
  | .num _ m _ => m == 0
  | _ => false

/-- +0. -/
def FVal.zero : FVal := .num false 0 0

/-- The order of two values that are no NaNs: −0 and +0 are equal here. -/
def FVal.lt (a b : FVal) : Bool :=
  match a, b with
  | .inf x, .inf y => x && !y
  | .inf x, .num _ _ _ => x
  | .num _ _ _, .inf y => !y
  | .num na ma ea, .num nb mb eb =>
    let e := if ea ≤ eb then ea else eb
    decide (signedM na (ma * 2 ^ (ea - e).toNat) < signedM nb (mb * 2 ^ (eb - e).toNat))
  | _, _ => false

/-- Equality of value, with −0 equal to +0; a NaN equals nothing. -/
def FVal.eqv (a b : FVal) : Bool :=
  match a, b with
  | .nan, _ => false
  | _, .nan => false
  | a, b => !FVal.lt a b && !FVal.lt b a

/-- NV when an operation makes a NaN of operands none of which is a NaN (03 R72). -/
def nvOf (inputsNaN : Bool) (r : FVal) : Fl := Fl.when (r.isNaN && !inputsNaN) Fl.nv

/-- The value of an integer element (03 R60). -/
def intOf (t : EType) (b : Nat) : Int :=
  let v := b % 2 ^ t.bits
  if t.signed && v ≥ 2 ^ (t.bits - 1) then (v : Int) - (2 ^ t.bits : Nat) else v

/-- The low bits of an exact integer at a type's width (03 R60). -/
def intBits (t : EType) (v : Int) : Nat := (v % ((2 ^ t.bits : Nat) : Int)).toNat

/-- The range of an integer type (03 R60). -/
def intRange (t : EType) : Int × Int :=
  if t.signed then (-((2 ^ (t.bits - 1) : Nat) : Int), ((2 ^ (t.bits - 1) : Nat) : Int) - 1)
  else (0, ((2 ^ t.bits : Nat) : Int) - 1)

/-- An exact integer clamped to a type's range: bits, and SAT when it clamped (03 R72, R75). -/
def clampInt (t : EType) (v : Int) : Nat × Fl :=
  let (lo, hi) := intRange t
  if v < lo then (intBits t lo, Fl.sat) else if v > hi then (intBits t hi, Fl.sat) else (intBits t v, 0)

/-- The exact value of an integer. -/
def FVal.ofInt (v : Int) : FVal := .num (decide (v < 0)) v.natAbs 0

/-- The value of an element of any type but B4 (03 R60, R61). -/
def elemVal (t : EType) (b : Nat) : FVal :=
  if t.isInt then FVal.ofInt (intOf t b) else t.fmt.decode (b % 2 ^ t.bits)

/-- A finite value rounded to an integer under a mode, and whether it differed. -/
def roundInt (mode : Rnd) (neg : Bool) (m : Nat) (e : Int) : Int × Bool :=
  let (n, ix) := roundGrid mode neg m e 0
  (signedM neg n, ix)

end Sys2Proof.Machine
end

