-- ==== Sys2Proof/Machine/Elem.lean ====
section
/-! DEFINITION. Element arithmetic of the tile instructions (03 R59 to R75; 20 R406 to R423): one function from
containers to a container and the flags it raises. -/

namespace Sys2Proof.Machine

/-- What an element-wise instruction works under: the type slot 0 grants, FRM and FTZ (03 R66, R68, R70). -/
structure ElemEnv where
  ty : EType
  rnd : Rnd
  ftz : Bool
  deriving DecidableEq, Repr

/-- The element of a container (03 R59). -/
def elemBits (t : EType) (c : W32) : Nat := c.toNat % 2 ^ t.bits

/-- A floating element as it is read: under FTZ a subnormal is zero with its sign (03 R70). -/
def flushIn (t : EType) (ftz : Bool) (b : Nat) : Nat :=
  if t.isFloat && ftz && t.fmt.isSub b then t.fmt.signBit (t.fmt.negOf b) else b

/-- A rounded floating result as it is written: under FTZ a subnormal becomes zero with UF and NX (03 R70, R72). -/
def flushOut (f : FFmt) (ftz : Bool) (r : Nat × Fl) : Nat × Fl :=
  if ftz && f.isSub r.1 then (f.signBit (f.negOf r.1), r.2 ||| Fl.uf ||| Fl.nx) else r

/-- The value of an element as an element-wise instruction reads it. -/
def ElemEnv.read (v : ElemEnv) (c : W32) : FVal := elemVal v.ty (flushIn v.ty v.ftz (elemBits v.ty c))

/-- A result in its container: the upper bits are zero (03 R59). -/
def container (r : Nat × Fl) : W32 × Fl := (BitVec.ofNat 32 r.1, r.2)

/-- A floating result rounded under FRM and flushed (03 R69, R70). -/
def ElemEnv.finish (v : ElemEnv) (nan : Bool) (r : FVal) : W32 × Fl :=
  let o := flushOut v.ty.fmt v.ftz (r.round v.ty.fmt v.rnd)
  container (o.1, o.2 ||| nvOf nan r)

/-- The same for a saturating form: a finite value that overflows gives the largest finite value with SAT and NX
(03 R75). -/
def ElemEnv.finishSat (v : ElemEnv) (nan : Bool) (r : FVal) : W32 × Fl :=
  match r with
  | .num neg m e =>
    let q := roundMag v.ty.fmt v.rnd neg m e
    if q.ovf then container (v.ty.fmt.maxBits neg, Fl.sat ||| Fl.nx) else v.finish nan r
  | _ => v.finish nan r

/-- An arithmetic instruction: its exact integer function and its exact floating function (20 R407). -/
def ElemEnv.arith (v : ElemEnv) (fi : Int → Int → Int → Int) (ff : FVal → FVal → FVal → FVal) (a b c : W32) : W32 × Fl :=
  if v.ty.isInt then
    container (intBits v.ty (fi (intOf v.ty a.toNat) (intOf v.ty b.toNat) (intOf v.ty c.toNat)), 0)
  else
    let x := v.read a
    let y := v.read b
    let z := v.read c
    v.finish (x.isNaN || y.isNaN || z.isNaN) (ff x y z)

/-- A saturating instruction (03 R75, 20 R408). -/
def ElemEnv.arithSat (v : ElemEnv) (fi : Int → Int → Int) (ff : FVal → FVal → FVal) (a b : W32) : W32 × Fl :=
  if v.ty.isInt then container (clampInt v.ty (fi (intOf v.ty a.toNat) (intOf v.ty b.toNat)))
  else
    let x := v.read a
    let y := v.read b
    v.finishSat (x.isNaN || y.isNaN) (ff x y)

/-- VADD (20 R407). -/
def ElemEnv.add (v : ElemEnv) (a b : W32) : W32 × Fl :=
  v.arith (fun x y _ => x + y) (fun x y _ => x.add v.rnd y) a b 0
/-- VSUB (20 R407). -/
def ElemEnv.sub (v : ElemEnv) (a b : W32) : W32 × Fl :=
  v.arith (fun x y _ => x - y) (fun x y _ => x.add v.rnd y.neg) a b 0
/-- VMUL (20 R407). -/
def ElemEnv.mul (v : ElemEnv) (a b : W32) : W32 × Fl :=
  v.arith (fun x y _ => x * y) (fun x y _ => x.mul y) a b 0
/-- VFMA: a · b + c rounded once (20 R407). -/
def ElemEnv.fma (v : ElemEnv) (a b c : W32) : W32 × Fl :=
  v.arith (fun x y z => x * y + z) (fun x y z => (x.mul y).add v.rnd z) a b c
/-- VADD.SAT. -/
def ElemEnv.addSat (v : ElemEnv) (a b : W32) : W32 × Fl := v.arithSat (· + ·) (fun x y => x.add v.rnd y) a b
/-- VSUB.SAT. -/
def ElemEnv.subSat (v : ElemEnv) (a b : W32) : W32 × Fl := v.arithSat (· - ·) (fun x y => x.add v.rnd y.neg) a b
/-- VMUL.SAT. -/
def ElemEnv.mulSat (v : ElemEnv) (a b : W32) : W32 × Fl := v.arithSat (· * ·) (fun x y => x.mul y) a b

/-- The sign of a value, that of a zero included. -/
def FVal.negative : FVal → Bool
  | .nan => false
  | .inf n => n
  | .num n _ _ => n

/-- The order of VMIN and VMAX: −0 lies below +0 (03 R63). -/
def FVal.below (a b : FVal) : Bool := a.lt b || (a.eqv b && a.negative && !b.negative)

/-- The smaller or larger of two elements of a type (03 R63, 20 R415); `ftz` is false for a reduction. -/
def pickElem (t : EType) (ftz least : Bool) (a b : W32) : W32 :=
  if t.isInt then
    let x := intOf t a.toNat
    let y := intOf t b.toNat
    let firstSmaller := decide (x ≤ y)
    BitVec.ofNat 32 (elemBits t (if firstSmaller == least then a else b))
  else
    let p := flushIn t ftz (elemBits t a)
    let q := flushIn t ftz (elemBits t b)
    let x := elemVal t p
    let y := elemVal t q
    if x.isNaN || y.isNaN then BitVec.ofNat 32 t.fmt.canonNaN
    else BitVec.ofNat 32 (if least then (if y.below x then q else p) else (if x.below y then q else p))

/-- VMIN (20 R415). -/
def ElemEnv.min (v : ElemEnv) (a b : W32) : W32 × Fl := (pickElem v.ty v.ftz true a b, 0)
/-- VMAX (20 R415). -/
def ElemEnv.max (v : ElemEnv) (a b : W32) : W32 × Fl := (pickElem v.ty v.ftz false a b, 0)

/-- A sign operation on a floating element (20 R406). -/
def ElemEnv.signOp (v : ElemEnv) (f : Bool → Bool) (c : W32) : W32 × Fl :=
  let b := flushIn v.ty v.ftz (elemBits v.ty c)
  if (elemVal v.ty b).isNaN then container (v.ty.fmt.canonNaN, 0)
  else container (v.ty.fmt.signBit (f (v.ty.fmt.negOf b)) + b % 2 ^ (v.ty.bits - 1), 0)

/-- VABS (20 R406). -/
def ElemEnv.abs (v : ElemEnv) (a : W32) : W32 × Fl :=
  if v.ty.isInt then container (intBits v.ty (intOf v.ty a.toNat).natAbs, 0) else v.signOp (fun _ => false) a
/-- VNEG (20 R406). -/
def ElemEnv.neg (v : ElemEnv) (a : W32) : W32 × Fl :=
  if v.ty.isInt then container (intBits v.ty (0 - intOf v.ty a.toNat), 0) else v.signOp (fun n => !n) a

/-- VCMP's comparison (20 R411): every condition but "not equal" is false for a NaN (03 R63). -/
def ElemEnv.compare (v : ElemEnv) (c : Cond) (a b : W32) : Bool :=
  let x := v.read a
  let y := v.read b
  let lt := !x.isNaN && !y.isNaN && x.lt y
  let gt := !x.isNaN && !y.isNaN && y.lt x
  let eq := x.eqv y
  match c with
  | .eq => eq
  | .ne => !eq
  | .lt => lt
  | .le => lt || eq
  | .gt => gt
  | .ge => gt || eq

/-- The container VSEL writes: unchanged, but a floating subnormal under FTZ is zero with its sign (20 R420). -/
def ElemEnv.selected (v : ElemEnv) (a : W32) : W32 × Fl :=
  let b := elemBits v.ty a
  let q := flushIn v.ty v.ftz b
  if q = b then (a, 0) else container (q, 0)

/-- An element converted to a type (03 R74, 20 R412). -/
def ElemEnv.convert (v : ElemEnv) (target : EType) (a : W32) : W32 × Fl :=
  let x := v.read a
  if target.isInt then
    match x with
    | .nan => (0, Fl.nv)
    | .inf neg => container (intBits target (if neg then (intRange target).1 else (intRange target).2), Fl.sat)
    | .num neg m e =>
      let r := roundInt v.rnd neg m e
      let k := clampInt target r.1
      container (k.1, if k.2 = 0 then Fl.when r.2 Fl.nx else k.2)
  else
    match target, x with
    | .e4m3, .inf neg => container (target.fmt.maxBits neg, Fl.sat)
    | .e4m3, .num neg m e =>
      let q := roundMag target.fmt v.rnd neg m e
      if q.ovf then container (target.fmt.maxBits neg, Fl.sat ||| Fl.nx)
      else container (flushOut target.fmt v.ftz (q.bits, q.flags))
    | _, x => container (flushOut target.fmt v.ftz (x.round target.fmt v.rnd))

/-- One lane of a shift (20 R423): `k` is read at the full lane width. -/
def shiftLane (w : Nat) (left arith : Bool) (x k : Nat) : Nat :=
  if left then (if k ≥ w then 0 else (x * 2 ^ k) % 2 ^ w)
  else if arith && x ≥ 2 ^ (w - 1) then (if k ≥ w then 2 ^ w - 1 else x / 2 ^ k + (2 ^ w - 2 ^ (w - k)))
  else if k ≥ w then 0 else x / 2 ^ k

/-- A container shifted lane by lane (20 R423). -/
def shiftContainer (t : EType) (left arith : Bool) (a b : W32) : W32 :=
  let w := t.bits
  BitVec.ofNat 32 ((List.range (32 / w)).foldl (fun acc i =>
    acc + shiftLane w left arith (a.toNat / 2 ^ (w * i) % 2 ^ w) (b.toNat / 2 ^ (w * i) % 2 ^ w) * 2 ^ (w * i)) 0)

/-- Round to nearest even in a format, with the value read back: the RN of the pair sequences, reductions and profiles,
which ignore FRM and FTZ (03 R69, R70). -/
def rn (f : FFmt) (x : FVal) : FVal × Fl := let r := x.round f .rne; (f.decode r.1, r.2)

/-- One node of a rounded sum with the flags of the plain operation (03 R72). -/
def rnAdd (f : FFmt) (x y : FVal) : FVal × Fl :=
  let s := x.add .rne y
  let r := rn f s
  (r.1, r.2 ||| nvOf (x.isNaN || y.isNaN) s)

/-- One level of a pairwise tree: every node is rounded, also a last one without a partner (03 R84, NP5). -/
def treeLevel (f : FFmt) : List FVal → List FVal × Fl
  | a :: b :: rest =>
    let s := rnAdd f a b
    let r := treeLevel f rest
    (s.1 :: r.1, s.2 ||| r.2)
  | [a] => let s := rn f a; ([s.1], s.2)
  | [] => ([], 0)

/-- The root of the NP5 tree over at most 64 leaves (03 R84). -/
def tree (f : FFmt) (leaves : List FVal) : FVal × Fl :=
  let r := (List.range 6).foldl (fun (p : List FVal × Fl) _ => let q := treeLevel f p.1; (q.1, p.2 ||| q.2)) (leaves, 0)
  (r.1.headD FVal.zero, r.2)

/-- A plain floating sum of elements in index order, profile 0 (03 R80). -/
def sumInOrder (f : FFmt) : List FVal → FVal × Fl
  | [] => (FVal.zero, 0)
  | x :: xs => xs.foldl (fun (p : FVal × Fl) y => let r := rnAdd f p.1 y; (r.1, p.2 ||| r.2)) (x, 0)

/-- The result bits of an exact value that needs no rounding any more. -/
def bitsOf (f : FFmt) (x : FVal) : Nat := (x.round f .rne).1

/-- VREDR.ADD and VREDC.ADD on one row or column (03 R80). -/
def reduceAdd (t : EType) (np5 : Bool) (xs : List W32) : W32 × Fl :=
  if t.isInt then container (intBits t (xs.foldl (fun s x => s + intOf t x.toNat) 0), 0)
  else
    let vs := xs.map (fun x => elemVal t (elemBits t x))
    let r := if np5 then tree t.fmt vs else sumInOrder t.fmt vs
    container (bitsOf t.fmt r.1, r.2)

/-- VREDR.MAX, VREDR.MIN and their column forms (03 R80, R63). -/
def reducePick (t : EType) (least : Bool) : List W32 → W32
  | [] => 0
  | x :: xs => xs.foldl (pickElem t false least) (pickElem t false least x x)

end Sys2Proof.Machine
end

