-- ==== Sys2Proof/Machine/Memory.lean ====
section
/-! DEFINITION. The bytes of the package: where a physical address lies in DRAM, the home L2 over it, poison marks, the
pending deferred adds, the scratchpads, and the memory of the host and of peers (04 R88 to R111, R431; 05 R129 to R132,
R146; 10 R236, R242). -/

namespace Sys2Proof.Machine

/-- A list of n bytes. -/
def bytesOfNat (n : Nat) (v : Nat) : List Byte := (List.range n).map (fun i => BitVec.ofNat 8 (v / 2 ^ (8 * i)))

/-- The number of a byte list, little-endian (05 R123). -/
def natOfBytes : List Byte → Nat
  | [] => 0
  | b :: bs => b.toNat + 256 * natOfBytes bs

/-- Dies and HBM hbms of a part (00 R1, R5). -/
def Part.dies : Part → Nat
  | .sl3216 => 16
  | _ => 32

/-- Bytes of a stack that exist (04 R90). -/
def stackBytes : Nat := 0xF00000000

/-- Whether bits 43:0 of a space-0 or space-1 address exist on a part (04 R90, 00 R10). -/
def hbmExists (p : Part) (a : Nat) : Bool :=
  a / 2 ^ 41 % 8 == 0 && decide (a / 2 ^ 36 % 32 < p.dies) && decide (a % 2 ^ 36 < stackBytes)

/-- The stack offset whose BANK layout holds the byte that an INTLV page puts at a stack offset (04 R108, R110). -/
def intlvOffset (off : Nat) : Nat :=
  let f := off / 65536
  let b := f % 16
  let ph := f / 16 % 4
  let j := f / 64 % 15
  let g := f / 64 / 15
  let a := (16 * j + b) * 65536 + off % 65536
  let n := a / 256
  let row := n / 240 / 4
  let col := 256 * (n / 240 % 4) + a % 256
  (((g * 15 + n % 15) * 4 + ph) * 16 + n / 15 % 16) * 65536 + row * 1024 + col

/-- The stack offset that an INTLV page puts at a BANK offset: the inverse of `intlvOffset`. -/
def intlvInverse (key : Nat) : Nat :=
  let f := key / 65536
  let b := f % 16
  let ph := f / 16 % 4
  let c := f / 64 % 15
  let g := f / 64 / 15
  let n := (key % 65536 / 1024 * 4 + key % 1024 / 256) * 240 + b * 15 + c
  let a := n * 256 + key % 256
  ((((g * 15 + a / 65536 / 16) * 4 + ph) * 16 + a / 65536 % 16) * 65536) + a % 65536

/-- The stack offset under which a leaf of a layout names a DRAM byte. -/
def stackOffset (bank : Bool) (key : Nat) : Nat := if bank then key % 2 ^ 36 else intlvInverse (key % 2 ^ 36)

/-- The home L2 slice of a line, within its stack (04 R101). -/
def sliceOf (bank : Bool) (key : Nat) : Nat := stackOffset bank key / 128 % 96

/-- The DRAM byte of a space-0 or space-1 address under a layout (log 9). -/
def dramKey (bank : Bool) (a : Nat) : Nat :=
  let off := a % 2 ^ 36
  a / 2 ^ 36 % 32 * 2 ^ 36 + (if bank then off else intlvOffset off)

/-- The sector of a DRAM byte (10 R236). -/
def sectorOf (key : Nat) : Nat := key / 32

/-- The home stack, and with it the home die, of a DRAM byte (04 R101). -/
def stackOf (key : Nat) : Nat := key / 2 ^ 36

/-- Bank, pseudo-channel 0 to 63, row of a bank, and stripe of a stack that hold a DRAM byte (04 R108, R111). -/
def bankOf (key : Nat) : Nat := key % 2 ^ 36 / 65536 % 16
def groupOf (key : Nat) : Nat := key % 2 ^ 36 / 65536 / 64 / 15
def rowOf (key : Nat) : Nat := 64 * groupOf key + key % 65536 / 1024
def parityAt (row : Nat) : Nat := row / 512 % 16
def pchOf (key : Nat) : Nat :=
  let f := key % 2 ^ 36 / 65536
  let j := f / 64 % 15
  2 * (16 * (f / 32 % 2) + (if j < parityAt (rowOf key) then j else j + 1)) + f / 16 % 2
def stripeOf (key : Nat) : Nat := (pchOf key / 32 * 32 + pchOf key % 2 * 16 + bankOf key) * 65536 + rowOf key

namespace Mem

/-- A sector of DRAM with its poison mark. -/
def dramSector (m : Mem) (s : Nat) (bank : Bool) : Sector :=
  { data := Vector.ofFn (fun i : Fin 32 => Cells.get 0 m.dram (32 * s + i.val)), dirty := false,
    poison := Marks.mem m.poison s, lost := Marks.mem m.poison s && Marks.mem m.lost s, bank }

/-- Writes bytes into DRAM from a key upwards. -/
def dramBytes (m : Mem) : Nat → List Byte → Mem
  | _, [] => m
  | k, b :: bs => dramBytes { m with dram := Cells.set 0 m.dram k b } (k + 1) bs

/-- Sets or clears the poison mark of a DRAM sector, with or without the lost mark (10 R242, R244). -/
def setPoison (m : Mem) (s : Nat) (p : Bool) (lost : Bool := false) : Mem :=
  if p then { m with poison := Marks.add m.poison s, lost := if lost then Marks.add m.lost s else Marks.del m.lost s }
  else { m with poison := Marks.del m.poison s, lost := Marks.del m.lost s }

/-- An uncorrectable error poisons a DRAM sector; a lost mark it carries stays (10 R236). -/
def markError (m : Mem) (s : Nat) : Mem := m.setPoison s true (Marks.mem m.poison s && Marks.mem m.lost s)

/-- Writes a whole sector to DRAM. -/
def dramPut (m : Mem) (s : Nat) (x : Sector) : Mem := (m.dramBytes (32 * s) x.data.toList).setPoison s x.poison x.lost

/-- The sector as the home L2 holds it, if it does. -/
def held (m : Mem) (s : Nat) : Option Sector := Cells.get none m.l2 s

/-- The sector as space 0 sees it (04 R101, R431). -/
def sector (m : Mem) (s : Nat) (bank : Bool) : Sector :=
  match m.held s with
  | some x => x
  | none => m.dramSector s bank

/-- Makes the home L2 hold a sector. -/
def hold (m : Mem) (s : Nat) (x : Sector) : Mem := { m with l2 := Cells.set none m.l2 s (some x) }

/-- Drops the L2 copy of a sector without writing it back. -/
def drop (m : Mem) (s : Nat) : Mem := { m with l2 := m.l2.erase s }

/-- Writes a dirty sector back to DRAM and keeps it clean (05 R129). -/
def writeBack (m : Mem) (s : Nat) : Mem :=
  match m.held s with
  | some x => if x.dirty then (m.dramPut s x).hold s { x with dirty := false } else m
  | none => m

/-- Drops every L1 and RDC copy of a 128-byte line (05 R129). -/
def dropCopies (m : Mem) (line : Nat) : Mem := { m with copies := m.copies.filter (fun c => c.line ≠ line) }

end Mem

/-- The bytes of a sector from an offset. -/
def Sector.slice (x : Sector) (o n : Nat) : List Byte := (x.data.toList.drop o).take n

/-- A sector with bytes replaced from an offset. -/
def Sector.patch (x : Sector) (o : Nat) (bs : List Byte) : Sector :=
  { x with data := Vector.ofFn (fun i : Fin 32 =>
      if o ≤ i.val ∧ i.val < o + bs.length then bs.getD (i.val - o) 0 else x.data[i.val]) }

/-- What a read returns: its bytes, and whether a sector of it was poisoned or carried the lost mark (10 R236, R244). -/
structure Got where
  data : List Byte
  poison : Bool
  lost : Bool
  deriving DecidableEq, Repr

namespace Mem

/-- A space-0 read inside one sector; `alloc` says whether the home L2 keeps a clean copy (04 R102, R431). -/
def read0 (m : Mem) (key n : Nat) (bank alloc : Bool) : Got × Mem :=
  let s := sectorOf key
  let x := m.sector s bank
  ({ data := x.slice (key % 32) n, poison := x.poison, lost := x.lost },
   if alloc && (m.held s).isNone then m.hold s x else m)

/-- A space-0 write inside one sector; with `alloc` the home L2 holds it dirty, without it the slice updates a copy it
holds and writes DRAM in the same operation (04 R431). Writing a whole sector clears its poison (10 R242); the caller has
refused a partial write of a poisoned sector; `poison` is the mark a whole sector takes, and makes a sector of which part is written poisoned. Every L1 and RDC copy of the line
is dropped. -/
def write0 (m : Mem) (key : Nat) (bs : List Byte) (bank alloc : Bool) (poison : Bool := false) : Mem :=
  let s := sectorOf key
  let whole := bs.length == 32
  let x := m.sector s bank
  let y := { x.patch (key % 32) bs with poison := if whole then poison else x.poison || poison, lost := !whole && x.lost }
  let m := m.dropCopies (key / 128)
  if alloc then m.hold s { y with dirty := true, bank }
  else
    let m1 := (m.dramBytes key bs)
    let m2 := if whole || poison then m1.setPoison s poison else m1
    match m.held s with
    | some _ => m2.hold s { y with dirty := x.dirty }
    | none => m2

/-- A direct read of DRAM inside one sector (05 R131). -/
def read1 (m : Mem) (key n : Nat) : Got :=
  let s := sectorOf key
  let x := m.dramSector s false
  { data := x.slice (key % 32) n, poison := x.poison, lost := x.lost }

/-- A direct write of DRAM inside one sector; `poison` is the mark a whole sector takes. -/
def write1 (m : Mem) (key : Nat) (bs : List Byte) (poison : Bool) : Mem :=
  let m1 := m.dramBytes key bs
  if bs.length == 32 || poison then m1.setPoison (sectorOf key) poison else m1

/-- Whether a sector is poisoned as space 0 or DRAM itself has it. -/
def poisoned (m : Mem) (key : Nat) (direct : Bool) : Bool :=
  if direct then Marks.mem m.poison (sectorOf key) else (m.sector (sectorOf key) false).poison

end Mem

/-- A floating add of an atomic on a 32-bit word: RNE, no flags, canonical NaNs (03 R87). -/
def faddWord (bf16 : Bool) (old b : W32) : W32 :=
  if bf16 then
    let half (lo : Nat) : Nat :=
      bitsOf .bf16 (rnAdd .bf16 (FFmt.bf16.decode (old.toNat / 2 ^ lo % 2 ^ 16)) (FFmt.bf16.decode (b.toNat / 2 ^ lo % 2 ^ 16))).1
    BitVec.ofNat 32 (half 0 + half 16 * 2 ^ 16)
  else BitVec.ofNat 32 (bitsOf .fp32 (rnAdd .fp32 (FFmt.fp32.decode old.toNat) (FFmt.fp32.decode b.toNat)).1)

/-- Whether a deferred add's key is the lesser (05 R146). -/
def PendingAdd.before (a b : PendingAdd) : Bool :=
  a.item.toNat < b.item.toNat || (a.item == b.item && (a.strand < b.strand || (a.strand == b.strand && a.n < b.n)))

/-- Inserts an add behind every add whose key is not greater: equal keys keep their logical order (05 R147). -/
def insertAdd (a : PendingAdd) : List PendingAdd → List PendingAdd
  | [] => [a]
  | b :: l => if a.before b then a :: b :: l else b :: insertAdd a l

/-- The adds of a list to a word in ascending key order, and the word with them applied (05 R146). -/
def sortedAdds (l : List PendingAdd) (word : Nat) : List PendingAdd := (l.filter (fun a => a.key == word)).foldl (fun l a => insertAdd a l) []
def applyAdds (old : W32) (l : List PendingAdd) : W32 := l.foldl (fun w a => faddWord a.bf16 w a.value) old

/-- The pending adds of a word in ascending key order. -/
def addsOf (m : Mem) (word : Nat) : List PendingAdd := sortedAdds m.adds word

/-- Folds the pending adds of one word into it (05 R146). The folded word stands dirty in the home L2, with the layout of the page
its adds came through, also where the access that folds it allocates nothing there (DESIGN CHOICE, log 79). -/
def foldWord (m : Mem) (word : Nat) : Mem :=
  match addsOf m word with
  | [] => m
  | l =>
    let old := BitVec.ofNat 32 (natOfBytes (m.read0 word 4 false false).1.data)
    let v := applyAdds old l
    { m.write0 word (bytesOfNat 4 v.toNat) (l.any (·.bank)) true with adds := m.adds.filter (fun a => a.key ≠ word) }

/-- Folds the adds of every word that an access of n bytes at a key touches (05 R146). -/
def foldAdds (m : Mem) (key n : Nat) : Mem :=
  if m.adds.isEmpty then m
  else (List.range ((key + n - 1) / 4 - key / 4 + 1)).foldl (fun m i => foldWord m (4 * (key / 4 + i))) m

/-- A line with pending adds is not evicted (05 R146). -/
def hasAdds (m : Mem) (s : Nat) : Bool := m.adds.any (fun a => a.key / 128 == s / 4)

/-- The target n bytes further, inside the same 256-byte block. -/
def Target.plus (t : Target) (n : Nat) : Target :=
  match t with
  | .scratch c o => .scratch c (o + n)
  | .hbm k b c d => .hbm (k + n) b c d
  | .host a => .host (a + n)
  | .peer d w a => .peer d w (a + n)
  | .regs d o => .regs d (o + n)
  | .priv d o => .priv d (o + n)

/-- Whether writes to the target are posted (05 R130). -/
def Target.posted : Target → Bool
  | .hbm _ _ _ true => true
  | .host _ => true
  | .peer .. => true
  | .regs _ _ => true
  | _ => false

/-- The cluster, die and package core number arithmetic: 4 cores a cluster, 16 clusters a die (01 R17). -/
def clusterOf (die core : Nat) : Nat := (die * 64 + core) / 4

namespace State

/-- The cluster, core, die and stack of a number. -/
def cluster (s : State) (c : Nat) : Cluster := Cells.get Cluster.reset s.clusters c
def setCluster (s : State) (c : Nat) (x : Cluster) : State := { s with clusters := Cells.set Cluster.reset s.clusters c x }
/-- Package core number of a context (01 R17). -/
def coreNo (i : Ident) : Nat := i.die * 64 + i.core
def core (s : State) (n : Nat) : Core := Cells.get Core.reset s.cores n
def setCore (s : State) (n : Nat) (x : Core) : State := { s with cores := Cells.set Core.reset s.cores n x }
def die (s : State) (d : Nat) : Die := Cells.get Die.reset s.dies d
def setDie (s : State) (d : Nat) (x : Die) : State := { s with dies := Cells.set Die.reset s.dies d x }
def stack (s : State) (k : Nat) : Stack := Cells.get Stack.reset s.hbms k
def setStack (s : State) (k : Nat) (x : Stack) : State := { s with hbms := Cells.set Stack.reset s.hbms k x }

/-- The µs and the ns since the end of reset: 1.7 clk a ns (01 R22). -/
def us (s : State) : Nat := s.cycle.toNat / 1700
def ns (s : State) : Nat := s.cycle.toNat * 10 / 17

/-- The pseudo-channel that holds a DRAM byte: after a channel's retirement its data stand in the former parity position (04
R108, R113). -/
def pchAt (s : State) (key : Nat) : Nat :=
  let q := pchOf key
  let moved := ((s.stack (stackOf key)).retired[q / 32]?).join.any (fun c => c == q / 2 % 16)
  if moved then 2 * (16 * (q / 32) + parityAt (rowOf key)) + q % 2 else q

/-- Whether a near-bank command runs on a pseudo-channel of a stack and keeps ordinary requests waiting (07 R177, R178): it stands
first wherever it has been accepted, and the row-read allowance does not hold it. -/
def occupied (x : Stack) (p : Nat) : Bool :=
  let y := Cells.get Pch.reset x.pchs p
  match y.accepted.head? with
  | none => false
  | some name => !y.allowance && x.pchs.all (fun q => !q.2.accepted.contains name || q.2.accepted.head? == some name)

/-- The name of a context: its task and item, or the core of F and the die of Clove. -/
def ctxName (i : Ident) : Nat × W32 :=
  match i.kind with
  | .F => (0, BitVec.ofNat 32 (2 * coreNo i))
  | .clove => (0, BitVec.ofNat 32 (2 * i.die + 1))
  | _ => (i.task + 1, i.item)

/-- Changes a pseudo-channel of a stack. -/
def modPch (s : State) (k p : Nat) (f : Pch → Pch) : State :=
  let x := s.stack k
  s.setStack k { x with pchs := Cells.set Pch.reset x.pchs p (f (Cells.get Pch.reset x.pchs p)) }

/-- An ordinary request reaches the pseudo-channel of a DRAM byte: it ends its self-refresh and restarts its idle time (10 R241). While
a near-bank command occupies it, who makes the access has to wait there for its service, unless it has been served (07 R178, 15 R304);
accesses that one event makes on the whole are only counted among the requests that wait (DESIGN CHOICE, log 89). -/
def noteRequest (s : State) (key : Nat) : State :=
  let k := stackOf key
  let p := s.pchAt key
  let busy := occupied (s.stack k) p
  s.modPch k p (fun y =>
    let y := { y with selfRefresh := false, last := s.ns }
    if !busy then y
    else match s.asker with
      | none => { y with requests := y.requests ++ [{ at_ := s.cycle.toNat, who := none }] }
      | some w => if y.passed.contains w && y.serving s.cycle.toNat then y else { y with asked := true })

/-- The same for an access that the home L2 does not answer. -/
def noteMiss (s : State) (key : Nat) (direct : Bool) : State :=
  if direct || (s.mem.held (sectorOf key)).isNone then s.noteRequest key else s

/-- The same for a write of n bytes that reaches DRAM: a direct or an uncached one, and a cached one that fills the rest of its sector
(04 R102, R431; 05 R131). -/
def noteWrite (s : State) (key n : Nat) (cache : Nat) (direct : Bool) : State :=
  if direct || decide (2 ≤ cache) || (n != 32 && (s.mem.held (sectorOf key)).isNone) then s.noteRequest key else s

/-- The pseudo-channels, by stack and number, that satisfy a condition. -/
def pchsWith (s : State) (f : Pch → Bool) : List (Nat × Nat) :=
  s.hbms.flatMap (fun e => (e.2.pchs.filter (fun p => f p.2)).map (fun p => (e.1, p.1)))

/-- A request waits in the queues of some pseudo-channels, once in each (07 R178). -/
def standIn (s : State) (w : Asker) (l : List (Nat × Nat)) : State :=
  l.foldl (fun (t : State) q => t.modPch q.1 q.2 (fun y =>
    if y.requests.any (fun r => r.who == some w) then y
    else { y with requests := y.requests ++ [{ at_ := s.cycle.toNat, who := some w }], selfRefresh := false, last := s.ns })) s

/-- Who has been served has made its accesses (07 R178). -/
def usePass (s : State) (w : Asker) : State :=
  (s.pchsWith (fun y => y.passed.contains w)).foldl (fun (t : State) q =>
    t.modPch q.1 q.2 (fun y => { y with passed := y.passed.erase w })) s

/-- How an action ends that began in a state: where its accesses meet an occupied pseudo-channel, nothing of it is done, its requests
wait there, and `held` says what else (07 R178, 15 R304). -/
def askEnd (s : State) (w : Asker) (held : State → State) (t : State) : State :=
  match t.pchsWith (·.asked) with
  | [] => { t with asker := none }.usePass w
  | l => held (s.standIn w l)

/-- One byte of a scratchpad (04 R92). -/
def scratchByte (s : State) (c o : Nat) : Byte := Cells.get 0 (s.cluster c).mem o

end State

/-- Writes bytes into a sparse memory from a key upwards. -/
def cellsPut (m : Cells Byte) : Nat → List Byte → Cells Byte
  | _, [] => m
  | k, b :: bs => cellsPut (Cells.set 0 m k b) (k + 1) bs

/-- Reads n bytes of a sparse memory. -/
def cellsGet (m : Cells Byte) (k n : Nat) : List Byte := (List.range n).map (fun i => Cells.get 0 m (k + i))

/-- Folds the deferred adds of the words that an access of n bytes of host or peer memory touches (05 R146; log 78). -/
def foldCells (adds : List PendingAdd) (k n : Nat) (c : Cells Byte) : Cells Byte :=
  (List.range ((k + n - 1) / 4 - k / 4 + 1)).foldl (fun c i =>
    let word := 4 * (k / 4 + i)
    match sortedAdds adds word with
    | [] => c
    | l => cellsPut c word (bytesOfNat 4 (applyAdds (BitVec.ofNat 32 (natOfBytes (cellsGet c word 4))) l).toNat)) c

/-- The adds that are left after it. -/
def unfolded (adds : List PendingAdd) (k n : Nat) : List PendingAdd :=
  adds.filter (fun a => decide (a.key / 4 < k / 4) || decide ((k + n - 1) / 4 < a.key / 4))

/-- Host and peer memory as an access of n bytes finds them. -/
def Mem.foldHost (m : Mem) (k n : Nat) : Mem :=
  if m.hostAdds.isEmpty then m else { m with host := foldCells m.hostAdds k n m.host, hostAdds := unfolded m.hostAdds k n }
def Mem.foldPeer (m : Mem) (k n : Nat) : Mem :=
  if m.peerAdds.isEmpty then m else { m with peer := foldCells m.peerAdds k n m.peer, peerAdds := unfolded m.peerAdds k n }

/-- Slots of an enabled scratch cache window: size of one, and the slot of an offset (04 R94). -/
def Cluster.slotBytes (c : Cluster) : Nat := 1024 * 2 ^ c.size.toNat
def Cluster.slotAt (c : Cluster) (o : Nat) : Option Nat :=
  let b := c.base.toNat * 65536
  if c.count = 0 ∨ o < b then none
  else let n := (o - b) / c.slotBytes; if n < c.count.toNat then some n else none

/-- Whether an access to scratchpad bytes [o, o + n) touches a slot whose fill is pending (04 R98). -/
def Cluster.pendingAt (c : Cluster) (o n : Nat) : Bool :=
  c.slots.any (fun x => x.2.pending &&
    decide (c.base.toNat * 65536 + x.1 * c.slotBytes < o + n) && decide (o < c.base.toNat * 65536 + (x.1 + 1) * c.slotBytes))

/-- Writes scratchpad bytes: a valid slot they lie in becomes dirty (04 R99), and a whole sector loses its poison
(10 R242). The bytes stay inside one sector. -/
def Cluster.put (c : Cluster) (o : Nat) (bs : List Byte) (poison : Bool) : Cluster :=
  let c1 := { c with mem := cellsPut c.mem o bs }
  let c2 := if bs.length == 32 || poison then
      { c1 with poison := if poison then Marks.add c1.poison (o / 32) else Marks.del c1.poison (o / 32) }
    else c1
  match c.slotAt o with
  | some n =>
    let x := Cells.get Slot.reset c2.slots n
    if x.valid then { c2 with slots := Cells.set Slot.reset c2.slots n { x with dirty := true } } else c2
  | none => c2

end Sys2Proof.Machine
end

