-- ==== Sys2Proof/Machine/Translate.lean ====
section
/-! DEFINITION. Virtual addresses: the page-table walk, its checks, the translation caches, and where a physical address
leads (04 R88 to R91, R102 to R107, R114, R115). -/

namespace Sys2Proof.Machine

/-- Who makes an access: package core, die, address space, kind of context, party (05 R120) and the TLB it uses
(04 R114): 0 the control strand's, 1 to 6 the queue streams', 7 the copy engine's, 8 and 9 the near-bank and graph front
ends'. -/
structure Req where
  core : Nat
  die : Nat
  pasid : BitVec 20
  kind : CtxKind
  party : Nat
  tlb : Nat
  deriving DecidableEq, Repr

/-- What a translation gives. -/
inductive Trans
  | leaf (e : W64) (vpage pages : Nat)
  | pageFault
  /-- Access-Violation, with the KIND it is logged under (09 R235) -/
  | violation (kind : Nat)
  deriving DecidableEq, Repr

/-- Bits hi down to lo of an entry, as n bits from lo. -/
def bitsAt (e : W64) (lo n : Nat) : Nat := e.toNat / 2 ^ lo % 2 ^ n

/-- Index bits, address bits below a level's page, and the size of a level's own table (04 R104). -/
def levelShift : Nat → Nat | 0 => 16 | 1 => 21 | 2 => 31 | _ => 43
def levelEntries : Nat → Nat | 0 => 32 | 1 => 1024 | _ => 4096

/-- Cores of a part (00 R5). -/
def Part.cores (p : Part) : Nat := 64 * p.dies

/-- EFMT codes a BANK page may carry (04 R107). -/
def bankFmtOk (e : Nat) : Bool := e == 0 || e == 1 || (decide (6 ≤ e) && decide (e ≤ 11))

/-- Whether a valid entry is malformed at its level (04 R105 to R107). CACHE 11 makes a leaf of every space malformed, as R107 lists it,
where R102 has the field ignored outside space 0 (DESIGN CHOICE, log 82). -/
def entryBad (p : Part) (level : Nat) (e : W64) : Bool :=
  if bitsAt e 1 1 = 1 then
    level == 3 || bitsAt e 59 4 != 0 || bitsAt e 5 2 == 3 || bitsAt e 13 2 == 3 ||
    (level == 2 && bitsAt e 16 15 != 0) || (level == 1 && bitsAt e 16 5 != 0) ||
    (bitsAt e 7 1 == 1 && (level != 0 || !bankFmtOk (bitsAt e 8 4))) ||
    (bitsAt e 5 2 == 0 && decide (p.cores ≤ bitsAt e 48 11))
  else
    level == 0 || bitsAt e 48 16 != 0 || bitsAt e 3 5 != 0 ||
    (let next := bitsAt e 8 40 * 256
     next % (8 * levelEntries (level - 1)) != 0 || next / 2 ^ 44 != 0 || !hbmExists p next)

/-- What a leaf allows a requester (04 R107, the rows below the walk). -/
def leafCheck (r : Req) (write : Bool) (e : W64) : Option Trans :=
  let region := bitsAt e 5 2
  let app := r.kind = .A ∨ r.kind = .B
  if bitsAt e 15 1 = 1 ∧ app then some (.violation 3)
  else if write ∧ region = 1 then some (.violation 2)
  else if region = 0 ∧ bitsAt e 48 11 ≠ r.core then some (.violation 1)
  else if write ∧ bitsAt e 4 1 = 0 ∧ region ≠ 1 then some .pageFault
  else none

/-- One table entry, read indivisibly through the home L2 (04 R107, R115); entries lie in space 0 (log 9). -/
def readEntry (m : Mem) (pa : Nat) : W64 := BitVec.ofNat 64 (natOfBytes (m.read0 (dramKey false pa) 8 false false).1.data)

/-- Sets bits of an entry by an atomic OR (04 R107). -/
def orEntry (m : Mem) (pa : Nat) (bits : Nat) : Mem :=
  let e := readEntry m pa
  let e' := e ||| BitVec.ofNat 64 bits
  if e' = e then m else m.write0 (dramKey false pa) (bytesOfNat 8 e'.toNat) false true

/-- The walk from a table at a level downwards: it sets A in every entry it passes, and D in the leaf of a permitted
write. `fuel` is the level plus one. -/
def walk (p : Part) (r : Req) (write : Bool) (va : Nat) : Nat → Nat → Mem → Trans × Mem
  | 0, _, m => (.violation 5, m)
  | level + 1, table, m =>
    let pa := table + 8 * (va / 2 ^ levelShift level % levelEntries level)
    let e := readEntry m pa
    if bitsAt e 0 1 = 0 then (.pageFault, m)
    else if entryBad p level e then (.violation 5, m)
    else if bitsAt e 1 1 = 1 then
      match leafCheck r write e with
      | some t => (t, m)
      | none =>
        (.leaf e (va / 2 ^ levelShift level) (2 ^ (levelShift level - 16)), orEntry m pa (if write then 0xC else 0x4))
    else walk p r write va level (bitsAt e 8 40 * 256) (orEntry m pa 0x4)

/-- The DRAM places of the entries that a walk reads, from a table at a level downwards (04 R115). -/
def walkPath (p : Part) (va : Nat) : Nat → Nat → Mem → List Nat
  | 0, _, _ => []
  | level + 1, table, m =>
    let pa := table + 8 * (va / 2 ^ levelShift level % levelEntries level)
    let e := readEntry m pa
    dramKey false pa ::
      (if bitsAt e 0 1 = 0 ∨ entryBad p level e ∨ bitsAt e 1 1 = 1 then []
       else walkPath p va level (bitsAt e 8 40 * 256) (orEntry m pa 0x4))

/-- The leaf that maps an address, whatever a requester may do there (04 R104 to R107); none where an entry is not valid or is malformed. -/
def leafAt (p : Part) (va : Nat) : Nat → Nat → Mem → Option W64
  | 0, _, _ => none
  | level + 1, table, m =>
    let e := readEntry m (table + 8 * (va / 2 ^ levelShift level % levelEntries level))
    if bitsAt e 0 1 = 0 ∨ entryBad p level e then none
    else if bitsAt e 1 1 = 1 then some e
    else leafAt p va level (bitsAt e 8 40 * 256) m

/-- Whether a table of the device stands at a physical address: in space 0, in a stack that the part has (00 R10, 04 R90). -/
def tableThere (p : Part) (pa : Nat) : Bool := pa / 2 ^ 44 == 0 && hbmExists p pa

/-- Where the process entry of an address space stands (09 R210). -/
def processAt (s : State) (die pasid : Nat) : Nat := bitsAt (s.die die).qt1base 5 43 * 32 + 32 * pasid

/-- The process entry of an address space in a die's QT1 (09 R210): none where the index is beyond the table, V = 0, or a
bit that must be zero is set, or the entry would stand in memory that the part does not have (00 R10). -/
def processEntry (s : State) (die : Nat) (pasid : Nat) : Option (W64 × W64) :=
  let q := s.die die |>.qt1base
  if bitsAt q 48 16 ≤ pasid ∨ tableThere s.part (processAt s die pasid) = false then none
  else
    let pa := processAt s die pasid
    let w0 := readEntry s.mem pa
    let w1 := readEntry s.mem (pa + 8)
    if bitsAt w0 0 1 = 0 ∨ bitsAt w0 60 4 ≠ 0 ∨ bitsAt w0 3 9 ≠ 0 ∨ bitsAt w1 48 16 ≠ 0 ∨ bitsAt w1 0 15 ≠ 0 then none
    else some (w0, w1)

/-- A cached translation that covers an address (04 R114). -/
def TlbEntry.covers (t : TlbEntry) (r : Req) (va : Nat) : Bool :=
  t.core == r.core && t.stream == r.tlb && t.pasid == r.pasid && decide (va / 65536 / t.pages = t.vpage)

/-- Entries of a TLB: 128 for the control strand's, four for a stream's (04 R114). -/
def tlbSize (t : Nat) : Nat := if t = 0 then 128 else 4

/-- Fills a TLB, dropping its oldest entry when it is full. -/
def tlbFill (m : Mem) (r : Req) (e : W64) (vpage pages : Nat) : Mem :=
  let own := m.tlb.filter (fun t => t.core == r.core && t.stream == r.tlb)
  let rest := if own.length < tlbSize r.tlb then m.tlb
    else match own with
      | o :: _ => m.tlb.erase o
      | [] => m.tlb
  { m with tlb := rest ++ [{ core := r.core, stream := r.tlb, pasid := r.pasid, vpage, pages, leaf := e }] }

/-- A cached translation that permits the access (04 R114): for a write, its leaf has D. -/
def tlbHit (m : Mem) (r : Req) (va : Nat) (write : Bool) : Option TlbEntry :=
  m.tlb.find? (fun t => t.covers r va && (leafCheck r write t.leaf).isNone && (!write || bitsAt t.leaf 3 1 == 1))

/-- The root table a process entry names (04 R104). -/
def rootOf (w1 : W64) : Nat := bitsAt w1 15 33 * 32768

/-- The walk from the root of a process entry (04 R104); a root in memory that the part does not have is an Access-Violation (00
R10). -/
def walkRoot (s : State) (r : Req) (va : Nat) (write : Bool) (w1 : W64) : Trans × Mem :=
  if tableThere s.part (rootOf w1) then walk s.part r write va 4 (rootOf w1) s.mem else (.violation 4, s.mem)

/-- The reads of a walk, its process entry first, are requests at their pseudo-channels where the home L2 does not answer them (04
R115, 07 R178, 10 R241). -/
def noteWalk (s : State) (r : Req) (va : Nat) (w1 : W64) : State :=
  (dramKey false (processAt s r.die r.pasid.toNat) ::
    (if tableThere s.part (rootOf w1) then walkPath s.part va 4 (rootOf w1) s.mem else [])).foldl
      (fun (t : State) k => t.noteMiss k false) s

/-- What a walk found: a leaf enters the TLB. -/
def walked (s : State) (r : Req) (write : Bool) (x : Trans × Mem) : Trans × State :=
  match x.1 with
  | .leaf e vp n => (x.1, { s with mem := tlbFill x.2 r (if write then e ||| 8 else e) vp n })
  | _ => (x.1, { s with mem := x.2 })

/-- The translation of an address (04 R107, R114): a cached one that permits the access stands; otherwise the walk
decides. A write whose cached leaf lacks D walks again, for the walker sets D. -/
def translate (s : State) (r : Req) (va : Nat) (write : Bool) : Trans × State :=
  match tlbHit s.mem r va write with
  | some t => (.leaf t.leaf t.vpage t.pages, s)
  | none =>
    match processEntry s r.die r.pasid.toNat with
    | none =>
      (if r.pasid.toNat < bitsAt (s.die r.die).qt1base 48 16 ∧ tableThere s.part (processAt s r.die r.pasid.toNat) = false
        then .violation 4 else .pageFault, s)
    | some e => walked (noteWalk s r va e.2) r write (walkRoot s r va write e.2)

/-- The leaf that maps an address of an address space in a die's tables. -/
def State.leafOf (s : State) (die pasid va : Nat) : Option W64 :=
  (processEntry s die pasid).bind (fun e => if tableThere s.part (rootOf e.2) then leafAt s.part va 4 (rootOf e.2) s.mem else none)

/-- Where an access goes, or the KIND of its violation, or a page fault. -/
inductive Found
  | at_ (t : Target) (leaf : W64)
  | pageFault
  | violation (kind : Nat)
  deriving DecidableEq, Repr

/-- Where a physical address leads (04 R89 to R91). `leaf` gives the layout and the CACHE code; `priv` says that the
requester may reach space 8. -/
def physical (s : State) (die : Nat) (priv : Bool) (pa : Nat) (leaf : W64) : Found :=
  let a := pa % 2 ^ 44
  match pa / 2 ^ 44 % 16 with
  | 0 => if hbmExists s.part a then
      .at_ (.hbm (dramKey (bitsAt leaf 7 1 == 1) a) (bitsAt leaf 7 1 == 1) (bitsAt leaf 13 2) false) leaf else .violation 4
  | 1 => if hbmExists s.part a then
      .at_ (.hbm (dramKey (bitsAt leaf 7 1 == 1) a) (bitsAt leaf 7 1 == 1) 2 true) leaf else .violation 4
  | 2 => .at_ (.host a) leaf
  | 3 => .at_ (.peer die (a / 2 ^ 36) (a % 2 ^ 36)) leaf
  | 8 => if priv ∧ a / 2 ^ 39 < s.part.dies then .at_ (.regs (a / 2 ^ 39) (a % 2 ^ 39)) leaf else .violation 4
  | _ => .violation 4

/-- Bit 54 set and bits 53:22 clear: a scratchpad address (04 R88). -/
def isScratch (va : W64) : Bool := va.toNat / 2 ^ 22 == 2 ^ 32

/-- The lowest scratchpad address (04 R88). -/
def scratchBase : W64 := 0x40000000000000

/-- Where an access of a context to a virtual address goes (04 R88). -/
def locate (s : State) (r : Req) (va : W64) (write : Bool) : Found × State :=
  if bitsAt va 55 9 ≠ 0 then (.violation 11, s)
  else if isScratch va then (.at_ (.scratch (r.core / 4) (va.toNat % 2 ^ 22)) 0, s)
  else
    let (t, s) := translate s r va.toNat write
    match t with
    | .pageFault => (.pageFault, s)
    | .violation k => (.violation k, s)
    | .leaf e _ n =>
      let size := n * 65536
      (physical s r.die (r.kind = .F) (bitsAt e 16 32 * 65536 + va.toNat % size) e, s)

/-- Where an address of Clove leads (10 R259). -/
def locateClove (s : State) (die : Nat) (va : W64) : Found :=
  if bitsAt va 63 1 = 1 then (if bitsAt va 19 44 = 0 then .at_ (.priv die (va.toNat % 2 ^ 19)) 0 else .violation 11)
  else if bitsAt va 48 15 ≠ 0 then .violation 11
  else physical s die true (va.toNat % 2 ^ 48) 0x2000

end Sys2Proof.Machine
end

