-- ==== Sys2Proof/Machine/Ops.lean ====
section
/-! DEFINITION. The named operations every meaning is built from: how an instruction stops, registers and their taint,
taking an exception and returning from it, the end of an item, the violation ring (01 R15; 02 R28, R46, R56; 08 R206;
09 R225 to R227, R235, R432, R433). -/

namespace Sys2Proof.Machine

/-- Trap causes (09; 00 R6). -/
inductive Cause
  | illegalInstruction | illegalStrand | illegalPair | unitAbsent | pageFault | accessViolation | footprintConflict
  | knobNumerics | queueDeadlock | misaligned | profileInvalid | poison | linkDown | softwareTrap | shapeInvalid | watchdog
  deriving DecidableEq, Repr

/-- The cause code of TRAPCAUSE. -/
def Cause.code : Cause → BitVec 8
  | .illegalInstruction => 0x01 | .illegalStrand => 0x02 | .illegalPair => 0x03 | .unitAbsent => 0x04
  | .pageFault => 0x05 | .accessViolation => 0x06 | .footprintConflict => 0x07 | .knobNumerics => 0x08
  | .queueDeadlock => 0x09 | .misaligned => 0x0A | .profileInvalid => 0x0B | .poison => 0x0C | .linkDown => 0x0D
  | .softwareTrap => 0x0E | .shapeInvalid => 0x0F | .watchdog => 0x10

/-- Why an instruction does not complete. -/
inductive Stop
  /-- it blocks: no effect on any state (02 R34) -/
  | block (b : Block)
  /-- a trap found at issue: no effect (11 R268) -/
  | trap (c : Cause) (addr : W64)
  /-- an Access-Violation found at issue, logged under a KIND (09 R235) -/
  | violation (kind : Nat) (addr : W64)
  /-- a fault in an access after issue: what was done stands -/
  | fault (c : Cause) (addr : W64)
  /-- a page fault: the instruction is replayed once it is answered (09 R228) -/
  | pageFault (addr : W64)
  /-- it waits after its issue for earlier members of its own bundle, or for what it has begun: what was done stands -/
  | wait (b : Block)
  deriving DecidableEq, Repr

/-- A meaning that may stop. -/
abbrev M := EStateM Stop State

/-- The strands of a context. -/
def Ctx.str (c : Ctx) : StrandId → Strand
  | .L => c.l
  | .C => c.c
  | .S => c.s
  | .K => c.k

/-- A context with one strand replaced. -/
def Ctx.setStr (c : Ctx) (k : StrandId) (x : Strand) : Ctx :=
  match k with
  | .L => { c with l := x }
  | .C => { c with c := x }
  | .S => { c with s := x }
  | .K => { c with k := x }

def Ctx.modStr (c : Ctx) (k : StrandId) (f : Strand → Strand) : Ctx := c.setStr k (f (c.str k))

/-- Whether all four strands have halted (02 R28). -/
def Ctx.allHalted (c : Ctx) : Bool := c.l.halted && c.c.halted && c.s.halted && c.k.halted

/-- A marked bundle that is discarded is killed (10 R247). -/
def Ctx.killMark (c : Ctx) (st : StrandId) (pc : W64) : Ctx :=
  { c with csr := { c.csr with samp := { c.csr.samp with
      marked := c.csr.samp.marked.map (fun m => if m.1 = st ∧ m.2.1 = pc then (m.1, m.2.1, m.2.2.1, true) else m) } } }

/-- What is left of a bundle is discarded: it is killed where it is marked (10 R247), and commands whose cards it has not read yet never
come to be. -/
def Ctx.dropHeld (c : Ctx) (st : StrandId) (h : Option Held) : Ctx :=
  match h with
  | none => c
  | some h => ({ c with eng := { c.eng with cmds := c.eng.cmds.filter (fun m => !(m.unread && m.strand == st)) } }).killMark st h.start

/-- A context whose item has ended: its queues, its tile loads and what its bundles still had to do are gone (02 R28). -/
def Ctx.ended (c : Ctx) : Ctx :=
  let f (p : Strand) : Strand := { p with held := none, qstats := [] }
  let c := ([StrandId.L, .C, .S, .K].foldl (fun (c : Ctx) k => c.dropHeld k (c.str k).held) c).dropHeld .K c.trap.kHeld
  { c with id := { c.id with residency := .ended }, loads := [], replaying := false, slotRun := none, stopReq := false,
           l := f c.l, c := f c.c, s := f c.s, k := f c.k, eng := { c.eng with deferred := [] },
           trap := { c.trap with kHeld := none },
           q := { Queues.reset with mqMap := c.q.mqMap, tfMap := c.q.tfMap } }

/-- Whether a context runs an application's item. -/
def CtxKind.isApp (k : CtxKind) : Bool := k = .A ∨ k = .B

namespace State

/-- The context as the members of the bundle read it: as it stood when the bundle issued (02 R55, 11 R268). -/
def rd (s : State) : Ctx := match s.issue.snap with | some p => p.ctx | none => s.ctx
/-- The registers of a core, a cluster and a die as the members of the bundle read them. -/
def rdCore (s : State) : Core := match s.issue.snap with | some p => Cells.get Core.reset p.cores (coreNo s.ctx.id) | none => s.core (coreNo s.ctx.id)
def rdCluster (s : State) : Cluster :=
  match s.issue.snap with | some p => Cells.get Cluster.reset p.clusters (coreNo s.ctx.id / 4) | none => s.cluster (coreNo s.ctx.id / 4)
def rdDie (s : State) : Die := match s.issue.snap with | some p => Cells.get Die.reset p.dies s.ctx.id.die | none => s.die s.ctx.id.die
/-- The clk in which the bundle of the members issued. -/
def rdClk (s : State) : W64 := match s.issue.snap with | some p => p.clk | none => s.cycle
/-- What stood before the bundle of the members issued. -/
def atIssue (s : State) : State := match s.issue.snap with | some p => { s with ctx := p.ctx, clusters := p.clusters } | none => s
/-- The acting strand as it is read. -/
def me (s : State) : Strand := s.rd.str s.strand
def modCtx (s : State) (f : Ctx → Ctx) : State := { s with ctx := f s.ctx }
/-- Changes the acting strand. -/
def modMe (s : State) (f : Strand → Strand) : State := { s with ctx := s.ctx.modStr s.strand f }
/-- The package core number of the acting context. -/
def here (s : State) : Nat := coreNo s.ctx.id
/-- The cluster of the acting context. -/
def hereCluster (s : State) : Nat := s.here / 4
/-- The core registers of the acting context. -/
def hereCore (s : State) : Core := s.core s.here
def hereDie (s : State) : Die := s.die s.ctx.id.die

/-- Changes made by a context among the others, as if it were the acting one. -/
def inOther (s : State) (n : Nat) (f : State → State) : State :=
  match s.others[n]? with
  | none => s
  | some c =>
    let t := f { s with ctx := c, others := s.others.set n s.ctx }
    { t with ctx := t.others.getD n t.ctx, others := t.others.set n t.ctx }

/-- Changes made by the first context that satisfies a condition, the acting one first. -/
def inCtx (s : State) (p : Ctx → Bool) (f : State → State) : State :=
  if p s.ctx then f s
  else match s.others.findIdx? p with
    | some n => s.inOther n f
    | none => s

/-- Whether a context is F of a core, by its package number, or Clove of a die. -/
def isFirmware (clove : Bool) (n : Nat) (c : Ctx) : Bool :=
  if clove then decide (c.id.kind = .clove) && decide (c.id.die = n) else decide (c.id.kind = .F) && decide (coreNo c.id = n)

/-- An event is posted to firmware contexts: a program that HALT or WAIT 0 has suspended goes on (18 R346, 20 R425). One that a
trap without a handler suspended does not (log 12). -/
def wakeAll (s : State) (p : Ctx → Bool) : State :=
  let f (c : Ctx) : Ctx := if p c && !c.l.halted then { c with k := { c.k with halted := false } } else c
  { s with ctx := f s.ctx, others := s.others.map f }

/-- An event is posted to F of a core, or to Clove of a die (log 77). -/
def wake (s : State) (clove : Bool) (n : Nat) : State := s.wakeAll (isFirmware clove n)

/-- Whether a strand holds a live bypass value (02 R57). -/
def bypassLive (s : State) (p : Strand) : Bool :=
  p.bypass.any (fun b => b.live && decide (s.cycle.toNat ≤ b.writtenAt + 3))

/-- Whether F of a core holds a live bypass value: pre-emption and context switches of the core are held off (02 R57). -/
def coreHeld (s : State) (n : Nat) : Bool := (s.ctx :: s.others).any (fun c => isFirmware false n c && s.bypassLive c.k)

/-- Whether a register number names a bypass slot: 28 to 31 while the start-up mode of F or Clove is in force (02 R56). -/
def bypassed (s : State) (r : Reg) : Bool := (s.rd.setup || s.rd.leaving) && decide (28 ≤ r.toNat)

/-- A bypass slot as a read sees it: its value for the three clk after the write, then zero (02 R56). -/
def bypassValue (s : State) (r : Reg) : W64 :=
  let b := s.me.bypass.getD (r.toNat - 28) { value := 0, live := false, writtenAt := 0 }
  if b.live ∧ s.rdClk.toNat ≤ b.writtenAt + 3 then b.value else 0

/-- Reads a scalar register of the acting strand: X0 is zero (17 R309). -/
def getX (s : State) (r : Reg) : W64 :=
  if r = 0 then 0 else if s.bypassed r then s.bypassValue r else s.me.x.getD r.toNat 0

/-- Whether a register carries the taint of a knob (08 R206). -/
def tainted (s : State) (r : Reg) : Bool := decide (r ≠ 0) && !s.bypassed r && s.me.taint.getD r.toNat false

/-- Writes a scalar register with its taint; a write to X0 is discarded (17 R309), a bypass slot keeps no taint. -/
def setX (s : State) (r : Reg) (v : W64) (t : Bool := false) : State :=
  if r = 0 then s
  else if s.bypassed r then
    s.modMe (fun p => { p with bypass := p.bypass.setIfInBounds (r.toNat - 28) { value := v, live := true, writtenAt := s.cycle.toNat } })
  else s.modMe (fun p => { p with x := p.x.setIfInBounds r.toNat v, taint := p.taint.setIfInBounds r.toNat t })

/-- The status of a task takes its first terminated item (09 R218, R226 step 4). -/
def noteTask (s : State) (task : Nat) (status cause : BitVec 8) (item : W32) (pc : W64) : State :=
  { s with tasks := s.tasks.map (fun (t : Task) =>
      if t.id = task ∧ t.status = 0 then { t with status, cause, item, tpc := pc } else t) }

/-- The other bank of the acting context's core, if it holds a resident item that awaits no fault (02 R46). -/
def otherReady (s : State) : Option CtxKind :=
  (s.others.find? (fun c => coreNo c.id == s.here && c.id.kind.isApp && c.id.kind != s.ctx.id.kind &&
    c.id.residency == .resident && c.fault.isNone)).map (·.id.kind)

/-- Takes the matrix-array lease from a bank: it lapses (06 R152). -/
def lapseLease (s : State) (core : Nat) (kind : CtxKind) : State :=
  let c := s.cluster (core / 4)
  if c.holder = some (core % 4, kind) then
    s.setCluster (core / 4) { c with holder := none, lastHolder := core % 4, issued := 0 }
  else s

/-- Makes a bank of a core the issuing one: the old bank's lease lapses (06 R152). A live bypass value of F holds the switch off
(02 R57). -/
def issueFrom (s : State) (n : Nat) (k : CtxKind) : State :=
  let c := s.core n
  if s.coreHeld n then s.setCore n { c with next := some k }
  else if c.issuing = k then s.setCore n { c with next := none }
  else
    let t := s.lapseLease n c.issuing
    t.setCore n { t.core n with issuing := k, next := none }

/-- Makes a bank of the acting core the issuing one (02 R46). -/
def switchBank (s : State) (k : CtxKind) : State := s.issueFrom s.here k

/-- A bank's item is removed or ends (02 R46): its lease lapses, and the other bank issues if it holds a resident item. -/
def bankGone (s : State) (n : Nat) (k : CtxKind) : State :=
  let s1 := s.lapseLease n k
  match (s1.ctx :: s1.others).find? (fun x => coreNo x.id == n && x.id.kind.isApp && x.id.kind != k && x.id.residency == .resident) with
  | some x => if (s1.core n).issuing = k then s1.issueFrom n x.id.kind else s1
  | none => s1

/-- The causes that were still to be raised on a context that ends are recorded for its task (09 R433). -/
def recordDeferred (s : State) : State :=
  s.ctx.eng.deferred.foldl (fun (t : State) d => t.noteTask s.ctx.id.task 1 d.cause s.ctx.id.item d.pc) s

/-- The acting context's item ends (02 R28, R46): its queues and what its bundles still had to do are discarded, a cause
that was still to be raised is recorded (09 R433), and the other bank issues if it holds an item. The matrix array's lease lapses
also where the core has no other item to switch to, a case 06 R152 does not name (DESIGN CHOICE, log 76). F and Clove have no
item: they are suspended (18 R346). -/
def endItem (s : State) : State :=
  if s.ctx.id.kind.isApp ∧ s.ctx.id.residency ≠ .ended then
    let t := s.recordDeferred.modCtx Ctx.ended
    if s.ctx.id.residency = .saved then t else t.bankGone t.here t.ctx.id.kind
  else s

/-- Halts every strand: the end of a terminated item (09 R226 step 4). -/
def haltAll (s : State) : State :=
  s.modCtx (fun c => { c with l := { c.l with halted := true }, c := { c.c with halted := true },
                              s := { c.s with halted := true }, k := { c.k with halted := true } })

/-- Every WAIT of the bank completes when the bank is stopped (20 R426), and blocked strands are undone (02 R34). -/
def completeWaits (s : State) : State :=
  let f (p : Strand) : Strand := { p with waitUntil := none, blocked := none }
  s.modCtx (fun c => { c with l := f c.l, c := f c.c, s := f c.s, k := f c.k, slotRun := none })

/-- TAKING AN EXCEPTION (09 R225, R226, R432): the trap registers are written; then the handler starts on the control
strand, or the item is terminated. TRAPRPC receives the control strand's next bundle address, but a precise trap of the
control strand other than Software-Trap leaves TRAPPC there. Firmware that has no handler is suspended (log 12). -/
def takeTrap (s : State) (cause : BitVec 8) (addr pc : W64) (strand : StrandId) (defer : Bool) : State :=
  let c := s.ctx
  let rpc := if strand = .K ∧ defer = false ∧ cause ≠ Cause.softwareTrap.code then pc else c.k.pc
  let run := c.trap.vec ≠ 0 ∧ c.trap.active = false ∧ cause ≠ Cause.watchdog.code
  let regs := { c.trap with active := c.trap.active || decide run, defer, strand, cause, addr, pc, rpc }
  let s1 := (s.modCtx (fun c => { c with trap := regs })).completeWaits
  if run then
    s1.modCtx (fun c => { c with
      trap := { c.trap with kHalted := c.k.halted, kWait := c.k.barWait, kHeld := c.k.held },
      k := { c.k with pc := c.trap.vec, halted := false, barWait := none, held := none } })
  else if c.id.kind.isApp then ((s1.haltAll).noteTask c.id.task 1 cause c.id.item pc).endItem
  else s1.haltAll

/-- Whether what is left of a bundle begins with the member at an address. -/
def heldAt (h : Option Held) (pc : W64) : Bool := h.any (fun h => h.rest.head?.any (fun m => m.1 == pc))

/-- RETURNING FROM AN EXCEPTION (09 R227, R432): ACTIVE is cleared, the control strand goes on at TRAPRPC or is halted
again, and the strand of a precise trap goes on at TRAPPC; a Software-Trap, and a tile load that left a marker, go on after
their bundle. A bundle that the trap found issued goes on at the member that trapped, its other members being done (log 41); where the
handler has moved the strand elsewhere, what is left of it is discarded. -/
def returnTrap (s : State) : State :=
  let t := s.ctx.trap
  let marked := t.strand = .L ∧ s.ctx.loads.any (fun l => l.pc == t.pc)
  let precise := t.defer = false ∧ t.cause ≠ Cause.softwareTrap.code
  let back := t.strand ≠ .K ∧ precise ∧ ¬marked
  let kGone := t.strand = .K ∧ precise ∧ heldAt t.kHeld t.rpc = false
  let s1 := (s.modCtx (fun c => if kGone then c.dropHeld .K t.kHeld else c)).modCtx (fun c => { c with
    trap := { c.trap with active := false, kHalted := false, kWait := none, kHeld := none },
    k := { c.k with pc := if t.strand = .K ∧ precise then (match t.kHeld with | some h => if kGone then t.rpc else h.next | none => t.rpc) else t.rpc,
                    halted := t.kHalted, barWait := t.kWait, held := if kGone then none else t.kHeld } })
  let keep (r : Option Replay) : Option Replay := r.filter (fun r => t.strand ≠ .S || t.defer || (back && r.pc == t.pc))
  let s2 := s1.modCtx (fun c => { c with tst := keep c.tst, cstq := keep c.cstq })
  if back ∧ heldAt (s.ctx.str t.strand).held t.pc = false then
    s2.modCtx (fun c => (c.dropHeld t.strand (c.str t.strand).held).modStr t.strand (fun p => { p with pc := t.pc, held := none }))
  else s2

/-- What follows once a strand has halted, or once a handler has returned to halted strands: a cause that waits for the boundary of a
strand that has halted is raised (09 R433), and an item whose strands have all halted ends (02 R28, 09 R432). -/
def afterHalts (s : State) : State :=
  if s.ctx.trap.active then s
  else match s.ctx.eng.deferred.find? (fun d => (s.ctx.str d.strand).halted) with
    | some d => (s.modCtx (fun c => { c with eng := { c.eng with deferred := c.eng.deferred.erase d } })).takeTrap d.cause d.addr d.pc d.strand true
    | none => if s.ctx.allHalted then s.endItem else s

/-- A cause raised after the retirement of a command or a posted write (09 R433): it waits for the issuing strand's bundle
boundary; a halted strand takes it at once, and an ended item's task records it. -/
def raiseDeferred (s : State) (d : DeferredCause) : State :=
  if s.ctx.id.residency = .ended then s.noteTask s.ctx.id.task 1 d.cause s.ctx.id.item d.pc
  else if (s.ctx.str d.strand).halted then s.takeTrap d.cause d.addr d.pc d.strand true
  else s.modCtx (fun c => { c with eng := { c.eng with deferred := c.eng.deferred ++ [d] } })

/-- Appends an entry to a ring of 32-byte entries in memory (09 R235, 10 R238, log 10). -/
def ringPut (s : State) (r : RingReg) (entry : List W64) : RingReg × State :=
  let n := r.size.toNat
  if n = 0 then ({ r with overflow := r.overflow + 1 }, s)
  else
    let pa := r.base.toNat % 2 ^ 48 + 32 * (r.head.toNat % n)
    let ovf := decide (n ≤ r.head.toNat)
    let bytes := entry.flatMap (fun w => bytesOfNat 8 w.toNat)
    let m := if pa / 2 ^ 44 = 0 ∧ hbmExists s.part pa then s.mem.write0 (dramKey false pa) bytes false false else s.mem
    ({ r with head := r.head + 1, overflow := if ovf then r.overflow + 1 else r.overflow }, { s with mem := m })

/-- Logs a violation in a die's ring (09 R235). -/
def logViolation (s : State) (die kind : Nat) (addr : W64) (pasid : BitVec 20) (party : Nat) : State :=
  let w1 : W64 := BitVec.ofNat 64 (pasid.toNat * 2 ^ 36 + party * 2 ^ 16 + die * 2 ^ 8 + kind)
  let (r, s1) := s.ringPut (s.die die).vring [addr, w1, s.cycle, 0]
  s1.setDie die { s1.die die with vring := r }

/-- Logs a DRAM event in a die's error ring (10 R238). -/
def logError (s : State) (die kind : Nat) (addr : W64) : State :=
  let w1 : W64 := BitVec.ofNat 64 (die * 2 ^ 8 + kind)
  let (r, s1) := s.ringPut (s.die die).ering [addr, w1, s.cycle, 0]
  s1.setDie die { s1.die die with ering := r }

/-- The party of a strand (05 R120). -/
def partyOf (s : State) (st : StrandId) : Nat :=
  if s.ctx.id.kind = .clove then 258 else 4 * s.ctx.id.core + st.code

/-- The requester of an access of a strand, through one of its TLBs. -/
def reqOf (s : State) (st : StrandId) (tlb : Nat) : Req :=
  { core := s.here, die := s.ctx.id.die, pasid := if s.ctx.id.kind.isApp then s.ctx.id.pasid else 0,
    kind := s.ctx.id.kind, party := s.partyOf st, tlb }

/-- Puts flags into FFLAGS (03 R71), and notes them as raised in this clk (03 R73). -/
def orFlags (s : State) (f : Fl) : State :=
  s.modCtx (fun c =>
    let now : BitVec 7 := if c.csr.raised.1 = s.cycle then c.csr.raised.2 ||| f else f
    { c with csr := { c.csr with fflags := c.csr.fflags ||| f, raised := (s.cycle, now) } })

/-- FRM and FTZ as the compute strand reads them: a write by another strand governs later clk (03 R73). -/
def numerics (s : State) : BitVec 2 × Bool :=
  match s.rd.csr.earlier with
  | some (t, m, z) => if t = s.rdClk then (m, z) else (s.rd.csr.frm, s.rd.csr.ftz)
  | none => (s.rd.csr.frm, s.rd.csr.ftz)

/-- Moves the pc of the acting strand and notes a taken transfer. -/
def jumpTo (s : State) (t : W64) : State :=
  { (s.modMe (fun p => { p with pc := t })) with issue := { s.issue with taken := true } }

/-- What a hint record's four doublewords make of an address (04 R116): a record that breaks its layout, or that names a stack or
a die that the part does not have (00 R10), is bad; a valid one whose range holds the address governs it. -/
def hintOf (p : Part) (w0 len w2 w3 : W64) (va : Nat) : Bool × Option Hint :=
  let bad := bitsAt w0 55 9 != 0 || bitsAt w0 0 16 != 0 || bitsAt w2 9 54 != 0 || bitsAt w2 5 3 != 0 || bitsAt w3 32 32 != 0 ||
    decide (p.dies ≤ bitsAt w2 0 5) || decide (2 ^ p.dies ≤ bitsAt w3 0 32)
  let lo := bitsAt w0 16 39 * 65536
  (bad, if !bad && bitsAt w2 63 1 == 1 && decide (lo ≤ va) && decide (va < lo + len.toNat * 65536) then
    some { mu := bitsAt w2 8 1 == 1, home := BitVec.ofNat 5 (bitsAt w2 0 5), keep := BitVec.ofNat 32 (bitsAt w3 0 32) } else none)

/-- Consults the hint record at a physical address: whether it governs the address; a bad one is logged (04 R116, 09 R235 KIND 5). -/
def hintAt (s : State) (die : Nat) (pasid : BitVec 20) (party va pa : Nat) : Option Hint × State :=
  let w (i : Nat) : W64 := readEntry s.mem (pa + 8 * i)
  let h := hintOf s.part (w 0) (w 1) (w 2) (w 3) va
  (h.2, if h.1 then s.logViolation die 5 (BitVec.ofNat 64 (2 ^ 63 + pa % 2 ^ 48)) pasid party else s)

/-- Consults n hint records from a physical address on, in index order, up to the first that governs the address. -/
def hintFrom (s : State) (die : Nat) (pasid : BitVec 20) (party va n pa : Nat) : Option Hint × State :=
  (List.range n).foldl (fun (x : Option Hint × State) i => if x.1.isSome then x else x.2.hintAt die pasid party va (pa + 32 * i)) (none, s)

/-- The number of hint records of a process and where they stand, by its entry (04 R116, 09 R210). -/
def hintTable (s : State) (die : Nat) (pasid : BitVec 20) : Option (Nat × Nat) :=
  let w2 := readEntry s.mem (processAt s die pasid.toNat + 16)
  let w3 := readEntry s.mem (processAt s die pasid.toNat + 24)
  let n := bitsAt w3 0 13
  if (processEntry s die pasid.toNat).isNone ∨ bitsAt w2 48 16 ≠ 0 ∨ bitsAt w2 0 5 ≠ 0 ∨ bitsAt w3 13 51 ≠ 0 ∨ 4096 < n ∨
      tableThere s.part (bitsAt w2 5 43 * 32) = false then none
  else some (n, bitsAt w2 5 43 * 32)

/-- The hint record that governs a faulting address, by the tables of its process entry (04 R116, 09 R210); firmware applies it
(04 R117). -/
def consultHints (s : State) (die : Nat) (pasid : BitVec 20) (party va : Nat) : Option Hint × State :=
  match s.hintTable die pasid with
  | none => (none, s)
  | some (n, pa) => s.hintFrom die pasid party va n pa

/-- The hint record that governs an address at which the acting context has met a page fault is noted for firmware (04 R116). -/
def noteHint (s : State) (st : StrandId) (va : W64) : State :=
  let (h, t) := s.consultHints s.ctx.id.die (s.reqOf st 0).pasid (s.partyOf st) va.toNat
  t.modCtx (fun c => { c with hint := h })

/-- Posts a page fault to F (09 R228): the bank stops, its other strands' waits complete, and the core switches if the
other bank can issue. -/
def postFaultRec (s : State) (f : FaultRec) : State :=
  let s0 := s.noteHint f.strand f.addr
  let s1 := ((s0.modCtx (fun c => { c with fault := some f })).completeWaits).wake false s.here
  if s1.ctx.id.kind.isApp ∧ s1.ctx.id.residency = .resident ∧ s1.hereCore.issuing = s1.ctx.id.kind then
    match s1.otherReady with
    | some k => s1.switchBank k
    | none => s1
  else s1

/-- The page fault of the acting strand's instruction. -/
def postFault (s : State) (addr : W64) : State :=
  s.postFaultRec { strand := s.strand, addr, pc := s.issue.pc, slot := none }

/-- A trap found at issue by the acting strand (11 R268), with the violation it logs. -/
def trapAtIssue (s : State) (cause : BitVec 8) (addr pc : W64) (kind : Nat) : State :=
  (if kind = 0 then s
   else s.logViolation s.ctx.id.die kind addr (s.reqOf s.strand 0).pasid (s.partyOf s.strand)).takeTrap cause addr pc s.strand false

/-- How a stopped meaning leaves the machine: `s` is the state it began in, `t` the state in which it stopped. -/
def settle (w : Stop) (s t : State) : State :=
  match w with
  | .block b =>
    { (s.modMe (fun p => { p with pc := s.issue.pc, blocked := some b })) with issue := { s.issue with ended := .blocked b } }
  | .trap c a =>
    { (s.modMe (fun p => { p with pc := s.issue.pc })).trapAtIssue c.code a s.issue.pc 0 with
      issue := { s.issue with ended := .trapped c.code a 0 } }
  | .violation k a =>
    { (s.modMe (fun p => { p with pc := s.issue.pc })).trapAtIssue Cause.accessViolation.code a s.issue.pc k with
      issue := { s.issue with ended := .trapped Cause.accessViolation.code a k } }
  | .fault c a =>
    { t.takeTrap c.code a s.issue.pc s.strand false with issue := { t.issue with ended := .faulted } }
  | .pageFault a =>
    { (t.modMe (fun p => { p with pc := s.issue.pc })).postFault a with issue := { t.issue with ended := .replayed } }
  | .wait b => { t.modMe (fun p => { p with blocked := some b }) with issue := { t.issue with ended := .waits b } }

end State

/-- A meaning run from a state: always a next state, for every stop the manual describes has one. -/
def run (m : M Unit) (s : State) : Host.Outcome State Fault Refusal :=
  match m s with
  | .ok _ t => .next t
  | .error w t => .next (State.settle w s t)

/-- Stops unless a condition holds. -/
def check (c : Bool) (w : Stop) : M Unit := if c then pure () else throw w

/-- The word of the instruction, zero-extended: TRAPADDR of the causes that name none (11 R269). -/
def theWord : M W64 := do let s ← get; pure (s.issue.word.setWidth 64)

/-- Raises a cause that names no address. -/
def raise {α : Type} (c : Cause) : M α := do let w ← theWord; throw (.trap c w)

/-- Raises a cause unless a condition holds. -/
def require (ok : Bool) (c : Cause) : M Unit := if ok then pure () else raise c

/-- Reads and writes of registers inside a meaning. -/
def rx (r : Reg) : M W64 := do let s ← get; pure (s.getX r)
def wx (r : Reg) (v : W64) (t : Bool := false) : M Unit := modify (fun s => s.setX r v t)
/-- Writes an optional result register. -/
def wxo (r : Option Reg) (v : W64) : M Unit :=
  match r with
  | some r => wx r v
  | none => pure ()

end Sys2Proof.Machine
end

