-- ==== Sys2Proof/Machine/Alu.lean ====
section
/-! DEFINITION. Register arithmetic and immediates: ALU.R, the RI forms, the shifts and LIH (17 R310, R311; 18 R337, R351,
R357, R360; 19 R370, R373, R378, R381, R384). They set no flag, never trap and touch no memory. -/

namespace Sys2Proof.Machine

/-- A result of two registers, tainted when either is (08 R206). -/
def State.alu2 (s : State) (d a b : Reg) (f : W64 → W64 → W64) : State :=
  s.setX d (f (s.getX a) (s.getX b)) (s.tainted a || s.tainted b)

/-- A result of one register, with its taint. -/
def State.alu1 (s : State) (d a : Reg) (f : W64 → W64) : State := s.setX d (f (s.getX a)) (s.tainted a)

/-- One for a true condition. -/
def ofBool (b : Bool) : W64 := if b then 1 else 0

/-- Signed quotient truncated toward zero; the corners of R337. -/
def divS (a b : W64) : W64 := if b = 0 then BitVec.allOnes 64 else a.sdiv b

/-- Unsigned quotient (18 R337). -/
def divU (a b : W64) : W64 := if b = 0 then BitVec.allOnes 64 else a / b

/-- Signed remainder with the sign of the dividend (19 R378). -/
def remS (a b : W64) : W64 := if b = 0 then a else a.srem b

/-- Unsigned remainder (19 R378). -/
def remU (a b : W64) : W64 := if b = 0 then a else a % b

/-- Shifts whose amount is not masked (19 R381). -/
def shiftL (a k : W64) : W64 := if 64 ≤ k.toNat then 0 else a <<< k.toNat
def shiftR (a k : W64) : W64 := if 64 ≤ k.toNat then 0 else a >>> k.toNat
def shiftA (a k : W64) : W64 := if 64 ≤ k.toNat then (if a.msb then BitVec.allOnes 64 else 0) else a.sshiftRight k.toNat

/-- The leading zero bits of the low n bits of a number. -/
def leadingZeros (v : Nat) : Nat → Nat
  | 0 => 0
  | n + 1 => if v / 2 ^ n % 2 = 1 then 0 else leadingZeros v n + 1

/-- The set bits among the low n bits of a number. -/
def setBits (v : Nat) : Nat → Nat
  | 0 => 0
  | n + 1 => v / 2 ^ n % 2 + setBits v n

/-- ADD (17 R310). -/
def execAdd (d a b : Reg) (s : State) : Host.Outcome State Fault Refusal := .next (s.alu2 d a b (fun x y => x + y))
/-- SUB (19, ALU.R under 17 R310). -/
def execSub (d a b : Reg) (s : State) : Host.Outcome State Fault Refusal := .next (s.alu2 d a b (fun x y => x - y))
/-- MUL (18 R360): bits 63 to 0 of the product. -/
def execMul (d a b : Reg) (s : State) : Host.Outcome State Fault Refusal := .next (s.alu2 d a b (fun x y => x * y))
/-- MULH (18 R360): bits 127 to 64 of the signed product. -/
def execMulh (d a b : Reg) (s : State) : Host.Outcome State Fault Refusal :=
  .next (s.alu2 d a b (fun x y => BitVec.ofInt 64 (x.toInt * y.toInt / 2 ^ 64)))
/-- MULHU (18 R360): bits 127 to 64 of the unsigned product. -/
def execMulhu (d a b : Reg) (s : State) : Host.Outcome State Fault Refusal :=
  .next (s.alu2 d a b (fun x y => BitVec.ofNat 64 (x.toNat * y.toNat / 2 ^ 64)))
/-- DIV (18 R337). -/
def execDiv (d a b : Reg) (s : State) : Host.Outcome State Fault Refusal := .next (s.alu2 d a b divS)
/-- DIVU (18 R337). -/
def execDivu (d a b : Reg) (s : State) : Host.Outcome State Fault Refusal := .next (s.alu2 d a b divU)
/-- REM (19 R378). -/
def execRem (d a b : Reg) (s : State) : Host.Outcome State Fault Refusal := .next (s.alu2 d a b remS)
/-- REMU (19 R378). -/
def execRemu (d a b : Reg) (s : State) : Host.Outcome State Fault Refusal := .next (s.alu2 d a b remU)
/-- AND (17 R310). -/
def execAnd (d a b : Reg) (s : State) : Host.Outcome State Fault Refusal := .next (s.alu2 d a b (fun x y => x &&& y))
/-- OR (19 R370). -/
def execOr (d a b : Reg) (s : State) : Host.Outcome State Fault Refusal := .next (s.alu2 d a b (fun x y => x ||| y))
/-- XOR (20 R430). -/
def execXor (d a b : Reg) (s : State) : Host.Outcome State Fault Refusal := .next (s.alu2 d a b (fun x y => x ^^^ y))
/-- SHL (19 R381). -/
def execShl (d a b : Reg) (s : State) : Host.Outcome State Fault Refusal := .next (s.alu2 d a b shiftL)
/-- SHR (19 R381). -/
def execShr (d a b : Reg) (s : State) : Host.Outcome State Fault Refusal := .next (s.alu2 d a b shiftR)
/-- SHRA (19 R381). -/
def execShra (d a b : Reg) (s : State) : Host.Outcome State Fault Refusal := .next (s.alu2 d a b shiftA)
/-- SLT (19 R384). -/
def execSlt (d a b : Reg) (s : State) : Host.Outcome State Fault Refusal := .next (s.alu2 d a b (fun x y => ofBool (x.slt y)))
/-- SLTU (19 R384). -/
def execSltu (d a b : Reg) (s : State) : Host.Outcome State Fault Refusal := .next (s.alu2 d a b (fun x y => ofBool (x.ult y)))
/-- MIN (18 R357). -/
def execMin (d a b : Reg) (s : State) : Host.Outcome State Fault Refusal :=
  .next (s.alu2 d a b (fun x y => if y.slt x then y else x))
/-- MAX (18 R357). -/
def execMax (d a b : Reg) (s : State) : Host.Outcome State Fault Refusal :=
  .next (s.alu2 d a b (fun x y => if x.slt y then y else x))
/-- MINU (18 R357). -/
def execMinu (d a b : Reg) (s : State) : Host.Outcome State Fault Refusal :=
  .next (s.alu2 d a b (fun x y => if y.ult x then y else x))
/-- MAXU (18 R357). -/
def execMaxu (d a b : Reg) (s : State) : Host.Outcome State Fault Refusal :=
  .next (s.alu2 d a b (fun x y => if x.ult y then y else x))
/-- CLZ (17 R310). -/
def execClz (d a : Reg) (s : State) : Host.Outcome State Fault Refusal :=
  .next (s.alu1 d a (fun x => BitVec.ofNat 64 (leadingZeros x.toNat 64)))
/-- POPC (19 R373). -/
def execPopc (d a : Reg) (s : State) : Host.Outcome State Fault Refusal :=
  .next (s.alu1 d a (fun x => BitVec.ofNat 64 (setBits x.toNat 64)))
/-- ADDI (17 R311). -/
def execAddi (d a : Reg) (imm : BitVec 15) (s : State) : Host.Outcome State Fault Refusal :=
  .next (s.alu1 d a (fun x => x + sext64 imm))
/-- ANDI (17 R311). -/
def execAndi (d a : Reg) (imm : BitVec 15) (s : State) : Host.Outcome State Fault Refusal :=
  .next (s.alu1 d a (fun x => x &&& sext64 imm))
/-- ORI (19 R370). -/
def execOri (d a : Reg) (imm : BitVec 15) (s : State) : Host.Outcome State Fault Refusal :=
  .next (s.alu1 d a (fun x => x ||| sext64 imm))
/-- XORI (20 R430). -/
def execXori (d a : Reg) (imm : BitVec 15) (s : State) : Host.Outcome State Fault Refusal :=
  .next (s.alu1 d a (fun x => x ^^^ sext64 imm))
/-- SLTI (19 R384). -/
def execSlti (d a : Reg) (imm : BitVec 15) (s : State) : Host.Outcome State Fault Refusal :=
  .next (s.alu1 d a (fun x => ofBool (x.slt (sext64 imm))))
/-- SHLI (19 R381). -/
def execShli (d a : Reg) (n : BitVec 6) (s : State) : Host.Outcome State Fault Refusal :=
  .next (s.alu1 d a (fun x => shiftL x (zext64 n)))
/-- SHRI (19 R381). -/
def execShri (d a : Reg) (n : BitVec 6) (s : State) : Host.Outcome State Fault Refusal :=
  .next (s.alu1 d a (fun x => shiftR x (zext64 n)))
/-- SHRAI (19 R381). -/
def execShrai (d a : Reg) (n : BitVec 6) (s : State) : Host.Outcome State Fault Refusal :=
  .next (s.alu1 d a (fun x => shiftA x (zext64 n)))
/-- LIH (18 R351): untainted. -/
def execLih (d : Reg) (imm : BitVec 20) (s : State) : Host.Outcome State Fault Refusal := .next (s.setX d (sext64 imm <<< 12))

end Sys2Proof.Machine
end

