-- ==== Sys2Proof/Config.lean ====
section
/-! DEFINITION. What an implementation fixes and the manual leaves open: opaque constants without a body. Nothing can
evaluate them, so what is proved holds whatever they are. Each is named in a row of the assumption log. -/

namespace Sys2Proof.Config

/-- NP255 (03 R83): the accumulator an implementation-defined profile leaves, as a function of the command's profile
inputs folded into one number and of the cell's earlier bits. DESIGN CHOICE (log 3). -/
opaque np255 : Nat → W32 → W32
/-- The flags NP255 raises, for the same inputs. DESIGN CHOICE (log 3). -/
opaque np255Flags : Nat → W32 → BitVec 7
/-- The block of k-steps in which a NaN, an infinity or a saturation arises under NP255 (10 R249). DESIGN CHOICE (log 3). -/
opaque np255Block : Nat → W32 → Nat

/-- The boot ROM of a die's Clove (10 R259); its bytes are not given. DESIGN CHOICE (log 4). -/
opaque bootRom : Nat → Byte

/-- A 32-bit value the manual leaves open, one for each value of the state's counter. DESIGN CHOICE (log 5). -/
opaque freeWord : Nat → W32

/-- Byte `i` of a part of the save area of which 09 R231 lists the contents and not their places, as a function of the values that it
holds. DESIGN CHOICE (log 27). -/
opaque saveByte : Nat → List Nat → Nat → Byte

/-- The die's serial number and identity key (10 R263, R264): 16 and 132 bytes for each die. DESIGN CHOICE (log 6). -/
opaque serial : Nat → Nat → Byte
/-- Byte `i` of the public identity key point of die `d`, X then Y. DESIGN CHOICE (log 6). -/
opaque identityKey : Nat → Nat → Byte

/-- Byte `i` of the ECDSA signature r, s of a message by a die's key (10 R263); `n` is the signing nonce's counter.
DESIGN CHOICE (log 6). -/
opaque ecdsaSign : Nat → Nat → List Byte → Nat → Byte

/-- Whether a signature over a message verifies against the fused key of a die (10 R262). DESIGN CHOICE (log 6). -/
opaque ecdsaVerifies : Nat → List Byte → List Byte → Bool

/-- The fused minimum firmware version of a die (10 R262). DESIGN CHOICE (log 6). -/
opaque minVersion : Nat → Nat

end Sys2Proof.Config
end

