-- ==== Sys2Proof/Machine/Access.lean ====
section
/-! DEFINITION. Accesses to memory: die control registers as bytes, routes of deterministic traffic, reads and writes of a
target, and the loads and stores of strands with their faults (04 R88 to R103; 05 R130, R146; 09 R232, R233, R235; 10 R242,
R256, R259, R264; 18 R349, R350; 19 R385, R386). -/

namespace Sys2Proof.Machine

namespace State

/-- The doubleword of die control space at an offset that is a multiple of 8; none where no register stands (10 R256).
A register that is only written reads as zero (log 11). -/
def dieWord (s : State) (d off : Nat) : Option W64 :=
  let x := s.die d
  let ring (r : RingReg) (o : Nat) : W64 := if o = 0 then r.base else if o = 8 then r.size else if o = 16 then r.head else r.overflow
  let bytes (l : List Byte) (o : Nat) : W64 := BitVec.ofNat 64 (natOfBytes ((l.drop o).take 8))
  if off = 0 then some x.qt1base
  else if off = 0x10 ∨ off = 0x20 ∨ off = 0x40 then some 0
  else if 0x1000 ≤ off ∧ off < 0x1020 then some (ring x.vring (off - 0x1000))
  else if 0x1100 ≤ off ∧ off < 0x1120 then some (ring x.ering (off - 0x1100))
  else if off = 0x1200 then some (x.sridle.setWidth 64)
  else if off = 0x2000 then some x.dumpBase
  else if off = 0x2008 then some x.dumpCount
  else if 0x10000 ≤ off ∧ off < 0x10800 then some (Cells.get 0 x.peerwin ((off - 0x10000) / 8))
  else if off = 0x20000 then some (x.gen.setWidth 64)
  else if off = 0x20008 then some x.tbase
  else if off = 0x20010 then some x.pend
  else if off = 0x100000 then some x.mbox.req
  else if 0x100040 ≤ off ∧ off < 0x100080 then some (bytes x.mbox.nonce (off - 0x100040))
  else if off = 0x100100 then some x.mbox.rsp
  else if off = 0x100108 then some x.mbox.bootErr
  else if 0x100200 ≤ off ∧ off < 0x101000 then some (bytes x.mbox.answer (off - 0x100200))
  else if 0x100000 ≤ off ∧ off < 0x101000 then some 0
  else none

/-- The peer's byte that an offset in a peer window names: device, stack, offset; none when the window is invalid (04 R91). -/
def peerByte (s : State) (d w off : Nat) : Option Nat :=
  let e := Cells.get 0 (s.die d).peerwin w
  if bitsAt e 63 1 = 1 then some ((bitsAt e 8 8 * 32 + bitsAt e 0 5) * 2 ^ 36 + off) else none

/-- Reads n bytes of a target; they lie inside one sector, or inside one register doubleword. -/
def readT (s : State) (t : Target) (n : Nat) : Got × State :=
  match t with
  | .scratch c o =>
    ({ data := cellsGet (s.cluster c).mem o n, poison := Marks.mem (s.cluster c).poison (o / 32), lost := false }, s)
  | .hbm k bank cache direct =>
    let s := s.noteMiss k direct
    if direct then (s.mem.read1 k n, s)
    else
      let (g, m) := (foldAdds s.mem k n).read0 k n bank (decide (cache < 2))
      (g, { s with mem := m })
  | .host a =>
    let m := s.mem.foldHost a n
    ({ data := cellsGet m.host a n, poison := Marks.mem m.hostPoison (a / 32), lost := false }, { s with mem := m })
  | .peer d w a =>
    let k := (s.peerByte d w a).getD 0
    let m := s.mem.foldPeer k n
    ({ data := cellsGet m.peer k n, poison := Marks.mem m.peerPoison (k / 32), lost := false }, { s with mem := m })
  | .regs d o =>
    let w := (s.dieWord d (o / 8 * 8)).getD 0
    ({ data := (bytesOfNat 8 w.toNat).drop (o % 8) |>.take n, poison := false, lost := false }, s)
  | .priv d o =>
    ({ data := (List.range n).map (fun i => if o + i < 0x10000 then Config.bootRom (o + i) else Cells.get 0 (s.die d).cloveMem (o + i)),
       poison := false, lost := false }, s)

/-- The marks outside the package after a write inside one sector: a whole sector takes its mark, a part may set it (10 R236,
R242). -/
def outMark (marks : List Nat) (a : Nat) (bs : List Byte) (poison : Bool) : List Nat :=
  if poison then Marks.add marks (a / 32) else if bs.length == 32 then Marks.del marks (a / 32) else marks

/-- Writes bytes of a target inside one sector; `poison` is the mark a whole sector takes. The boot ROM ignores writes (10
R259); a register write has effects of its own and is performed where they are defined. -/
def writeT (s : State) (t : Target) (bs : List Byte) (poison : Bool := false) : State :=
  match t with
  | .scratch c o => s.setCluster c ((s.cluster c).put o bs poison)
  | .hbm k bank cache direct =>
    let s := s.noteWrite k bs.length cache direct
    if direct then { s with mem := s.mem.write1 k bs poison }
    else { s with mem := (foldAdds s.mem k bs.length).write0 k bs bank (decide (cache < 2)) poison }
  | .host a =>
    let m := s.mem.foldHost a bs.length
    { s with mem := { m with host := cellsPut m.host a bs, hostPoison := outMark m.hostPoison a bs poison } }
  | .peer d w a => match s.peerByte d w a with
    | some k =>
      let m := s.mem.foldPeer k bs.length
      { s with mem := { m with peer := cellsPut m.peer k bs, peerPoison := outMark m.peerPoison k bs poison } }
    | none => s
  | .regs _ _ => s
  | .priv d o => if o < 0x10000 then s else s.setDie d { s.die d with cloveMem := cellsPut (s.die d).cloveMem o bs }

/-- Whether the sector a target lies in is poisoned. -/
def poisonedT (s : State) (t : Target) : Bool :=
  match t with
  | .scratch c o => Marks.mem (s.cluster c).poison (o / 32)
  | .hbm k _ _ direct => s.mem.poisoned k direct
  | .host a => Marks.mem s.mem.hostPoison (a / 32)
  | .peer d w a => (s.peerByte d w a).any (fun k => Marks.mem s.mem.peerPoison (k / 32))
  | _ => false

/-- Whether the target's sector carries the lost mark (04 R113): in the home L2's copy, or in DRAM. -/
def lostT (s : State) (t : Target) : Bool :=
  match t with
  | .hbm k _ _ direct => if direct then Marks.mem s.mem.lost (sectorOf k) else (s.mem.sector (sectorOf k) false).lost
  | _ => false

/-- Whether a read or store of scratchpad bytes has to wait for a fill (04 R98). -/
def fillPending (s : State) (t : Target) (n : Nat) : Bool :=
  match t with
  | .scratch c o => (s.cluster c).pendingAt o n
  | _ => false

/-- The die a target lies on (09 R232). -/
def targetDie (t : Target) : Option Nat :=
  match t with
  | .hbm k _ _ _ => some (stackOf k)
  | .regs d _ => some d
  | _ => none

/-- The die reached by a hop inside the grid of the part (01 R19, R20; 09 R233). -/
def hopFrom (p : Part) (d hop : Nat) : Option Nat :=
  let r := d / 8
  let c := d % 8
  let rows := p.dies / 8
  match hop with
  | 0 => if c < 7 then some (d + 1) else none
  | 1 => if 0 < c then some (d - 1) else none
  | 2 => if r + 1 < rows then some (d + 8) else none
  | 3 => if 0 < r then some (d - 8) else none
  | _ => none

/-- Whether a link of a die is down: a fabric link counts from both its ends. -/
def linkIsDown (s : State) (d hop : Nat) : Bool :=
  if hop = 4 then !(s.peerPorts.getD d Port.reset).up
  else s.downLinks.contains (d, hop) || (match hopFrom s.part d hop with
    | some e => s.downLinks.contains (e, if hop % 2 = 0 then hop + 1 else hop - 1)
    | none => true)

/-- Follows `n` hops of a route entry: whether no link on the way is down. -/
def routeUp (s : State) (e : W64) : Nat → Nat → Nat → Bool
  | 0, _, _ => true
  | n + 1, h, d =>
    let hop := bitsAt e (3 * h) 3
    if s.linkIsDown d hop then false
    else match hopFrom s.part d hop with
      | some d' => routeUp s e n (h + 1) d'
      | none => true

/-- The route entry of a flow in a die's table (09 R233). -/
def routeEntry (s : State) (die flow : Nat) : W64 :=
  readEntry s.mem (bitsAt (s.die die).tbase 12 36 * 4096 + 8 * flow)

/-- Whether the route-table generation that a context's task recorded for the context's die is still the current one (09 R232,
R233). -/
def genCurrent (s : State) (i : Ident) : Bool :=
  let g := (s.die i.die).gen
  ((s.tasks.find? (fun t => t.id == i.task)).map (fun t => t.gens.getD i.die 0)).getD g == g

/-- Whether deterministic traffic of a context may take a flow (09 R232, R233): the die's generation is the one
the task recorded, the flow has a route, and no link of it is down. -/
def flowUpFor (s : State) (i : Ident) (flow : Nat) : Bool :=
  let e := s.routeEntry i.die flow
  s.genCurrent i && bitsAt e 63 1 == 1 && s.routeUp e (bitsAt e 59 4) 0 i.die

/-- The same for the acting context. -/
def flowUp (s : State) (flow : Nat) : Bool := s.flowUpFor s.ctx.id flow

/-- The Gnostad Link port nearest a die in grid distance, the lower number on a tie (01 R20, 10 R257). -/
def nearestPort (p : Part) (d : Nat) (ports : List Nat) : Option Nat :=
  let home (q : Nat) : Nat := match q, p with
    | 0, _ => 0 | 1, _ => 7 | 2, .sl3216 => 8 | 2, _ => 24 | _, .sl3216 => 15 | _, _ => 31
  let dist (q : Nat) : Nat :=
    let a := home q
    (if a / 8 ≤ d / 8 then d / 8 - a / 8 else a / 8 - d / 8) + (if a % 8 ≤ d % 8 then d % 8 - a % 8 else a % 8 - d % 8)
  ports.foldl (fun best q => match best with
    | none => some q
    | some b => if dist q < dist b then some q else some b) none

/-- The cause with which an access to a target fails on its way, and the KIND a violation is logged under: an invalid peer
window (04 R91); in a deterministic context a generation that is past, a flow that is not up, or the nearest host port down (09 R232,
R233, 10 R257); otherwise no port of the package that is up. -/
def linkErrorFor (s : State) (i : Ident) (det : Bool) (t : Target) : Option (Cause × Nat) :=
  match t with
  | .host _ =>
    let up (q : Nat) : Bool := (s.hostPorts.getD q Port.reset).up
    if det then
      if s.genCurrent i && (nearestPort s.part i.die [0, 1, 2, 3]).all up then none else some (.linkDown, 0)
    else if (List.range 4).any up then none else some (.accessViolation, 4)
  | .peer d w a =>
    if (s.peerByte d w a).isNone then some (.accessViolation, 9)
    else if det && !s.flowUpFor i (32 + w) then some (.linkDown, 0)
    else if (List.range s.part.dies).any (fun q => (s.peerPorts.getD q Port.reset).up) then none else some (.accessViolation, 4)
  | t => if det && (match targetDie t with | some d => !s.flowUpFor i d | none => false) then some (.linkDown, 0) else none

/-- The same on the way from the acting context's die. -/
def linkErrorOf (s : State) (det : Bool) (t : Target) : Option (Cause × Nat) := s.linkErrorFor s.ctx.id det t

/-- The same for an access of the acting context. -/
def linkError (s : State) (t : Target) : Option (Cause × Nat) := s.linkErrorOf (s.ctx.id.det && s.ctx.id.kind.isApp) t

/-- Records a consumed poisoned sector in ECCLOG (10 R244): kind 1 a zeroed sector, 2 Poison raised; a lost mark makes it
kind 3. -/
def noteEcc (s : State) (kind : BitVec 2) (lost : Bool) (va : W64) : State :=
  s.modCtx (fun c =>
    let l := c.csr.ecclog
    let l' : EccLog := if l.kind = 0 then
        { kind := if lost then 3 else kind, mult := l.mult, addr := BitVec.ofNat 50 (va.toNat / 32) }
      else { l with mult := true }
    { c with csr := { c.csr with ecclog := l' } })

/-- A read copy of the line of a DRAM byte in a cache: its lease ends 2,048 clk on (05 R122). -/
def leaveCopy (s : State) (cache : CopyIn) (holder k : Nat) : State :=
  if s.mem.copies.any (fun c => c.cache == cache && c.holder == holder && c.line == k / 128) then s
  else { s with mem := { s.mem with copies := s.mem.copies ++
    [{ cache, holder, line := k / 128, expiry := s.cycle.toNat + 2048, poison := 0 }] } }

/-- The copy that a cached read from a die leaves in the die's RDC, where the die is not the line's home (04 R101). -/
def leaveRdc (s : State) (die k : Nat) : State := if stackOf k ≠ die then s.leaveCopy .rdc die k else s

/-- Notes the read copies that a cached read of the acting context leaves: in a cache of the core, and in the RDC. -/
def noteRead (s : State) (own : Option CopyIn) (k : Nat) : State :=
  (match own with | some c => s.leaveCopy c s.here k | none => s).leaveRdc s.ctx.id.die k

/-- The copies of a cached load: the control strand's core keeps one in its L1 (04 R101). -/
def noteCopies (s : State) (k : Nat) : State := s.noteRead (if s.strand = .K then some .l1 else none) k

/-- Whether a cached read finds a sector of the RDC of a die that an error has marked (10 R236). -/
def copyPoison (s : State) (die k : Nat) : Bool :=
  s.mem.copies.any (fun c => c.cache == .rdc && c.holder == die && c.line == k / 128 && c.poison.getLsbD (k % 128 / 32))

/-- The same for a read of a target by the acting context. -/
def copyMarked (s : State) (t : Target) : Bool :=
  match t with
  | .hbm k _ 0 false => s.copyPoison s.ctx.id.die k
  | _ => false

/-- A read of a target through the caches of a die, or with none by a unit at the stack itself: a line homed elsewhere is read through
the die's RDC, which keeps a copy, and a sector of it that an error has marked there is poisoned (04 R101, 10 R236). -/
def readVia (s : State) (via : Option Nat) (t : Target) (n : Nat) : Got × State :=
  let (g, s1) := s.readT t n
  match via, t with
  | some die, .hbm k _ 0 false => ({ g with poison := g.poison || s.copyPoison die k }, s1.leaveRdc die k)
  | _, _ => (g, s1)

/-- Whether two targets share a byte, through one space or through two names of it (05 R130, R131). -/
def overlapT (s : State) (a : Target) (n : Nat) (b : Target) (k : Nat) : Bool :=
  let meets (x y : Nat) : Bool := decide (x < y + k) && decide (y < x + n)
  match a, b with
  | .hbm x .., .hbm y .. => meets x y
  | .host x, .host y => meets x y
  | .peer d w x, .peer e v y =>
    (match s.peerByte d w x, s.peerByte e v y with
     | some p, some q => meets p q
     | _, _ => d == e && w == v && meets x y)
  | .regs d x, .regs e y => d == e && meets x y
  | _, _ => false

/-- What an access waits for either stood before its bundle issued and keeps the bundle from issuing, or was begun by the bundle itself,
which has then issued (11 R268). -/
def waitOr (s : State) (busy : State → Bool) (b : Block) : Stop := if busy s.atIssue then .block b else .wait b

/-- Whether a strand has a posted write to the bytes that is not yet performed (05 R130). -/
def postedOn (s : State) (st : StrandId) (t : Target) (n : Nat) : Bool :=
  s.ctx.eng.posted.any (fun p => p.strand == st && s.overlapT t n p.target p.data.length)

end State

/-- Access-Violation on an access: logged (09 R235), and raised precisely. -/
def violate {α : Type} (kind : Nat) (va : W64) : M α := do
  modify (fun s => s.logViolation s.ctx.id.die kind va (s.reqOf s.strand 0).pasid (s.partyOf s.strand))
  throw (.fault .accessViolation va)

/-- Where an access of a strand through one of its TLBs goes, with the leaf that maps it. -/
def findAny (st : StrandId) (tlb : Nat) (va : W64) (write : Bool) : M (Target × W64) := do
  let s ← get
  let (f, s1) := if s.ctx.id.kind = .clove then (locateClove s s.ctx.id.die va, s) else locate s (s.reqOf st tlb) va write
  set s1
  match f with
  | .at_ t leaf => pure (t, leaf)
  | .pageFault => throw (.pageFault va)
  | .violation k => violate k va

/-- The same for an access that reads or writes there: a read of space 8 where no register stands is an Access-Violation, while a
posted write finds it out when it is performed (10 R256, 19 R386). -/
def findT (st : StrandId) (tlb : Nat) (va : W64) (write : Bool) : M (Target × W64) := do
  let (t, leaf) ← findAny st tlb va write
  let s ← get
  match t with
  | .regs d o => if write || (s.dieWord d (o / 8 * 8)).isSome then pure (t, leaf) else violate 4 va
  | _ => pure (t, leaf)

/-- Stops an access that fails on its way. -/
def checkLink (va : W64) (t : Target) : M Unit := do
  let s ← get
  match s.linkError t with
  | none => pure ()
  | some (.accessViolation, k) => violate k va
  | some (c, _) => throw (.fault c va)

/-- An access waits for the pending fill of a slot (04 R98). -/
def filled (t : Target) (n : Nat) : M Unit := do
  let s ← get
  check (!s.fillPending t n) (s.waitOr (fun u => u.fillPending t n) .fill)

/-- A read waits for the strand's own posted write to the bytes, and for a pending fill (04 R98, 05 R130). -/
def clearFor (st : StrandId) (t : Target) (n : Nat) : M Unit := do
  let s ← get
  check (!s.postedOn st t n) (s.waitOr (fun u => u.postedOn st t n) .posted)
  filled t n

/-- A read by a strand of bytes inside one sector, at its place in the order: it waits for the strand's own posted write and for a
pending fill, and a poisoned sector raises Poison (18 R350). `note` says which copies it leaves. -/
def readWith (note : State → Nat → State) (st : StrandId) (va : W64) (t : Target) (n : Nat) : M (List Byte) := do
  let s ← get
  clearFor st t n
  checkLink va t
  let (g, s1) := s.readT t n
  set (match t with
    | .hbm k _ 0 false => note s1 k
    | _ => s1)
  if g.poison || s.copyMarked t then
    modify (fun s => s.noteEcc 2 g.lost va)
    throw (.fault .poison va)
  pure g.data

/-- A load of a strand. -/
def readM (st : StrandId) (va : W64) (t : Target) (n : Nat) : M (List Byte) := readWith State.noteCopies st va t n

/-- An instruction fetch of a strand: its core keeps a copy in the instruction cache (01 R15). -/
def fetchM (st : StrandId) (va : W64) (t : Target) (n : Nat) : M (List Byte) := readWith (fun s k => s.noteRead (some .icache) k) st va t n

/-- A write by a strand of bytes inside one sector: posted, or performed now (19 R386). Part of a poisoned sector raises
Poison and changes nothing (10 R242). -/
def writeM (st : StrandId) (pc va : W64) (t : Target) (bs : List Byte) (poison : Bool := false) : M Unit := do
  let s ← get
  if t.posted then
    modify (fun s => s.modCtx (fun c => { c with eng := { c.eng with
      posted := c.eng.posted ++ [{ strand := st, pc, va, target := t, data := bs, poison, seq := c.eng.seqno }] } }))
  else
    filled t bs.length
    checkLink va t
    if s.poisonedT t && bs.length != 32 then
      modify (fun s => s.noteEcc 2 (s.lostT t) va)
      throw (.fault .poison va)
    modify (fun s => s.writeT t bs poison)

/-- The narrowest FENCE scope that waits for a posted write (05 R134): 2 die, 3 package, 4 system. -/
def Target.fenceScope (t : Target) (die : Nat) : Nat :=
  match t with
  | .hbm k _ _ _ => if stackOf k = die then 2 else 3
  | .regs d _ => if d = die then 2 else 3
  | _ => 4

/-- The target a posted write is ordered within (05 R130): a stack, the host, a peer window, a die. -/
def Target.group (t : Target) : Nat × Nat :=
  match t with
  | .hbm k _ _ _ => (1, stackOf k)
  | .host _ => (2, 0)
  | .peer _ w _ => (3, w)
  | .regs d _ => (8, d)
  | _ => (0, 0)

/-- Whether a sequence number lies below a point, modulo the wrap (05 R136). -/
def seqBelow (seq point : W32) : Bool := decide (0 < (point - seq).toNat) && decide ((point - seq).toNat < 2 ^ 31)

/-- What a fence of a strand still waits for (05 R134, R135): `point` is a BFENCE's on a part with near-bank units. -/
def Engines.fenceWaits (e : Engines) (st : StrandId) (die : Nat) (sc : Scope) (point : Option W32) : Option Block :=
  if e.cmds.any (fun c => c.strand == st) then some .engine
  else if e.posted.any (fun p => p.strand == st && decide (p.target.fenceScope die ≤ sc.code)) then some .posted
  else match point with
    | some q =>
      if e.cmds.any (fun c => c.cls == .nbu && seqBelow c.seq q) || e.invals.any (fun v => seqBelow v.seq q) then some .engine
      else none
    | none => none

/-- The number after a sequence number: it wraps from the largest to 1 (05 R136). -/
def seqNext (q : W32) : W32 := if q = BitVec.allOnes 32 then 1 else q + 1

/-- The number that the context assigns next goes to a command (05 R136). -/
def Engines.numbered (e : Engines) : Engines :=
  { e with seqno := seqNext e.seqno, last := e.seqno, wrapped := e.wrapped || e.seqno = BitVec.allOnes 32 }

/-- A number is assigned to a copy command of a bundle that has issued and is held before the command's card is read (05 R136, 11
R268). -/
def Ctx.keepNumber (c : Ctx) (st : StrandId) (pc : W64) : Ctx :=
  { c with eng := { c.eng.numbered with cmds := c.eng.cmds ++
      [{ seq := c.eng.seqno, cls := .ce, strand := st, pc, d1 := 0, d2 := 0, foot := { reads := [], writes := [] }, started := false,
         stalled := none, body := .ce .copy (Vector.replicate 4 0) 0, finished := false, causes := [], code := 0, desc := none,
         lease := 0, unread := true }] } }

/-- The address of a scalar access: aligned, and with bits 63:55 zero outside Clove (18 R349). -/
def checkAddr (a : W64) (n : Nat) : M Unit := do
  let s ← get
  check (a.toNat % n == 0) (.trap .misaligned a)
  check (s.ctx.id.kind == .clove || bitsAt a 55 9 == 0) (.violation 11 a)

end Sys2Proof.Machine
end

