-- ==== Sys2Proof/Machine/Die.lean ====
section
/-! DEFINITION. The front end of a die and its control registers: the walk to a queue control block, notifies, launch
records, tear-down, route installation and the writes of die control space (09 R210 to R218, R222, R233, R235; 10 R256,
R262 to R264). -/

namespace Sys2Proof.Machine

/-- The doublewords of a byte list, little-endian. -/
def wordsOf : List Byte → List W64
  | b0 :: b1 :: b2 :: b3 :: b4 :: b5 :: b6 :: b7 :: rest =>
    BitVec.ofNat 64 (natOfBytes [b0, b1, b2, b3, b4, b5, b6, b7]) :: wordsOf rest
  | _ => []

/-- What the walk to a queue gives (09 R211). -/
inductive QWalk
  | drop
  | fault
  | at_ (qcb : Nat)
  deriving DecidableEq, Repr

namespace State

/-- A doubleword in space 0 as the device's units read it (09 R211). -/
def word0 (s : State) (pa : Nat) : W64 := readEntry s.mem pa

/-- A doubleword in space 0 as the device's units write it. -/
def setWord0 (s : State) (pa : Nat) (v : W64) : State :=
  { s with mem := (foldAdds s.mem (dramKey false pa) 8).write0 (dramKey false pa) (bytesOfNat 8 v.toNat) false true }

/-- The die control register an offset names, as a physical address (04 R89). -/
def regAddr (d off : Nat) : W64 := BitVec.ofNat 64 (2 ^ 63 + 8 * 2 ^ 44 + d * 2 ^ 39 + off)

/-- A physical address in a log entry (09 R235). -/
def physAddr (pa : Nat) : W64 := BitVec.ofNat 64 (2 ^ 63 + pa % 2 ^ 48)

/-- The front end's log entries carry the party of host accesses (log 20). -/
def logFront (s : State) (d kind : Nat) (addr : W64) (pasid : Nat) : State :=
  s.logViolation d kind addr (BitVec.ofNat 20 pasid) 256

/-- An entry of the front end's tables in which the A bit is set (09 R211). -/
def setA (s : State) (pa : Nat) : State := { s with mem := orEntry s.mem pa 4 }

/-- The walk from a process entry to a queue control block (09 R210, R211); what would stand in memory that the part does not have
counts as absent (00 R10). -/
def walkQueue (s : State) (d pasid queue : Nat) : QWalk × State :=
  let q := (s.die d).qt1base
  let pa := bitsAt q 5 43 * 32 + 32 * pasid
  match processEntry s d pasid with
  | none => (.drop, s)
  | some (w0, _) =>
    let pb := bitsAt w0 12 36 * 4096 + 8 * queue
    if bitsAt (s.word0 (pa + 16)) 48 16 ≠ 0 ∨ bitsAt (s.word0 (pa + 16)) 0 5 ≠ 0 ∨ bitsAt (s.word0 (pa + 24)) 13 51 ≠ 0 ∨
        bitsAt w0 48 12 < queue then (.drop, s)
    else if bitsAt w0 1 1 = 0 then (.fault, s)
    else
      let s1 := s.setA pa
      let e := s1.word0 pb
      if tableThere s.part pb = false ∨ tableThere s.part (bitsAt e 6 42 * 64) = false ∨ bitsAt e 0 1 = 0 ∨ bitsAt e 48 16 ≠ 0 ∨ bitsAt e 3 3 ≠ 0 then (.drop, s1)
      else if bitsAt e 1 1 = 0 then (.fault, s1)
      else (.at_ (bitsAt e 6 42 * 64), s1.setA pb)

/-- The queue control block of a queue: from the die's cache of 512, or by a walk that fills it, the least recently used
entry making room (09 R211). -/
def findQcb (s : State) (d pasid queue : Nat) : QWalk × State :=
  let x := s.die d
  match x.qcbs.find? (fun e => e.pasid == pasid && e.queue == queue) with
  | some e => (.at_ e.qcb, s.setDie d { x with qcbs := e :: x.qcbs.erase e })
  | none =>
    match s.walkQueue d pasid queue with
    | (.at_ a, t) => (.at_ a, t.setDie d { t.die d with qcbs := ({ pasid, queue, qcb := a } :: (t.die d).qcbs).take 512 })
    | r => r

/-- Whether a queue control block is enabled; one that breaks its layout counts as disabled and is logged (09 R212). -/
def qcbEnabled (s : State) (d pasid qcb : Nat) : Bool × State :=
  let w := fun (i : Nat) => s.word0 (qcb + 8 * i)
  let log2 := bitsAt (w 0) 1 6
  let bad := bitsAt (w 0) 48 16 ≠ 0 ∨ bitsAt (w 1) 32 32 ≠ 0 ∨ w 5 ≠ 0 ∨ w 6 ≠ 0 ∨ w 7 ≠ 0 ∨ log2 = 0 ∨ 16 < log2
  if bad then (false, s.logFront d 5 (physAddr qcb) pasid) else (bitsAt (w 0) 0 1 == 1, s)

/-- The front end performs a notify (09 R211 to R213): one that meets a queue fault is held, with every later one of its queue, and
the fault is posted to F (log 77). -/
def deliver (s : State) (d : Nat) (v : W64) : State :=
  let pasid := bitsAt v 44 20
  let queue := bitsAt v 32 12
  let tail := bitsAt v 0 32
  if (s.die d).held.any (fun h => bitsAt h 32 12 == queue && bitsAt h 44 20 == pasid) then
    s.setDie d { s.die d with held := (s.die d).held ++ [v] }
  else match s.findQcb d pasid queue with
  | (.drop, t) => t.logFront d 10 (regAddr d 0x40) pasid
  | (.fault, t) =>
    (t.setDie d { t.die d with held := (t.die d).held ++ [v] }).wakeAll (fun c => c.id.kind == .F && c.id.die == d)
  | (.at_ qcb, t) =>
    match t.qcbEnabled d pasid qcb with
    | (false, u) => u
    | (true, u) =>
      let head := bitsAt (u.word0 (qcb + 16)) 0 32
      if 2 ^ bitsAt (u.word0 qcb) 1 6 < (tail + 2 ^ 32 - head) % 2 ^ 32 then u.logFront d 10 (regAddr d 0x40) pasid
      else
        let u1 := u.setWord0 (qcb + 8) (BitVec.ofNat 64 tail)
        if tail = head then u1 else { u1 with agenda := u1.agenda ++ [.event (.readRecord d pasid queue)] }

/-- Whether every latch of a gated front end is taken (09 R213). -/
def latchesFull (s : State) (d : Nat) : Bool := (s.die d).gated && decide (64 ≤ (s.die d).latches.length)

/-- A notify arrives (09 R213): the always-on agent latches it while the front end is gated. -/
def notify (s : State) (d : Nat) (v : W64) : State :=
  if (s.die d).gated then s.setDie d { s.die d with latches := (s.die d).latches ++ [v] } else s.deliver d v

/-- The agent ungates the front end and delivers what it latched, in arrival order; then the requests that a port held behind a
notify come in, ahead of everything later (09 R213). -/
def deliverLatched (s : State) (d : Nat) : State :=
  let t := (s.die d).latches.foldl (fun t v => t.deliver d v) (s.setDie d { s.die d with gated := false, latches := [] })
  { t with agenda := (t.hostPorts.toList.flatMap (·.waiting)).map .event ++ t.agenda,
           hostPorts := t.hostPorts.map (fun p => { p with waiting := [] }) }

/-- Every notify held on a queue fault is tried again, in order (09 R211). -/
def retryHeld (s : State) (d : Nat) : State :=
  (s.die d).held.foldl (fun t v => t.deliver d v) (s.setDie d { s.die d with held := [] })

/-- Cores of an instance of a placement level: cluster, die, package (09 R216, 02 R47). -/
def levelCores (p : Part) (level : Nat) : Nat := match level with | 0 => 4 | 1 => 64 | _ => p.cores

end State

/-- The fields of a launch record (09 R216). -/
def lrecLevel (w : Vector W64 16) : Nat := bitsAt w[4] 32 2
def lrecCount (w : Vector W64 16) : Nat := bitsAt w[4] 0 32
def lrecPri (w : Vector W64 16) : Nat := bitsAt w[4] 40 8
def lrecDet (w : Vector W64 16) : Bool := bitsAt w[4] 48 1 == 1
def lrecPers (w : Vector W64 16) : Bool := bitsAt w[4] 49 1 == 1

/-- The dies that may hold items of a record (09 R216). -/
def lrecDies (p : Part) (w : Vector W64 16) : List Nat :=
  (List.range p.dies).filter (fun d => bitsAt w[12] 0 32 == 0 || bitsAt w[12] d 1 == 1)

/-- Whether a binding byte is laid out as the record requires (09 R216). -/
def mapByteOk (b : Nat) : Bool := if b / 128 = 1 then b / 16 % 8 == 0 else b == 0

/-- Whether a launch record is refused (09 R216). -/
def lrecRefused (p : Part) (w : Vector W64 16) : Bool :=
  let pcBad (v : W64) : Bool := bitsAt v 55 9 != 0 || bitsAt v 0 2 != 0
  let bytes := List.range 8
  pcBad w[0] || pcBad w[1] || pcBad w[2] || pcBad w[3] || bitsAt w[4] 50 14 != 0 || bitsAt w[4] 34 6 != 0 ||
  bytes.any (fun q => !mapByteOk (bitsAt w[5] (8 * q) 8) || !mapByteOk (bitsAt w[6] (8 * q) 8) ||
    (bitsAt w[6] (8 * q + 7) 1 == 0 && bitsAt w[7] (8 * q) 8 != 0)) ||
  bitsAt w[10] 32 32 != 0 || bitsAt w[12] 32 32 != 0 || w[13] != 0 || w[14] != 0 || w[15] != 0 ||
  lrecLevel w == 3 || lrecCount w == 0 || (w[9] != 0 && bitsAt w[9] 0 4 != 0) ||
  decide (2 ^ p.dies ≤ bitsAt w[12] 0 32) ||
  (lrecLevel w == 2 && decide ((lrecDies p w).length * 64 < Nat.min (lrecCount w) p.cores))

namespace State

/-- Writes a completion record as a store of a process (09 R218): dropped and logged when it cannot be made; `none` while
a page fault waits for firmware. -/
def storeComp (s : State) (d : Nat) (pasid : BitVec 20) (comp : W64) (bytes : List Byte) (giveUp : Bool) : Option State :=
  let drop (t : State) (kind : Nat) : Option State := some (t.logViolation d kind comp pasid 256)
  if comp = 0 then some s
  else if bitsAt comp 55 9 ≠ 0 ∨ isScratch comp then drop s 11
  else
    let r : Req := { core := s.part.cores, die := d, pasid, kind := .A, party := 256, tlb := 0 }
    match translate s r comp.toNat true with
    | (.pageFault, t) =>
      if giveUp then drop t (match (translate s r comp.toNat false).1 with | .leaf .. => 2 | _ => 4) else none
    | (.violation k, t) => drop t k
    | (.leaf e _ n, t) =>
      let t := { t with mem := { t.mem with tlb := s.mem.tlb } }
      match physical t d false (bitsAt e 16 32 * 65536 + comp.toNat % (n * 65536)) e with
      | .at_ target _ =>
        match t.linkErrorOf false target with
        | some (_, k) => drop t k
        | none => if t.poisonedT target then drop t 4 else some (t.writeT target bytes)
      | .violation k => drop t k
      | .pageFault => drop t 4

/-- The bytes of a completion record (09 R218). -/
def compBytes (item : W32) (cause status : BitVec 8) (tpc : W64) : List Byte :=
  bytesOfNat 8 (item.toNat * 2 ^ 32 + cause.toNat * 256 + status.toNat) ++ bytesOfNat 8 tpc.toNat

/-- DONE of a queue control block is incremented (09 R212, R218). -/
def bumpDone (s : State) (qcb : Nat) : State := s.setWord0 (qcb + 24) (s.word0 (qcb + 24) + 1)

/-- Reads the bytes of a physical address for the front end, sector by sector: none when a sector does not exist, is
poisoned or cannot be reached (09 R214). -/
def readPhys (s : State) (d : Nat) : Nat → Nat → Option (List Byte)
  | 0, _ => some []
  | n + 1, pa =>
    match physical s d true pa 0x4000 with
    | .at_ t _ =>
      let g := (s.readT t 32).1
      if g.poison || (s.linkErrorOf false t).isSome then none else (s.readPhys d n (pa + 32)).map (g.data ++ ·)
    | _ => none

/-- Takes a task into a die's queues, or a record that is refused. -/
def addTask (s : State) (d : Nat) (pasid : BitVec 20) (queue : Option (Nat × Nat)) (w : Vector W64 16) (refused : Bool := false) : State :=
  let t : Task :=
    { id := s.nextTask, die := d, pasid, queue, lrec := w, gens := (List.range s.part.dies).map (fun x => (s.die x).gen),
      since := s.us, placed := 0, status := if refused then 3 else 0, cause := 0, item := 0, tpc := 0, dead := refused, done := false,
      dumped := false }
  { s with nextTask := s.nextTask + 1, tasks := s.tasks ++ [t] }

/-- The front end reads the record at HEAD of a queue (09 R214, R216). A refused record stands in its queue as a task without items,
which TASK_COMPLETE completes with status REFUSED; its COMP is used where it can be. -/
def readRecord (s : State) (d pasid queue : Nat) : State :=
  match s.findQcb d pasid queue with
  | (.at_ qcb, t) =>
    match t.qcbEnabled d pasid qcb with
    | (false, u) => u
    | (true, u) =>
      let head := bitsAt (u.word0 (qcb + 16)) 0 32
      let tail := bitsAt (u.word0 (qcb + 8)) 0 32
      if head = tail then u
      else
        let slot := bitsAt (u.word0 qcb) 7 41 * 128 + 128 * (head % 2 ^ bitsAt (u.word0 qcb) 1 6)
        let bytes := u.readPhys d 4 slot
        let w : Vector W64 16 := Vector.ofFn (fun i : Fin 16 => (wordsOf (bytes.getD [])).getD i.val 0)
        let u1 := u.setWord0 (qcb + 16) (BitVec.ofNat 64 ((head + 1) % 2 ^ 32))
        let u2 :=
          if bytes.isNone || lrecRefused u.part w then
            let a := if bytes.isNone then u1.logFront d 5 (physAddr slot) pasid else u1
            let b4 := a.word0 (qcb + 32)
            let cnt := Nat.min 255 (bitsAt b4 0 8 + 1)
            let b := a.setWord0 (qcb + 32) (BitVec.ofNat 64 (head * 256 + cnt))
            let comp := if bytes.isSome ∧ bitsAt w[9] 0 4 = 0 then w[9] else 0
            b.addTask d (BitVec.ofNat 20 pasid) (some (queue, qcb)) ((Vector.replicate 16 (0 : W64)).setIfInBounds 9 comp) true
          else u1.addTask d (BitVec.ofNat 20 pasid) (some (queue, qcb)) w
        if (head + 1) % 2 ^ 32 = tail then u2 else { u2 with agenda := u2.agenda ++ [.event (.readRecord d pasid queue)] }
  | (_, t) => t

/-- Ends a context's item for a tear-down. -/
def killCtx (c : Ctx) : Ctx :=
  let f (p : Strand) : Strand := { p with halted := true, waitUntil := none, blocked := none, barWait := none }
  let e := c.ended
  { e with l := f e.l, c := f e.c, s := f e.s, k := f e.k, fault := none }

/-- Tear-down of a process, signalled to a die (09 R222): every item of the process ends, on whatever die its task was launched, its
candidates go, its tasks complete with CTX-DEAD, and a later launch finds it torn down on every die. -/
def teardown (s : State) (d : Nat) (pasid : BitVec 20) : State :=
  let mine (t : Task) : Bool := t.pasid == pasid && !t.done
  let hit (c : Ctx) : Bool := c.id.kind.isApp && c.id.residency != .ended && s.tasks.any (fun t => t.id == c.id.task && mine t)
  let gone : List Ctx := (s.ctx :: s.others).filter hit
  let s1 : State := { s with
    ctx := if hit s.ctx then killCtx s.ctx else s.ctx,
    others := s.others.map (fun c => if hit c then killCtx c else c),
    tasks := s.tasks.map (fun t => if mine t then
        let one := gone.find? (fun c => c.id.task == t.id)
        { t with dead := true, status := if t.status = 3 then 3 else 2,
                 item := if t.status = 0 then (one.map (fun c => c.id.item)).getD 0 else t.item,
                 tpc := if t.status = 0 then (one.map (fun c => c.trap.pc)).getD 0 else t.tpc }
      else t) }
  let torn (x : Die) : Die := { x with tearing := if x.tearing.contains pasid then x.tearing else x.tearing ++ [pasid] }
  let s2 := (List.range s.part.dies).foldl (fun (t : State) n => t.setDie n (torn (t.die n))) s1
  let s3 := s2.setDie d { s2.die d with qcbs := (s2.die d).qcbs.filter (fun e => e.pasid != pasid.toNat) }
  (gone.filter (fun c => c.id.residency != .saved)).foldl (fun (t : State) c => t.bankGone (coreNo c.id) c.id.kind) s3

/-- QCBINV (10 R256): one cached queue control block, or all of them. -/
def qcbInv (s : State) (d : Nat) (v : W64) : State :=
  let x := s.die d
  let keep := x.qcbs.filter (fun e => e.pasid != bitsAt v 44 20 || e.queue != bitsAt v 32 12)
  s.setDie d { x with qcbs := if bitsAt v 0 1 = 1 then [] else keep }

/-- Follows the hops of a route from a die: where it ends, and whether through a peer port; none when it is malformed. -/
def routeEnd (p : Part) (e : W64) : Nat → Nat → Nat → Option (Nat × Bool)
  | 0, _, d => some (d, false)
  | n + 1, h, d =>
    let hop := bitsAt e (3 * h) 3
    if hop = 4 then (if n = 0 then some (d, true) else none)
    else if 4 < hop then none
    else match hopFrom p d hop with
      | some d' => routeEnd p e n (h + 1) d'
      | none => none

/-- Whether an entry of a route table is well formed (09 R233); an entry without a route holds no hops. -/
def routeOk (p : Part) (src t : Nat) (e : W64) : Bool :=
  let n := bitsAt e 59 4
  bitsAt e 33 26 == 0 && decide (n ≤ 11) && decide (bitsAt e 0 33 < 2 ^ (3 * n)) &&
  (bitsAt e 63 1 == 0 || (match routeEnd p e n 0 src with
    | some (d, peer) => if t < 32 then !peer && d == t && (t != src || n == 0) else peer
    | none => false))

/-- Installs the route table at PEND (09 R233 steps 3 and 4). -/
def routeInstall (s : State) (d : Nat) (v : W64) : State :=
  let base := bitsAt v 12 36 * 4096
  let x := s.die d
  let off := { x with pend := BitVec.ofNat 64 base }
  if hbmExists s.part base && base / 2 ^ 44 == 0 &&
      (List.range 288).all (fun t => routeOk s.part d t (s.word0 (base + 8 * t))) then
    s.setDie d { off with tbase := BitVec.ofNat 64 base, gen := x.gen + 1 }
  else (s.setDie d off).logFront d 5 (physAddr base) 0

/-- Bytes of a field with a doubleword at an offset replaced. -/
def putDouble (l : List Byte) (len o : Nat) (v : W64) : List Byte :=
  (List.range len).map (fun i => if o ≤ i ∧ i < o + 8 then BitVec.ofNat 8 (v.toNat / 2 ^ (8 * (i - o))) else l.getD i 0)

/-- A request to the mailbox (10 R264): a write while GO is set has no effect; GO clears DONE, shows the request as busy (a boot
failure keeps its status, log 28), and starts what Clove answers. -/
def mboxRequest (s : State) (d : Nat) (v : W64) : State :=
  let m := (s.die d).mbox
  if bitsAt m.req 63 1 = 1 then s
  else
    let go := bitsAt v 63 1 == 1
    let busy : W64 := if (s.die d).boot.failed then 3 else 1
    let m' := { m with req := v &&& 0x800000000000FFFF, rsp := if go then (m.rsp &&& 0x00000000FFFF0000) ||| busy else m.rsp }
    let s1 := s.setDie d { s.die d with mbox := m' }
    let answer : Instr := match bitsAt v 0 16 with
      | 1 => .attest d
      | 2 => .readIdentityKey d
      | _ => .mboxBadCommand d
    if go then { s1.wake true d with agenda := s1.agenda ++ [.event answer] } else s1

/-- A write of a register that has no behaviour of its own (10 R256). -/
def plainReg (s : State) (d off : Nat) (v : W64) : State :=
  let x := s.die d
  let ring (r : RingReg) (o : Nat) : RingReg :=
    if o = 0 then { r with base := v } else if o = 8 then { r with size := v } else if o = 16 then { r with head := v }
    else { r with overflow := v }
  let m := x.mbox
  if off = 0 then s.setDie d { x with qt1base := v &&& 0xFFFFFFFFFFFFFFE0 }
  else if 0x1000 ≤ off ∧ off < 0x1020 then s.setDie d { x with vring := ring x.vring (off - 0x1000) }
  else if 0x1100 ≤ off ∧ off < 0x1120 then s.setDie d { x with ering := ring x.ering (off - 0x1100) }
  else if off = 0x1200 then s.setDie d { x with sridle := v.setWidth 32 }
  else if off = 0x2000 then s.setDie d { x with dumpBase := v }
  else if off = 0x2008 then s.setDie d { x with dumpCount := v }
  else if 0x10000 ≤ off ∧ off < 0x10800 then
    s.setDie d { x with peerwin := Cells.set 0 x.peerwin ((off - 0x10000) / 8) (v &&& 0x800000000000FF1F) }
  else if 0x100040 ≤ off ∧ off < 0x100080 then
    s.setDie d { x with mbox := { m with nonce := putDouble m.nonce 64 (off - 0x100040) v } }
  else if off = 0x100100 then s.setDie d { x with mbox := { m with rsp := v &&& 0x80000000FFFF00FF } }
  else if off = 0x100108 then s.setDie d { x with mbox := { m with bootErr := v &&& 0xFFFF } }
  else if 0x100200 ≤ off ∧ off < 0x101000 then
    s.setDie d { x with mbox := { m with answer := putDouble m.answer 3584 (off - 0x100200) v } }
  else s

/-- A doubleword written to die control space (10 R256). -/
def regWrite (s : State) (d off : Nat) (v : W64) : State :=
  if off = 0x10 then s.qcbInv d v
  else if off = 0x20 then s.teardown d (v.setWidth 20)
  else if off = 0x40 then s.notify d v
  else if off = 0x20010 then
    if bitsAt v 0 1 = 1 then s.routeInstall d v
    else s.setDie d { s.die d with pend := v &&& 0x0000FFFFFFFFF000 }
  else if off = 0x100000 then s.mboxRequest d v
  else s.plainReg d off v

/-- Bytes written to die control space: inside one register, or whole registers one after another. -/
def regStore (s : State) (d off : Nat) (bs : List Byte) : State :=
  if bs.length < 8 then
    let old := bytesOfNat 8 ((s.dieWord d (off / 8 * 8)).getD 0).toNat
    let o := off % 8
    s.regWrite d (off / 8 * 8) (BitVec.ofNat 64 (natOfBytes (old.take o ++ bs ++ old.drop (o + bs.length))))
  else
    ((wordsOf bs).foldl (fun (p : Nat × State) v => (p.1 + 8, p.2.regWrite d p.1 v)) (off, s)).2

end State

/-- NOTIFY (09 R213). -/
def execNotify (die : Nat) (value : W64) (s : State) : Host.Outcome State Fault Refusal := .next (s.notify die value)
/-- NOTIFY_DELIVERY (09 R213). -/
def execNotifyDelivery (die : Nat) (s : State) : Host.Outcome State Fault Refusal := .next (s.deliverLatched die)
/-- NOTIFY_RETRY (09 R211). -/
def execNotifyRetry (die : Nat) (s : State) : Host.Outcome State Fault Refusal := .next (s.retryHeld die)
/-- READ_RECORD (09 R214). -/
def execReadRecord (die pasid queue : Nat) (s : State) : Host.Outcome State Fault Refusal :=
  .next (s.readRecord die pasid queue)
/-- TEARDOWN (09 R222). -/
def execTeardown (die pasid : Nat) (s : State) : Host.Outcome State Fault Refusal :=
  .next (s.teardown die (BitVec.ofNat 20 pasid))
/-- QCBINV (10 R256). -/
def execQcbinv (die : Nat) (value : W64) (s : State) : Host.Outcome State Fault Refusal := .next (s.qcbInv die value)
/-- ROUTE_INSTALL (09 R233): PEND written with GO set. -/
def execRouteInstall (die : Nat) (value : W64) (s : State) : Host.Outcome State Fault Refusal :=
  .next (s.routeInstall die value)
/-- REGISTER_WRITE (10 R256). -/
def execRegisterWrite (die : Nat) (off value : W64) (s : State) : Host.Outcome State Fault Refusal :=
  .next (s.plainReg die (off.toNat / 8 * 8) value)

end Sys2Proof.Machine
end

