-- ==== Sys2Proof/Machine/Legal.lean ====
section
/-! DEFINITION. Who may issue what (11 R285, R258; 02 R32, R50), the Illegal-Instruction checks that look at the machine,
which registers a member names and writes (02 R55, R58), and the hardware loops (02 R38 to R41; 08 R193; 18 R352 to R354). -/

namespace Sys2Proof.Machine

/-- The strands that issue an instruction (11 R285): bits for L, C, S, K. -/
def Instr.strands (i : Instr) (st : StrandId) : Bool :=
  match i with
  | .ldB .. | .ldH .. | .ldW .. | .ldD .. | .ldBz .. | .ldHz .. | .ldWz .. | .st .. | .amoAdd .. | .amoMin .. | .amoMax ..
  | .amoMinu .. | .amoMaxu .. | .amoAnd .. | .amoOr .. | .amoXor .. | .amoSwap .. | .amoCas .. | .amoFaddF32 ..
  | .amoFaddBf16 .. | .clInv .. | .clWb .. | .clWbi .. | .ceCopy .. | .ceFill .. | .ceGath .. => decide (st ≠ .C)
  | .tld .. | .tldG .. | .probe .. => decide (st = .L)
  | .vadd .. | .vsub .. | .vmul .. | .vfma .. | .vmin .. | .vmax .. | .vabs .. | .vneg .. | .vcmp .. | .vsel ..
  | .vaddx .. | .vsubx .. | .vmulx .. | .dwadd .. | .dwmul .. | .dwfma .. | .dwnorm .. | .vaddSat .. | .vsubSat ..
  | .vmulSat .. | .vlogAnd .. | .vlogOr .. | .vlogXor .. | .vlogAndn .. | .vshShl .. | .vshShr .. | .vshShra ..
  | .vmov .. | .vrotr .. | .vrotc .. | .vbcr .. | .vbcc .. | .vsplat .. | .vext .. | .vins ..
  | .vredrAdd .. | .vredrMax .. | .vredrMin .. | .vredrCadd .. | .vredcAdd .. | .vredcMax .. | .vredcMin .. | .vredcCadd ..
  | .vsf .. | .vcvt .. | .mma .. | .mmaZ .. | .mxDrain .. | .mxLease .. | .mxFree | .mxFmt .. | .mxScl .. | .mxAct ..
  | .shape .. | .pset .. | .plogAnd .. | .plogOr .. | .plogXor .. | .plogAndn .. | .pmovToP .. | .pmovFromP .. | .lset ..
  | .trbset .. | .loopR .. | .loopRot .. => decide (st = .C)
  | .tst .. | .cstq .. => decide (st = .S)
  | .nbMv .. | .nbSaxpy .. | .nbRcpy .. | .nbRzero .. | .gsQry .. => decide (st = .S ∨ st = .K)
  | .rett | .tlbInv .. | .tuneDecl .. | .tuneObj .. | .tuneStep .. | .tuneFrz .. | .tuneRsm .. | .tuneSave .. | .tuneLoad ..
  | .wdPush .. | .wdPop .. | .wdSteal .. | .slotSet .. | .slotInv .. | .slotWb .. | .gsCfg .. | .engLnch .. => decide (st = .K)
  | .barArrive sc | .barWait sc | .barAw sc => decide (sc = .core ∨ st = .K)
  | _ => true

/-- Instructions that F may not issue, for it belongs to no gang (11 R285). -/
def Instr.gangOnly (i : Instr) : Bool :=
  match i with
  | .barArrive _ | .barWait _ | .barAw _ | .wdPush .. | .wdPop _ | .wdSteal _ => true
  | _ => false

/-- The scalar subset of Clove (10 R258). -/
def Instr.onClove (i : Instr) : Bool :=
  match i with
  | .add .. | .sub .. | .mul .. | .mulh .. | .mulhu .. | .div .. | .divu .. | .rem .. | .remu .. | .and .. | .or .. | .xor ..
  | .shl .. | .shr .. | .shra .. | .slt .. | .sltu .. | .min .. | .max .. | .minu .. | .maxu .. | .clz .. | .popc ..
  | .addi .. | .andi .. | .ori .. | .xori .. | .slti .. | .shli .. | .shri .. | .shrai .. | .lih ..
  | .beq .. | .bne .. | .blt .. | .bge .. | .bltu .. | .bgeu .. | .jal .. | .jalr ..
  | .ldB .. | .ldH .. | .ldW .. | .ldD .. | .ldBz .. | .ldHz .. | .ldWz .. | .st .. | .amoAdd .. | .amoMin .. | .amoMax ..
  | .amoMinu .. | .amoMaxu .. | .amoAnd .. | .amoOr .. | .amoXor .. | .amoSwap .. | .amoCas .. | .amoFaddF32 ..
  | .amoFaddBf16 .. | .fence _ | .bfence _ | .clInv .. | .clWb .. | .clWbi .. | .trap _ | .rett | .wait _ | .halt | .nop | .csrRd .. | .csrWr .. | .csrSet ..
  | .csrClr .. | .knrd .. | .dbgMark .. => true
  | _ => false

/-- CSRs that no context writes (17 R330). -/
def csrReadOnly (n : Nat) : Bool :=
  n == 0x000 || n == 0x001 || n == 0x002 || n == 0x003 || n == 0x004 || n == 0x021 || n == 0x030 || n == 0x03A || n == 0x03B ||
  n == 0x110 || n == 0x111 || (decide (0x0C0 ≤ n) && decide (n ≤ 0x0C4))

/-- CSRs that only F or Clove writes (17 R330). -/
def csrFirmware (n : Nat) : Bool :=
  n == 0x032 || (decide (0x100 ≤ n) && decide (n ≤ 0x104)) || (decide (0x200 ≤ n) && decide (n ≤ 0x214))

namespace Strand

/-- The innermost active level, if any. -/
def innermost (p : Strand) : Option Bool :=
  if p.loop1.active then some true else if p.loop0.active then some false else none

/-- The level of a number: true is level 1. -/
def level (p : Strand) (one : Bool) : LoopLevel := if one then p.loop1 else p.loop0
def setLevel (p : Strand) (one : Bool) (l : LoopLevel) : Strand := if one then { p with loop1 := l } else { p with loop0 := l }

/-- Closes every level whose body an address lies outside of (02 R39). -/
def leaveLoops (p : Strand) (t : W64) : Strand :=
  let f (l : LoopLevel) : LoopLevel :=
    if l.active ∧ (t.toNat < l.start.toNat ∨ l.stop.toNat ≤ t.toNat) then { l with active := false } else l
  { p with loop0 := f p.loop0, loop1 := f p.loop1 }

/-- Takes a committed setting of the knobs into the strand's view (08 R193): another strand than the control strand sees the commits of
earlier clk alone (R209), and a strand that has halted takes none. -/
def takeKnobs (p : Strand) (t : Tsu) (control : Bool) (cycle : W64) : Strand :=
  let now : Vector W16 16 × Nat := if control ∨ cycle ≠ t.commitClk then (t.setting, t.epoch) else (t.before, t.beforeEpoch)
  if p.viewEpoch < now.2 ∧ p.halted = false then { p with view := now.1, viewEpoch := now.2 } else p

/-- The back-edge of a level that does not rotate (02 R38): whether it is taken, and the strand after it. -/
def backEdge (p : Strand) (one : Bool) : Bool × Strand :=
  let l := p.level one
  if l.cnt = 0 then (false, p.setLevel one { l with idx := l.idx + 1, active := false })
  else (true, { p.setLevel one { l with idx := l.idx + 1, cnt := l.cnt - 1 } with pc := l.start })

end Strand

namespace State

/-- The level-0 back-edge of the acting strand, with the knob commit it takes (08 R193). -/
def backEdge0 (s : State) : State :=
  s.modMe (fun p => (p.takeKnobs s.ctx.tsu (s.strand == .K) s.cycle).backEdge false |>.2)

/-- What the end of a bundle does at an address where a loop body ends (18 R353): the level-1 back-edge first, and the
level-0 one where that closed level 1 or level 1 is not active. A rotating level has had its back-edge by LOOP.R. -/
def endOfBundle (s : State) : State :=
  let p := s.ctx.str s.strand
  if p.loop1.active ∧ p.loop1.stop = p.pc then
    if p.loop1.rotating then s
    else
      let (taken, q) := p.backEdge true
      let s1 := s.modMe (fun _ => q)
      if taken = false ∧ p.loop0.active ∧ p.loop0.rotating = false ∧ p.loop0.stop = p.pc then s1.backEdge0 else s1
  else if p.loop0.active ∧ p.loop0.rotating = false ∧ p.loop0.stop = p.pc then s.backEdge0
  else s

/-- Goes on at the end of a level-1 body that was left without its last bundle: a shared end is level 0's back-edge too
(18 R353). -/
def leaveAt (s : State) (one : Bool) (t : W64) : State :=
  let s1 := s.jumpTo t
  let p := s1.ctx.str s1.strand
  if one ∧ p.loop0.active ∧ p.loop0.rotating = false ∧ p.loop0.stop = t then s1.backEdge0 else s1

/-- Whether LOOP raises Illegal-Instruction here (18 R352). -/
def loopIllegal (s : State) (e : BitVec 15) : Bool :=
  let p := s.ctx.str s.strand
  let stop := s.issue.pc.toNat + 4 * e.toNat
  decide (e.toNat < 2) || p.loop1.active ||
    (p.loop0.active && (decide (p.loop0.stop.toNat < stop) || (p.loop0.rotating && decide (p.loop0.stop.toNat = stop))))

/-- Whether LOOP.R raises Illegal-Instruction here (18 R354). -/
def loopRIllegal (s : State) : Bool :=
  let p := s.ctx.str s.strand
  match p.innermost with
  | none => true
  | some one => !(p.level one).rotating || decide ((p.level one).stop ≠ s.issue.pc + 4)

/-- Whether a write of a CSR raises Illegal-Instruction (17 R330). -/
def csrIllegal (s : State) (n : BitVec 10) : Bool :=
  csrReadOnly n.toNat || (csrFirmware n.toNat && s.ctx.id.kind.isApp)

/-- The Illegal-Instruction checks of an instruction that look at the machine. -/
def illegal (s : State) (i : Instr) : Bool :=
  (decide (s.ctx.id.kind = .clove) && !Instr.onClove i) ||
  match i with
  | .loop _ e | .loopRot _ e => s.loopIllegal e
  | .loopR .. => s.loopRIllegal
  | .brkL => (s.ctx.str s.strand).innermost.isNone
  | .rett => !s.ctx.trap.active
  | .csrWr _ _ n => s.csrIllegal n
  | .csrSet _ a n | .csrClr _ a n => decide (a ≠ 0) && s.csrIllegal n
  | _ => false

/-- Whether a queue operation breaks the bindings of its queue (02 R32). -/
def bindingBad (s : State) (i : Instr) : Bool :=
  let prod (b : Option Binding) : Bool := match b with | some b => b.producer ≠ s.strand | none => true
  let cons (b : Option Binding) : Bool := match b with | some b => b.consumer ≠ s.strand | none => true
  let mqc (q : BitVec 3) : Bool := cons (s.ctx.q.mqMap.getD q.toNat none)
  let src (t : TSrc) : Bool := match t with | .mq q _ => mqc q | _ => false
  match i with
  | .qpush q _ => prod (s.ctx.q.mqMap.getD q.toNat none)
  | .qpop _ q _ => mqc q
  | .tldG _ _ _ m _ _ _ => mqc m
  | .tpost q _ => prod (s.ctx.q.tfMap.getD q.toNat none)
  | .twait q _ _ => cons (s.ctx.q.tfMap.getD q.toNat none)
  | .vfma _ _ a b c | .dwfma _ _ a b c => src a || src b || src c
  | .vadd _ _ a b | .vsub _ _ a b | .vmul _ _ a b | .vmin _ _ a b | .vmax _ _ a b | .vcmp _ _ a b _ | .vsel _ _ a b _
  | .vaddx _ _ a b | .vsubx _ _ a b | .vmulx _ _ a b | .dwadd _ _ a b | .dwmul _ _ a b | .vaddSat _ _ a b
  | .vsubSat _ _ a b | .vmulSat _ _ a b | .vlogAnd _ _ a b | .vlogOr _ _ a b | .vlogXor _ _ a b | .vlogAndn _ _ a b
  | .vshShl _ _ a b | .vshShr _ _ a b | .vshShra _ _ a b => src a || src b
  | .vabs _ _ a | .vneg _ _ a | .dwnorm _ _ a | .vmov _ _ a | .vrotr _ _ a _ | .vrotc _ _ a _ | .vbcr _ _ a | .vbcc _ _ a
  | .vsplat _ _ a | .vext _ _ a | .vins _ _ a | .vredrAdd _ _ a | .vredrMax _ _ a | .vredrMin _ _ a | .vredrCadd _ _ a
  | .vredcAdd _ _ a | .vredcMax _ _ a | .vredcMin _ _ a | .vredcCadd _ _ a | .vsf _ _ a _ | .vcvt _ _ a _ => src a
  | _ => false

/-- Whether an instruction raises Illegal-Strand (11 R285, 02 R32, R50). Clove follows R258 alone. -/
def strandBad (s : State) (i : Instr) : Bool :=
  if s.ctx.id.kind = .clove then false
  else !Instr.strands i s.strand || (decide (s.ctx.id.kind = .F) && Instr.gangOnly i) || s.bindingBad i

end State

/-- The two first checks of every instruction (17 R309): Illegal-Instruction, then Illegal-Strand. -/
def enter (i : Instr) : M Unit := do
  let s ← get
  require (!s.illegal i) .illegalInstruction
  require (!s.strandBad i) .illegalStrand

/-- The tile that an architectural name designates (02 R40). -/
def physTile (trb : BitVec 4) (r : Nat) : Nat := if r < 16 then r else 16 + (r - 16 + trb.toNat) % 16

/-- The scalar register an instruction writes, if any. -/
def Instr.result (i : Instr) : Option Reg :=
  match i with
  | .add d _ _ | .sub d _ _ | .mul d _ _ | .mulh d _ _ | .mulhu d _ _ | .div d _ _ | .divu d _ _ | .rem d _ _ | .remu d _ _
  | .and d _ _ | .or d _ _ | .xor d _ _ | .shl d _ _ | .shr d _ _ | .shra d _ _ | .slt d _ _ | .sltu d _ _ | .min d _ _
  | .max d _ _ | .minu d _ _ | .maxu d _ _ | .clz d _ | .popc d _
  | .addi d _ _ | .andi d _ _ | .ori d _ _ | .xori d _ _ | .slti d _ _ | .shli d _ _ | .shri d _ _ | .shrai d _ _ | .lih d _
  | .jal d _ | .jalr d _ _ | .ldB d _ _ | .ldH d _ _ | .ldW d _ _ | .ldD d _ _ | .ldBz d _ _ | .ldHz d _ _ | .ldWz d _ _
  | .amoAdd d _ _ _ | .amoMin d _ _ _ | .amoMax d _ _ _ | .amoMinu d _ _ _ | .amoMaxu d _ _ _ | .amoAnd d _ _ _
  | .amoOr d _ _ _ | .amoXor d _ _ _ | .amoSwap d _ _ _ | .amoCas d _ _ _ | .amoFaddF32 d _ _ | .amoFaddBf16 d _ _
  | .csrRd d _ | .csrWr d _ _ | .csrSet d _ _ | .csrClr d _ _ | .knrd d _ | .qpop d _ _ | .qstat d _ | .probe d _ _
  | .cstq d _ _ _ _ | .pmovFromP _ d | .shape d _ _ | .ceCopy d _ | .ceFill d _ | .ceGath d _ | .wdPush d _ | .wdPop d
  | .wdSteal d | .engSeq d _ | .engLnch d _ | .mxLease d | .mxFmt d _ _ | .mxAct d _
  | .nbMv d _ _ _ _ _ _ _ | .nbSaxpy d _ _ _ _ _ _ _ | .nbRcpy d _ _ _ _ _ _ | .nbRzero d _ _ _ _ _ | .gsQry d _ _ _ _ _ _ => some d
  | .tuneDecl d _ _ | .tuneObj d _ _ | .tuneStep d _ | .tuneFrz d | .tuneRsm d | .tuneSave d _ | .tuneLoad d _
  | .slotSet d _ | .slotInv d _ _ | .slotWb d _ _ | .gsCfg d _ _ => d
  | _ => none

/-- The scalar registers an instruction reads. -/
def Instr.sources (i : Instr) : List Reg :=
  match i with
  | .add _ a b | .sub _ a b | .mul _ a b | .mulh _ a b | .mulhu _ a b | .div _ a b | .divu _ a b | .rem _ a b | .remu _ a b
  | .and _ a b | .or _ a b | .xor _ a b | .shl _ a b | .shr _ a b | .shra _ a b | .slt _ a b | .sltu _ a b | .min _ a b
  | .max _ a b | .minu _ a b | .maxu _ a b | .beq a b _ | .bne a b _ | .blt a b _ | .bge a b _ | .bltu a b _ | .bgeu a b _
  | .st a b _ _ | .amoAdd _ a b _ | .amoMin _ a b _ | .amoMax _ a b _ | .amoMinu _ a b _ | .amoMaxu _ a b _ | .amoAnd _ a b _
  | .amoOr _ a b _ | .amoXor _ a b _ | .amoSwap _ a b _ | .amoCas _ a b _ | .amoFaddF32 _ a b | .amoFaddBf16 _ a b
  | .tld _ a b _ _ _ | .tldG _ a b _ _ _ _ | .tst _ a b _ _ | .cstq _ a b _ _ | .mxFmt _ a b | .mma _ _ a b _ _ _ _ _
  | .mmaZ _ _ a b _ _ _ _ _ | .tuneDecl _ a b | .tuneObj _ a b | .gsCfg _ a b | .gsQry _ a b _ _ _ _
  | .nbRcpy _ a b _ _ _ _ => [a, b]
  | .clz _ a | .popc _ a | .addi _ a _ | .andi _ a _ | .ori _ a _ | .xori _ a _ | .slti _ a _ | .shli _ a _ | .shri _ a _
  | .shrai _ a _ | .jalr _ a _ | .ldB _ a _ | .ldH _ a _ | .ldW _ a _ | .ldD _ a _ | .ldBz _ a _ | .ldHz _ a _ | .ldWz _ a _
  | .clInv _ a | .clWb _ a | .clWbi _ a | .tlbInv _ a | .loop a _ | .loopRot a _ | .csrWr _ a _ | .csrSet _ a _
  | .csrClr _ a _ | .dbgMark a _ | .qpush _ a | .probe _ a _ | .pmovToP _ a | .lset _ a _ | .trbset a _ | .shape _ a _
  | .ceCopy _ a | .ceFill _ a | .ceGath _ a | .tuneStep _ a | .tuneSave _ a | .tuneLoad _ a | .wdPush _ a | .slotSet _ a
  | .slotInv _ a _ | .slotWb _ a _ | .engWait _ a | .engLnch _ a | .mxScl a _ | .mxAct _ a
  | .mxDrain _ _ _ _ a _ _ _ _ _ | .nbRzero _ a _ _ _ _ => [a]
  | .nbMv _ a b c _ _ _ _ | .nbSaxpy _ a b c _ _ _ _ => [a, b, c]
  | _ => []

/-- What two members of a bundle may not both write (02 R55). -/
inductive Written
  | x (r : Reg) | csr (n : BitVec 10) | slot (n : BitVec 2) | pred (p : BitVec 4) | la | lb | trb
  | mq (q : BitVec 3) | lq (q : BitVec 2) | sq (q : Nat) | tile (n : Nat)
  deriving DecidableEq, Repr

/-- What a tile destination writes: n tiles, or a store queue. -/
def TDst.written (d : TDst) (trb : BitVec 4) (n : Nat) (pair : Bool) : List Written :=
  match d with
  | .tile r _ _ => (List.range n).map (fun j => .tile (physTile trb (r.toNat + j)))
  | .sq q => if pair then [.sq 0, .sq 1] else [.sq q.toNat]

/-- What an instruction writes of what R55 names. -/
def Instr.written (i : Instr) (trb : BitVec 4) : List Written :=
  let x : List Written := match Instr.result i with
    | some r => if r = 0 then [] else [.x r]
    | none => []
  x ++ match i with
  | .csrWr _ _ n => [.csr n]
  | .csrSet _ a n | .csrClr _ a n => if a = 0 then [] else [.csr n]
  | .shape _ _ n => [.slot n]
  | .pset p _ | .plogAnd p _ _ | .plogOr p _ _ | .plogXor p _ _ | .plogAndn p _ _ | .pmovToP p _ | .vcmp _ p _ _ _ =>
    if p = 0 then [] else [.pred p]
  | .loopRot .. => (List.range 8).map (fun k => .pred (BitVec.ofNat 4 (8 + k)))
  | .loopR .. => .trb :: (List.range 8).map (fun k => .pred (BitVec.ofNat 4 (8 + k)))
  | .lset b _ _ => [if b then .lb else .la]
  | .trbset .. => [.trb]
  | .qpush q _ => [.mq q]
  | .tld q .. | .tldG q .. => [.lq q]
  | .vaddx _ d _ _ | .vsubx _ d _ _ | .vmulx _ d _ _ | .dwadd _ d _ _ | .dwmul _ d _ _ | .dwfma _ d _ _ _ | .dwnorm _ d _ =>
    TDst.written d trb 2 true
  | .mxDrain _ d _ n _ _ _ _ _ _ => TDst.written d trb (n.toNat + 1) false
  | .vfma _ d _ _ _ | .vadd _ d _ _ | .vsub _ d _ _ | .vmul _ d _ _ | .vmin _ d _ _ | .vmax _ d _ _ | .vsel _ d _ _ _
  | .vaddSat _ d _ _ | .vsubSat _ d _ _ | .vmulSat _ d _ _ | .vlogAnd _ d _ _ | .vlogOr _ d _ _ | .vlogXor _ d _ _
  | .vlogAndn _ d _ _ | .vshShl _ d _ _ | .vshShr _ d _ _ | .vshShra _ d _ _
  | .vabs _ d _ | .vneg _ d _ | .vmov _ d _ | .vrotr _ d _ _ | .vrotc _ d _ _ | .vbcr _ d _ | .vbcc _ d _
  | .vsplat _ d _ | .vext _ d _ | .vins _ d _ | .vredrAdd _ d _ | .vredrMax _ d _ | .vredrMin _ d _
  | .vredcAdd _ d _ | .vredcMax _ d _ | .vredcMin _ d _ | .vsf _ d _ _ | .vcvt _ d _ _ => TDst.written d trb 1 false
  | .vredrCadd _ d _ | .vredcCadd _ d _ => TDst.written d trb 2 true
  | _ => []

/-- Members that keep their place behind one that waits: accesses to memory, fences, barriers, waits for engines, windows, deques,
tuning and what ends a bundle. Every other member of the bundle has its effect when the bundle issues (11 R268). -/
def Instr.inOrder (i : Instr) : Bool :=
  match i with
  | .ldB .. | .ldH .. | .ldW .. | .ldD .. | .ldBz .. | .ldHz .. | .ldWz .. | .st .. | .amoAdd .. | .amoMin .. | .amoMax ..
  | .amoMinu .. | .amoMaxu .. | .amoAnd .. | .amoOr .. | .amoXor .. | .amoSwap .. | .amoCas .. | .amoFaddF32 ..
  | .amoFaddBf16 .. | .clInv .. | .clWb .. | .clWbi .. | .fence _ | .bfence _ | .barArrive _ | .barWait _ | .barAw _ | .tlbInv ..
  | .tld .. | .tldG .. | .tst .. | .cstq .. | .probe .. | .slotSet .. | .slotInv .. | .slotWb .. | .qpush .. | .tpost ..
  | .ceCopy .. | .ceFill .. | .ceGath .. | .wdPush .. | .wdPop _ | .wdSteal _ | .engWait .. | .engLnch .. | .dbgMark .. | .gsCfg ..
  | .tuneDecl .. | .tuneObj .. | .tuneStep .. | .tuneFrz .. | .tuneRsm .. | .tuneSave .. | .tuneLoad .. => true
  | i => Instr.isControl i

/-- Members whose effect depends on the order of the strands in a clk (05 R136; 17 R319, R331). -/
def Instr.clkOrder (i : Instr) : Bool :=
  match i with
  | .ceCopy .. | .ceFill .. | .ceGath .. | .nbMv .. | .nbSaxpy .. | .nbRcpy .. | .nbRzero .. | .gsQry .. | .mma .. | .mmaZ ..
  | .mxDrain .. | .mxAct .. | .bfence _ | .csrWr .. => true
  | .csrSet _ a _ | .csrClr _ a _ => a ≠ 0
  | _ => false

/-- Whether a member writes MODE (02 R58). -/
def Instr.writesMode (i : Instr) : Bool :=
  match i with
  | .csrWr _ _ n => n = 0x104
  | .csrSet _ a n | .csrClr _ a n => a ≠ 0 ∧ n = 0x104
  | _ => false

/-- Whether a member names a register number of 28 to 31 (02 R58). -/
def Instr.namesBypass (i : Instr) : Bool :=
  (Instr.sources i ++ (Instr.result i).toList).any (fun r => decide (28 ≤ r.toNat))

end Sys2Proof.Machine
end

