-- ==== Sys2Proof/Machine/LoadStore.lean ====
section
/-! DEFINITION. Scalar loads, stores and atomics, fences, cache and translation maintenance, and the performing of posted
writes (05 R122, R129 to R135, R144, R146, R147; 04 R114; 17 R312 to R314, R319, R327, R328; 18 R343, R349, R350; 19 R385,
R386, R388 to R390). -/

namespace Sys2Proof.Machine

/-- The load strand's accesses are performed in program order: later ones wait for its tile loads (05 R123, R130). Loads of
earlier bundles keep the bundle from issuing; those of the bundle itself hold the member after its issue (11 R268). -/
def tilesDone : M Unit := do
  let s ← get
  check (s.strand != .L || s.ctx.loads.isEmpty) (if s.rd.loads.isEmpty then .wait .interlock else .block .interlock)

/-- A scalar load of n bytes (18 R349, R350). -/
def loadM (i : Instr) (d a : Reg) (off : BitVec 12) (n : Nat) (ext : Nat → W64) : M Unit := do
  enter i
  let s ← get
  let va := s.getX a + sext64 off
  checkAddr va n
  tilesDone
  let (t, _) ← findT s.strand 0 va false
  let bs ← readM s.strand va t n
  wx d (ext (natOfBytes bs))

/-- LD.B (18 R349). -/
def execLdB (d a : Reg) (off : BitVec 12) (s : State) : Host.Outcome State Fault Refusal :=
  run (loadM (.ldB d a off) d a off 1 (fun v => sext64 (BitVec.ofNat 8 v))) s
/-- LD.H. -/
def execLdH (d a : Reg) (off : BitVec 12) (s : State) : Host.Outcome State Fault Refusal :=
  run (loadM (.ldH d a off) d a off 2 (fun v => sext64 (BitVec.ofNat 16 v))) s
/-- LD.W. -/
def execLdW (d a : Reg) (off : BitVec 12) (s : State) : Host.Outcome State Fault Refusal :=
  run (loadM (.ldW d a off) d a off 4 (fun v => sext64 (BitVec.ofNat 32 v))) s
/-- LD.D. -/
def execLdD (d a : Reg) (off : BitVec 12) (s : State) : Host.Outcome State Fault Refusal :=
  run (loadM (.ldD d a off) d a off 8 (BitVec.ofNat 64)) s
/-- LD.BZ. -/
def execLdBz (d a : Reg) (off : BitVec 12) (s : State) : Host.Outcome State Fault Refusal :=
  run (loadM (.ldBz d a off) d a off 1 (BitVec.ofNat 64)) s
/-- LD.HZ. -/
def execLdHz (d a : Reg) (off : BitVec 12) (s : State) : Host.Outcome State Fault Refusal :=
  run (loadM (.ldHz d a off) d a off 2 (BitVec.ofNat 64)) s
/-- LD.WZ. -/
def execLdWz (d a : Reg) (off : BitVec 12) (s : State) : Host.Outcome State Fault Refusal :=
  run (loadM (.ldWz d a off) d a off 4 (BitVec.ofNat 64)) s

/-- Bytes of a store's size. -/
def stBytes : StSize → Nat
  | .b => 1 | .h => 2 | .w => 4 | .d => 8

/-- ST (19 R385, R386). -/
def execSt (v a : Reg) (size : StSize) (off : BitVec 12) (s : State) : Host.Outcome State Fault Refusal :=
  run (do
    enter (.st v a size off)
    let va := s.getX a + sext64 off
    checkAddr va (stBytes size)
    tilesDone
    let (t, _) ← findT s.strand 0 va true
    writeM s.strand s.issue.pc va t (bytesOfNat (stBytes size) (s.getX v).toNat)) s

/-- Bytes of an atomic. -/
def amoBytes : AmoSize → Nat
  | .w => 4 | .d => 8

/-- What an atomic does at one place of the order: its old value; the new one is written unless there is none. -/
def swapM (va : W64) (t : Target) (n : Nat) (f : Nat → Option Nat) : M Nat := do
  let s ← get
  match t with
  | .regs .. => violate 4 va
  | _ =>
    clearFor s.strand t n
    checkLink va t
    let (g, s1) := s.readT t n
    set s1
    if g.poison then
      modify (fun s => s.noteEcc 2 g.lost va)
      throw (.fault .poison va)
    let old := natOfBytes g.data
    match f old with
    | some v => modify (fun s => s.writeT t (bytesOfNat n v))
    | none => pure ()
    pure old

/-- The address of an atomic and where it goes: every atomic needs write permission (17 R312, R313). -/
def amoAddr (i : Instr) (a : Reg) (n : Nat) : M (W64 × Target × W64) := do
  enter i
  let s ← get
  let va := s.getX a
  checkAddr va n
  tilesDone
  let (t, leaf) ← findT s.strand 0 va true
  pure (va, t, leaf)

/-- An integer atomic (17 R312): `f` takes the old value and the operand. -/
def amoM (i : Instr) (d a b : Reg) (z : AmoSize) (f : Nat → Nat → Nat → Option Nat) : M Unit := do
  let (va, t, _) ← amoAddr i a (amoBytes z)
  let s ← get
  let m := 2 ^ (8 * (amoBytes z))
  let old ← swapM va t (amoBytes z) (fun o => (f o ((s.getX b).toNat % m) ((s.getX d).toNat % m)).map (· % m))
  wx d (match z with
    | .w => sext64 (BitVec.ofNat 32 old)
    | .d => BitVec.ofNat 64 old)

/-- The signed value of the low 8·n bits. -/
def signedOf (z : AmoSize) (v : Nat) : Int := if v < 2 ^ (8 * (amoBytes z) - 1) then v else (v : Int) - (2 ^ (8 * (amoBytes z)) : Nat)

/-- AMO.ADD (17 R312). -/
def execAmoAdd (d a b : Reg) (z : AmoSize) (s : State) : Host.Outcome State Fault Refusal :=
  run (amoM (.amoAdd d a b z) d a b z (fun o x _ => some (o + x))) s
/-- AMO.MIN, signed. -/
def execAmoMin (d a b : Reg) (z : AmoSize) (s : State) : Host.Outcome State Fault Refusal :=
  run (amoM (.amoMin d a b z) d a b z (fun o x _ => some (if signedOf z x < signedOf z o then x else o))) s
/-- AMO.MAX, signed. -/
def execAmoMax (d a b : Reg) (z : AmoSize) (s : State) : Host.Outcome State Fault Refusal :=
  run (amoM (.amoMax d a b z) d a b z (fun o x _ => some (if signedOf z o < signedOf z x then x else o))) s
/-- AMO.MINU. -/
def execAmoMinu (d a b : Reg) (z : AmoSize) (s : State) : Host.Outcome State Fault Refusal :=
  run (amoM (.amoMinu d a b z) d a b z (fun o x _ => some (Nat.min o x))) s
/-- AMO.MAXU. -/
def execAmoMaxu (d a b : Reg) (z : AmoSize) (s : State) : Host.Outcome State Fault Refusal :=
  run (amoM (.amoMaxu d a b z) d a b z (fun o x _ => some (Nat.max o x))) s
/-- AMO.AND. -/
def execAmoAnd (d a b : Reg) (z : AmoSize) (s : State) : Host.Outcome State Fault Refusal :=
  run (amoM (.amoAnd d a b z) d a b z (fun o x _ => some (o &&& x))) s
/-- AMO.OR. -/
def execAmoOr (d a b : Reg) (z : AmoSize) (s : State) : Host.Outcome State Fault Refusal :=
  run (amoM (.amoOr d a b z) d a b z (fun o x _ => some (o ||| x))) s
/-- AMO.XOR. -/
def execAmoXor (d a b : Reg) (z : AmoSize) (s : State) : Host.Outcome State Fault Refusal :=
  run (amoM (.amoXor d a b z) d a b z (fun o x _ => some (o ^^^ x))) s
/-- AMO.SWAP. -/
def execAmoSwap (d a b : Reg) (z : AmoSize) (s : State) : Host.Outcome State Fault Refusal :=
  run (amoM (.amoSwap d a b z) d a b z (fun _ x _ => some x)) s
/-- AMO.CAS (17 R314): xd is the expected value and receives the old one. -/
def execAmoCas (d a b : Reg) (z : AmoSize) (s : State) : Host.Outcome State Fault Refusal :=
  run (amoM (.amoCas d a b z) d a b z (fun o x e => if o = e then some x else none)) s

/-- The pending adds of the home slice of a word, by the layout of the leaf through which it is named (04 R101, 05 R147). -/
def slicePending (m : Mem) (bank : Bool) (key : Nat) : Nat :=
  (m.adds.filter (fun a => stackOf a.key == stackOf key && sliceOf a.bank a.key == sliceOf bank key)).length

/-- A floating add that is performed at once (17 R314, 03 R87). -/
def faddNow (d : Reg) (bf16 : Bool) (x : W32) (va : W64) (t : Target) : M Unit := do
  let old ← swapM va t 4 (fun o => some (faddWord bf16 (BitVec.ofNat 32 o) x).toNat)
  wx d (BitVec.ofNat 64 old)

/-- A deferred add with its key (05 R146) joins the list of its word: at the home slice of a word of DRAM; for a word of host or peer
memory, which has none, at one list for each that has no limit (DESIGN CHOICE, log 78). -/
def State.deferAdd (s : State) (t : Target) (bf16 : Bool) (x : W32) : State :=
  let n := (s.ctx.str s.strand).adds
  let add (key : Nat) (bank : Bool) : PendingAdd := { key, bank, item := s.ctx.id.item, strand := s.strand.code, n, value := x, bf16 }
  let m : Mem := match t with
    | .hbm key bank .. => { s.mem.dropCopies (key / 128) with adds := s.mem.adds ++ [add key bank] }
    | .host a => { s.mem with hostAdds := s.mem.hostAdds ++ [add a false] }
    | .peer d w a => { s.mem with peerAdds := s.mem.peerAdds ++ [add ((s.peerByte d w a).getD 0) false] }
    | _ => s.mem
  { s with mem := m }.modMe (fun q => { q with adds := n + 1 })

/-- A deferred add (05 R146, R147): it is refused where its slice's pending store is full. -/
def faddLater (d : Reg) (bf16 : Bool) (x : W32) (va : W64) (t : Target) : M Unit := do
  let s ← get
  check (!s.postedOn s.strand t 4) (s.waitOr (fun u => u.postedOn s.strand t 4) .posted)
  checkLink va t
  if s.poisonedT t then
    modify (fun s => s.noteEcc 2 (s.lostT t) va)
    throw (.fault .poison va)
  let full : Bool := match t with | .hbm key bank .. => decide (4096 ≤ slicePending s.mem bank key) | _ => false
  if full then violate 7 va
  modify (fun s => s.deferAdd t bf16 x)
  wx d 0

/-- A floating atomic (17 R314, 03 R87): on a deterministic-reduction page, of whatever space, it is refused in a context that is
not deterministic, and deferred in one that is (05 R146, R147). -/
def faddM (i : Instr) (d a b : Reg) (bf16 : Bool) : M Unit := do
  let (va, t, leaf) ← amoAddr i a 4
  let s ← get
  let x : W32 := (s.getX b).setWidth 32
  let paged : Bool := s.ctx.id.kind != .clove && !isScratch va && bitsAt leaf 12 1 == 1
  if paged && !(s.ctx.id.det && s.ctx.id.kind.isApp) then violate 6 va
  match t with
  | .regs .. => faddNow d bf16 x va t
  | _ => if paged then faddLater d bf16 x va t else faddNow d bf16 x va t

/-- AMO.FADD.F32. -/
def execAmoFaddF32 (d a b : Reg) (s : State) : Host.Outcome State Fault Refusal :=
  run (faddM (.amoFaddF32 d a b) d a b false) s
/-- AMO.FADD.BF16. -/
def execAmoFaddBf16 (d a b : Reg) (s : State) : Host.Outcome State Fault Refusal :=
  run (faddM (.amoFaddBf16 d a b) d a b true) s

/-- Whether a part has near-bank units, and graph engines (00 R1). -/
def Part.hasNear (p : Part) : Bool := p != .sl3240m

/-- The commands of the acting context without those that later members of the same bundle have issued. -/
def State.engBefore (s : State) : Engines :=
  match s.issue.snap with
  | none => s.ctx.eng
  | some p => { s.ctx.eng with cmds := s.ctx.eng.cmds.filter (fun c =>
      !(c.strand == s.strand && !seqBelow c.seq p.ctx.eng.seqno && decide (s.issue.pc.toNat < c.pc.toNat))) }

/-- Waits at a fence: for what preceded the bundle before it issues, and for what its earlier members did afterwards. -/
def fenceM (sc : Scope) (point : Option W32) (whenBlocked : Block → Block) : M Unit := do
  let s ← get
  match Engines.fenceWaits s.engBefore s.strand s.ctx.id.die sc point with
  | none => pure ()
  | some b =>
    throw (if (Engines.fenceWaits s.rd.eng s.strand s.ctx.id.die sc point).isSome then .block (whenBlocked b) else .wait (whenBlocked b))

/-- FENCE (05 R134, 18 R343). -/
def execFence (sc : Scope) (s : State) : Host.Outcome State Fault Refusal :=
  run (do enter (.fence sc); tilesDone; fenceM sc none id) s

/-- The dirty sectors of BANK pages in the L2 of the dies within a scope (05 R135). -/
def bankDirty (m : Mem) (die : Nat) (sc : Scope) : List Nat :=
  m.l2.filterMap (fun e => match e.2 with
    | some x => if x.bank && x.dirty && (decide (3 ≤ sc.code) || decide (stackOf (32 * e.1) = die)) then some e.1 else none
    | none => none)

/-- They are written back. -/
def flushBank (m : Mem) (die : Nat) (sc : Scope) : Mem := (bankDirty m die sc).foldl Mem.writeBack m

/-- The write-backs of sectors are requests at their pseudo-channels (07 R178, 10 R241). -/
def State.noteWriteBacks (s : State) (sectors : List Nat) : State := sectors.foldl (fun (t : State) n => t.noteRequest (32 * n)) s

/-- BFENCE (05 R135, 17 R319; 00 R8): its point stands from its first attempt to issue; in a bundle that has issued it is SEQNO at that
issue, for near-bank commands share no bundle with a BFENCE. -/
def execBfence (sc : Scope) (s : State) : Host.Outcome State Fault Refusal :=
  run (do
    enter (.bfence sc)
    tilesDone
    if s.part.hasNear then
      let point : W32 := match (s.ctx.str s.strand).blocked with
        | some (.fence q) => q
        | _ => s.rd.eng.seqno
      fenceM sc (some point) (fun _ => .fence point)
      modify (fun s => { (s.noteWriteBacks (bankDirty s.mem s.ctx.id.die sc)) with mem := flushBank s.mem s.ctx.id.die sc })
    else fenceM sc none id) s

/-- The copies a maintenance instruction of a scope reaches (17 R327). -/
def Copy.within (c : Copy) (sc : Scope) (core die : Nat) : Bool :=
  let own := c.cache != .rdc
  match sc with
  | .core => own && decide (c.holder = core)
  | .cluster => own && decide (c.holder / 4 = core / 4)
  | .die => if own then decide (c.holder / 64 = die) else decide (c.holder = die)
  | _ => true

/-- Discards the copies of a line within a scope, and with it the home L2's (17 R327). -/
def discardLine (m : Mem) (key : Nat) (sc : Scope) (core die : Nat) : Mem :=
  let line := key / 128
  let m1 := { m with copies := m.copies.filter (fun c => c.line != line || !c.within sc core die) }
  if decide (3 ≤ sc.code) || (decide (sc.code = 2) && decide (stackOf key = die)) then
    (List.range 4).foldl (fun m i => m.drop (4 * line + i)) m1
  else m1

/-- Writes a line of the home L2 back. -/
def cleanLine (m : Mem) (key : Nat) : Mem := (List.range 4).foldl (fun m i => m.writeBack (4 * (key / 128) + i)) m

/-- The dirty sectors of a line in the home L2. -/
def lineDirty (m : Mem) (key : Nat) : List Nat :=
  ((List.range 4).map (fun i => 4 * (key / 128) + i)).filter (fun n => (m.held n).any (·.dirty))

/-- CL.INV, CL.WB and CL.WBI (17 R327, R328). -/
def clM (i : Instr) (sc : Scope) (a : Reg) (wb inv : Bool) : M Unit := do
  enter i
  tilesDone
  let s ← get
  let va := s.getX a
  check (s.ctx.id.kind == .clove || bitsAt va 55 9 == 0) (.violation 11 va)
  let (t, leaf) ← findAny s.strand 0 va false
  let mapped := s.ctx.id.kind ≠ .clove ∧ isScratch va = false
  if inv ∧ wb = false ∧ mapped ∧ (bitsAt leaf 5 2 = 1 ∨ bitsAt leaf 4 1 = 0) then violate 2 va
  match t with
  | .hbm k _ cache false =>
    if cache < 2 then
      modify (fun s =>
        let m0 := foldAdds s.mem (k / 128 * 128) 128
        let m1 := if wb then cleanLine m0 k else m0
        { (if wb then s.noteWriteBacks (lineDirty m0 k) else s) with mem := if inv then discardLine m1 k sc s.here s.ctx.id.die else m1 })
  | _ => pure ()

/-- CL.INV. -/
def execClInv (sc : Scope) (a : Reg) (s : State) : Host.Outcome State Fault Refusal := run (clM (.clInv sc a) sc a false true) s
/-- CL.WB. -/
def execClWb (sc : Scope) (a : Reg) (s : State) : Host.Outcome State Fault Refusal := run (clM (.clWb sc a) sc a true false) s
/-- CL.WBI. -/
def execClWbi (sc : Scope) (a : Reg) (s : State) : Host.Outcome State Fault Refusal := run (clM (.clWbi sc a) sc a true true) s

/-- The TLBs a TLB.INV of a scope reaches (19 R388): stream 10 is the tile fetch unit's. -/
def TlbEntry.within (t : TlbEntry) (sc : Scope) (core : Nat) : Bool :=
  match sc with
  | .core => decide (t.core = core) && decide (t.stream ≠ 10)
  | .cluster => decide (t.core / 4 = core / 4)
  | .die => decide (t.core / 64 = core / 64)
  | _ => true

/-- Whether a core lies within a scope of another. -/
def coreWithin (sc : Scope) (core n : Nat) : Bool :=
  match sc with
  | .core => decide (n = core)
  | .cluster => decide (n / 4 = core / 4)
  | .die => decide (n / 64 = core / 64)
  | _ => true

/-- TLB.INV (19 R388, R389): it waits for the strand's own earlier accesses, for accesses made under the translations and for
started near-bank commands and graph queries that may hold one. -/
def execTlbInv (sc : Scope) (a : Reg) (s : State) : Host.Outcome State Fault Refusal :=
  run (do
    enter (.tlbInv sc a)
    let va := s.getX a
    let f := s.ctx.id.kind = .F
    let all := f ∧ s.hereCore.tlbAll
    let target := if f then s.hereCore.tlbPasid else s.ctx.id.pasid
    let hit (p : BitVec 20) : Bool := decide all || p == target
    let mine (c : Ctx) : Bool := coreWithin sc s.here (State.coreNo c.id) && hit (if c.id.kind.isApp then c.id.pasid else 0)
    let busy (c : Ctx) : Bool := mine c &&
      (c.eng.cmds.any (fun m => m.started && (m.cls == .nbu || m.cls == .gse)) || !c.eng.posted.isEmpty)
    let own (c : Ctx) : Bool := busy c || c.eng.posted.any (fun p => p.strand == s.strand)
    check (!s.others.any busy) (.block .upkeep)
    check (!own s.ctx) (if own s.rd then .block .upkeep else .wait .upkeep)
    let drop (t : TlbEntry) : Bool :=
      t.within sc s.here && hit t.pasid && (decide (a = 0) || decide (va.toNat % 2 ^ 55 / 65536 / t.pages = t.vpage))
    modify (fun s => { s with mem := { s.mem with tlb := s.mem.tlb.filter (fun t => !drop t) } })) s

namespace State

/-- A sector leaves the home L2: a dirty one is written back; a line with pending adds stays (05 R129, R146). -/
def dropSector (s : State) (n : Nat) : State :=
  if hasAdds s.mem n then s else { s with mem := (s.mem.writeBack n).drop n }

/-- The home L2 evicts a sector (05 R129, R131, R144): the write-back of a dirty one waits where a near-bank command occupies its
pseudo-channel (07 R178). -/
def evict (s : State) (n : Nat) : State :=
  let place := (stackOf (32 * n), s.pchAt (32 * n))
  match s.mem.held n with
  | none => s
  | some x =>
    if x.dirty = false then s.dropSector n
    else if occupied (s.stack place.1) place.2 then s.standIn (.writeBack n) [place]
    else (s.noteRequest (32 * n)).dropSector n

/-- A pseudo-channel serves its n oldest requests (07 R177, R178): a write-back is made, and who else has waited may make its access
while the service lasts. -/
def servePch (s : State) (k p n : Nat) : State :=
  let done := ((Cells.get Pch.reset (s.stack k).pchs p).requests.take n).filterMap (·.who)
  let back (w : Asker) : Option Nat := match w with | .writeBack m => some m | _ => none
  (done.filterMap back).foldl dropSector (s.modPch k p (fun y => { y with
    requests := y.requests.drop n, servedAt := s.cycle.toNat,
    passed := (if y.serving s.cycle.toNat then y.passed else []) ++ done.filter (fun w => (back w).isNone) }))

/-- It serves every request that waits. -/
def serveAll (s : State) (k p : Nat) : State := s.servePch k p (Cells.get Pch.reset (s.stack k).pchs p).requests.length

/-- The sectors that an L2 slice with more than its 1 MiB of lines can evict (01 R15, R21; 04 R101). -/
def overSlice (m : Mem) : Option (List Nat) :=
  let slice (e : Nat × Option Sector) : Nat × Nat := (stackOf (32 * e.1), sliceOf (e.2.any (·.bank)) (32 * e.1))
  m.l2.findSome? (fun e =>
    let mine := (m.l2.filter (fun x => slice x == slice e)).map (·.1)
    if 8192 < (mine.map (· / 4)).eraseDups.length then some (mine.filter (fun n => !hasAdds m n)) else none)

/-- A slice that holds too much evicts: which sector goes is open (log 24). -/
def fitL2 : Nat → State → State
  | 0, s => s
  | n + 1, s =>
    match overSlice s.mem with
    | none => s
    | some l => fitL2 n ({ s with free := s.free + 1 }.evict (l.getD ((Config.freeWord s.free).toNat % l.length) 0))

/-- Lines that a cache of copies holds: 64 KiB of an L1, 128 KiB of an instruction cache, 32 MiB of an RDC (01 R15, R21). -/
def copyRoom : CopyIn → Nat
  | .l1 => 512
  | .icache => 1024
  | .rdc => 262144

/-- The oldest copies of a cache that holds too many go. -/
def fitCopies : List Copy → List Copy
  | [] => []
  | c :: rest =>
    if (rest.filter (fun d => d.cache == c.cache && d.holder == c.holder)).length < copyRoom c.cache then c :: fitCopies rest
    else fitCopies rest

/-- What the caches hold fits them (01 R15, R21). -/
def fitCaches (s : State) : State :=
  let t : State := if s.mem.copies.length ≤ 512 then s else { s with mem := { s.mem with copies := fitCopies s.mem.copies } }
  if t.mem.l2.length ≤ 8192 then t else fitL2 t.mem.l2.length t

end State

/-- A posted write reaches its target (05 R130, 19 R386): errors found there are raised deferred (09 R433). -/
def State.performPosted (s : State) (p : Posted) : State :=
  let late (t : State) (c : Cause) : State := t.raiseDeferred { strand := p.strand, cause := c.code, pc := p.pc, addr := p.va }
  match s.linkError p.target with
  | some (.accessViolation, k) =>
    late (s.logViolation s.ctx.id.die k p.va (s.reqOf p.strand 0).pasid (s.partyOf p.strand)) .accessViolation
  | some (c, _) => late s c
  | none =>
    if s.poisonedT p.target && p.data.length != 32 then late (s.noteEcc 2 (s.lostT p.target) p.va) .poison
    else match p.target with
      | .regs d o =>
        if (s.dieWord d (o / 8 * 8)).isSome then s.regStore d o p.data
        else late (s.logViolation s.ctx.id.die 4 p.va (s.reqOf p.strand 0).pasid (s.partyOf p.strand)) .accessViolation
      | t => s.writeT t p.data p.poison

/-- A notify waits where every latch of a gated front end is taken (09 R213). -/
def State.notifyHeld (s : State) (t : Target) : Bool :=
  match t with
  | .regs d o => o / 8 * 8 == 0x40 && s.latchesFull d
  | _ => false

/-- POSTED_WRITE_PERFORM: entry n of the posted writes, unless an earlier one of its strand has the same target (05 R130). -/
def execPostedWritePerform (n : Nat) (s : State) : Host.Outcome State Fault Refusal :=
  .next (match s.ctx.eng.posted[n]? with
    | none => s
    | some p =>
      if (s.ctx.eng.posted.take n).any (fun q => q.strand == p.strand && q.target.group == p.target.group) ∨ s.notifyHeld p.target then s
      else (s.modCtx (fun c => { c with eng := { c.eng with posted := c.eng.posted.eraseIdx n } })).performPosted p)

/-- CACHE_LEASE_EXPIRY (05 R122): a read copy goes. -/
def execCacheLeaseExpiry (copy : Nat) (s : State) : Host.Outcome State Fault Refusal :=
  .next { s with mem := { s.mem with copies := s.mem.copies.eraseIdx copy } }

end Sys2Proof.Machine
end

