-- ==== Sys2Proof/Machine/Barrier.lean ====
section
/-! DEFINITION. Barriers (02 R50, R51; 17 R315, R316). -/

namespace Sys2Proof.Machine

/-- The number of a barrier scope, from the narrowest. -/
def barScopeNo : BarScope → Nat
  | .core => 0 | .cluster => 1 | .die => 2 | .package => 3

namespace State

/-- The task of the acting context. -/
def hereTask (s : State) : Option Task := s.tasks.find? (fun t => t.id == s.ctx.id.task)

/-- The scope that counts: none is wider than the task's placement level (02 R50). -/
def barScope (s : State) (sc : BarScope) : BarScope :=
  match sc, (s.hereTask.map (fun t => lrecLevel t.lrec)).getD 0 with
  | .die, 0 | .package, 0 => .cluster
  | .package, 1 => .die
  | sc, _ => sc

/-- The placement level of the acting context's task. -/
def hereLevel (s : State) : Nat := (s.hereTask.map (fun t => lrecLevel t.lrec)).getD 0

/-- The instance of a scope that an item belongs to (02 R50): at the placement level there is one for the gang, wherever it
lies. -/
def barInstance (level : Nat) (sc : BarScope) (i : Ident) : Nat :=
  match sc with
  | .cluster => if level = 0 then 0 else coreNo i / 4
  | .die => if level = 1 then 0 else i.die
  | _ => 0

/-- Whether an item shares the acting item's instance of a scope. -/
def sharesBarrier (s : State) (sc : BarScope) (c : Ctx) : Bool :=
  c.id.kind.isApp && c.id.task == s.ctx.id.task && c.id.gang == s.ctx.id.gang && barInstance s.hereLevel sc c.id == barInstance s.hereLevel sc s.ctx.id

/-- Whether a record is the acting item's instance of a scope. -/
def isBarrier (s : State) (sc : BarScope) (b : Barrier) : Bool :=
  b.task == s.ctx.id.task && b.gang == s.ctx.id.gang && b.scope == sc && b.instance_ == barInstance s.hereLevel sc s.ctx.id

/-- The instance of a scope wider than a core. -/
def findBarrier (s : State) (sc : BarScope) : Barrier :=
  (s.barriers.find? (s.isBarrier sc)).getD
    { task := s.ctx.id.task, gang := s.ctx.id.gang, scope := sc, instance_ := barInstance s.hereLevel sc s.ctx.id, gen := 0, arrived := [] }

/-- Keeps an instance. -/
def setBarrier (s : State) (sc : BarScope) (b : Barrier) : State :=
  { s with barriers := b :: s.barriers.filter (fun x => !s.isBarrier sc x) }

/-- The generation that is being gathered. -/
def barGenOf (s : State) (sc : BarScope) : Nat := if sc = .core then s.ctx.barGen else (s.findBarrier sc).gen

/-- The generation completes when every participant has arrived; an ended item counts as arriving (02 R51). -/
def advanceBarrier (s : State) (sc : BarScope) : State :=
  if sc = .core then
    let g := s.ctx.barGen
    let there (p : Strand) : Bool := p.arrived.getD 0 none == some g
    if there s.ctx.l && there s.ctx.c && there s.ctx.s && there s.ctx.k then s.modCtx (fun c => { c with barGen := g + 1 }) else s
  else
    let b := s.findBarrier sc
    let waits := (s.ctx :: s.others).any (fun c =>
      s.sharesBarrier sc c && c.id.residency != .ended && !b.arrived.contains c.id.item.toNat)
    if waits then s else s.setBarrier sc { b with gen := b.gen + 1, arrived := [] }

/-- The generation of a strand's last arrive at a scope, until its wait completes. -/
def lastArrive (s : State) (st : StrandId) (sc : BarScope) : Option Nat := (s.ctx.str st).arrived.getD (barScopeNo sc) none

/-- Sets the generation of a strand's last arrive. -/
def setArrive (s : State) (st : StrandId) (sc : BarScope) (g : Option Nat) : State :=
  s.modCtx (fun c => c.modStr st (fun p => { p with arrived := p.arrived.setIfInBounds (barScopeNo sc) g }))

/-- Whether a strand still waits at a scope: the generation of its last arrive is not complete. -/
def barWaits (s : State) (st : StrandId) (sc : BarScope) : Bool := s.lastArrive st sc == some (s.barGenOf sc)

/-- A strand arrives (02 R51). -/
def arrive (s : State) (st : StrandId) (sc : BarScope) : State :=
  let s1 := s.setArrive st sc (some (s.barGenOf sc))
  let s2 := if sc = .core then s1 else
    let b := s1.findBarrier sc
    s1.setBarrier sc { b with arrived := s1.ctx.id.item.toNat :: b.arrived }
  s2.advanceBarrier sc

end State

/-- The arrive of the acting strand: a second one blocks until the first one's generation completes, and it follows every
earlier access of the strand (02 R51, 05 R127). -/
def arriveM (sc : BarScope) : M Unit := do
  tilesDone
  modify (fun s => s.advanceBarrier sc)
  let s ← get
  check (!s.barWaits s.strand sc) (.block .barrier)
  modify (fun s => s.arrive s.strand sc)

/-- BAR.ARRIVE (02 R51). -/
def execBarArrive (sc : BarScope) (s : State) : Host.Outcome State Fault Refusal :=
  run (do enter (.barArrive sc); arriveM (s.barScope sc)) s

/-- BAR.WAIT (02 R51). -/
def execBarWait (sc : BarScope) (s : State) : Host.Outcome State Fault Refusal :=
  run (do
    enter (.barWait sc)
    let e := s.barScope sc
    modify (fun s => s.advanceBarrier e)
    let t ← get
    check (!t.barWaits t.strand e) (.block .barrier)
    modify (fun s => s.setArrive s.strand e none)) s

/-- BAR.AW (17 R316): the arrive is done when the bundle issues; the strand then waits. -/
def execBarAw (sc : BarScope) (s : State) : Host.Outcome State Fault Refusal :=
  run (do
    enter (.barAw sc)
    let e := s.barScope sc
    arriveM e
    modify (fun s => if s.barWaits s.strand e then s.modMe (fun p => { p with barWait := some sc }) else s.setArrive s.strand e none)) s

/-- BARRIER_RELEASE (17 R316): the wait half of a BAR.AW completes. -/
def execBarrierRelease (st : StrandId) (s : State) : Host.Outcome State Fault Refusal :=
  .next (match (s.ctx.str st).barWait with
    | none => s
    | some sc =>
      let e := s.barScope sc
      let t := s.advanceBarrier e
      if t.barWaits st e then t
      else (t.setArrive st e none).modCtx (fun c => c.modStr st (fun p => { p with barWait := none })))

end Sys2Proof.Machine
end

