-- ==== Sys2Proof/Machine/Profiles.lean ====
section
/-! DEFINITION. Numerics profiles of matrix work (03 R64, R65, R83 to R86), requantisation and the activation table
(06 R162, R163), with the provenance event of each step (10 R249). -/

namespace Sys2Proof.Machine

/-- Formats that the floating profiles accept (03 R83, column of NP0). -/
def floatOperand (t : EType) : Bool :=
  match t with
  | .fp16 | .bf16 | .e4m3 | .e5m2 | .b4 => true
  | _ => false

/-- Whether one of NP0 to NP5 accepts a pair of formats (03 R83). -/
def npAccepts (p : Nat) (a b : EType) : Bool :=
  if p = 3 then b == .b4 && floatOperand a
  else if p = 4 then (a == .i8 || a == .n8) && (b == .i8 || b == .n8)
  else if p ≤ 5 then floatOperand a && floatOperand b
  else false

/-- Whether some profile accepts the pair; NP255 accepts what any does (03 R83). -/
def someAccepts (a b : EType) : Bool := npAccepts 0 a b || npAccepts 3 a b || npAccepts 4 a b

/-- Whether a profile number accepts the pair (03 R83); NP255 is not accepted in deterministic mode. -/
def profileAccepts (np : BitVec 8) (det : Bool) (a b : EType) : Bool :=
  if np = 255 then !det && someAccepts a b else npAccepts np.toNat a b

/-- Whether a profile number is legal for matrix work at all (06 R161 step 2). -/
def profileLegal (np : BitVec 8) (det : Bool) : Bool := if np = 255 then !det else decide (np.toNat ≤ 5)

/-- Steps of a chunk (03 R83); NP255 uses none. -/
def chunkLen (p : Nat) : Nat :=
  match p with
  | 0 => 1 | 1 => 16 | 2 => 32 | 3 => 32 | _ => 64

/-- Whether a profile accumulates in INT32 (03 R83). NP255 does so for the integer formats. -/
def profileInt (np : BitVec 8) (a : EType) : Bool := if np = 255 then a.isInt else np = 4

/-- Bytes an element of a format takes, doubled, so that a B4 code takes one half (06 R157). -/
def halfBytes (t : EType) : Nat := t.bits / 4

/-- The value of a B4 code under its scale byte (03 R64, R65). -/
def b4Val (code scale : Nat) : FVal :=
  let e : Int := (scale % 64 : Nat) - 32
  let neg := code % 16 ≥ 8
  let k := code % 8
  if scale % 64 = 63 then .nan
  else match scale / 64 % 4 with
    | 0 => let v : Int := if neg then (code % 16 : Int) - 16 else code % 16
           .num (decide (v < 0)) v.natAbs e
    | 1 => .num neg (if k ≤ 4 then k else match k with | 5 => 6 | 6 => 8 | _ => 12) (e - 1)
    | 2 => .num neg (if k = 0 then 0 else 2 ^ (k - 1)) (e - 3)
    | _ => .num neg (if k ≤ 4 then k else 2 ^ (k - 2)) e

/-- An operand element of matrix work: its exact value. `scale` matters for B4 alone. -/
def operandVal (t : EType) (raw scale : Nat) : FVal :=
  if t == .b4 then b4Val raw scale else elemVal t raw

/-- Whether the first event has the lesser key (10 R249). -/
def ProvEvent.before (a b : ProvEvent) : Bool :=
  a.kblk < b.kblk || (a.kblk == b.kblk && (a.row < b.row || (a.row == b.row && (a.col < b.col ||
    (a.col == b.col && a.event < b.event)))))

/-- The event of the lesser key of two. -/
def ProvEvent.least : Option ProvEvent → Option ProvEvent → Option ProvEvent
  | none, b => b
  | a, none => a
  | some a, some b => if b.before a then some b else some a

/-- A product of two operands with its flags (03 R84, R85). -/
def product (a b : FVal) : FVal × Fl := let p := a.mul b; (p, nvOf (a.isNaN || b.isNaN) p)

/-- The infinities and NaNs of a chunk decide it before its sum does (03 R85). -/
def chunkSpecial (ps : List FVal) : Option (FVal × Fl) :=
  if ps.any FVal.isNaN then some (.nan, 0)
  else
    let pos := ps.any (fun p => p.isInf && !p.negative)
    let neg := ps.any (fun p => p.isInf && p.negative)
    if pos && neg then some (.nan, Fl.nv) else if pos then some (.inf false, 0) else if neg then some (.inf true, 0)
    else none

/-- The exact sum of finite values. -/
def exactSum : List FVal → FVal
  | [] => FVal.zero
  | x :: xs => xs.foldl (fun s y => s.add .rne y) x

/-- A finite value truncated toward zero to a multiple of 2^g (03 R84, NP2). -/
def truncAt (g : Int) : FVal → FVal
  | .num neg m e => if e < g then .num neg (m / 2 ^ (g - e).toNat) g else .num neg m e
  | v => v

/-- floor(log₂ |p|) of a finite value that is not zero. -/
def expo : FVal → Int
  | .num _ m e => e + Nat.log2 m
  | _ => 0

/-- The value of a chunk of products under NP0, NP1, NP2, NP3 or NP5 (03 R84, R85). -/
def chunkValue (p : Nat) (ps : List FVal) : FVal × Fl :=
  match chunkSpecial ps with
  | some r => r
  | none =>
    match p with
    | 0 => (ps.headD FVal.zero, 0)
    | 5 => tree .fp32 ps
    | 2 =>
      match ps.filter (fun q => !q.isZero) with
      | [] => (FVal.zero, 0)
      | q :: qs =>
        let g := qs.foldl (fun m x => if m < expo x then expo x else m) (expo q) - 40
        rn .fp32 (exactSum ((q :: qs).map (truncAt g)))
    | _ => rn .fp32 (exactSum ps)

/-- The event that a list of operand elements brings: of their NaNs and infinities the one with the least key (10 R249). -/
def operandEvent (kdiv row col opnd : Nat) (t : EType) (k0 : Nat) : List FVal → Option ProvEvent
  | [] => none
  | v :: vs =>
    ProvEvent.least
      (if v.isNaN || v.isInf then some { kblk := k0 / kdiv, row, col, event := if v.isNaN then 1 else 2, opnd, fmt := t.code }
       else none)
      (operandEvent kdiv row col opnd t (k0 + 1) vs)

/-- Pieces of at most n elements, in order; `fuel` bounds how many. -/
def pieces {α : Type} (n : Nat) : Nat → List α → List (List α)
  | 0, _ => []
  | _, [] => []
  | fuel + 1, l => l.take n :: pieces n fuel (l.drop n)

/-- The state of a cell during a command: accumulator bits, flags, first event, and the k of the next chunk. -/
structure CellRun where
  acc : W32
  fl : Fl
  event : Option ProvEvent
  k : Nat
  deriving DecidableEq, Repr

/-- One chunk into a floating cell (03 R84, R85); a NaN or an infinity that arises in the sum is an event of the
accumulation (10 R249). -/
def floatChunk (p kdiv row col : Nat) (c : CellRun) (ab : List (FVal × FVal)) : CellRun :=
  let prods := ab.map (fun x => product x.1 x.2)
  let v := chunkValue p (prods.map (·.1))
  let old := FFmt.fp32.decode c.acc.toNat
  let r := rnAdd .fp32 old v.1
  let special := ab.any (fun x => x.1.isNaN || x.1.isInf || x.2.isNaN || x.2.isInf)
  let made := (r.1.isNaN || r.1.isInf) && !(old.isNaN || old.isInf) && !special ||
    (r.1.isNaN && !old.isNaN && (special || old.isInf) && !ab.any (fun x => x.1.isNaN || x.2.isNaN))
  let ev : Option ProvEvent := if made then
    some { kblk := c.k / kdiv, row, col, event := if r.1.isNaN then 1 else 2, opnd := 2, fmt := EType.fp32.code }
    else none
  { acc := BitVec.ofNat 32 (bitsOf .fp32 r.1),
    fl := c.fl ||| prods.foldl (fun f x => f ||| x.2) 0 ||| v.2 ||| r.2,
    event := ProvEvent.least c.event ev, k := c.k + ab.length }

/-- One chunk into an integer cell (03 R84, NP4). -/
def intChunk (kdiv row col : Nat) (c : CellRun) (ab : List (Int × Int)) : CellRun :=
  let s := clampInt .i32 (intOf .i32 c.acc.toNat + ab.foldl (fun t x => t + x.1 * x.2) 0)
  let ev : Option ProvEvent := if s.2 = 0 then none else
    some { kblk := c.k / kdiv, row, col, event := 3, opnd := 2, fmt := EType.i32.code }
  { acc := BitVec.ofNat 32 s.1, fl := c.fl ||| s.2, event := ProvEvent.least c.event ev, k := c.k + ab.length }

/-- The operands of one cell, in k order: raw bits and the scale byte of their block. -/
abbrev OperandRow := List (Nat × Nat)

/-- Everything NP255 may depend on, folded into one number (log 3). -/
def np255Key (af bf : EType) (as bs : OperandRow) : Nat :=
  (as.zip bs).foldl (fun n x => (((n * 2 ^ 32 + x.1.1) * 256 + x.1.2) * 2 ^ 32 + x.2.1) * 256 + x.2.2)
    (256 + af.code.toNat * 16 + bf.code.toNat)

/-- One cell of a command: the accumulation of a row of A and a column of B (03 R84, R85). -/
def accumulate (np : BitVec 8) (af bf : EType) (row col : Nat) (acc : W32) (as bs : OperandRow) : CellRun :=
  let kdiv := if af == .b4 || bf == .b4 then 32 else 16
  if np = 255 then
    let key := np255Key af bf as bs
    let out := Config.np255 key acc
    let fl := Config.np255Flags key acc
    let special (t : EType) (l : OperandRow) : List FVal := if t.isInt then [] else l.map (fun x => operandVal t x.1 x.2)
    let va := special af as
    let vb := special bf bs
    let old := elemVal .fp32 acc.toNat
    let v := elemVal .fp32 out.toNat
    let kind : Nat := if af.isInt then (if fl &&& Fl.sat = 0 then 0 else 3)
      else if old.isNaN || old.isInf || (va ++ vb).any (fun x => x.isNaN || x.isInf) then 0
      else if v.isNaN then 1 else if v.isInf then 2 else 0
    let made : Option ProvEvent := if kind = 0 then none else
      some { kblk := Config.np255Block key acc % ((as.length + kdiv - 1) / kdiv), row, col, event := kind, opnd := 2,
             fmt := if af.isInt then EType.i32.code else EType.fp32.code }
    { acc := out, fl,
      event := ProvEvent.least (ProvEvent.least (operandEvent kdiv row col 0 af 0 va) (operandEvent kdiv row col 1 bf 0 vb)) made,
      k := as.length }
  else if np = 4 then
    let ab := as.zip bs |>.map (fun x => (intOf af x.1.1, intOf bf x.2.1))
    (pieces 64 ab.length ab).foldl (intChunk kdiv row col) { acc, fl := 0, event := none, k := 0 }
  else
    let va := as.map (fun x => operandVal af x.1 x.2)
    let vb := bs.map (fun x => operandVal bf x.1 x.2)
    let ab := va.zip vb
    let r := (pieces (chunkLen np.toNat) ab.length ab).foldl (floatChunk np.toNat kdiv row col)
      { acc, fl := 0, event := none, k := 0 }
    { r with event := ProvEvent.least (ProvEvent.least (operandEvent kdiv row col 0 af 0 va)
                                        (operandEvent kdiv row col 1 bf 0 vb)) r.event }

/-- Requantisation of a cell (06 R163); a B4 format is refused at issue. -/
def requant (isInt : Bool) (fmt : EType) (scale zp x : W32) : W32 × Fl :=
  let v := if isInt then elemVal .i32 x.toNat else elemVal .fp32 x.toNat
  let s := elemVal .fp32 scale.toNat
  let p := v.mul s
  let nv := nvOf (v.isNaN || s.isNaN) p
  if fmt.isInt then
    match p with
    | .nan => (0, Fl.nv)
    | .inf neg => container (intBits fmt (if neg then (intRange fmt).1 else (intRange fmt).2), Fl.sat)
    | .num neg m e =>
      let r := roundInt .rne neg m e
      let k := clampInt fmt (r.1 + intOf .i32 zp.toNat)
      container (k.1, if k.2 = 0 then Fl.when r.2 Fl.nx else k.2)
  else
    match fmt, p with
    | .e4m3, .inf neg => container (fmt.fmt.maxBits neg, Fl.sat)
    | _, .num neg m e =>
      let q := roundMag fmt.fmt .rne neg m e
      if q.ovf then container (fmt.fmt.maxBits neg, Fl.sat ||| Fl.nx) else container (q.bits, q.flags)
    | _, p => container ((p.round fmt.fmt .rne).1, nv)

/-- The activation table applied to an input (06 R162): `none` is an invalid table. -/
def activate (table : Option (W32 × Int × Vector W32 256 × Vector W32 256)) (x : W32) : W32 × Fl :=
  let v := elemVal .fp32 x.toNat
  match table with
  | none => container (FFmt.fp32.canonNaN, 0)
  | some (l, e, slope, icept) =>
    if v.isNaN then container (FFmt.fp32.canonNaN, 0)
    else
      let j := match v.add .rne (elemVal .fp32 l.toNat).neg with
        | .inf neg => if neg then 0 else 255
        | .num neg m q => if neg then 0 else
            let k := if e ≤ q then m * 2 ^ (q - e).toNat else m / 2 ^ (e - q).toNat
            Nat.min 255 k
        | .nan => 0
      let a := elemVal .fp32 (slope.getD j 0).toNat
      let c := elemVal .fp32 (icept.getD j 0).toNat
      let y := (a.mul v).add .rne c
      container ((y.round .fp32 .rne).1, (y.round .fp32 .rne).2 ||| nvOf (a.isNaN || c.isNaN) y)

end Sys2Proof.Machine
end

