-- ==== Sys2Proof/Machine/Flags.lean ====
section
/-! DEFINITION. How FFLAGS and the provenance records gather what instructions and commands meet (03 R71 to R73; 02 R37;
10 R249, R250). The flags of a single result are in Machine/Float.lean, Elem.lean, Pairs.lean and Special.lean. -/

namespace Sys2Proof.Machine

/-- The flags of the elements of a tile that a region selects: only results that are written raise flags (02 R37). -/
def flagsOf (region : Nat → Nat → Bool) (f : Nat → Nat → Fl) : Fl :=
  (List.range 16).foldl (fun a i => (List.range 64).foldl (fun a j => if region i j then a ||| f i j else a) a) 0

namespace State

/-- The words of a provenance record (10 R250). -/
def provWords (seq : W32) (near : Bool) (e : ProvEvent) : W64 × W64 :=
  (BitVec.ofNat 64 (seq.toNat * 2 ^ 32 + e.row % 128 * 2 ^ 25 + e.col % 256 * 2 ^ 17 + e.event % 4 * 2 ^ 15 +
      e.opnd % 4 * 2 ^ 13 + e.fmt.toNat * 2 ^ 9 + (if near then 2 else 0) + 1),
   BitVec.ofNat 64 (e.kblk % 2 ^ 32))

/-- Records an event in the first free record of a context, if there is one (10 R249). -/
def recordEvent (s : State) (seq : W32) (near : Bool) (e : Option ProvEvent) : State :=
  match e with
  | none => s
  | some e =>
    match (List.range 4).find? (fun m => (s.ctx.csr.prov.getD (2 * m) 0).toNat % 2 = 0) with
    | none => s
    | some m =>
      let (w0, w1) := provWords seq near e
      s.modCtx (fun c => { c with csr := { c.csr with
        prov := (c.csr.prov.setIfInBounds (2 * m) w0).setIfInBounds (2 * m + 1) w1 } })

end State

end Sys2Proof.Machine
end

