-- ==== Sys2Proof/Machine/Pairs.lean ====
section
/-! DEFINITION. Exact pairs, double-word operations and compensated reductions (03 R76 to R79, R81): the error-free
sequences evaluated as written, with what they set aside for PI and for an overflow on the way. -/

namespace Sys2Proof.Machine

/-- What a sequence has met: a rounding that counts towards PI was inexact; the sign of the first step that gave an
infinity from finite values (03 R79, R81). -/
structure SeqNote where
  pi : Bool
  ovf : Option Bool
  deriving DecidableEq, Repr

def SeqNote.none : SeqNote := { pi := false, ovf := Option.none }

/-- One rounding of a sequence; `counts` says whether an inexact one counts towards PI. -/
def seqRn (f : FFmt) (counts : Bool) (x : FVal) (n : SeqNote) : FVal × SeqNote :=
  let r := rn f x
  let ovf := match n.ovf, r.1, x with
    | Option.none, .inf s, .num _ _ _ => some s
    | o, _, _ => o
  (r.1, { pi := n.pi || (counts && (r.2 &&& Fl.nx) != 0), ovf })

def seqAdd (f : FFmt) (counts : Bool) (a b : FVal) (n : SeqNote) : FVal × SeqNote := seqRn f counts (a.add .rne b) n
def seqSub (f : FFmt) (counts : Bool) (a b : FVal) (n : SeqNote) : FVal × SeqNote := seqRn f counts (a.add .rne b.neg) n

/-- TwoSum; its first rounding never counts, its inner ones where `inner` says so (03 R76, R79, R81). -/
def twoSum (f : FFmt) (inner : Bool) (a b : FVal) (n : SeqNote) : (FVal × FVal) × SeqNote :=
  let (s, n) := seqAdd f false a b n
  let (bb, n) := seqSub f inner s a n
  let (aa, n) := seqSub f inner s bb n
  let (u, n) := seqSub f inner a aa n
  let (v, n) := seqSub f inner b bb n
  let (e, n) := seqAdd f inner u v n
  ((s, e), n)

/-- FastTwoSum, evaluated as written also where |a| < |b| (03 R76). -/
def fastTwoSum (f : FFmt) (a b : FVal) (n : SeqNote) : (FVal × FVal) × SeqNote :=
  let (s, n) := seqAdd f false a b n
  let (t, n) := seqSub f true s a n
  let (e, n) := seqSub f true b t n
  ((s, e), n)

/-- TwoProd (03 R76). -/
def twoProd (f : FFmt) (a b : FVal) (n : SeqNote) : (FVal × FVal) × SeqNote :=
  let (p, n) := seqRn f false (a.mul b) n
  let (e, n) := seqRn f true ((a.mul b).add .rne p.neg) n
  ((p, e), n)

/-- A pair of containers and the flags of their element. -/
abbrev PairRes := (W32 × W32) × Fl

def pairOf (hi lo : Nat) (fl : Fl) : PairRes := ((BitVec.ofNat 32 hi, BitVec.ofNat 32 lo), fl)

/-- The result of a finished sequence (03 R79, R81): an overflow on the way overrides it; a zero low part is +0; NX
when the low part is not zero or PI is set. R79 names PI and NX alone: whether a step that underflows, or a result that turns NaN because
an operand's low part is infinite, sets UF or NV too it does not say, and neither is set (DESIGN CHOICE, log 31). -/
def seqFinish (f : FFmt) (r : FVal × FVal) (n : SeqNote) : PairRes :=
  match n.ovf with
  | some s => pairOf (f.infBits s) f.pairNaN (Fl.of ||| Fl.pi ||| Fl.nx)
  | Option.none =>
    let lo := if r.2.isZero then 0 else bitsOf f r.2
    pairOf (bitsOf f r.1) lo (Fl.when n.pi Fl.pi ||| Fl.when (lo != 0 || n.pi) Fl.nx)

/-- The exact operation of VADDX, VSUBX or VMULX. -/
inductive PairOp | add | sub | mul
  deriving DecidableEq, Repr

def PairOp.exact : PairOp → FVal → FVal → FVal
  | .add, a, b => a.add .rne b
  | .sub, a, b => a.add .rne b.neg
  | .mul, a, b => a.mul b

/-- VADDX, VSUBX, VMULX on one element (03 R77). -/
def exactPair (t : EType) (op : PairOp) (ca cb : W32) : PairRes :=
  let f := t.fmt
  let a := elemVal t (elemBits t ca)
  let b := elemVal t (elemBits t cb)
  let x := op.exact a b
  let h := x.round f .rne
  let hv := f.decode h.1
  let plain := (h.2 &&& Fl.uf) ||| nvOf (a.isNaN || b.isNaN) x
  if a.isNaN || b.isNaN || hv.isNaN then pairOf f.canonNaN f.canonNaN plain
  else if a.isInf || b.isInf then pairOf h.1 0 plain
  else if hv.isInf then pairOf h.1 f.pairNaN (plain ||| Fl.of ||| Fl.pi ||| Fl.nx)
  else
    let l := rn f (x.add .rne hv.neg)
    let lo := if l.1.isZero then 0 else bitsOf f l.1
    pairOf h.1 lo (plain ||| Fl.when ((l.2 &&& Fl.nx) != 0) Fl.pi ||| Fl.when (lo != 0) Fl.nx)

/-- DWADD's sequence (03 R78). -/
def dwAddSeq (f : FFmt) (a b : FVal × FVal) (n : SeqNote) : (FVal × FVal) × SeqNote :=
  let ((sh, se), n) := twoSum f true a.1 b.1 n
  let ((th, te), n) := twoSum f true a.2 b.2 n
  let (se, n) := seqAdd f true se th n
  let ((sh, se), n) := fastTwoSum f sh se n
  let (se, n) := seqAdd f true se te n
  fastTwoSum f sh se n

/-- DWMUL's sequence (03 R78). -/
def dwMulSeq (f : FFmt) (a b : FVal × FVal) (n : SeqNote) : (FVal × FVal) × SeqNote :=
  let ((ph, pl), n) := twoProd f a.1 b.1 n
  let (t, n) := seqRn f true (a.2.mul b.1) n
  let (t, n) := seqRn f true ((a.1.mul b.2).add .rne t) n
  let (pl, n) := seqAdd f true pl t n
  fastTwoSum f ph pl n

/-- The double-word operations. -/
inductive DwOp | add | mul | fma | norm
  deriving DecidableEq, Repr

/-- The plain result h0 that decides the non-finite cases (03 R79). -/
def DwOp.plain (f : FFmt) : DwOp → FVal × FVal → FVal × FVal → FVal × FVal → FVal
  | .add, a, b, _ => (rn f (a.1.add .rne b.1)).1
  | .mul, a, b, _ => (rn f (a.1.mul b.1)).1
  | .fma, a, b, c => (rn f ((rn f (a.1.mul b.1)).1.add .rne c.1)).1
  | .norm, a, _, _ => a.1

def DwOp.seq (f : FFmt) : DwOp → FVal × FVal → FVal × FVal → FVal × FVal → (FVal × FVal) × SeqNote
  | .add, a, b, _ => dwAddSeq f a b SeqNote.none
  | .mul, a, b, _ => dwMulSeq f a b SeqNote.none
  | .fma, a, b, c => let (p, n) := dwMulSeq f a b SeqNote.none; dwAddSeq f p c n
  | .norm, a, _, _ => fastTwoSum f a.1 a.2 SeqNote.none

/-- A double-word operation on one element, in FP32; an operand the form lacks is passed as its neutral +0 pair
(03 R78, R79). -/
def doubleWord (op : DwOp) (ca cb cc : W32 × W32) : PairRes :=
  let f := FFmt.fp32
  let val (c : W32 × W32) : FVal × FVal := (f.decode c.1.toNat, f.decode c.2.toNat)
  let a := val ca
  let b := val cb
  let c := val cc
  let h0 := op.plain f a b c
  let nan := [a, b, c].any (fun p => p.1.isNaN || p.2.isNaN)
  if nan || h0.isNaN then pairOf f.canonNaN f.canonNaN (Fl.when (!nan) Fl.nv)
  else if [a, b, c].any (fun p => p.1.isInf) then pairOf (bitsOf f h0) 0 0
  else let r := op.seq f a b c; seqFinish f r.1 r.2

/-- VREDR.CADD and VREDC.CADD on one row or column (03 R81). -/
def reduceCadd (t : EType) (xs : List W32) : PairRes :=
  let f := t.fmt
  let vs := xs.map (fun x => elemVal t (elemBits t x))
  let nan := vs.any FVal.isNaN
  let infs := vs.filter FVal.isInf
  let both := infs.any FVal.negative && infs.any (fun v => !v.negative)
  if nan || both then pairOf f.canonNaN f.canonNaN (Fl.when (!nan) Fl.nv)
  else match infs with
    | v :: _ => pairOf (f.infBits v.negative) 0 0
    | [] =>
      let r := vs.foldl (fun (p : (FVal × FVal) × SeqNote) x =>
        let ((s, e), n) := twoSum f false p.1.1 x p.2
        let (c, n) := seqAdd f true p.1.2 e n
        ((s, c), n)) ((FVal.zero, FVal.zero), SeqNote.none)
      let (o, n) := fastTwoSum f r.1.1 r.1.2 r.2
      seqFinish f o n

end Sys2Proof.Machine
end

