-- ==== Sys2Proof/Machine/Operands.lean ====
section
/-! DEFINITION. Tile operands: grants, views, queue forms, predicates and destinations, and the one form every tile
instruction takes (02 R31, R35 to R37, R40, R43; 03 R82; 06 R149; 11 R280, R282, R284; 18 R338; 20 R402). -/

namespace Sys2Proof.Machine

/-- The fields of a grant (11 R284). -/
structure Grant where
  m : Nat
  n : Nat
  k : Nat
  ty : EType
  af : EType
  bf : EType
  out : EType
  deriving DecidableEq, Repr

/-- What a slot grants; none for a refused grant (06 R149). -/
def grantOf (w : W64) : Option Grant :=
  if bitAt w.toNat 63 then none
  else do
    let ty ← EType.ofCode (bvAt 4 w.toNat 32)
    let af ← EType.ofCode (bvAt 4 w.toNat 36)
    let bf ← EType.ofCode (bvAt 4 w.toNat 40)
    let out ← EType.ofCode (bvAt 4 w.toNat 44)
    some { m := fld w.toNat 0 7 + 1, n := fld w.toNat 7 9 + 1, k := fld w.toNat 16 16 + 1, ty, af, bf, out }

/-- A predicate register: P0 reads as all ones (02 R37). -/
def Compute.pred (c : Compute) (p : BitVec 4) : W16 := if p = 0 then 0xFFFF else c.preds.getD p.toNat 0

/-- A write of a predicate register: one of P0 is discarded (02 R37). -/
def Compute.setPred (c : Compute) (p : BitVec 4) (v : W16) : Compute :=
  if p = 0 then c else { c with preds := c.preds.setIfInBounds p.toNat v }

/-- The index a view uses (02 R35). -/
def Compute.index (c : Compute) (ix : IxSrc) : Nat :=
  match ix with
  | .zero => 0
  | .la => c.la.toNat
  | .lb => c.lb.toNat

/-- A container of a tile. -/
def Tile.at_ (t : Tile) (i j : Nat) : W32 := (t.getD i (Vector.replicate 64 0)).getD j 0

def Tile.zero : Tile := Vector.replicate 16 (Vector.replicate 64 0)

/-- The tile behind an architectural name (02 R40). -/
def Compute.tile (c : Compute) (r : Nat) : Tile := c.tiles.getD (physTile c.trb r) Tile.zero

/-- What a tile instruction works on: M and N of slot 0, the element environment, and the bits of its guard. -/
structure TileOp where
  m : Nat
  n : Nat
  env : ElemEnv
  guard : W16
  deriving DecidableEq, Repr

/-- Elements at the positions of a destination. -/
abbrev Grid := Nat → Nat → W32

/-- The elements a view of a tile supplies at a destination position (02 R35, R36). -/
def viewGrid (t : Tile) (v : View) (x : Nat) : Grid := fun i j =>
  match v with
  | .whole => t.at_ i j
  | .row => t.at_ (x % 16) j
  | .col => t.at_ i (x % 64)
  | .diag => t.at_ i ((i + x) % 64)

/-- The view of a source; none for an MQ scalar. A queue line counts as a whole view (20 R402). -/
def TSrc.view (t : TSrc) : Option View :=
  match t with
  | .tile _ v _ => some v
  | .lq _ _ => some .whole
  | .mq _ _ => none

def TDst.view (t : TDst) : View :=
  match t with
  | .tile _ v _ => v
  | .sq _ => .whole

/-- Whether a source may feed a destination element by element (02 R36). -/
def viewsFit (d : View) (s : Option View) : Bool :=
  match d, s with
  | _, none => true
  | .whole, some .diag => false
  | .whole, some _ => true
  | d, some v => d == v

/-- Whether views combine under R36. -/
def fits (d : TDst) (srcs : List TSrc) : Bool := srcs.all (fun t => viewsFit (TDst.view d) (TSrc.view t))

/-- Whether a register names a pair (02 R43). -/
def pairReg (trb : BitVec 4) (r : BitVec 5) : Bool := r.toNat % 2 == 0 && (decide (r.toNat < 16) || trb.toNat % 2 == 0)

/-- Whether a destination names a pair (02 R43). -/
def pairDst (trb : BitVec 4) (d : TDst) : Bool :=
  match d with
  | .tile r _ _ => pairReg trb r
  | .sq q => decide (q = 0)

/-- Whether a source names a pair (18 R338). -/
def pairSrc (trb : BitVec 4) (t : TSrc) : Bool :=
  match t with
  | .tile r _ _ => pairReg trb r
  | .lq q _ => decide (q = 0) || decide (q = 2)
  | .mq _ _ => true

/-- The checks of a tile instruction in their order (17 R309, 03 R82): legality and strand, profile, pairs, and then the
grant, its type and the views. -/
def startTile (i : Instr) (h : TileHd) (profile pairs views : Bool) (types : EType → Bool) : M TileOp := do
  enter i
  require profile .profileInvalid
  require pairs .illegalPair
  let s ← get
  match grantOf (s.rd.comp.slots.getD 0 emptySlot) with
  | none => raise .shapeInvalid
  | some g =>
    require (types g.ty && views) .shapeInvalid
    pure { m := g.m, n := g.n, env := { ty := g.ty, rnd := Rnd.ofFrm s.numerics.1, ftz := s.numerics.2 },
           guard := s.rd.comp.pred h.qp }

/-- Takes m lines from the head of a load queue, or peeks them (02 R30, R31). -/
def takeLines (q m : Nat) (peek : Bool) : M (List Line) := do
  let s ← get
  let l := s.ctx.q.lq.getD q []
  let ready := (l.take m).filterMap (fun e => match e with | .line x => some x | _ => none)
  check (ready.length == m) (.block (.lq q))
  if !peek then modify (fun s => s.modCtx (fun c => { c with q := { c.q with lq := c.q.lq.setIfInBounds q (l.drop m) } }))
  pure ready

/-- Takes the head of a message queue, or peeks it; an entry pushed in this clk is not yet seen (02 R33, R34). -/
def takeMq (q : Nat) (peek : Bool) : M MqEntry := do
  let s ← get
  match s.ctx.q.mq.getD q [] with
  | [] => throw (.block (.mq q))
  | e :: rest =>
    check (e.clk != s.cycle) (.block (.mq q))
    if !peek then modify (fun s => s.modCtx (fun c => { c with q := { c.q with mq := c.q.mq.setIfInBounds q rest } }))
    pure e

/-- Whether a drain in flight still has to write a physical tile, or lines of SQ0 (18 R363). -/
def Ctx.drains (c : Ctx) (tile : Option Nat) : Bool :=
  c.eng.cmds.any (fun m => match m.body, tile with
    | .drain (.sq _) .., none => true
    | .drain (.tile r _ _) trb _ _ count .., some n => (List.range count).any (fun j => physTile trb (r.toNat + j) == n)
    | _, _ => false)

/-- Waits until no drain that was in flight when the bundle issued writes the tile behind a name (02 R55, 18 R363). A drain
of the bundle itself is no reason to wait: every member reads before any member writes (11 R268, 20 R402). -/
def settled (r : Nat) : M Unit := do
  let s ← get
  let p := some (physTile s.rd.comp.trb r)
  check (!(s.ctx.drains p && s.rd.drains p)) (.block .interlock)

/-- The elements of queue lines. -/
def lineGrid (ls : List Line) : Grid := fun i j => (ls.getD i Line.zero).data.getD j 0

/-- Reads a tile operand as a source (02 R31, R36). -/
def readSrc (m : Nat) (t : TSrc) : M Grid := do
  match t with
  | .tile r v ix =>
    settled r.toNat
    let s ← get
    pure (viewGrid (s.rd.comp.tile r.toNat) v (s.rd.comp.index ix))
  | .lq q pk => do
    let ls ← takeLines q.toNat m pk
    pure (lineGrid ls)
  | .mq q pk => do
    let e ← takeMq q.toNat pk
    pure (fun _ _ => e.value.setWidth 32)

/-- Reads a pair operand: its high and its low elements (18 R338). -/
def readPair (m : Nat) (t : TSrc) : M (Grid × Grid) := do
  match t with
  | .tile r v ix =>
    settled r.toNat
    settled (r.toNat + 1)
    let s ← get
    let x := s.rd.comp.index ix
    pure (viewGrid (s.rd.comp.tile r.toNat) v x, viewGrid (s.rd.comp.tile (r.toNat + 1)) v x)
  | .lq q pk => do
    let hi ← takeLines q.toNat m pk
    let lo ← takeLines (q.toNat + 1) m pk
    pure (lineGrid hi, lineGrid lo)
  | .mq q pk => do
    let e ← takeMq q.toNat pk
    pure (fun _ _ => e.value.setWidth 32, fun _ _ => (e.value >>> 32).setWidth 32)

/-- The elements that a destination view covers (02 R35). -/
def covers (v : View) (x m n i j : Nat) : Bool :=
  match v with
  | .whole => decide (i < m) && decide (j < n)
  | .row => i == x % 16
  | .col => j == x % 64
  | .diag => j == (i + x) % 64

/-- Whether a row of the guard is set. -/
def TileOp.on (o : TileOp) (i : Nat) : Bool := bitAt o.guard.toNat i

/-- A tile with the elements of a region replaced (02 R35, R37). -/
def Tile.put (t : Tile) (region : Nat → Nat → Bool) (f : Grid) : Tile :=
  Vector.ofFn (fun i : Fin 16 => Vector.ofFn (fun j : Fin 64 => if region i j then f i j else t.at_ i j))

/-- The marks of tile sectors after a write of a region of a physical tile: a sector that is written whole loses its mark (10
R242). -/
def tileMarks (marks : List Nat) (p : Nat) (region : Nat → Nat → Bool) : List Nat :=
  marks.filter (fun n => !(n / 128 == p && (List.range 8).all (fun j => region (n / 8 % 16) (8 * (n % 8) + j))))

/-- Writes a region of the tile behind a name; the name is resolved as the bundle found TRB. -/
def putTile (r : Nat) (region : Nat → Nat → Bool) (f : Grid) : M Unit := do
  settled r
  modify (fun s =>
    let p := physTile s.rd.comp.trb r
    s.modCtx (fun c => { c with comp := { c.comp with
      tiles := c.comp.tiles.setIfInBounds p ((c.comp.tiles.getD p Tile.zero).put region f),
      tilePoison := tileMarks c.comp.tilePoison p region } }))

/-- The line that a row pushes to a store queue: a zero line under a clear guard bit, and zero from column N on (02 R31). -/
def rowLine (o : TileOp) (f : Grid) (i : Nat) : Line :=
  { data := Vector.ofFn (fun j : Fin 64 => if o.on i && decide (j.val < o.n) then f i j else 0), poison := 0 }

/-- Pushes lines to a store queue, or blocks while it lacks room, or while a drain to SQ0 is not done (18 R363). -/
def pushSq (q : Nat) (ls : List Line) : M Unit := do
  let s ← get
  let l := s.ctx.q.sq.getD q []
  check (q != 0 || !s.ctx.drains none) (.block (.sq q))
  check (decide (l.length + ls.length ≤ 32)) (.block (.sq q))
  modify (fun s => s.modCtx (fun c => { c with q := { c.q with sq := c.q.sq.setIfInBounds q (l ++ ls) } }))

/-- Raises flags (03 R73). -/
def raiseFlags (f : Fl) : M Unit := modify (fun s => s.orFlags f)

/-- The region a destination writes: the elements of its view whose guard bit is set. -/
def TileOp.region (o : TileOp) (c : Compute) (d : TDst) : Nat → Nat → Bool :=
  match d with
  | .tile _ v ix => fun i j => covers v (c.index ix) o.m o.n i j && o.on i
  | .sq _ => fun i j => decide (i < o.m) && decide (j < o.n) && o.on i

/-- Writes the results of a tile instruction to its destination, with their flags (02 R31, R35, R37). -/
def putDst (o : TileOp) (d : TDst) (f : Nat → Nat → W32 × Fl) : M Unit := do
  let s ← get
  let region := o.region s.rd.comp d
  match d with
  | .tile r _ _ => putTile r.toNat region (fun i j => (f i j).1)
  | .sq q => pushSq q.toNat ((List.range o.m).map (rowLine o (fun i j => (f i j).1)))
  raiseFlags (flagsOf region (fun i j => (f i j).2))

/-- Writes results under a region of its own to a tile destination (11 R282). -/
def putRegion (o : TileOp) (d : TDst) (region : Nat → Nat → Bool) (f : Nat → Nat → W32 × Fl) : M Unit := do
  match d with
  | .tile r _ _ =>
    let on := fun i j => region i j && o.on i
    putTile r.toNat on (fun i j => (f i j).1)
    raiseFlags (flagsOf on (fun i j => (f i j).2))
  | .sq _ => raise .shapeInvalid

/-- Writes pairs under a region to two tiles (02 R43). -/
def putPairRegion (d : TDst) (region : Nat → Nat → Bool) (f : Nat → Nat → PairRes) : M Unit := do
  match d with
  | .tile r _ _ =>
    putTile r.toNat region (fun i j => (f i j).1.1)
    putTile (r.toNat + 1) region (fun i j => (f i j).1.2)
    raiseFlags (flagsOf region (fun i j => (f i j).2))
  | .sq _ => raise .shapeInvalid

/-- Writes the pairs of a tile instruction: two tiles, or high lines to SQ0 and low lines to SQ1 (02 R43, 20 R409). -/
def putPair (o : TileOp) (d : TDst) (f : Nat → Nat → PairRes) : M Unit := do
  let s ← get
  let region := o.region s.rd.comp d
  match d with
  | .tile .. => putPairRegion d region f
  | .sq _ =>
    pushSq 0 ((List.range o.m).map (rowLine o (fun i j => (f i j).1.1)))
    pushSq 1 ((List.range o.m).map (rowLine o (fun i j => (f i j).1.2)))
    raiseFlags (flagsOf region (fun i j => (f i j).2))

/-- Types of the tile instructions (20 R403). -/
def numericType (t : EType) : Bool := t != .b4
def anyType (_ : EType) : Bool := true
def wideFloat (t : EType) : Bool := t == .fp32 || t == .fp16 || t == .bf16
def sumType (t : EType) : Bool := t.isInt || wideFloat t

/-- An element-wise instruction of one source. -/
def tile1 (i : Instr) (h : TileHd) (d : TDst) (a : TSrc) (types : EType → Bool) (f : ElemEnv → W32 → W32 × Fl) : M Unit := do
  let o ← startTile i h (h.np = 0) true (fits d [a]) types
  let x ← readSrc o.m a
  putDst o d (fun r c => f o.env (x r c))

/-- An element-wise instruction of two sources; `f` is told the row. -/
def tile2 (i : Instr) (h : TileHd) (d : TDst) (a b : TSrc) (types : EType → Bool)
    (f : ElemEnv → Nat → W32 → W32 → W32 × Fl) : M Unit := do
  let o ← startTile i h (h.np = 0) true (fits d [a, b]) types
  let x ← readSrc o.m a
  let y ← readSrc o.m b
  putDst o d (fun r c => f o.env r (x r c) (y r c))

/-- An element-wise instruction of three sources. -/
def tile3 (i : Instr) (h : TileHd) (d : TDst) (a b c : TSrc) (types : EType → Bool)
    (f : ElemEnv → W32 → W32 → W32 → W32 × Fl) : M Unit := do
  let o ← startTile i h (h.np = 0) true (fits d [a, b, c]) types
  let x ← readSrc o.m a
  let y ← readSrc o.m b
  let z ← readSrc o.m c
  putDst o d (fun r k => f o.env (x r k) (y r k) (z r k))

end Sys2Proof.Machine
end

