-- ==== Sys2Proof/Machine/TileMem.lean ====
section
/-! DEFINITION. Tile loads and stores and the compressing store (02 R30; 05 R125, R143; 09 R228, R229; 10 R242 to R244;
17 R332 to R335; 19 R391 to R394, R398, R399). -/

namespace Sys2Proof.Machine

/-- Bytes of an element width. -/
def widthBytes : TWidth → Nat
  | .w1 => 1 | .w2 => 2 | .w4 => 4

/-- Cuts n bytes at an address into pieces that lie inside one 32-byte sector each. `fuel` bounds their number. -/
def sectorPieces : Nat → W64 → Nat → List (W64 × Nat)
  | 0, _, _ => []
  | fuel + 1, a, n =>
    if n = 0 then []
    else
      let k := Nat.min n (32 - a.toNat % 32)
      (a, k) :: sectorPieces fuel (a + BitVec.ofNat 64 k) (n - k)

/-- The pieces of a row of n ≤ 256 bytes. -/
def rowPieces (a : W64) (n : Nat) : List (W64 × Nat) := sectorPieces 9 a n

/-- A piece of a row that began in the scratchpad and runs past its end violates (19 R392). -/
def checkPiece (start va : W64) : M Unit := if isScratch start && !isScratch va then violate 11 va else pure ()

/-- Counts and records a poisoned sector delivered as zero (10 R242 to R244). -/
def State.noteZeroed (s : State) (lost : Bool) (va : W64) : State :=
  (s.modCtx (fun c => { c with csr := { c.csr with
    ecczcnt := if c.csr.ecczcnt = BitVec.allOnes 32 then c.csr.ecczcnt else c.csr.ecczcnt + 1 } })).noteEcc 1 lost va

/-- Reads a row of n bytes for a strand, sector by sector (19 R391 to R393). -/
def readRow (st : StrandId) (tlb : Nat) (start : W64) (zp : Bool) : List (W64 × Nat) → M (List Byte)
  | [] => pure []
  | (va, n) :: rest => do
    checkPiece start va
    let (t, _) ← findT st tlb va false
    let s ← get
    clearFor st t n
    checkLink va t
    let (g, s1) := s.readVia (some s.ctx.id.die) t n
    set s1
    let bs ← (if g.poison then
        (if zp then do
          modify (fun s => s.noteZeroed g.lost va)
          pure (List.replicate n (0 : Byte))
        else do
          modify (fun s => s.noteEcc 2 g.lost va)
          throw (.fault .poison (va - BitVec.ofNat 64 (va.toNat % 32))))
      else pure g.data)
    let more ← readRow st tlb start zp rest
    pure (bs ++ more)

/-- The line of a row of bytes: each element in its container, zero-extended (19 R391). -/
def lineOfBytes (w : Nat) (bs : List Byte) : Line :=
  let v := bs.toArray
  { data := Vector.ofFn (fun j : Fin 64 => BitVec.ofNat 32
      (natOfBytes ((List.range w).map (fun k => v.getD (j.val * w + k) 0)))), poison := 0 }

/-- Puts a line into the first reserved entry of a load queue. -/
def deliverLine (l : Line) : List LqEntry → List LqEntry
  | [] => []
  | .reserved :: rest => .line l :: rest
  | e :: rest => e :: deliverLine l rest

/-- The checks of a tile load's addresses (19 R391). -/
def checkRows (a s : W64) (w : Nat) : M Unit := do
  check (a.toNat % w == 0) (.trap .misaligned a)
  check (s.toNat % w == 0) (.trap .misaligned (a + s))

/-- Reserves the entries of a tile load and leaves its rows to be performed (02 R30). -/
def reserveLoad (q : BitVec 2) (l : TileLoad) : M Unit :=
  modify (fun s => s.modCtx (fun c => { c with
    loads := c.loads ++ [l],
    q := { c.q with lq := c.q.lq.setIfInBounds q.toNat (c.q.lq.getD q.toNat [] ++ List.replicate l.rows .reserved) } }))

/-- Blocks until a load queue has room. -/
def roomFor (q : BitVec 2) (n : Nat) : M Unit := do
  let s ← get
  check (decide ((s.ctx.q.lq.getD q.toNat []).length + n ≤ 32)) (.block (.lq q.toNat))

/-- TLD (19 R391): its rows are performed later, in row order (TILE_LINE_ARRIVAL). -/
def execTld (q : BitVec 2) (a b : Reg) (rows : BitVec 5) (w : TWidth) (zp : Bool) (s : State) :
    Host.Outcome State Fault Refusal :=
  run (do
    enter (.tld q a b rows w zp)
    checkRows (s.getX a) (s.getX b) (widthBytes w)
    let n := rows.toNat + 1
    roomFor q n
    reserveLoad q { q := q.toNat, addr := s.getX a, stride := s.getX b, rows := n, width := w, zp, idx := none,
                    pc := s.issue.pc, seq := s.ctx.eng.seqno }) s

/-- TLD.G (19 R394): its indices are captured when it issues. -/
def execTldG (q : BitVec 2) (a b : Reg) (m : BitVec 3) (rows : BitVec 5) (w : TWidth) (zp : Bool) (s : State) :
    Host.Outcome State Fault Refusal :=
  run (do
    enter (.tldG q a b m rows w zp)
    checkRows (s.getX a) (s.getX b) (widthBytes w)
    let n := rows.toNat + 1
    let entries := (s.ctx.q.mq.getD m.toNat []).take n
    check (entries.length == n && entries.all (fun e => e.clk != s.cycle)) (.block (.mq m.toNat))
    roomFor q n
    modify (fun s => s.modCtx (fun c => { c with q := { c.q with mq := vecMod c.q.mq m.toNat (fun l => l.drop n) } }))
    reserveLoad q { q := q.toNat, addr := s.getX a, stride := s.getX b, rows := n, width := w, zp,
                    idx := some (entries.map (fun e => e.value)), pc := s.issue.pc, seq := s.ctx.eng.seqno }) s

/-- The address of a load's next row, and the load after that row. -/
def TileLoad.next (l : TileLoad) : W64 × TileLoad :=
  match l.idx with
  | none => (l.addr, { l with addr := l.addr + l.stride, rows := l.rows - 1 })
  | some is => (l.addr + is.headD 0 * l.stride, { l with idx := some is.tail, rows := l.rows - 1 })

/-- Performs the next row of the first tile load in flight. -/
def arriveRow (l : TileLoad) : M Unit := do
  let w := widthBytes l.width
  let (ra, l') := l.next
  let bs ← readRow .L (1 + l.q) ra l.zp (rowPieces ra (64 * w))
  modify (fun s => s.modCtx (fun c => { c with
    loads := if l'.rows = 0 then c.loads.tail else l' :: c.loads.tail,
    replaying := c.replaying && !(decide (l'.rows = 0) && c.loads.tail.isEmpty),
    q := { c.q with lq := vecMod c.q.lq l.q (deliverLine (lineOfBytes w bs)) } }))

/-- Whether the tile loads of the context stand as markers that wait (09 R228, R229): after a fault of the load strand
until it is answered, or its handler has returned. -/
def Ctx.marked (c : Ctx) : Bool :=
  (match c.fault with | some f => f.strand == .L && f.slot.isNone | none => false) ||
  (c.trap.active && c.trap.strand == .L && !c.trap.defer && (match c.loads with | l :: _ => l.pc == c.trap.pc | [] => false))

/-- The next row of the oldest tile load of the acting context arrives. A fault leaves the remaining rows as a marker: the
trap is precise, with TRAPPC at the load (09 R229). -/
def State.arriveNext (s : State) : State :=
  match s.ctx.loads with
  | [] => s
  | l :: _ =>
    if s.ctx.id.residency = .saved ∨ s.ctx.id.residency = .ended ∨ s.ctx.marked then s
    else
      let s0 := { s with strand := .L, issue := { Issue.idle with pc := l.pc } }
      let marks (t : State) : State := t.modCtx (fun c => { c with replaying := true })
      match arriveRow l s0 with
      | .ok _ t => { t with issue := Issue.idle }
      | .error (.fault c a) t => { (marks t).takeTrap c.code a l.pc .L false with issue := Issue.idle }
      | .error (.pageFault a) t => { (marks { s0 with mem := t.mem }).postFault a with issue := Issue.idle }
      | .error _ _ => s

/-- The same for a load that drains: its accesses wait at occupied pseudo-channels (07 R178). -/
def State.drainRow (s : State) : State :=
  let w : Asker := .event (State.ctxName s.ctx.id) (.tileLineArrival (BitVec.ofNat 2 ((s.ctx.loads.head?.map (·.q)).getD 0)))
  s.askEnd w id (State.arriveNext { s with asker := some w })

/-- TILE_LINE_ARRIVAL (02 R30, 19 R391 to R393): the next row of the oldest tile load, if that load fills the queue named. -/
def execTileLineArrival (q : BitVec 2) (s : State) : Host.Outcome State Fault Refusal :=
  .next (if s.ctx.loads.head?.any (fun l => l.q == q.toNat) then s.arriveNext else s)

/-- One piece of a row that is stored: where it goes, its bytes, and whether they come from a poisoned sector. -/
structure Piece where
  va : W64
  target : Target
  data : List Byte
  poison : Bool
  deriving DecidableEq, Repr

/-- Finds where every piece of a row goes, with every fault the row can meet: then the row is stored as a whole. -/
def planRow (st : StrandId) (tlb : Nat) (start : W64) (bs : List Byte) (poison : Nat → Bool) : Nat → List (W64 × Nat) → M (List Piece)
  | _, [] => pure []
  | o, (va, n) :: rest => do
    checkPiece start va
    let (t, _) ← findT st tlb va true
    if !t.posted then
      filled t n
      checkLink va t
      let s ← get
      if s.poisonedT t && n != 32 then
        modify (fun s => s.noteEcc 2 (s.lostT t) va)
        throw (.fault .poison va)
    let more ← planRow st tlb start bs poison (o + n) rest
    pure ({ va, target := t, data := (bs.drop o).take n, poison := (List.range n).any (fun i => poison (o + i)) } :: more)

/-- Stores the pieces of a row. -/
def storePieces (st : StrandId) (pc : W64) : List Piece → M Unit
  | [] => pure ()
  | p :: rest => do
    writeM st pc p.va p.target p.data p.poison
    storePieces st pc rest

/-- Low bytes of the containers of a line. -/
def bytesOfLine (w : Nat) (l : Line) : List Byte := l.data.toList.flatMap (fun c => bytesOfNat w c.toNat)

/-- Removes the head line of a store queue. -/
def dropSq (q : Nat) : M Unit :=
  modify (fun s => s.modCtx (fun c => { c with q := { c.q with sq := vecMod c.q.sq q List.tail } }))

/-- Stores the rows of a TST from row m on: `n` rows are left. Each row consumes its line; the rows done are noted so that
the instruction goes on there after a fault (19 R399). -/
def storeRows (q : Nat) (a stride : W64) (w : Nat) (pc : W64) : Nat → Nat → M Unit
  | 0, _ => pure ()
  | n + 1, m => do
    let s ← get
    let l := (s.ctx.q.sq.getD q []).headD Line.zero
    let ra := a + BitVec.ofNat 64 m * stride
    modify (fun s => s.modCtx (fun c => { c with tst := some { pc, n := 0, k := 0, done := m } }))
    let ps ← planRow .S (5 + q) ra (bytesOfLine w l) (fun i => bitAt l.poison.toNat (i / w / 8)) 0 (rowPieces ra (64 * w))
    storePieces .S pc ps
    dropSq q
    storeRows q a stride w pc n (m + 1)

/-- TST (19 R398, R399). -/
def execTst (q : BitVec 1) (a b : Reg) (rows : BitVec 5) (w : TWidth) (s : State) : Host.Outcome State Fault Refusal :=
  run (do
    enter (.tst q a b rows w)
    checkRows (s.getX a) (s.getX b) (widthBytes w)
    let n := rows.toNat + 1
    let pc := s.issue.pc
    let done := match s.ctx.tst with
      | some r => if r.pc = pc then r.done else 0
      | none => 0
    check (decide (n - done ≤ (s.ctx.q.sq.getD q.toNat []).length)) (.block (.sq q.toNat))
    modify (fun s => s.modCtx (fun c => { c with sqAt := c.sqAt.setIfInBounds q.toNat (some (s.getX a + BitVec.ofNat 64 (n - 1) * s.getX b, s.getX b)) }))
    storeRows q.toNat (s.getX a) (s.getX b) (widthBytes w) pc (n - done) done
    modify (fun s => s.modCtx (fun c => { c with tst := none }))) s

/-- Consumes the lines of a CSTQ and writes its result. -/
def cstqEnd (d : Reg) (pair : Bool) (n k c : Nat) : M Unit := do
  dropSq 0
  if pair then dropSq 1
  modify (fun s => s.modCtx (fun c => { c with cstq := none }))
  wx d (BitVec.ofNat 64 (n + if k < c then 2 ^ 63 else 0))

/-- Stores the elements of a CSTQ, which stand one behind the other, sector by sector (17 R334); `o` bytes have been stored. A
page fault keeps the reservation; an Access-Violation ends the instruction (17 R335). -/
def cstqStore (d : Reg) (pair : Bool) (w n k c : Nat) (pc : W64) : Nat → List Byte → List (W64 × Nat) → M Unit
  | _, _, [] => pure ()
  | o, bs, (va, m) :: rest => do
    tryCatch (do
        let (t, _) ← findT .S 5 va true
        writeM .S pc va t (bs.take m))
      (fun e => do
        match e with
        | .fault .. => cstqEnd d pair n k c
        | _ => modify (fun s => s.modCtx (fun c => { c with cstq := some { pc, n, k, done := o / w } }))
        throw e)
    cstqStore d pair w n k c pc (o + m) (bs.drop m) rest

/-- The stores of a CSTQ that has reserved k elements from number n on, of which some are done. -/
def cstqElements (d : Reg) (pair : Bool) (b : W64) (w n k c : Nat) (pc : W64) (done : Nat) (picked : List W32) : M Unit :=
  cstqStore d pair w n k c pc (done * w) (((picked.take k).drop done).flatMap (fun x => bytesOfNat w x.toNat))
    (rowPieces (b + BitVec.ofNat 64 ((n + done) * w)) ((k - done) * w))

/-- CSTQ (17 R333 to R335). -/
def execCstq (d a b : Reg) (pair : Bool) (w : TWidth) (s : State) : Host.Outcome State Fault Refusal :=
  run (do
    enter (.cstq d a b pair w)
    let nb := widthBytes w
    let l0 := s.ctx.q.sq.getD 0 []
    let l1 := if pair then s.ctx.q.sq.getD 1 [] else l0
    check (!l0.isEmpty && !l1.isEmpty) (.block (.sq 0))
    let pa := s.getX a
    let pb := s.getX b
    check (pa.toNat % 8 == 0) (.trap .misaligned pa)
    check (pb.toNat % nb == 0) (.trap .misaligned pb)
    let data := l0.headD Line.zero
    let sel := l1.headD Line.zero
    require (data.poison == 0 && sel.poison == 0) .poison
    let picked := ((List.range 64).filter (fun j => sel.data.getD j 0 != 0)).map (fun j => data.data.getD j 0)
    let c := picked.length
    let pc := s.issue.pc
    match s.ctx.cstq.filter (fun r => r.pc == pc) with
    | some r =>
      cstqElements d pair pb nb r.n r.k c pc r.done picked
      cstqEnd d pair r.n r.k c
    | none =>
      let (t, _) ← findT .S 5 pa true
      let size (v : Nat) : Nat := if v / 2 ^ 32 ≤ v % 2 ^ 32 then 0 else Nat.min c (v / 2 ^ 32 - v % 2 ^ 32)
      let old ← swapM pa t 8 (fun v => some (v / 2 ^ 32 * 2 ^ 32 + (v % 2 ^ 32 + size v)))
      let n := old % 2 ^ 32
      let k := size old
      cstqElements d pair pb nb n k c pc 0 picked
      cstqEnd d pair n k c) s

end Sys2Proof.Machine
end

