-- ==== Sys2Proof/Machine/Engine.lean ====
section
/-! DEFINITION. What the engines share: issuing a command and numbering it, the order among commands, their accesses, and
retirement (05 R136 to R145; 09 R433, R434; 17 R324, R326; 18 R341). -/

namespace Sys2Proof.Machine

/-- Why an engine's access is not made. -/
inductive EngStop
  /-- it waits, and is tried again -/
  | wait
  | pageFault (va : W64)
  /-- an error: a cause, with the KIND of a violation -/
  | error (c : Cause) (kind : Nat) (va : W64)
  deriving DecidableEq, Repr

/-- Engine work that may stop. -/
abbrev E := EStateM EngStop State

/-- The number d below a sequence number. -/
def seqBack (q : W32) (d : Nat) : W32 := if d < q.toNat then q - BitVec.ofNat 32 d else q - BitVec.ofNat 32 (d + 1)

/-- Whether two ranges share a unit of a footprint: a 128-byte line, or a 256-byte line of the scratchpad (05 R140). -/
def Range.meets (a b : Range) : Bool :=
  let u := if a.scratch then 256 else 128
  a.scratch == b.scratch && decide (a.lo < a.hi) && decide (b.lo < b.hi) &&
  decide (a.lo / u * u < b.hi) && decide (b.lo / u * u < a.hi)

/-- Whether two footprints overlap with at least one write. -/
def Foot.conflicts (a b : Foot) : Bool :=
  a.writes.any (fun w => (b.reads ++ b.writes).any (fun r => w.meets r)) || a.reads.any (fun r => b.writes.any (fun w => r.meets w))

/-- The scratchpad part of a footprint (05 R142). -/
def Foot.scratch (f : Foot) : Foot := { reads := f.reads.filter (·.scratch), writes := f.writes.filter (·.scratch) }

/-- The frames that the tables of an address space give the bytes from `lo` up to `hi`, as physical ranges, from a table of a level
downwards; `base` is the table's first address. A byte has one number through spaces 0 and 1 (05 R131, R140). -/
def framesIn (p : Part) (m : Mem) (lo hi : Nat) : Nat → Nat → Nat → List (Nat × Nat)
  | 0, _, _ => []
  | level + 1, table, base =>
    let size := 2 ^ levelShift level
    let first := (lo - base) / size
    let count := Nat.min (levelEntries level) ((hi - base + size - 1) / size) - first
    (List.range count).flatMap (fun j =>
      let a := base + (first + j) * size
      let e := readEntry m (table + 8 * (first + j))
      if bitsAt e 0 1 = 0 ∨ entryBad p level e then []
      else if bitsAt e 1 1 = 1 then
        let pa := bitsAt e 16 32 * 65536
        let f := if pa / 2 ^ 44 = 1 then pa % 2 ^ 44 else pa
        [(f + (Nat.max lo a - a), f + (Nat.min hi (a + size) - a))]
      else framesIn p m lo hi level (bitsAt e 8 40 * 256) a)

/-- The physical ranges of virtual ranges (05 R140). -/
def State.physicalRanges (s : State) (pasid : BitVec 20) (rs : List Range) : List (Nat × Nat) :=
  match processEntry s s.ctx.id.die pasid.toNat with
  | none => []
  | some e => rs.flatMap (fun r => if r.scratch then [] else framesIn s.part s.mem r.lo (Nat.min r.hi (2 ^ 55)) 4 (rootOf e.2) 0)

/-- Whether two lists of physical ranges share a 128-byte line. -/
def linesMeet (a b : List (Nat × Nat)) : Bool :=
  a.any (fun x => b.any (fun y => decide (x.1 < x.2) && decide (y.1 < y.2) && decide (x.1 / 128 * 128 < y.2) && decide (y.1 / 128 * 128 < x.2)))

/-- Whether two footprints of the acting context overlap with at least one write: by address, or through two virtual names of
one physical line, as the tables stand (05 R140, R141; log 44). -/
def State.footsMeet (s : State) (a b : Foot) : Bool :=
  a.conflicts b ||
  (let lines (rs : List Range) : List (Nat × Nat) := s.physicalRanges (s.reqOf s.strand 0).pasid rs
   let aw := lines a.writes
   let bw := lines b.writes
   (!aw.isEmpty && linesMeet aw (bw ++ lines b.reads)) || (!bw.isEmpty && linesMeet (lines a.reads) bw))

/-- A range of n bytes from a virtual address. -/
def rangeAt (a : W64) (n : Nat) : Range := { scratch := isScratch a, lo := a.toNat, hi := a.toNat + n }

/-- Whether a context is deterministic. -/
def Ctx.isDet (c : Ctx) : Bool := c.id.det && c.id.kind.isApp

/-- The commands in flight that a command of these predecessors and class is ordered directly after (05 R142). -/
def directPreds (cmds : List Cmd) (seq : W32) (cls : EngClass) (d1 d2 : BitVec 6) : List Cmd :=
  cmds.filter (fun c => (d1 != 0 && c.seq == seqBack seq d1.toNat) || (d2 != 0 && c.seq == seqBack seq d2.toNat) ||
    (cls == .mxa && c.cls == .mxa && seqBelow c.seq seq))

/-- Every command in flight that a list of commands and their chains cover. -/
def allPreds (cmds : List Cmd) : Nat → List Cmd → List Cmd
  | 0, l => l
  | fuel + 1, l =>
    allPreds cmds fuel (l ++ (l.flatMap (fun c => directPreds cmds c.seq c.cls c.d1 c.d2)).filter (fun c => !l.any (fun o => o.seq == c.seq)))

/-- A context's 65th unretired command blocks as on a busy engine (09 R230). -/
def slotForCmd : M Unit := do
  let s ← get
  check (decide (s.ctx.eng.cmds.length < 64)) (.block .engine)

/-- The footprint checker of deterministic mode (05 R142). -/
def checkFoot (cls : EngClass) (d1 d2 : BitVec 6) (foot : Foot) : M Unit := do
  let s ← get
  if s.ctx.isDet then
    let cmds := s.ctx.eng.cmds.filter (fun c => !(c.strand == s.strand && c.pc == s.issue.pc && c.unread))
    check (!cmds.any (·.unread)) (.block .engine)
    let before := allPreds cmds 64 (directPreds cmds s.ctx.eng.seqno cls d1 d2)
    require (!cmds.any (fun c => !before.any (fun o => o.seq == c.seq) && c.foot.scratch.conflicts foot.scratch)) .footprintConflict

/-- Issues a command: it takes the next number (05 R136), or the one its held bundle has kept for it (11 R268). -/
def pushCmd (cls : EngClass) (d1 d2 : BitVec 6) (foot : Foot) (body : CmdBody) : M W32 := do
  let s ← get
  let kept := s.ctx.eng.cmds.find? (fun m => m.unread && m.strand == s.strand && m.pc == s.issue.pc)
  let q := (kept.map (·.seq)).getD s.ctx.eng.seqno
  let c : Cmd := { seq := q, cls, strand := s.strand, pc := s.issue.pc, d1, d2, foot, started := false, stalled := none,
                   body, finished := false, causes := [], code := 0, desc := none,
                   lease := if cls = .mxa then (s.cluster s.hereCluster).lease else 0, unread := false }
  modify (fun s => s.modCtx (fun x => { x with eng := match kept with
    | none => { x.eng.numbered with cmds := x.eng.cmds ++ [c] }
    | some _ => { x.eng with cmds := x.eng.cmds.map (fun m => if m.seq = q then c else m) } }))
  pure q

/-- Whether a command is an NB.MV whose x is not known: it has not started (19 R368). -/
def Cmd.xUnknown (c : Cmd) : Bool := !c.finished && match c.body with | .nb .mv _ _ _ _ _ _ none => true | _ => false

namespace State

/-- A command in flight. -/
def cmd (s : State) (q : W32) : Option Cmd := s.ctx.eng.cmds.find? (fun c => c.seq == q)

/-- Changes a command in flight. -/
def modCmd (s : State) (q : W32) (f : Cmd → Cmd) : State :=
  s.modCtx (fun c => { c with eng := { c.eng with cmds := c.eng.cmds.map (fun m => if m.seq = q then f m else m) } })

/-- Whether the strand still has posted writes or tile loads before a command that have not been performed (05 R139). -/
def postedBefore (s : State) (c : Cmd) : Bool :=
  s.ctx.eng.posted.any (fun p => p.strand == c.strand && !seqBelow c.seq p.seq) ||
  (c.strand == .L && s.ctx.loads.any (fun l => !seqBelow c.seq l.seq))

/-- Whether an earlier member of a command's own bundle still waits, or its card is still to be read (05 R139). -/
def heldBefore (s : State) (c : Cmd) : Bool :=
  c.unread ||
  ((s.ctx.str c.strand).held.toList ++ (if c.strand = .K then s.ctx.trap.kHeld.toList else [])).any (fun h =>
    !seqBelow c.seq h.seq && h.rest.any (fun m => decide (m.1.toNat < c.pc.toNat)))

/-- Whether a BFENCE keeps a near-bank command from starting: one numbered at or above its point, while it waits (05 R135). -/
def fencedOff (s : State) (c : Cmd) : Bool :=
  c.cls == .nbu && [StrandId.L, .C, .S, .K].any (fun k => match (s.ctx.str k).blocked with | some (.fence q) => !seqBelow c.seq q | _ => false)

/-- Whether a command may start: its named predecessors have retired with their invalidations in deterministic mode (05
R142), and every earlier access of its strand has been performed (R139). A pre-empted item starts none (09 R230). -/
def mayStart (s : State) (c : Cmd) : Bool :=
  !s.postedBefore c && !s.heldBefore c && !s.fencedOff c &&
  (match s.ctx.id.residency with
   | .stopping => c.started
   | .saved => c.started && c.cls != .mxa
   | _ => true) &&
  (!s.ctx.isDet ||
    ((directPreds s.ctx.eng.cmds c.seq c.cls c.d1 c.d2).isEmpty &&
     !s.ctx.eng.invals.any (fun v => (c.d1 != 0 && v.seq == seqBack c.seq c.d1.toNat) || (c.d2 != 0 && v.seq == seqBack c.seq c.d2.toNat))))

/-- Whether accesses of a command wait for an earlier command of its context with an overlapping footprint, or for that
command's invalidations (05 R141). Until an earlier NB.MV has started its x is not known, and writes wait for it (19 R368). -/
def edgeWaits (s : State) (q : W32) (foot : Foot) : Bool :=
  !s.ctx.isDet &&
  (s.ctx.eng.cmds.any (fun c => seqBelow c.seq q && (c.unread || (c.xUnknown && !foot.writes.isEmpty) || s.footsMeet c.foot foot)) ||
   s.ctx.eng.invals.any (fun v => seqBelow v.seq q && s.footsMeet v.foot foot))

end State

/-- First-error records take the first code and count them all (17 R326, 07 R182). -/
def ErrRec.note (e : ErrRec) (q : W32) (code : BitVec 4) : ErrRec :=
  let n := if e.count = 0xFFFF then 0xFFFF else e.count + 1
  if e.code = 0 then { seq := q, count := n, code } else { e with count := n }

namespace State

/-- The code a command retires with is recorded (17 R326, 07 R182). -/
def noteCode (s : State) (c : Cmd) : State :=
  if c.code = 0 then s
  else s.modCtx (fun x => match c.cls with
    | .ce => { x with csr := { x.csr with ceerr := x.csr.ceerr.note c.seq c.code } }
    | .nbu => { x with csr := { x.csr with nberr := x.csr.nberr.note c.seq c.code } }
    | _ => x)

/-- The name of a command of a context at the pseudo-channels. -/
def runName (i : Ident) (q : W32) : Nat × W32 × W32 := ((ctxName i).1, (ctxName i).2, q)
def nbName (s : State) (q : W32) : Nat × W32 × W32 := runName s.ctx.id q

/-- A near-bank command leaves its pseudo-channels; requests that wait there are served at once (07 R177, R178). -/
def leavePchs (s : State) (home : Nat) (name : Nat × W32 × W32) : State :=
  (s.pchsWith (fun y => y.accepted.contains name)).foldl (fun (t : State) q =>
    if q.1 = home then
      (t.serveAll q.1 q.2).modPch q.1 q.2 (fun y => { y with accepted := y.accepted.erase name, allowance := false, last := s.ns })
    else t) s

/-- What a near-bank command leaves when it retires: its pseudo-channels, flags, provenance, and the rows whose L2 copies
still stand (05 R144, 07 R176 to R178, 10 R249). -/
def nearRetired (s : State) (c : Cmd) : State :=
  match c.body with
  | .nb _ _ _ _ _ _ _ (some r) =>
    let s0 := s.leavePchs r.home (s.nbName c.seq)
    let s1 := (s0.orFlags r.flags).recordEvent c.seq true r.event
    if r.written.isEmpty then s1
    else s1.modCtx (fun x => { x with eng := { x.eng with
      invals := x.eng.invals ++ [{ seq := c.seq, rows := r.written, foot := c.foot }] } })
  | _ => s

/-- A command retires: it leaves the list, and its causes are raised on its strand (05 R138, 09 R433). -/
def retire (s : State) (c : Cmd) : State :=
  let s1 := s.modCtx (fun x => { x with eng := { x.eng with cmds := x.eng.cmds.filter (fun m => m.seq ≠ c.seq) } })
  let s2 := (s1.noteCode c).nearRetired c
  c.causes.foldl (fun (t : State) e => t.raiseDeferred { strand := c.strand, cause := e.1, pc := c.pc, addr := e.2 }) s2

/-- Retires the finished commands of a class in sequence order, as far as the first that is not finished. -/
def retireClass (cls : EngClass) : Nat → State → State
  | 0, s => s
  | n + 1, s =>
    match s.ctx.eng.cmds.find? (fun c => c.cls == cls) with
    | some c => if c.finished then retireClass cls n (s.retire c) else s
    | none => s

/-- A command's work is done: it retires when the earlier ones of its class have (05 R138). -/
def finish (s : State) (q : W32) : State :=
  match s.cmd q with
  | none => s
  | some c =>
    let s1 := s.modCmd q (fun m => { m with finished := true, stalled := none })
    retireClass c.cls s1.ctx.eng.cmds.length s1

/-- An engine access that fails as a violation is logged with the command's party (09 R235). -/
def logEngine (s : State) (c : Cmd) (kind : Nat) (va : W64) : State :=
  if kind = 0 then s else s.logViolation s.ctx.id.die kind va (s.reqOf c.strand 0).pasid (s.partyOf c.strand)

/-- A command stalls on a page fault (05 R145): the hint record of its address is noted, and the fault is posted to F, once. -/
def stallAt (s : State) (c : Cmd) (va : W64) : State :=
  let t := if c.stalled = some va then s else (s.noteHint c.strand va).wake false s.here
  t.modCmd c.seq (fun m => { m with stalled := some va })

/-- Adds a cause to those a command raises once it has retired. -/
def addCause (s : State) (q : W32) (c : Cause) (va : W64) : State :=
  s.modCmd q (fun m => if m.causes.any (fun e => e.1 == c.code) then m else { m with causes := m.causes ++ [(c.code, va)] })

end State

/-- Where a sector piece of an engine's access goes. Engines do not reach space 8. -/
def eFind (r : Req) (start va : W64) (write : Bool) : E Target := do
  if isScratch start && !isScratch va then throw (.error .accessViolation 11 va)
  let s ← get
  let (f, s1) := locate s r va write
  set s1
  match f with
  | .at_ (.regs ..) _ => throw (.error .accessViolation 4 va)
  | .at_ t _ =>
    match s1.linkError t with
    | none => pure t
    | some (c, k) => throw (.error c k va)
  | .pageFault => throw (.pageFault va)
  | .violation k => throw (.error .accessViolation k va)

/-- Finds where the pieces of an access go. -/
def ePlan (r : Req) (write : Bool) (start : W64) : List (W64 × Nat) → E (List (W64 × Nat × Target))
  | [] => pure []
  | (va, n) :: rest => do
    let t ← eFind r start va write
    let s ← get
    if s.fillPending t n then throw .wait
    let more ← ePlan r write start rest
    pure ((va, n, t) :: more)

/-- Reads planned pieces through the caches of a die, or with none at the stacks themselves: each byte with the poison mark of its
sector. -/
def eReadPieces (via : Option Nat) : List (W64 × Nat × Target) → E (List (Byte × Bool))
  | [] => pure []
  | (_, n, t) :: rest => do
    let s ← get
    let (g, s1) := s.readVia via t n
    set s1
    let more ← eReadPieces via rest
    pure (g.data.map (fun b => (b, g.poison)) ++ more)

/-- Reads n bytes for an engine, through the home L2 and, for lines homed elsewhere, the RDC of its die: 06 R157 says so of the matrix
array, and 04 R102 of what is cached on a page of CACHE 00 (DEDUCED, log 91). -/
def eRead (r : Req) (va : W64) (n : Nat) : E (List (Byte × Bool)) := do
  let ps ← ePlan r false va (sectorPieces (n / 32 + 2) va n)
  eReadPieces (some r.die) ps

/-- Writes planned pieces: a piece that takes a poisoned byte is written poisoned; part of a poisoned sector is left, and
its address answered (10 R242). -/
def eWritePieces (bs : List (Byte × Bool)) : Nat → List (W64 × Nat × Target) → E (Option W64)
  | _, [] => pure none
  | o, (va, n, t) :: rest => do
    let piece := (bs.drop o).take n
    let s ← get
    if s.poisonedT t && n != 32 then
      let _ ← eWritePieces bs (o + n) rest
      pure (some va)
    else
      set (s.writeT t (piece.map (·.1)) (piece.any (·.2)))
      eWritePieces bs (o + n) rest

/-- Writes bytes for an engine, once every piece has found its place. -/
def eWrite (r : Req) (va : W64) (bs : List (Byte × Bool)) : E (Option W64) := do
  let ps ← ePlan r true va (sectorPieces (bs.length / 32 + 2) va bs.length)
  eWritePieces bs 0 ps

/-- The virtual address of the sector that holds an address. -/
def sectorVa (va : W64) : W64 := va - BitVec.ofNat 64 (va.toNat % 32)

/-- Reads n bytes for an engine that needs them whole: a poisoned sector is an error at its address. -/
def eReadClean (r : Req) (va : W64) (n : Nat) : E (List Byte) := do
  let bs ← eRead r va n
  match bs.findIdx? (·.2) with
  | some i => throw (.error .poison 0 (sectorVa (va + BitVec.ofNat 64 i)))
  | none => pure (bs.map (·.1))

/-- The first piece of a read that was poisoned, with its target. -/
def firstPoisoned : List (W64 × Nat × Target) → List (Byte × Bool) → Option (W64 × Target)
  | [], _ => none
  | (va, n, t) :: rest, bs => if (bs.take n).any (·.2) then some (va, t) else firstPoisoned rest (bs.drop n)

/-- Looks at n bytes without an access of their own; none where they cannot be read. -/
def State.peek (s : State) (r : Req) (va : W64) (n : Nat) : Option (List Byte) :=
  match eReadClean r va n s with
  | .ok bs _ => some bs
  | .error .. => none

/-- Consumed poison is recorded at its sector (10 R244). -/
def State.enginePoison (s : State) (r : Req) (va : W64) : State :=
  let lost := match (locate s r va false).1 with | .at_ t _ => s.lostT t | _ => false
  s.noteEcc 2 lost va

/-- Waits for earlier commands that overlap what a command touches next (05 R141). -/
def rowEdge (q : W32) (reads writes : List Range) : E Unit := do
  let s ← get
  if s.edgeWaits q { reads, writes } then throw .wait

/-- Clean bytes. -/
def cleanBytes (bs : List Byte) : List (Byte × Bool) := bs.map (fun b => (b, false))

/-- ENG.WAIT's wait (18 R341). -/
def Engines.busy (e : Engines) (cls : EngClass) (q : W32) : Bool :=
  let p := if 2 ^ 31 ≤ (e.last - q).toNat then e.last else q
  q != 0 && e.cmds.any (fun c => c.cls == cls && decide ((p - c.seq).toNat < 2 ^ 31))
/-- The same for the acting context. -/
def State.engineBusy (s : State) (cls : EngClass) (q : W32) : Bool := s.ctx.eng.busy cls q

end Sys2Proof.Machine
end

