-- ==== Sys2Proof/Machine/CopyEngine.lean ====
section
/-! DEFINITION. The copy engine: CE.COPY, CE.FILL and CE.GATH, the start of a command and its rows (17 R321 to R326). -/

namespace Sys2Proof.Machine

/-- A copy card read as fields (17 R322). -/
structure Card where
  src : W64
  dst : W64
  sstride : Nat
  dstride : Nat
  aux : W64
  d1 : BitVec 6
  d2 : BitVec 6
  conv : Nat
  rows : Nat
  len : Nat
  deriving DecidableEq, Repr

def cardOf (w : Vector W64 4) : Card :=
  { src := w[0], dst := w[1], sstride := bitsAt w[2] 32 32, dstride := bitsAt w[2] 0 32, aux := w[2],
    d1 := BitVec.ofNat 6 (bitsAt w[3] 58 6), d2 := BitVec.ofNat 6 (bitsAt w[3] 52 6), conv := bitsAt w[3] 50 2,
    rows := bitsAt w[3] 32 16 + 1, len := bitsAt w[3] 0 32 }

/-- A strided range of rows. -/
def rowsRange (a : W64) (rows stride len : Nat) : Range := rangeAt a ((rows - 1) * stride + len)

/-- The ranges a command reads and writes (05 R140, 17 R325). -/
def ceFoot (op : CeOp) (c : Card) : Foot :=
  match op with
  | .fill => { reads := [], writes := [rowsRange c.dst c.rows c.dstride c.len] }
  | .gath =>
    let top := if isScratch c.src then scratchBase.toNat + 2 ^ 22 else 2 ^ 55
    { reads := [rangeAt c.aux (4 * c.rows), { scratch := isScratch c.src, lo := c.src.toNat, hi := top }],
      writes := [rangeAt c.dst (c.rows * c.len)] }
  | .copy =>
    match c.conv with
    | 1 => { reads := [rangeAt c.src (960 * c.rows), rangeAt c.aux (60 * c.rows)], writes := [rangeAt c.dst (1024 * c.rows)] }
    | 2 => { reads := [rangeAt c.src (1024 * c.rows)], writes := [rangeAt c.dst (960 * c.rows), rangeAt c.aux (60 * c.rows)] }
    | _ => { reads := [rowsRange c.src c.rows c.sstride c.len], writes := [rowsRange c.dst c.rows c.dstride c.len] }

/-- A doubleword load of an instruction's operand block. -/
def loadWord (va : W64) : M W64 := do
  let s ← get
  check (bitsAt va 55 9 == 0) (.violation 11 va)
  let (t, _) ← findT s.strand 0 va false
  let bs ← readM s.strand va t 8
  pure (BitVec.ofNat 64 (natOfBytes bs))

/-- Issues a copy-engine command (17 R321). -/
def ceIssue (i : Instr) (op : CeOp) (d a : Reg) : M Unit := do
  enter i
  let s ← get
  let va := s.getX a
  check (va.toNat % 32 == 0) (.trap .misaligned va)
  slotForCmd
  tilesDone
  let w0 ← loadWord va
  let w1 ← loadWord (va + 8)
  let w2 ← loadWord (va + 16)
  let w3 ← loadWord (va + 24)
  let card : Vector W64 4 := #v[w0, w1, w2, w3]
  let c := cardOf card
  let foot := ceFoot op c
  checkFoot .ce c.d1 c.d2 foot
  let q ← pushCmd .ce c.d1 c.d2 foot (.ce op card 0)
  wx d (q.setWidth 64)

/-- CE.COPY. -/
def execCeCopy (d a : Reg) (s : State) : Host.Outcome State Fault Refusal := run (ceIssue (.ceCopy d a) .copy d a) s
/-- CE.FILL. -/
def execCeFill (d a : Reg) (s : State) : Host.Outcome State Fault Refusal := run (ceIssue (.ceFill d a) .fill d a) s
/-- CE.GATH. -/
def execCeGath (d a : Reg) (s : State) : Host.Outcome State Fault Refusal := run (ceIssue (.ceGath d a) .gath d a) s

/-- Whether a card has a layout error (17 R324, code 1); an index table that is not aligned counts as one (log 22). -/
def cardBad (op : CeOp) (w : Vector W64 4) : Bool :=
  let c := cardOf w
  bitsAt w[1] 55 9 != 0 || bitsAt w[3] 48 2 != 0 || c.conv == 3 ||
  (op != .copy && c.conv != 0) || (c.conv == 0 && c.len == 0) || (c.conv != 0 && c.len != 0) ||
  (op == .fill && c.sstride != 0) || (op == .gath && c.aux.toNat % 4 != 0)

/-- The ranges of rows of n bytes from an address on, a stride apart; rows from a scratchpad address on stay the scratchpad's (R324, code 4). -/
def strideRows (a : W64) (rows stride n : Nat) : List Range :=
  if stride = n then [rangeAt a (rows * n)]
  else (List.range rows).map (fun m => let x := a + BitVec.ofNat 64 (m * stride); { rangeAt x n with scratch := isScratch a || isScratch x })

/-- Everything that a command reads and writes, row by row (17 R323): the rows of a gather are where its index table `idx` puts
them, with addresses that may lie beyond the address space. -/
def ceTargets (op : CeOp) (c : Card) (idx : List Nat) : List Range :=
  match op with
  | .fill => strideRows c.dst c.rows c.dstride c.len
  | .gath =>
    [rangeAt c.aux (4 * c.rows), rangeAt c.dst (c.rows * c.len)] ++
    idx.map (fun i => { scratch := isScratch c.src, lo := c.src.toNat + i * c.len, hi := c.src.toNat + i * c.len + c.len })
  | .copy =>
    if c.conv = 0 then strideRows c.src c.rows c.sstride c.len ++ strideRows c.dst c.rows c.dstride c.len
    else (ceFoot op c).reads ++ (ceFoot op c).writes

/-- The pages of a range whose translation is looked at. -/
def pagesOf (r : Range) : List W64 :=
  (List.range (r.hi / 65536 - r.lo / 65536 + 1)).map (fun i => BitVec.ofNat 64 (if i = 0 then r.lo else (r.lo / 65536 + i) * 65536))

/-- Whether a page leads to space 8 or a reserved space (17 R324, code 2); a fault is left to the row that meets it. -/
def badSpace (s : State) (r : Req) (va : W64) : Bool :=
  if isScratch va || bitsAt va 55 9 != 0 then false
  else match (translate s r va.toNat false).1 with
    | .leaf e _ _ => let sp := bitsAt e 44 4; decide (3 < sp)
    | _ => false

/-- What the check of an image page finds (17 R324, code 3). -/
inductive ImagePage
  | ok | bad | fault (va : W64)
  deriving DecidableEq, Repr

def imagePage (s : State) (r : Req) (va : W64) : ImagePage :=
  if isScratch va then .bad
  else match (translate s r va.toNat false).1 with
    | .leaf e _ _ => if bitsAt e 44 4 = 0 ∧ bitsAt e 7 1 = 1 ∧ bitsAt e 8 4 = 11 then .ok else .bad
    | .pageFault => .fault va
    | .violation _ => .ok

/-- The code a command is refused with at its start, or the address of a page fault (17 R324); `idx` holds the indices of a
gather. -/
def ceCheck (s : State) (r : Req) (op : CeOp) (w : Vector W64 4) (idx : List Nat) : Sum Nat W64 :=
  let c := cardOf w
  let fixed := ceTargets op c idx
  if cardBad op w then .inl 1
  else if fixed.any (fun x => decide (2 ^ 55 < x.hi)) || (op == .gath && bitsAt c.src 55 9 != 0) || fixed.any (fun x => !x.scratch && (pagesOf x).any (badSpace s r)) then .inl 2
  else
    let images : List Range := if c.conv = 1 then [rangeAt c.dst (1024 * c.rows)] else if c.conv = 2 then [rangeAt c.src (1024 * c.rows)] else []
    if images.any (fun x => x.lo % 1024 != 0) then .inl 3
    else
      let found := (images.flatMap pagesOf).map (imagePage s r)
      if found.any (fun p => p == .bad) then .inl 3
      else match found.findSome? (fun p => match p with | .fault va => some va | _ => none) with
        | some va => .inr va
        | none => if fixed.any (fun x => x.scratch && decide (scratchBase.toNat + 2 ^ 22 < x.hi)) then .inl 4 else .inl 0

/-- The requester of a copy command. -/
def State.ceReq (s : State) (c : Cmd) : Req := s.reqOf c.strand 7

/-- The indices of a gather as its checks read them, once the fixed places have passed theirs (17 R324): they wait for earlier commands
that write the table; where the table cannot be read, the row that meets it says so. -/
def ceIndices (s : State) (c : Cmd) (op : CeOp) (w : Vector W64 4) : EStateM.Result EngStop State (List Nat) :=
  let d := cardOf w
  if op ≠ .gath ∨ ceCheck s (s.ceReq c) op w [] ≠ .inl 0 then .ok [] s
  else match (do
      rowEdge c.seq [rangeAt d.aux (4 * d.rows)] []
      let bs ← eRead (s.ceReq c) d.aux (4 * d.rows)
      pure ((List.range d.rows).map (fun m => natOfBytes (((bs.drop (4 * m)).take 4).map (·.1)))) : E (List Nat)) s with
    | .error (.error ..) t => .ok [] t
    | r => r

/-- CE_START (17 R324): the command's checks, then its rows. -/
def execCeStart (seq : W32) (s : State) : Host.Outcome State Fault Refusal :=
  .next (match s.cmd seq with
    | some c =>
      (match c.body with
       | .ce op w _ =>
         if c.started || c.finished || !s.mayStart c then s
         else match ceIndices s c op w with
           | .ok idx t =>
             (match ceCheck t (s.ceReq c) op w idx with
              | .inl 0 => t.modCmd seq (fun m => { m with started := true, stalled := none })
              | .inl n => (t.modCmd seq (fun m => { m with code := BitVec.ofNat 4 n })).finish seq
              | .inr va => t.stallAt c va)
           | .error (.pageFault va) t => t.stallAt c va
           | .error _ _ => s
       | _ => s)
    | none => s)

/-- Bytes of a repeated pattern. -/
def fillBytes (v : W64) (n : Nat) : List Byte := (List.range n).map (fun k => BitVec.ofNat 8 (v.toNat / 2 ^ (8 * (k % 8))))

/-- The sector of the first poisoned byte of what a row read, each part from its address on. -/
def poisonAt : List (W64 × List (Byte × Bool)) → Option W64
  | [] => none
  | (va, bs) :: rest => ((bs.findIdx? (·.2)).map (fun i => sectorVa (va + BitVec.ofNat 64 i))).or (poisonAt rest)

/-- One row of a copy command (17 R323): it is read whole and written afterwards. It answers the sector that raises Poison: the
first poisoned one that it read, else one of the destination that stayed poisoned (R324; 10 R242). -/
def ceRowM (r : Req) (q : W32) (op : CeOp) (c : Card) (m : Nat) : E (Option W64) := do
  let at_ (a : W64) (n : Nat) : W64 := a + BitVec.ofNat 64 n
  match op with
  | .fill =>
    let d := at_ c.dst (m * c.dstride)
    rowEdge q [] [rangeAt d c.len]
    let p ← eWrite r d (cleanBytes (fillBytes c.src c.len))
    pure (p.map sectorVa)
  | .gath =>
    let ia := at_ c.aux (4 * m)
    let d := at_ c.dst (m * c.len)
    rowEdge q [rangeAt ia 4] [rangeAt d c.len]
    let iw ← eRead r ia 4
    let a := at_ c.src (natOfBytes (iw.map (·.1)) * c.len)
    if isScratch c.src && !isScratch a then throw (.error .accessViolation 11 a)
    rowEdge q [rangeAt a c.len] []
    let bs ← eRead r a c.len
    let p ← eWrite r d (bs.map (fun b => (b.1, b.2 || iw.any (·.2))))
    pure ((poisonAt [(ia, iw), (a, bs)]).or (p.map sectorVa))
  | .copy =>
    match c.conv with
    | 1 =>
      let a := at_ c.src (960 * m)
      let x := at_ c.aux (60 * m)
      let d := at_ c.dst (1024 * m)
      rowEdge q [rangeAt a 960, rangeAt x 60] [rangeAt d 1024]
      let codes ← eRead r a 960
      let scales ← eRead r x 60
      let p ← eWrite r d (codes ++ scales ++ cleanBytes [0, 0, 0, 0])
      pure ((poisonAt [(a, codes), (x, scales)]).or (p.map sectorVa))
    | 2 =>
      let a := at_ c.src (1024 * m)
      let x := at_ c.aux (60 * m)
      let d := at_ c.dst (960 * m)
      rowEdge q [rangeAt a 1020] [rangeAt d 960, rangeAt x 60]
      let bs ← eRead r a 1020
      let ps ← ePlan r true x (sectorPieces 4 x 60)
      let p1 ← eWrite r d (bs.take 960)
      let p2 ← eWritePieces (bs.drop 960) 0 ps
      pure ((poisonAt [(a, bs)]).or ((p1.or p2).map sectorVa))
    | _ =>
      let a := at_ c.src (m * c.sstride)
      let d := at_ c.dst (m * c.dstride)
      rowEdge q [rangeAt a c.len] [rangeAt d c.len]
      let bs ← eRead r a c.len
      let p ← eWrite r d bs
      pure ((poisonAt [(a, bs)]).or (p.map sectorVa))

/-- A row of a command: the state after it, in which the command is done after its last row and at a row that fails (17 R324); or
the state and the address at which it stalls, none where it waits. -/
def ceStep (c : Cmd) (op : CeOp) (w : Vector W64 4) (m : Nat) (s : State) : Except (State × Option W64) State :=
  match ceRowM (s.ceReq c) c.seq op (cardOf w) m s with
  | .ok bad t =>
    let t2 : State := match bad with
      | some a => (t.addCause c.seq .poison a).enginePoison (s.ceReq c) a
      | none => t
    let t3 := t2.modCmd c.seq (fun x => { x with body := .ce op w (m + 1), stalled := none })
    .ok (if m + 1 = (cardOf w).rows then t3.finish c.seq else t3)
  | .error .wait _ => .error (s, none)
  | .error (.pageFault va) t => .error (t, some va)
  | .error (.error cause k va) t => .ok (((t.logEngine c k va).addCause c.seq cause va).finish c.seq)

/-- Rows of a command one after another in one step, up to its end. -/
def ceSteps (c : Cmd) (op : CeOp) (w : Vector W64 4) : Nat → Nat → State → Except (State × Option W64) State
  | 0, _, s => .ok s
  | n + 1, m, s =>
    match ceStep c op w m s with
    | .ok t => if (t.cmd c.seq).all (·.finished) then .ok t else ceSteps c op w n (m + 1) t
    | e => e

/-- Whether a command writes one 16-line tile image, 4 KiB in one piece, into the scratchpad, in whatever rows: its banks stay locked
from the first line to the last, so the whole image is written in one step, or nothing yet (05 R143). -/
def Card.image (c : Card) (op : CeOp) : Bool :=
  c.conv == 0 && c.rows * c.len == 4096 && isScratch c.dst && (op == .gath || c.rows == 1 || c.dstride == c.len)

/-- CE_ROW (17 R323, R324): the next row, or a whole tile image. -/
def execCeRow (seq : W32) (s : State) : Host.Outcome State Fault Refusal :=
  .next (match s.cmd seq with
    | some c =>
      (match c.body with
       | .ce op w m =>
         if c.finished then State.retireClass .ce s.ctx.eng.cmds.length s
         else if !c.started then s
         else if (cardOf w).image op then
           match ceSteps c op w (cardOf w).rows m s with
           | .ok t => t
           | .error (_, some va) => s.stallAt c va
           | .error (_, none) => s
         else match ceStep c op w m s with
           | .ok t => t
           | .error (t, some va) => t.stallAt c va
           | .error (_, none) => s
       | _ => s)
    | none => s)

/-- Where a stream is and the stride it moves on by (04 R114): the rows a tile load has still to read, the last row of a tile store, the
rows of the copy commands that run, and a near-bank command whose pages are being translated. The graph engine's accesses have no
stride. A tile store has its page in use until the end of the clk of its last row (log 87). -/
def State.streamAt (s : State) (stream : Nat) : List (W64 × W64) :=
  let cmds := s.ctx.eng.cmds
  if stream = 0 then []
  else if stream ≤ 4 then (s.ctx.loads.filter (fun l => l.q + 1 == stream)).map (fun l => (l.next.1, l.stride))
  else if stream ≤ 6 then ((s.ctx.sqAt.getD (stream - 5) none).map (fun x => [x])).getD []
  else if stream = 7 then cmds.flatMap (fun c => match c.body with
    | .ce op w m =>
      let d := cardOf w
      let at_ (a : W64) (n : Nat) : W64 × W64 := (a + BitVec.ofNat 64 (m * n), BitVec.ofNat 64 n)
      if !c.started then [] else match op, d.conv with
        | .fill, _ => [at_ d.dst d.dstride]
        | .gath, _ => [at_ d.aux 4, at_ d.dst d.len]
        | .copy, 1 => [at_ d.src 960, at_ d.aux 60, at_ d.dst 1024]
        | .copy, 2 => [at_ d.src 1024, at_ d.aux 60, at_ d.dst 960]
        | .copy, _ => [at_ d.src d.sstride, at_ d.dst d.dstride]
    | _ => [])
  else if stream = 8 then cmds.flatMap (fun c => if c.cls = .nbu ∧ !c.started then (c.stalled.map (fun a => [(a, 65536#64)])).getD [] else [])
  else []

/-- TLB_PREFETCH (04 R114): a stream TLB fetches the page after the one in use, in the direction of its stream's stride; what meets V = 0,
a malformed entry or a leaf it may not use is dropped. What 04 R88 does not translate is not prefetched. -/
def execTlbPrefetch (stream : Nat) (va : W64) (s : State) : Host.Outcome State Fault Refusal :=
  let page := va.toNat / 65536
  let next (x : W64 × W64) : Bool := x.2 != 0 && (if x.2.msb then page + 1 == x.1.toNat / 65536 else page == x.1.toNat / 65536 + 1)
  .next (if (s.streamAt stream).any next ∧ bitsAt va 55 9 = 0 ∧ isScratch va = false then (translate s (s.reqOf s.strand stream) va.toNat false).2 else s)

end Sys2Proof.Machine
end

