-- ==== Sys2Proof/Machine/Tuning.lean ====
section
/-! DEFINITION. The tuning search unit: knobs, objectives, trials, freezing, saving and loading (08 R192 to R204, R208; 19
R400, R401). KNRD stands in Machine/Control.lean, and a strand takes a commit at its level-0 back-edges (R193). -/

namespace Sys2Proof.Machine

/-- The number of settings of a knob's range. -/
def Knob.size (k : Knob) : Nat := (k.hi.toInt - k.lo.toInt + 1).toNat

/-- The size of the lattice (08 R196). -/
def latticeSize (ks : List Knob) : Nat := ks.foldl (fun n k => n * k.size) 1

/-- The index of values in declaration order (08 R196). -/
def latticeIndex (ks : List Knob) (vs : List W16) : Nat :=
  (ks.zip vs).foldl (fun i p => i * p.1.size + (p.2.toInt - p.1.lo.toInt).toNat) 0

/-- The values of an index, the last-declared knob varying fastest. -/
def latticePoint (ks : List Knob) (i : Nat) : List W16 :=
  (ks.reverse.foldl (fun (p : Nat × List W16) k => (p.1 / k.size, (k.lo + BitVec.ofNat 16 (p.1 % k.size)) :: p.2)) (i, [])).2

/-- Whether a value lies in a range. -/
def Knob.holds (k : Knob) (v : W16) : Bool := decide (k.lo.toInt ≤ v.toInt) && decide (v.toInt ≤ k.hi.toInt)

/-- The nearest value of a range. -/
def Knob.clamp (k : Knob) (v : W16) : W16 := if v.toInt < k.lo.toInt then k.lo else if k.hi.toInt < v.toInt then k.hi else v

namespace Tsu

/-- The committed values of the declared knobs. -/
def values (t : Tsu) : List W16 := t.knobs.map (fun k => t.setting.getD k.num.toNat 0)

/-- A setting with the declared knobs at given values. -/
def settingOf (t : Tsu) (vs : List W16) : Vector W16 16 :=
  (t.knobs.zip vs).foldl (fun s p => s.setIfInBounds p.1.num.toNat p.2) t.setting

/-- A commit: a new epoch, in a clk; what stood before the commits of that clk is kept for the strands that still see it (08 R193,
R209). -/
def commit (t : Tsu) (s : Vector W16 16) (clk : W64) : Tsu :=
  let u := if t.commitClk = clk then t else { t with before := t.setting, beforeEpoch := t.epoch }
  { u with setting := s, epoch := t.epoch + 1, commitClk := clk }

/-- Commits a point. -/
def commitPoint (t : Tsu) (vs : List W16) (clk : W64) : Tsu := t.commit (t.settingOf vs) clk

/-- The values of the best point; without a best, those committed (log 23). -/
def bestValues (t : Tsu) : List W16 :=
  match t.best with
  | some (i, _) => latticePoint t.knobs i
  | none => t.values

/-- The search: IDLE, running or frozen. -/
def running (t : Tsu) : Bool := t.phase.isSome && !t.frozen

/-- The measure that an objective source reads now (08 R198); 0 where a search goes on that has no objective set (DESIGN CHOICE, log
94). -/
def measure (t : Tsu) (c : Csrs) : W64 :=
  match t.objective with
  | some .clks => t.clks
  | some (.qhc i) => c.qhc.getD i.toNat 0
  | _ => 0

/-- Opens a trial at a point and commits it. -/
def openTrial (t : Tsu) (c : Csrs) (kind : TrialKind) (vs : List W16) (clk : W64) : Tsu × Nat :=
  let i := latticeIndex t.knobs vs
  ({ t.commitPoint vs clk with trial := some { kind, point := i, start := t.measure c } }, i)

/-- The candidate of a probe position: the best point with one knob moved, where that stays in its range (08 R201). -/
def probeAt (t : Tsu) (p : Nat) : Option (List W16) :=
  let m := p / 2
  let vs := t.bestValues
  match t.knobs[m]?, vs[m]? with
  | some k, some v =>
    let x := if p % 2 = 0 then v.toInt - 1 else v.toInt + 1
    if k.lo.toInt ≤ x ∧ x ≤ k.hi.toInt then some (vs.set m (BitVec.ofInt 16 x)) else none
  | _, _ => none

/-- Chooses and opens the next trial (08 R201). -/
def nextTrial (t : Tsu) (c : Csrs) (clk : W64) : Tsu × Nat :=
  if t.phase = some .sweep ∧ t.cursor < latticeSize t.knobs then t.openTrial c .sweep (latticePoint t.knobs t.cursor) clk
  else
    let e := if t.phase = some .sweep then { t with phase := some .exploit, ecnt := 0 } else t
    if e.ecnt < 2 then ({ e with ecnt := e.ecnt + 1 }).openTrial c .exploit e.bestValues clk
    else
      let u := { e with ecnt := 0 }
      let n := 2 * u.knobs.length
      match ((List.range n).map (fun j => (u.pptr + j) % n)).findSome? (fun p => (u.probeAt p).map (fun vs => (p, vs))) with
      | some (p, vs) => ({ u with pptr := (p + 1) % n }).openTrial c .probe vs clk
      | none => u.openTrial c .probe u.bestValues clk

/-- Closes the open trial with an objective (08 R200). -/
def closeTrial (t : Tsu) (v : W64) : Tsu :=
  match t.trial with
  | none => t
  | some r =>
    let better := match t.best with
      | none => true
      | some (i, o) => decide (v.toNat < o.toNat) || (v == o && decide (r.point < i))
    let u := { t with trial := none, trials := t.trials + 1 }
    match r.kind with
    | .sweep => { u with best := if better then some (r.point, v) else u.best, cursor := u.cursor + 1 }
    | .exploit => { u with best := some ((u.best.map (·.1)).getD r.point, v) }
    | .probe => if better then { u with best := some (r.point, v), pptr := 0 } else u

/-- A best kept in new ranges only where the knobs are the same and the point lies inside (08 R197). -/
def rebest (t : Tsu) (ks : List Knob) : Option (Nat × W64) :=
  match t.best with
  | none => none
  | some (i, o) =>
    let vs := latticePoint t.knobs i
    if ks.map (·.num) = t.knobs.map (·.num) ∧ (ks.zip vs).all (fun p => p.1.holds p.2) then some (latticeIndex ks vs, o) else none

/-- TUNE.DECL's effect for a legal knob (08 R196, R197). -/
def declare (t : Tsu) (k : Knob) (clk : W64) : Tsu :=
  let ks := if t.knobs.any (fun o => o.num == k.num) then t.knobs.map (fun o => if o.num = k.num then k else o) else t.knobs ++ [k]
  let best := t.rebest ks
  let u := { t with knobs := ks, best }
  if t.phase = none then u.commit (u.setting.setIfInBounds k.num.toNat k.lo) clk
  else
    ({ u with phase := some .sweep, cursor := 0, ecnt := 0, pptr := 0 }).commit
      (ks.foldl (fun (v : Vector W16 16) (o : Knob) => v.setIfInBounds o.num.toNat (o.clamp (v.getD o.num.toNat 0))) u.setting) clk

/-- Words 0 to 5 + n of the state block (08 R203). Without a best, its index and objective are written as 0; the cursor of a lattice of
2^32 points that has been swept is written in its low 32 bits, as 0 (DESIGN CHOICE, log 94). -/
def blockWords (t : Tsu) : List W64 :=
  let n := t.knobs.length
  let resume := match t.phase with | some .sweep => 1 | some .exploit => 2 | none => 0
  [ BitVec.ofNat 64 (2 ^ 48 + n * 2 ^ 16 + (if t.frozen then resume * 4 + 2 else 0) + (if t.phase.isSome then 1 else 0)),
    t.trials,
    BitVec.ofNat 64 (t.cursor % 2 ^ 32),
    (match t.best with | some (i, _) => BitVec.ofNat 64 (i % 2 ^ 32) | none => 0x8000000000000000),
    (match t.best with | some (_, o) => o | none => 0),
    BitVec.ofNat 64 (3 * 2 ^ 8 + t.ecnt * 2 ^ 6 + t.pptr) ] ++
  t.knobs.map (fun k => BitVec.ofNat 64
    (k.num.toNat * 2 ^ 48 + (t.setting.getD k.num.toNat 0).toNat * 2 ^ 32 + k.hi.toNat * 2 ^ 16 + k.lo.toNat))

/-- The state a block holds, if it is well formed (08 R204). `ws` are words 0 to 6 + n. -/
def ofBlock (t : Tsu) (ws : List W64) : Option Tsu :=
  let w (i : Nat) : W64 := ws.getD i 0
  let n := bitsAt (w 0) 16 5
  let resume := bitsAt (w 0) 2 2
  let frozen := bitsAt (w 0) 1 1 == 1
  let started := bitsAt (w 0) 0 1 == 1
  let ks := (List.range n).map (fun m =>
    ({ num := BitVec.ofNat 4 (bitsAt (w (6 + m)) 48 4), lo := BitVec.ofNat 16 (bitsAt (w (6 + m)) 0 16),
       hi := BitVec.ofNat 16 (bitsAt (w (6 + m)) 16 16) } : Knob))
  let cur := (List.range n).map (fun m => BitVec.ofNat 16 (bitsAt (w (6 + m)) 32 16))
  let noBest := bitsAt (w 3) 63 1 == 1
  let size := latticeSize ks
  let pptr := bitsAt (w 5) 0 5
  if bitsAt (w 0) 48 16 ≠ 1 ∨ 16 < n ∨ (ws.take (6 + n)).foldl (fun x y => x ^^^ y) 0 ≠ w (6 + n) ∨
      bitsAt (w 0) 21 27 ≠ 0 ∨ bitsAt (w 0) 4 12 ≠ 0 ∨ bitsAt (w 2) 32 32 ≠ 0 ∨ bitsAt (w 3) 32 31 ≠ 0 ∨
      bitsAt (w 5) 12 52 ≠ 0 ∨ bitsAt (w 5) 5 1 ≠ 0 ∨ (List.range n).any (fun m => bitsAt (w (6 + m)) 52 12 != 0) ∨
      !(ks.map (·.num)).Nodup ∨ ks.any (fun k => decide (k.hi.toInt < k.lo.toInt) || decide (255 < k.hi.toInt - k.lo.toInt)) ∨
      2 ^ 32 < size ∨ (ks.zip cur).any (fun p => !p.1.holds p.2) ∨ size < bitsAt (w 2) 0 32 ∨
      (noBest = false ∧ size ≤ bitsAt (w 3) 0 32) ∨ bitsAt (w 5) 8 4 ≠ 3 ∨ 2 < bitsAt (w 5) 6 2 ∨ (0 < n ∧ 2 * n ≤ pptr) ∨
      (frozen = true ∧ resume = 0) ∨ (frozen = false ∧ started = true) ∨ resume = 3 ∨ (resume ≠ 0 ∧ frozen = false) ∨
      (frozen = true ∧ started = false) ∨ (resume = 2 ∧ noBest = true) then none
  else
    let base := { t with knobs := ks, setting := Vector.replicate 16 0 }
    some { t with
      phase := if started then some (if resume = 2 then .exploit else .sweep) else none, frozen, knobs := ks,
      setting := base.settingOf cur, trials := w 1, cursor := bitsAt (w 2) 0 32,
      best := if noBest then none else some (bitsAt (w 3) 0 32, w 4), ecnt := bitsAt (w 5) 6 2, pptr, trial := none }

end Tsu

/-- A TUNE instruction that answers not-done with a reason (08 R195). -/
def notDone (reason : Nat) : W64 := BitVec.ofNat 64 (2 ^ 63 + reason)

/-- Sets the tuning state of the acting context. -/
def putTsu (t : Tsu) : M Unit := modify (fun s => s.modCtx (fun c => { c with tsu := t }))

/-- The commits of TUNE.DECL in phase IDLE and of TUNE.LOAD write every view directly (08 R193). -/
def setViews : M Unit := modify (fun s => s.modCtx (fun c =>
  let before (p : Strand) : Option (W64 × Vector W16 16) :=
    if p.wasView.any (fun w => w.1 == s.cycle) then p.wasView else some (s.cycle, p.view)
  let f (p : Strand) : Strand := { p with view := c.tsu.setting, viewEpoch := c.tsu.epoch, wasView := before p }
  { c with l := f c.l, c := f c.c, s := f c.s, k := f c.k }))

/-- An optional tainted result. -/
def wxoTaint (r : Option Reg) (v : W64) : M Unit :=
  match r with
  | some r => wx r v true
  | none => pure ()

/-- Whether the context has a tuning unit: F has none (19 R400). -/
def hasTsu (s : State) : Bool := s.ctx.id.kind.isApp

/-- TUNE.DECL (08 R196, R197). -/
def execTuneDecl (d : Option Reg) (a b : Reg) (s : State) : Host.Outcome State Fault Refusal :=
  run (do
    enter (.tuneDecl d a b)
    let t := s.ctx.tsu
    let x := s.getX a
    let y := s.getX b
    let k : Knob := { num := x.setWidth 4, lo := BitVec.ofNat 16 (bitsAt y 0 16), hi := BitVec.ofNat 16 (bitsAt y 16 16) }
    if !hasTsu s || t.running then wxo d 3
    else if bitsAt x 4 60 ≠ 0 ∨ bitsAt y 32 32 ≠ 0 ∨ k.hi.toInt < k.lo.toInt then wxo d 1
    else if 255 < k.hi.toInt - k.lo.toInt ∨
        2 ^ 32 < latticeSize (t.knobs.filter (fun o => o.num != k.num) ++ [k]) then wxo d 2
    else
      putTsu (t.declare k s.cycle)
      if t.phase.isNone then setViews
      wxo d 0) s

/-- TUNE.OBJ (08 R198, 19 R400). The counter index and the length are looked at for their own source only, and are not among the 'other
bits' of another (DESIGN CHOICE, log 94). -/
def execTuneObj (d : Option Reg) (a b : Reg) (s : State) : Host.Outcome State Fault Refusal :=
  run (do
    enter (.tuneObj d a b)
    let t := s.ctx.tsu
    let x := s.getX a
    let source := bitsAt x 0 2
    let index := bitsAt x 4 4
    let len := bitsAt x 16 16
    if !hasTsu s || t.running then wxo d 3
    else if bitsAt x 2 2 ≠ 0 ∨ bitsAt x 8 8 ≠ 0 ∨ bitsAt x 32 32 ≠ 0 ∨
        (source = 3 ∧ (len = 0 ∨ (s.getX b).toNat % 8 ≠ 0)) then wxo d 1
    else
      let o : Objective := match source with
        | 0 => .clks
        | 1 => .qhc (BitVec.ofNat 4 index)
        | 2 => .software
        | _ => .replay (s.getX b) len
      putTsu { t with objective := some o }
      wxo d 0) s

/-- TUNE.STEP (08 R199 to R201). -/
def execTuneStep (d : Option Reg) (a : Reg) (s : State) : Host.Outcome State Fault Refusal :=
  run (do
    enter (.tuneStep d a)
    let t := s.ctx.tsu
    let csr := s.ctx.csr
    if !hasTsu s || t.frozen then wxoTaint d (notDone 3)
    else if t.phase.isNone then
      if t.knobs.isEmpty then wxoTaint d (notDone 1)
      else if t.objective.isNone then wxoTaint d (notDone 2)
      else
        let (u, i) := ({ t with phase := some .sweep, cursor := 0 }).openTrial csr .sweep (latticePoint t.knobs 0) s.cycle
        putTsu u
        wxoTaint d (BitVec.ofNat 64 i)
    else
      let start := (t.trial.map (fun r => r.start)).getD 0
      let v ← (match t.objective with
        | some .software => pure (s.getX a)
        | some (.replay base len) =>
          if t.trials.toNat < len then loadWord (base + 8 * t.trials) else pure (BitVec.allOnes 64)
        | _ => pure (t.measure csr - start))
      let (u, i) := (t.closeTrial v).nextTrial csr s.cycle
      putTsu u
      wxoTaint d (BitVec.ofNat 64 i)) s

/-- TUNE.FRZ (08 R202). -/
def execTuneFrz (d : Option Reg) (s : State) : Host.Outcome State Fault Refusal :=
  run (do
    enter (.tuneFrz d)
    let t := s.ctx.tsu
    if !hasTsu s || !t.running then wxo d 3
    else
      let u := { t with trial := none, frozen := true }
      putTsu (if t.best.isSome then u.commitPoint u.bestValues s.cycle else u)
      wxo d 0) s

/-- TUNE.RSM (08 R202). -/
def execTuneRsm (d : Option Reg) (s : State) : Host.Outcome State Fault Refusal :=
  run (do
    enter (.tuneRsm d)
    let t := s.ctx.tsu
    if !hasTsu s || !t.frozen then wxoTaint d (notDone 3)
    else
      let (u, i) := ({ t with frozen := false }).nextTrial s.ctx.csr s.cycle
      putTsu u
      wxoTaint d (BitVec.ofNat 64 i)) s

/-- Stores doublewords one after another as stores of the strand; those that are written stay written (19 R401). -/
def storeWords (va : W64) : List W64 → M Unit
  | [] => pure ()
  | w :: rest => do
    let s ← get
    if bitsAt va 55 9 ≠ 0 then violate 11 va
    let (t, _) ← findT s.strand 0 va true
    writeM s.strand s.issue.pc va t (bytesOfNat 8 w.toNat)
    storeWords (va + 8) rest

/-- Loads n doublewords one after another. -/
def loadWords : Nat → W64 → M (List W64)
  | 0, _ => pure []
  | n + 1, va => do
    let w ← loadWord va
    let ws ← loadWords n (va + 8)
    pure (w :: ws)

/-- TUNE.SAVE (08 R203, 19 R401). -/
def execTuneSave (d : Option Reg) (a : Reg) (s : State) : Host.Outcome State Fault Refusal :=
  run (do
    enter (.tuneSave d a)
    let t := s.ctx.tsu
    let va := s.getX a
    if !hasTsu s || t.running then wxo d 0
    else
      check (va.toNat % 8 == 0) (.trap .misaligned va)
      check (bitsAt va 55 9 == 0) (.violation 11 va)
      let ws := t.blockWords
      storeWords va (ws ++ [ws.foldl (fun x y => x ^^^ y) 0])
      wxo d (BitVec.ofNat 64 (8 * (7 + t.knobs.length)))) s

/-- TUNE.LOAD (08 R204, 19 R401). Of a block whose NKNOB is above 16 word 0 alone is read (DESIGN CHOICE, log 94). -/
def execTuneLoad (d : Option Reg) (a : Reg) (s : State) : Host.Outcome State Fault Refusal :=
  run (do
    enter (.tuneLoad d a)
    let t := s.ctx.tsu
    let va := s.getX a
    if !hasTsu s || t.running then wxo d 3
    else
      check (va.toNat % 8 == 0) (.trap .misaligned va)
      let w0 ← loadWord va
      let n := bitsAt w0 16 5
      let ws ← (if 16 < n then pure [] else loadWords (6 + n) (va + 8))
      match t.ofBlock (w0 :: ws) with
      | none => wxo d 4
      | some u =>
        putTsu ({ u with setting := t.setting }.commit u.setting s.cycle)
        setViews
        wxo d 0) s

end Sys2Proof.Machine
end

