-- ==== Sys2Proof/Machine/EngineCtl.lean ====
section
/-! DEFINITION. ENG.WAIT and ENG.SEQ (18 R341, R342), ENG.LNCH (09 R219, 18 R340). -/

namespace Sys2Proof.Machine

/-- Classes 2 and 3 are absent from the part without near-bank units and graph engines (00 R6). -/
def classHere (c : EngClass) : M Unit := do
  let s ← get
  require (c == .ce || c == .mxa || s.part.hasNear) .unitAbsent

/-- ENG.WAIT (18 R341): commands of earlier bundles keep its bundle from issuing, those of its own bundle hold it (11 R268). -/
def execEngWait (c : EngClass) (a : Reg) (s : State) : Host.Outcome State Fault Refusal :=
  run (do
    enter (.engWait c a)
    classHere c
    let q : W32 := (s.getX a).setWidth 32
    check (!s.engBefore.busy c q) (if s.rd.eng.busy c q then .block .engine else .wait .engine)) s

/-- ENG.SEQ (18 R341). -/
def execEngSeq (d : Reg) (c : EngClass) (s : State) : Host.Outcome State Fault Refusal :=
  run (do
    enter (.engSeq d c)
    classHere c
    let e := s.ctx.eng
    let q : W32 := match e.cmds.find? (fun m => m.cls == c) with
      | none => e.last
      | some o => if o.seq = 1 ∧ e.wrapped = false then 0 else seqBack o.seq 1
    wx d (q.setWidth 64)) s

/-- Gangs of a task (02 R47). -/
def Task.gangs (p : Part) (t : Task) : Nat :=
  let c := State.levelCores p (lrecLevel t.lrec)
  (lrecCount t.lrec + c - 1) / c

/-- The status of a device-side launch (09 R219): conditions 5, 1, 3, 4 and 2 in this order. A process stays torn down as
long as its entry is not valid (09 R222). -/
def State.launchStatus (s : State) (w : Vector W64 16) : W64 :=
  let d := s.ctx.id.die
  let pasid := (s.reqOf .K 0).pasid
  let mine := s.tasks.find? (fun t => t.id == s.ctx.id.task)
  if (s.die d).tearing.contains pasid ∧ (processEntry s d pasid.toNat).isNone then 5
  else if lrecRefused s.part w then 1
  else if mine.any (fun t => decide (lrecPri t.lrec < lrecPri w)) then 3
  else if s.ctx.id.det ∧ lrecDet w = false then 4
  else if 64 ≤ (s.tasks.filter (fun t => t.die == d && t.queue.isNone && !t.dead && decide (t.placed < t.gangs s.part))).length then 2
  else 0

/-- ENG.LNCH (09 R219). -/
def execEngLnch (d a : Reg) (s : State) : Host.Outcome State Fault Refusal :=
  run (do
    enter (.engLnch d a)
    let va := s.getX a
    check (va.toNat % 128 == 0) (.trap .misaligned va)
    let ws ← loadWords 16 va
    let w : Vector W64 16 := Vector.ofFn (fun i : Fin 16 => ws.getD i.val 0)
    let t ← get
    let st := t.launchStatus w
    if st = 0 then modify (fun s => s.addTask s.ctx.id.die (s.reqOf .K 0).pasid none w)
    wx d st) s

end Sys2Proof.Machine
end

