-- ==== Sys2Proof/Machine/Matrix.lean ====
section
/-! DEFINITION. The matrix array: leases, the MX instructions, MMA, MX.DRAIN, and the execution of class-1 commands (06 R149
to R165; 18 R358, R359, R361 to R366; 10 R249). A request for the lease is a compute strand that is blocked on it. -/

namespace Sys2Proof.Machine

/-- Commands a lease permits (06 R153), by the LEASELIM of the holder's core: whether the register is one per core, per cluster or per die
the spec does not say (DESIGN CHOICE, log 83). -/
def leaseLimit (c : Core) : Nat := if c.leaselim = 0 then 1 else Nat.min 64 c.leaselim.toNat

namespace State

/-- Whether a context requests the lease of a cluster: its compute strand is blocked on it and its bank issues. -/
def wantsLease (s : State) (k : Nat) (c : Ctx) : Bool :=
  c.id.kind.isApp && coreNo c.id / 4 == k && c.id.residency == .resident && c.fault.isNone &&
  (s.core (coreNo c.id)).issuing == c.id.kind && c.c.blocked == some .lease

/-- The priority of a context's task. -/
def prioOf (s : State) (c : Ctx) : Nat := ((s.tasks.find? (fun t => t.id == c.id.task)).map (fun t => lrecPri t.lrec)).getD 0

/-- The name of the acting context as a holder. -/
def leaseName (s : State) : Nat × CtxKind := (s.here % 4, s.ctx.id.kind)

/-- Whether the acting context holds its cluster's lease. -/
def holdsLease (s : State) : Bool := (s.cluster s.hereCluster).holder == some s.leaseName

/-- Whether the bundle that is issued may use the lease: the context held it as the bundle began to issue, or holds it (06 R151, 11
R268). -/
def bundleLease (s : State) : Bool := s.rdCluster.holder == some s.leaseName || s.holdsLease

/-- Counts a command under the lease: the last one lapses it when another request is pending (06 R152). A command of a bundle that has
already given the lease up counts no more. -/
def countLease (s : State) : State :=
  let k := s.hereCluster
  let c := s.cluster k
  if s.holdsLease = false then s
  else if c.issued + 1 < leaseLimit s.hereCore then s.setCluster k { c with issued := c.issued + 1 }
  else if s.others.any (s.wantsLease k) then s.lapseLease s.here s.ctx.id.kind
  else s.setCluster k { c with issued := 0 }

/-- Grants a free lease: the highest priority, then the first core after the last holder's (06 R152). -/
def grantLease (s : State) (k : Nat) : State :=
  let c := s.cluster k
  if c.holder.isSome then s
  else
    let key (x : Ctx) : Nat := (255 - s.prioOf x) * 4 + (coreNo x.id % 4 + 7 - c.lastHolder) % 4
    match ((s.ctx :: s.others).filter (s.wantsLease k)).foldl (fun best x => match best with
        | none => some x
        | some b => if key x < key b then some x else some b) none with
    | none => s
    | some x => s.setCluster k { c with holder := some (coreNo x.id % 4, x.id.kind), lastHolder := coreNo x.id % 4, issued := 0,
                                        grants := c.grants + 1, lease := c.grants + 1 }

end State

/-- Blocks until the context holds the lease (06 R151). -/
def needLease : M Unit := do
  let s ← get
  check s.bundleLease (.block .lease)

/-- MX.LEASE (18 R365): none is left where a member before it has ended the lease (DESIGN CHOICE, log 83). -/
def execMxLease (d : Reg) (s : State) : Host.Outcome State Fault Refusal :=
  run (do
    enter (.mxLease d)
    needLease
    wx d (if s.holdsLease then BitVec.ofNat 64 (leaseLimit s.hereCore - (s.cluster s.hereCluster).issued) else 0)) s

/-- MX.FREE (18 R365). -/
def execMxFree (s : State) : Host.Outcome State Fault Refusal :=
  run (do
    enter .mxFree
    modify (fun s => s.lapseLease s.here s.ctx.id.kind)) s

/-- LEASE_GRANT (06 R152). -/
def execLeaseGrant (cluster : Nat) (s : State) : Host.Outcome State Fault Refusal := .next (s.grantLease cluster)

/-- Whether a format-table entry is accepted (06 R159). -/
def fmtEntryOk (w : W64) : Bool :=
  match EType.ofCode (bvAt 4 w.toNat 0), EType.ofCode (bvAt 4 w.toNat 4), EType.ofCode (bvAt 4 w.toNat 16) with
  | some af, some bf, some _ => bitsAt w 20 44 == 0 && decide (bitsAt w 8 8 ≤ 5) && npAccepts (bitsAt w 8 8) af bf
  | _, _, _ => false

/-- MX.FMT (06 R159, 18 R364). -/
def execMxFmt (d a b : Reg) (s : State) : Host.Outcome State Fault Refusal :=
  run (do
    enter (.mxFmt d a b)
    require (!(s.ctx.isDet && s.tainted b)) .knobNumerics
    let i := s.getX a
    let w := s.getX b
    if i.toNat < 16 ∧ fmtEntryOk w then
      modify (fun s => s.modCtx (fun c => { c with comp := { c.comp with fmt := c.comp.fmt.setIfInBounds i.toNat w } }))
      wx d 0
    else wx d 1) s

/-- Drops the cached scale bytes of an address space for a tensor, or for all (06 R158). -/
def State.dropScales (s : State) (k : Nat) (pasid : BitVec 20) (tid : Option W32) : State :=
  let c := s.cluster k
  s.setCluster k { c with scales := c.scales.filter (fun e => e.pasid != pasid || tid.any (· != e.tid)) }

/-- MX.SCL (06 R158, 18 R366): while earlier class-1 commands are in flight it stands noted, for what they bring into the cache is
dropped again before the first command after it. -/
def execMxScl (a : Reg) (all : Bool) (s : State) : Host.Outcome State Fault Refusal :=
  run (do
    enter (.mxScl a all)
    let tid : Option W32 := if all then none else some ((s.getX a).setWidth 32)
    modify (fun s => s.dropScales s.hereCluster (s.reqOf .C 10).pasid tid)
    let s ← get
    if s.ctx.eng.cmds.any (fun c => c.cls == .mxa) then
      modify (fun s => s.modCtx (fun c => { c with eng := { c.eng with scls := c.eng.scls ++ [(c.eng.seqno, tid)] } }))) s

/-- Issues a class-1 command: it needs the lease and counts under it (06 R151, R152). What its bundle's earlier members do to the lease
takes effect after the bundle's own commands, which issue under the lease as it stood (DESIGN CHOICE, log 83). -/
def pushMx (d1 d2 : BitVec 6) (foot : Foot) (body : CmdBody) : M W32 := do
  needLease
  slotForCmd
  let q ← pushCmd .mxa d1 d2 foot body
  modify State.countLease
  pure q

/-- MX.ACT (06 R162, 18 R361). -/
def execMxAct (d a : Reg) (s : State) : Host.Outcome State Fault Refusal :=
  run (do
    enter (.mxAct d a)
    let va := s.getX a
    check (va.toNat % 16 == 0) (.trap .misaligned va)
    let foot : Foot := { reads := [rangeAt va 2064], writes := [] }
    checkFoot .mxa 0 0 foot
    let q ← pushMx 0 0 foot (.act va)
    wx d (q.setWidth 64)) s

/-- An operand descriptor (06 R157). -/
structure MxDesc where
  base : W64
  stride : Nat
  tid : W32
  sbase : W64
  sstride : Nat
  deriving DecidableEq, Repr

def descOf (ws : List W64) : MxDesc :=
  { base := ws.getD 0 0, stride := bitsAt (ws.getD 1 0) 0 32, tid := BitVec.ofNat 32 (bitsAt (ws.getD 1 0) 32 32),
    sbase := ws.getD 2 0, sstride := bitsAt (ws.getD 3 0) 0 32 }

/-- Bytes of k contiguous elements of a format (06 R157). -/
def kBytes (t : EType) (k : Nat) : Nat := (k * halfBytes t + 1) / 2

/-- What a descriptor names, for rows of k elements (05 R140). -/
def descRanges (d : MxDesc) (t : EType) (rows k : Nat) : List Range :=
  rangeAt d.base ((rows - 1) * d.stride + kBytes t k) ::
  (if t == .b4 then [rangeAt d.sbase ((rows - 1) * d.sstride + (k + 31) / 32)] else [])

/-- The read footprint of an MMA: its descriptors, and the operands as the descriptors stand at issue (05 R140, 06 R157). -/
def mmaFoot (s : State) (a b : W64) (af bf : EType) (m n k : Nat) : Foot :=
  let one (va : W64) (t : EType) (rows : Nat) : List Range :=
    rangeAt va 32 :: (match s.peek (s.reqOf s.strand 10) va 32 with
      | some bs => descRanges (descOf (wordsOf bs)) t rows k
      | none => [])
  { reads := one a af m ++ one b bf n, writes := [] }

/-- Rows of an MMA whose predicate bit is set (06 R161). -/
def mmaRows (qp : W16) (m : Nat) : List Nat := (List.range m).filter (fun i => bitAt qp.toNat (i / 8))

/-- The blocks that an MMA changes (06 R155, R156): those of which a covered row is predicated on. A block whose covered rows are all
predicated off is left out of the check of the accumulator type too, where R161 says 'an MMA into a block' (DESIGN CHOICE, log 83). -/
def mmaBlocks (block m n : Nat) (qp : W16) : List Nat :=
  (List.range 32).filter (fun b =>
    (mmaRows qp m).any (fun i => (16 * (block / 4) + i) / 16 == b / 4) &&
    decide (block % 4 ≤ b % 4) && decide (64 * (b % 4) < 64 * (block % 4) + n))

/-- The type bit of a block as the next command will find it: an MMA.Z in flight has set it by then (06 R161). -/
def Ctx.blockInt (c : Ctx) (b : Nat) : Bool :=
  c.eng.cmds.foldl (fun v m => match m.body with
    | .mma true prof _ _ mm n _ block qp _ _ =>
      if (mmaBlocks block mm n qp).contains b then prof == 4 else v
    | _ => v) (c.comp.accInt.getD b false)

/-- MMA and MMA.Z (06 R160, R161; 18 R358). -/
def mmaM (i : Instr) (zero : Bool) (qp : BitVec 4) (acc : BitVec 5) (a b : Reg) (slot : BitVec 2) (ft : Bool)
    (d1 d2 : BitVec 6) (np : BitVec 8) : M Unit := do
  enter i
  let s ← get
  let c := s.rd.comp
  let g := (c.slots.getD slot.toNat emptySlot).toNat
  let e := (c.fmt.getD (s.rd.c.loop0.idx.toNat % 16) 0).toNat
  let prof : BitVec 8 := if ft then bvAt 8 e 8 else np
  let ca : BitVec 4 := if ft then bvAt 4 e 0 else bvAt 4 g 36
  let cb : BitVec 4 := if ft then bvAt 4 e 4 else bvAt 4 g 40
  let refused := bitAt g 63
  let det := s.ctx.isDet
  require (profileLegal prof det) .profileInvalid
  let af := (EType.ofCode ca).getD .fp32
  let bf := (EType.ofCode cb).getD .fp32
  require ((!ft && refused) || ((EType.ofCode ca).isSome && (EType.ofCode cb).isSome && profileAccepts prof det af bf)) .profileInvalid
  let m := fld g 0 7 + 1
  let n := fld g 7 9 + 1
  let k := fld g 16 16 + 1
  let block := acc.toNat
  require (!refused && decide (16 * (block / 4) + m ≤ 128) && decide (64 * (block % 4) + n ≤ 256)) .shapeInvalid
  require (!(ft && (af == .b4 || bf == .b4) && k % 32 != 0)) .shapeInvalid
  let bits := c.pred qp
  require (zero || (mmaBlocks block m n bits).all (fun x => s.ctx.blockInt x == profileInt prof af)) .shapeInvalid
  let va := s.getX a
  let vb := s.getX b
  let foot := mmaFoot s va vb af bf m n k
  checkFoot .mxa d1 d2 foot
  check (va.toNat % 8 == 0) (.trap .misaligned va)
  check (vb.toNat % 8 == 0) (.trap .misaligned vb)
  let _ ← pushMx d1 d2 foot (.mma zero prof ca cb m n k block bits va vb)

/-- MMA. -/
def execMma (qp : BitVec 4) (acc : BitVec 5) (a b : Reg) (slot : BitVec 2) (ft : Bool) (d1 d2 : BitVec 6) (np : BitVec 8)
    (s : State) : Host.Outcome State Fault Refusal :=
  run (mmaM (.mma qp acc a b slot ft d1 d2 np) false qp acc a b slot ft d1 d2 np) s
/-- MMA.Z. -/
def execMmaZ (qp : BitVec 4) (acc : BitVec 5) (a b : Reg) (slot : BitVec 2) (ft : Bool) (d1 d2 : BitVec 6) (np : BitVec 8)
    (s : State) : Host.Outcome State Fault Refusal :=
  run (mmaM (.mmaZ qp acc a b slot ft d1 d2 np) true qp acc a b slot ft d1 d2 np) s

/-- Whether a drain may name a destination (06 R163). -/
def drainDst (td : TDst) (n : Nat) : Bool :=
  match td with
  | .tile r v ix => v == .whole && ix == .zero && decide (r.toNat + n ≤ 32)
  | .sq q => q = 0

/-- MX.DRAIN (06 R163, 18 R362). -/
def execMxDrain (qp : BitVec 4) (td : TDst) (blk0 : BitVec 5) (count : BitVec 6) (a : Reg) (bias act rq ft : Bool)
    (np : BitVec 8) (s : State) : Host.Outcome State Fault Refusal :=
  run (do
    enter (.mxDrain qp td blk0 count a bias act rq ft np)
    require (np = 0) .profileInvalid
    let c := s.rd.comp
    let n := count.toNat + 1
    let f := blk0.toNat
    require (decide (f + n ≤ 32) && drainDst td n) .shapeInvalid
    require (!(bias || act) || (List.range n).all (fun j => !s.ctx.blockInt (f + j))) .shapeInvalid
    let g := (c.slots.getD 0 emptySlot).toNat
    let e := (c.fmt.getD (s.rd.c.loop0.idx.toNat % 16) 0).toNat
    let fmt : BitVec 4 := if ft then bvAt 4 e 16 else bvAt 4 g 44
    require (!rq || ((ft || !bitAt g 63) && (EType.ofCode fmt).any numericType)) .shapeInvalid
    let va := s.getX a
    check (!(bias || rq) || va.toNat % 16 == 0) (.trap .misaligned va)
    let foot : Foot := { reads := (if bias then [rangeAt va 1024] else []) ++ (if rq then [rangeAt (va + 1024) 8] else []),
                         writes := [] }
    checkFoot .mxa 0 0 foot
    let _ ← pushMx 0 0 foot (.drain td c.trb (c.pred qp) f n va bias act rq fmt none)) s

/-- The scale byte of a block, through the array's cache of 256 (06 R158); the oldest entry makes room (log 24). -/
def scaleByte (r : Req) (tid : W32) (va : W64) : E Byte := do
  let s ← get
  let k := r.core / 4
  match (s.cluster k).scales.find? (fun e => e.pasid == r.pasid && e.tid == tid && e.addr == va) with
  | some e => pure e.value
  | none =>
    let bs ← eReadClean r va 1
    let v := bs.getD 0 0
    modify (fun s =>
      let c := s.cluster k
      s.setCluster k { c with scales := (if c.scales.length < 256 then c.scales else c.scales.drop 1) ++
                                        [{ pasid := r.pasid, tid, addr := va, value := v }] })
    pure v

/-- The scale bytes of n blocks one after another. -/
def scaleBytes (r : Req) (tid : W32) : Nat → W64 → E (List Byte)
  | 0, _ => pure []
  | n + 1, va => do
    let b ← scaleByte r tid va
    let bs ← scaleBytes r tid n (va + 1)
    pure (b :: bs)

/-- Reads a descriptor and checks it (06 R157). -/
def readDesc (r : Req) (va : W64) (t : EType) : E MxDesc := do
  let bs ← eReadClean r va 32
  let ws := wordsOf bs
  let d := descOf ws
  if bitsAt (ws.getD 0 0) 55 9 != 0 || bitsAt (ws.getD 2 0) 55 9 != 0 || bitsAt (ws.getD 3 0) 32 32 != 0 ||
      (t != .b4 && d.sbase != 0) then throw (.error .accessViolation 5 va)
  if d.base.toNat % 16 != 0 then throw (.error .misaligned 0 d.base)
  if d.stride % 16 != 0 then throw (.error .misaligned 0 (d.base + BitVec.ofNat 64 d.stride))
  pure d

/-- Element k of contiguous bytes, as raw bits (06 R157, 03 R64). -/
def elemRaw (t : EType) (bs : List Byte) (k : Nat) : Nat :=
  if t == .b4 then (bs.getD (k / 2) 0).toNat / 16 ^ (k % 2) % 16
  else natOfBytes ((bs.drop (k * (t.bits / 8))).take (t.bits / 8))

/-- Reads row n of an operand, or column n of B: its elements and the scale bytes of their blocks. -/
def readOperand (r : Req) (d : MxDesc) (t : EType) (k n : Nat) : E OperandRow := do
  let bs ← eReadClean r (d.base + BitVec.ofNat 64 (n * d.stride)) (kBytes t k)
  let sc ← (if t == .b4 then scaleBytes r d.tid ((k + 31) / 32) (d.sbase + BitVec.ofNat 64 (n * d.sstride)) else pure [])
  pure ((List.range k).map (fun x => (elemRaw t bs x, (sc.getD (x / 32) 0).toNat)))

/-- Reads the rows of an operand from one on. -/
def readOperands (r : Req) (d : MxDesc) (t : EType) (k : Nat) : Nat → Nat → E (List OperandRow)
  | 0, _ => pure []
  | n + 1, i => do
    let row ← readOperand r d t k i
    let rows ← readOperands r d t k n (i + 1)
    pure (row :: rows)

/-- The cells of an MMA after it: row and column in the set, with what each has met (06 R161). -/
def mmaCells (c : Compute) (zero : Bool) (prof : BitVec 8) (af bf : EType) (m n block : Nat) (qp : W16)
    (as bs : List OperandRow) : List (Nat × Nat × CellRun) :=
  (mmaRows qp m).flatMap (fun i => (List.range n).map (fun j =>
    let row := 16 * (block / 4) + i
    let col := 64 * (block % 4) + j
    let old : W32 := if zero then 0 else (c.acc.getD row (Vector.replicate 256 0)).getD col 0
    (row, col, accumulate prof af bf row col old (as.getD i []) (bs.getD j []))))

/-- Writes cells, and the type bits of the blocks an MMA.Z changes. -/
def Compute.putCells (c : Compute) (cells : List (Nat × Nat × W32)) (types : Option (List Nat × Bool)) : Compute :=
  let acc := cells.foldl (fun (v : Vector (Vector W32 256) 128) (x : Nat × Nat × W32) =>
    vecMod v x.1 (fun r => r.setIfInBounds x.2.1 x.2.2)) c.acc
  match types with
  | none => { c with acc }
  | some (bs, t) => { c with acc, accInt := bs.foldl (fun (v : Vector Bool 32) b => v.setIfInBounds b t) c.accInt }

/-- The execution of an MMA: every operand is read before a cell is written. -/
def mmaRun (r : Req) (q : W32) (zero : Bool) (prof : BitVec 8) (af bf : EType) (m n k block : Nat) (qp : W16) (a b : W64) :
    E (Fl × Option ProvEvent) := do
  rowEdge q [rangeAt a 32, rangeAt b 32] []
  let da ← readDesc r a af
  let db ← readDesc r b bf
  rowEdge q (descRanges da af m k ++ descRanges db bf n k) []
  let as ← readOperands r da af k m 0
  let bs ← readOperands r db bf k n 0
  let s ← get
  let cells := mmaCells s.ctx.comp zero prof af bf m n block qp as bs
  let types := if zero then some (mmaBlocks block m n qp, prof == 4) else none
  modify (fun s => s.modCtx (fun c => { c with comp := c.comp.putCells (cells.map (fun x => (x.1, x.2.1, x.2.2.acc))) types }))
  pure (cells.foldl (fun f x => f ||| x.2.2.fl) 0, cells.foldl (fun e x => ProvEvent.least e x.2.2.event) none)

/-- Reads the activation table's image (06 R162); one that breaks its rules is an invalid table. -/
def actRun (r : Req) (q : W32) (va : W64) : E (Option ActTable) := do
  rowEdge q [rangeAt va 2064] []
  let bs ← eReadClean r va 2064
  let w (o : Nat) : W32 := BitVec.ofNat 32 (natOfBytes ((bs.drop o).take 4))
  let e := intOf .i32 (w 4).toNat
  let l := elemVal .fp32 (w 0).toNat
  if l.isNaN || l.isInf || decide (e < -126) || decide (127 < e) || w 8 != 0 || w 12 != 0 then pure none
  else pure (some { l := w 0, e, slope := Vector.ofFn (fun j : Fin 256 => w (16 + 8 * j.val)),
                    icept := Vector.ofFn (fun j : Fin 256 => w (20 + 8 * j.val)) })

/-- What a drain makes of a cell: its output, flags and event (06 R163, 10 R249). -/
structure DrainCell where
  out : W32
  fl : Fl
  event : Option ProvEvent
  deriving DecidableEq, Repr

/-- One stage of a drain: a NaN, an infinity or a saturation that it gives is an event of its output format. -/
def drainStage (row col : Nat) (t : EType) (r : W32 × Fl) (c : DrainCell) : DrainCell :=
  let v := if t.isInt then FVal.zero else elemVal t r.1.toNat
  let kind := if v.isNaN then 1 else if v.isInf then 2 else if r.2 &&& Fl.sat != 0 then 3 else 0
  let ev : Option ProvEvent := if kind = 0 then none else some { kblk := 0, row, col, event := kind, opnd := 3, fmt := t.code }
  { out := r.1, fl := c.fl ||| r.2, event := ProvEvent.least c.event ev }

/-- The parameter block of a drain: biases, scale and zero point, where they are read. -/
structure DrainPar where
  bias : Option (List Byte)
  rq : Option (W32 × W32)
  deriving DecidableEq, Repr

/-- The stages of a drain on one cell (06 R163). -/
def drainCell (c : Compute) (p : DrainPar) (act : Bool) (fmt : EType) (b r col : Nat) : DrainCell :=
  let row := 16 * (b / 4) + r
  let cc := 64 * (b % 4) + col
  let x0 : DrainCell := { out := (c.acc.getD row (Vector.replicate 256 0)).getD cc 0, fl := 0, event := none }
  let x1 := match p.bias with
    | none => x0
    | some bs =>
      let k := natOfBytes ((bs.drop (4 * cc)).take 4)
      let s := rnAdd .fp32 (elemVal .fp32 x0.out.toNat) (elemVal .fp32 k)
      drainStage row cc .fp32 (container (bitsOf .fp32 s.1, s.2)) x0
  let x2 := if act then
      drainStage row cc .fp32 (activate (c.act.map (fun t => (t.l, t.e, t.slope, t.icept))) x1.out) x1
    else x1
  match p.rq with
  | none => x2
  | some (scale, zp) => drainStage row cc fmt (requant (c.accInt.getD b false) fmt scale zp x2.out) x2

/-- Reads the parameter block of a drain (18 R362). -/
def drainPar (r : Req) (q : W32) (bias rq : Bool) (va : W64) : E DrainPar := do
  rowEdge q ((if bias then [rangeAt va 1024] else []) ++ (if rq then [rangeAt (va + 1024) 8] else [])) []
  let bs ← (if bias then do let l ← eReadClean r va 1024; pure (some l) else pure none)
  let sz ← (if rq then do
      let l ← eReadClean r (va + 1024) 8
      pure (some (BitVec.ofNat 32 (natOfBytes (l.take 4)), BitVec.ofNat 32 (natOfBytes (l.drop 4))))
    else pure none)
  pure { bias := bs, rq := sz }

namespace State

/-- A class-1 command retires with its flags and its event (03 R73, 10 R249). -/
def mxDone (s : State) (q : W32) (f : Fl) (e : Option ProvEvent) : State := ((s.orFlags f).recordEvent q false e).finish q

/-- Pushes as many lines of a drain to SQ0 as have room; it retires with the last (18 R363). -/
def drainPush (s : State) (c : Cmd) (o : DrainOut) (again : DrainOut → CmdBody) : State :=
  let l := s.ctx.q.sq.getD 0 []
  let n := 32 - l.length
  let s1 := s.modCtx (fun x => { x with q := { x.q with sq := x.q.sq.setIfInBounds 0 (l ++ o.lines.take n) } })
  if o.lines.length ≤ n then s1.mxDone c.seq o.flags o.event
  else s1.modCmd c.seq (fun m => { m with started := true, stalled := none, body := again { o with lines := o.lines.drop n } })

/-- The lines of a drain: a row whose predicate bit is clear is a zero line (06 R163, 02 R31). -/
def drainOut (c : Compute) (p : DrainPar) (act : Bool) (fmt : EType) (qp : W16) (blk0 n : Nat) : DrainOut :=
  let rows : List (List DrainCell) := (List.range (16 * n)).map (fun k =>
    if bitAt qp.toNat (k % 16) then (List.range 64).map (drainCell c p act fmt (blk0 + k / 16) (k % 16)) else [])
  let cells := rows.flatten
  { lines := rows.map (fun r => { data := Vector.ofFn (fun j : Fin 64 => ((r[j.val]?).map (·.out)).getD 0), poison := 0 }),
    flags := cells.foldl (fun f x => f ||| x.fl) 0,
    event := cells.foldl (fun e x => ProvEvent.least e x.event) none }

/-- Writes the rows of a drain to its tiles (06 R163). -/
def drainTiles (s : State) (o : DrainOut) (trb : BitVec 4) (r n : Nat) (qp : W16) : State :=
  let all := (List.range n).foldl (fun (v : Vector Tile 32) j =>
    vecMod v (physTile trb (r + j)) (fun t => t.put (fun i _ => bitAt qp.toNat i)
      (fun i k => (o.lines.getD (16 * j + i) Line.zero).data.getD k 0))) s.ctx.comp.tiles
  let marks := (List.range n).foldl (fun m j => tileMarks m (physTile trb (r + j)) (fun i _ => bitAt qp.toNat i)) s.ctx.comp.tilePoison
  s.modCtx (fun c => { c with comp := { c.comp with tiles := all, tilePoison := marks } })

/-- The state a class-1 command leaves when an access of it fails (06 R165), with its cause to be raised. -/
def mxFail (s : State) (c : Cmd) (cause : Cause) (kind : Nat) (va : W64) : State :=
  let s1 := if cause = .poison then s.enginePoison (s.reqOf c.strand 10) va else s.logEngine c kind va
  let s2 := s1.addCause c.seq cause va
  match c.body with
  | .mma zero prof af _ m n _ block qp _ _ =>
    let isInt := profileInt prof ((EType.ofCode af).getD .fp32)
    let bad : W32 := if isInt then 0x80000000 else BitVec.ofNat 32 FFmt.fp32.canonNaN
    let cells := (mmaRows qp m).flatMap (fun i => (List.range n).map (fun j => (16 * (block / 4) + i, 64 * (block % 4) + j, bad)))
    (s2.modCtx (fun x => { x with comp := x.comp.putCells cells (if zero then some (mmaBlocks block m n qp, prof == 4) else none) })).finish c.seq
  | .act _ => (s2.modCtx (fun x => { x with comp := { x.comp with act := none } })).finish c.seq
  | .drain td trb qp blk0 count param bias act rq fmt _ =>
    match td with
    | .sq _ => s2.drainPush c { lines := List.replicate (16 * count) Line.zero, flags := 0, event := none }
        (fun o => .drain td trb qp blk0 count param bias act rq fmt (some o))
    | .tile .. => s2.finish c.seq
  | _ => s2.finish c.seq

/-- Ends a class-1 command's attempt: it waits, stalls, fails, or goes on with what it gave. -/
def mxEnd {α : Type} (s : State) (c : Cmd) (r : EStateM.Result EngStop State α) (k : α → State → State) : State :=
  match r with
  | .ok v t => k v t
  | .error .wait _ => s
  | .error (.pageFault va) t => (t.stallAt c va).modCmd c.seq (fun x => { x with started := true })
  | .error (.error cause kind va) t => t.mxFail c cause kind va

/-- Whether a command of an earlier lease of the cluster is still to be executed: the array takes leases in grant order (06 R151). -/
def leaseBefore (s : State) (c : Cmd) : Bool :=
  s.others.any (fun x => coreNo x.id / 4 == s.hereCluster && x.id.residency != .saved &&
    x.eng.cmds.any (fun m => m.cls == .mxa && !m.finished && decide (m.lease < c.lease)))

/-- The MX.SCL instructions before a command take effect on what earlier ones brought into the scale cache (06 R158). -/
def applyScls (s : State) (c : Cmd) : State :=
  let due (e : W32 × Option W32) : Bool := !seqBelow c.seq e.1
  ((s.ctx.eng.scls.filter due).foldl (fun (t : State) e => t.dropScales t.hereCluster (t.reqOf .C 10).pasid e.2) s).modCtx
    (fun x => { x with eng := { x.eng with scls := x.eng.scls.filter (fun e => !due e) } })

/-- The next class-1 command of the acting context (06 R151, R164). -/
def mxStep (s0 : State) : State :=
  match s0.ctx.eng.cmds.find? (fun c => c.cls == .mxa) with
  | none => s0
  | some c =>
    let s := s0.applyScls c
    let r := s.reqOf c.strand 10
    let fmtOf (x : BitVec 4) : EType := (EType.ofCode x).getD .fp32
    if !s.mayStart c || s.leaseBefore c then s0
    else match c.body with
      | .mma zero prof af bf m n k block qp a b =>
        s.mxEnd c (mmaRun r c.seq zero prof (fmtOf af) (fmtOf bf) m n k block qp a b s) (fun v t => t.mxDone c.seq v.1 v.2)
      | .act va =>
        s.mxEnd c (actRun r c.seq va s) (fun v t =>
          (t.modCtx (fun x => { x with comp := { x.comp with act := v } })).mxDone c.seq 0 none)
      | .drain td trb qp blk0 count param bias act rq fmt out =>
        let again (o : DrainOut) : CmdBody := .drain td trb qp blk0 count param bias act rq fmt (some o)
        match out with
        | some o => s.drainPush c o again
        | none =>
          s.mxEnd c (drainPar r c.seq bias rq param s) (fun p t =>
            let o := drainOut t.ctx.comp p act (fmtOf fmt) qp blk0 count
            match td with
            | .sq _ => t.drainPush c o again
            | .tile reg _ _ => (t.drainTiles o trb reg.toNat count qp).mxDone c.seq o.flags o.event)
      | _ => s

end State

/-- MXA_COMMAND_RETIRE (06 R151, R164; 18 R358 to R363): the next class-1 command is executed and retires. -/
def execMxaCommandRetire (s : State) : Host.Outcome State Fault Refusal := .next s.mxStep

end Sys2Proof.Machine
end

