-- ==== Sys2Proof/Machine/NearBank.lean ====
section
/-! DEFINITION. The near-bank units: NB.MV, NB.SAXPY, NB.RCPY and NB.RZERO, their start checks, row steps, the row-read
allowance, requests on the way, and the invalidation of L2 copies (07 R166 to R182; 19 R367, R368; 05 R144). -/

namespace Sys2Proof.Machine

/-- Elements in a 1 KiB row of a format (07 R169). -/
def rowElems (t : EType) : Nat := if t == .b4 then 1920 else 8192 / t.bits

/-- The bytes of x: NP·E elements of XFMT (07 R169); nothing when the weight page is no BANK page, and nothing under a reserved code of
XFMT, which gives x no size to translate before code 5 refuses the command (DESIGN CHOICE, log 92). -/
def xBytes (leaf : W64) (ctrl : W64) : Nat :=
  match EType.ofCode (bvAt 4 leaf.toNat 8), EType.ofCode (bvAt 4 ctrl.toNat 16) with
  | some ef, some xf => if bitsAt leaf 7 1 = 1 then (bitsAt ctrl 0 10 + 1) * rowElems ef * xf.bits / 8 else 0
  | _, _ => 0

/-- The leaf of a page as a look at it gives it. -/
def State.peekLeaf (s : State) (r : Req) (va : W64) : W64 :=
  match (translate s r va.toNat false).1 with
  | .leaf e _ _ => e
  | _ => 0

/-- The footprint of a near-bank command at issue (05 R140, 19 R368). -/
def nbFoot (s : State) (fn : NbFn) (a b c : W64) (rows : Nat) (det : Bool) : Foot :=
  let block (va : W64) : Range := rangeAt va (1024 * rows)
  match fn with
  | .rzero => { reads := [], writes := [block a] }
  | .rcpy => { reads := [block a], writes := [block c] }
  | .saxpy => { reads := [block a, block c], writes := [block c] }
  | .mv =>
    let r := s.reqOf s.strand 8
    let rest : List Range := match s.peek r a 16 with
      | none => []
      | some bs =>
        let ws := wordsOf bs
        let wb := ws.getD 0 0
        (List.range (bitsAt b 0 10 + 1)).map (fun q => rangeAt (wb + BitVec.ofNat 64 (65536 * q)) (1024 * rows)) ++
        (if det then [] else [rangeAt (ws.getD 1 0) (xBytes (s.peekLeaf r wb) b)])
    { reads := rangeAt a 16 :: rest, writes := [rangeAt c (4 * rows)] }

/-- Steps between checks (07 R179). -/
def nbWindow (w : BitVec 4) : Nat := if w = 0 then 1 else Nat.min 8 w.toNat

/-- Issues a near-bank command (07 R168, 19 R367). -/
def nbIssue (i : Instr) (fn : NbFn) (d a b c : Reg) (rows : BitVec 6) (d1 d2 : BitVec 6) (np : BitVec 8) : M Unit := do
  enter i
  let s ← get
  require s.part.hasNear .unitAbsent
  require (if fn = .mv then profileLegal np s.ctx.isDet else np = 0) .profileInvalid
  let n := rows.toNat + 1
  let va := s.getX a
  let vb := s.getX b
  let vc := s.getX c
  let foot := nbFoot s fn va vb vc n s.ctx.isDet
  checkFoot .nbu d1 d2 foot
  slotForCmd
  let q ← pushCmd .nbu d1 d2 foot (.nb fn va vb vc n np (nbWindow s.rd.csr.nbwin) none)
  wx d (q.setWidth 64)

/-- NB.MV. -/
def execNbMv (d a b c : Reg) (rows : BitVec 6) (d1 d2 : BitVec 6) (np : BitVec 8) (s : State) :
    Host.Outcome State Fault Refusal :=
  run (nbIssue (.nbMv d a b c rows d1 d2 np) .mv d a b c rows d1 d2 np) s
/-- NB.SAXPY. -/
def execNbSaxpy (d a b c : Reg) (rows : BitVec 6) (d1 d2 : BitVec 6) (np : BitVec 8) (s : State) :
    Host.Outcome State Fault Refusal :=
  run (nbIssue (.nbSaxpy d a b c rows d1 d2 np) .saxpy d a b c rows d1 d2 np) s
/-- NB.RCPY. -/
def execNbRcpy (d a c : Reg) (rows : BitVec 6) (d1 d2 : BitVec 6) (np : BitVec 8) (s : State) :
    Host.Outcome State Fault Refusal :=
  run (nbIssue (.nbRcpy d a c rows d1 d2 np) .rcpy d a 0 c rows d1 d2 np) s
/-- NB.RZERO. -/
def execNbRzero (d a : Reg) (rows : BitVec 6) (d1 d2 : BitVec 6) (np : BitVec 8) (s : State) :
    Host.Outcome State Fault Refusal :=
  run (nbIssue (.nbRzero d a rows d1 d2 np) .rzero d a 0 0 rows d1 d2 np) s

/-- A row operand as the start checks find it (07 R175): the row's place, whether it lies in a space-0 BANK leaf at a
multiple of 1 KiB, and whether its stack exists. -/
structure NbOp where
  va : W64
  key : Nat
  bank : Bool
  there : Bool
  efmt : BitVec 4
  deriving DecidableEq, Repr

/-- Translates a row operand (07 R174 step 3). A frame past a stack's 60 GiB, or with a bit of 43:41 set, counts as on an absent stack
for code 2 (DESIGN CHOICE, log 92). -/
def nbOp (r : Req) (va : W64) (write : Bool) : E NbOp := do
  if bitsAt va 55 9 != 0 then throw (.error .accessViolation 11 va)
  if isScratch va then pure { va, key := 0, bank := false, there := true, efmt := 0 }
  else
    let s ← get
    let (t, s1) := translate s r va.toNat write
    set s1
    match t with
    | .pageFault => throw (.pageFault va)
    | .violation k => throw (.error .accessViolation k va)
    | .leaf e _ n =>
      let pa := bitsAt e 16 32 * 65536 + va.toNat % (n * 65536)
      pure { va, key := dramKey true (pa % 2 ^ 44), bank := pa / 2 ^ 44 == 0 && bitsAt e 7 1 == 1 && va.toNat % 1024 == 0,
             there := hbmExists s.part (pa % 2 ^ 44), efmt := bvAt 4 e.toNat 8 }

/-- Translates row operands one after another. -/
def nbOps (r : Req) (write : Bool) : List W64 → E (List NbOp)
  | [] => pure []
  | va :: rest => do
    let o ← nbOp r va write
    let os ← nbOps r write rest
    pure (o :: os)

/-- The layout codes 1 to 3 (07 R175). -/
def nbLayout (ops : List NbOp) (rows : Nat) : Nat :=
  let stack := (ops.map (fun o => stackOf o.key)).headD 0
  if ops.any (fun o => !o.bank) then 1
  else if ops.any (fun o => !o.there || stackOf o.key != stack) then 2
  else if ops.any (fun o => decide (64 < o.va.toNat / 1024 % 64 + rows)) then 3
  else 0

/-- The bank that holds a DRAM byte, as 16 × pseudo-channel + bank. -/
def State.bankId (s : State) (key : Nat) : Nat := 16 * s.pchAt key + bankOf key

/-- Whether x of an NB.MV meets the scratchpad writes of a command that is not ordered with it (19 R368). -/
def nbClash (s : State) (c : Cmd) (x : Range) : Bool :=
  let cmds := s.ctx.eng.cmds
  let preds (m : Cmd) : List Cmd := allPreds cmds 64 (directPreds cmds m.seq m.cls m.d1 m.d2)
  x.scratch && cmds.any (fun m => m.seq != c.seq && m.foot.scratch.writes.any (fun w => w.meets x) &&
    !(preds c).any (fun o => o.seq == m.seq) && !(preds m).any (fun o => o.seq == c.seq))

/-- A command about to run: nothing done yet. -/
def nbReady (home : Nat) (efmt xfmt : BitVec 4) (z : Bool) (pages : List (W64 × Nat)) (src dst : W64 × Nat)
    (x y : List (W64 × Nat × Target)) : NbRun :=
  { efmt, xfmt, z, x, y, pages, src, dst, home, banks := [], got := [], bad := [], buffer := none, row := 0, mpc := 0, sinceCheck := 0,
    suspended := false, held := false, poisoned := none, flags := 0, event := none, written := [] }

/-- The first row of an operand. -/
def NbOp.at_ (o : NbOp) : W64 × Nat := (o.va, o.key)

/-- The MV descriptor: read once, then kept for checks that resume behind it (07 R174). -/
def mvDesc (c : Cmd) (r : Req) (a : W64) : E (W64 × W64) :=
  match c.desc with
  | some d => pure d
  | none => do
    let bs ← eReadClean r a 16
    let ws := wordsOf bs
    let d := (ws.getD 0 0, ws.getD 1 0)
    modify (fun s => s.modCmd c.seq (fun m => { m with desc := some d }))
    pure d

/-- The start checks of NB.MV in their order (07 R174): a layout code, or the command ready to run with what it reads: x and the rows. Checks that a
page fault has stopped resume at their step: the descriptor is not read again. -/
def mvStart (c : Cmd) (a b y : W64) (rows : Nat) (np : BitVec 8) : E (Sum Nat (NbRun × List Range)) := do
  let s ← get
  let r := s.reqOf c.strand 8
  if b &&& 0x10F03FF != b || a.toNat % 8 != 0 || y.toNat % 4 != 0 then pure (.inl 6)
  else
    let (wb, xa) ← mvDesc c r a
    if bitsAt wb 55 9 != 0 || bitsAt wb 0 16 != 0 then pure (.inl 6)
    else
      let ops ← nbOps r false ((List.range (bitsAt b 0 10 + 1)).map (fun q => wb + BitVec.ofNat 64 (65536 * q)))
      let s ← get
      let n := xBytes (s.peekLeaf r wb) b
      let xp ← ePlan r false xa (sectorPieces (n / 32 + 2) xa n)
      let yp ← ePlan r true y (sectorPieces (4 * rows / 32 + 2) y (4 * rows))
      let efmt := (ops.map (·.efmt)).headD 0
      let xfmt := bvAt 4 b.toNat 16
      let code := nbLayout ops rows
      if code != 0 then pure (.inl code)
      else match EType.ofCode xfmt, EType.ofCode efmt with
        | some xf, some ef =>
          if ops.any (fun o => o.efmt != efmt) || xf == .b4 || !profileAccepts np s.ctx.isDet xf ef then pure (.inl 5)
          else if s.ctx.isDet && nbClash s c (rangeAt xa n) then pure (.inl 7)
          else
            let o := ops.headD { va := 0, key := 0, bank := false, there := false, efmt := 0 }
            pure (.inr (nbReady (stackOf o.key) efmt xfmt (bitsAt b 24 1 == 1) (ops.map NbOp.at_) o.at_ o.at_ xp yp,
                        rangeAt xa n :: ops.map (fun o => rangeAt o.va (1024 * rows))))
        | _, _ => pure (.inl 5)

/-- The start checks of a row command (07 R174, R175). -/
def rowStart (c : Cmd) (fn : NbFn) (a y : W64) (rows : Nat) :
    E (Sum Nat (NbRun × List Range)) := do
  let s ← get
  let r := s.reqOf c.strand 8
  let src ← (if fn = .rzero then pure [] else nbOps r false [a])
  let dst ← nbOps r true [if fn = .rzero then a else y]
  let ops := src ++ dst
  let code := nbLayout ops rows
  match ops.head?, dst.head? with
  | some o, some p =>
    let wide := EType.ofCode o.efmt == some .fp16 || EType.ofCode o.efmt == some .bf16 || EType.ofCode o.efmt == some .fp32
    pure (if code != 0 then .inl code
      else if fn = .saxpy && s.bankId o.key != s.bankId p.key then .inl 4
      else if fn = .saxpy && (!wide || o.efmt != p.efmt) then .inl 5
      else .inr (nbReady (stackOf p.key) o.efmt 0 false [] o.at_ p.at_ [] [], []))
  | _, _ => pure (.inl 1)

/-- Where the first rows of the operands lie that a command uses. -/
def nbKeys (fn : NbFn) (r : NbRun) : List Nat :=
  match fn with
  | .mv => r.pages.map (·.2)
  | .rzero => [r.dst.2]
  | _ => [r.src.2, r.dst.2]

/-- The pseudo-channels a command occupies (07 R177). -/
def NbRun.pchs (r : NbRun) : List Nat := (r.banks.map (· / 16)).eraseDups

namespace State

/-- Changes every pseudo-channel of a command. -/
def modPchs (s : State) (r : NbRun) (f : Pch → Pch) : State :=
  let x := s.stack r.home
  s.setStack r.home { x with pchs := r.pchs.foldl (fun m p => Cells.set Pch.reset m p (f (Cells.get Pch.reset m p))) x.pchs }

/-- A command stands last in the acceptance order of its pseudo-channels. -/
def joinPchs (s : State) (r : NbRun) (name : Nat × W32 × W32) : State :=
  s.modPchs r (fun y => { y with accepted := y.accepted ++ [name], selfRefresh := false })

/-- Whether a command stands first on every pseudo-channel it occupies (07 R177). -/
def standsFirst (s : State) (r : NbRun) (name : Nat × W32 × W32) : Bool :=
  r.pchs.all (fun p => (Cells.get Pch.reset (s.stack r.home).pchs p).accepted.head? == some name)

/-- Whether ordinary requests wait at a command's pseudo-channels. -/
def requestsWait (s : State) (r : NbRun) : Bool :=
  r.pchs.any (fun p => !(Cells.get Pch.reset (s.stack r.home).pchs p).requests.isEmpty)

/-- Whether a check finds a request: one that arrived before this instant (07 R178). -/
def requestsBefore (s : State) (r : NbRun) : Bool :=
  r.pchs.any (fun p => (Cells.get Pch.reset (s.stack r.home).pchs p).requests.any (fun q => decide (q.at_ < s.cycle.toNat)))

/-- The row-read allowance holds a command, or admits it again: while it is held, the requests that wait at its pseudo-channels and
those that reach them are served at once (07 R177). -/
def nbHold (s : State) (r : NbRun) (on : Bool) : State :=
  (if on then r.pchs.foldl (fun (t : State) p => t.serveAll r.home p) s else s).modPchs r (fun p => { p with allowance := on })

/-- Whether the services at a command's pseudo-channels are over: who has been served has made its access, or has not come for it in
the time that a service takes (07 R178). -/
def served (s : State) (r : NbRun) : Bool :=
  r.pchs.all (fun p => let y := Cells.get Pch.reset (s.stack r.home).pchs p; y.passed.isEmpty || !y.serving s.cycle.toNat)

/-- Changes the running state of a near-bank command. -/
def setRun (s : State) (q : W32) (run : NbRun) : State :=
  s.modCmd q (fun m => match m.body with
    | .nb fn a b c rows np w _ => { m with body := .nb fn a b c rows np w (some run) }
    | _ => m)

/-- The outcome of the start checks of a command (07 R174 to R176). -/
def nbStarted (s : State) (c : Cmd) (fn : NbFn) (r : EStateM.Result EngStop State (Sum Nat (NbRun × List Range))) : State :=
  match r with
  | .ok (.inl n) t => (t.modCmd c.seq (fun m => { m with code := BitVec.ofNat 4 n })).finish c.seq
  | .ok (.inr (run, x)) t =>
    let foot : Foot := { c.foot with reads := c.foot.reads ++ x.filter (fun g => !c.foot.reads.contains g) }
    if t.edgeWaits c.seq foot then s
    else
      let run := { run with banks := (nbKeys fn run).map t.bankId }
      let t1 := (t.setRun c.seq run).modCmd c.seq (fun m => { m with started := true, stalled := none, foot })
      t1.joinPchs run (t1.nbName c.seq)
  | .error .wait _ => s
  | .error (.pageFault va) t => t.stallAt c va
  | .error (.error cause k va) t =>
    let u := if cause = .poison then t.enginePoison (s.reqOf c.strand 8) va else t.logEngine c k va
    (u.addCause c.seq cause va).finish c.seq

end State

/-- NB_START (07 R174): commands of a context are accepted in their order. -/
def execNbStart (seq : W32) (s : State) : Host.Outcome State Fault Refusal :=
  .next (match s.cmd seq with
    | some c =>
      (match c.body with
       | .nb fn a b y rows np _ none =>
         let earlier := s.ctx.eng.cmds.any (fun m => m.cls == .nbu && seqBelow m.seq seq && !m.started && !m.finished)
         if c.started || c.finished || earlier || !s.mayStart c || s.edgeWaits seq c.foot then s
         else s.nbStarted c fn ((if fn = .mv then mvStart c a b y rows np else rowStart c fn a y rows) s)
       | _ => s)
    | none => s)

/-- A row of DRAM, read directly: its bytes, and the offset of its first poisoned sector (05 R139). -/
def dramRow (m : Mem) (key : Nat) : List Byte × Option Nat :=
  let ss := (List.range 32).map (fun i => m.dramSector (key / 32 + i) true)
  (ss.flatMap (fun x => x.data.toList), (ss.findIdx? (·.poison)).map (32 * ·))

/-- Writes a row of DRAM directly, every sector with a poison mark. -/
def putDramRow (m : Mem) (key : Nat) (bs : List Byte) (poison : Bool) : Mem :=
  (List.range 32).foldl (fun (m : Mem) i => m.setPoison (key / 32 + i) poison) (m.dramBytes key bs)

/-- An access to a row folds the adds that its words have pending (05 R146): into the home L2, which the row's own bytes in DRAM do not
show (log 79). -/
def State.foldRow (s : State) (key : Nat) : State := { s with mem := foldAdds s.mem key 1024 }

/-- Marks the stripe of a written row stale, the latest mark last; none on a retired half (07 R173, 04 R111, R113). -/
def State.markStale (s : State) (key : Nat) : State :=
  let x := s.stack (stackOf key)
  if (x.retired.getD (pchOf key / 32) none).isSome then s
  else s.setStack (stackOf key) { x with stale := x.stale.filter (· ≠ stripeOf key) ++ [stripeOf key] }

/-- Consumed poison at an offset of a row: recorded, and kept to be raised after retirement (07 R176). -/
def nbPoison (s : State) (r : NbRun) (row : W64 × Nat) (off : Option Nat) : State × NbRun :=
  match off with
  | none => (s, r)
  | some o =>
    let va := row.1 + BitVec.ofNat 64 o
    (s.noteEcc 2 (Marks.mem s.mem.lost ((row.2 + o) / 32)) va, { r with poisoned := r.poisoned.or (some va) })

/-- Row m of an operand. -/
def rowAt (x : W64 × Nat) (m : Nat) : W64 × Nat := (x.1 + BitVec.ofNat 64 (1024 * m), x.2 + 1024 * m)

/-- One element of NB.SAXPY (07 R171): a·x + y rounded once; subnormals are kept. -/
def saxpyElem (t : EType) (a : W32) (x y : Nat) : Nat × Fl :=
  let va := elemVal .fp32 a.toNat
  let vx := elemVal t x
  let vy := elemVal t y
  let v := (va.mul vx).add .rne vy
  let o := v.round t.fmt .rne
  (o.1, o.2 ||| nvOf (va.isNaN || vx.isNaN || vy.isNaN) v)

/-- A row of NB.SAXPY. -/
def saxpyRow (t : EType) (a : W32) (x y : List Byte) : List Byte × Fl :=
  (List.range (rowElems t)).foldl (fun (p : List Byte × Fl) k =>
    let e := saxpyElem t a (elemRaw t x k) (elemRaw t y k)
    (p.1 ++ bytesOfNat (t.bits / 8) e.1, p.2 ||| e.2)) ([], 0)

/-- Whether a row is copied inside the DRAM (07 R172). -/
def inSubarray (r : NbRun) (a b : Nat) : Bool :=
  stackOf a == stackOf b && r.banks.head? == r.banks.getLast? && rowOf a / 512 == rowOf b / 512

/-- The weight pages of the same bank that come before page q. -/
def pageTurn (r : NbRun) (q : Nat) : Nat :=
  ((r.banks.take q).filter (fun b => some b == r.banks[q]?)).length

/-- Steps of an NB.MV: those of the bank that holds the most pages (07 R177). -/
def mvSteps (r : NbRun) (rows : Nat) : Nat :=
  rows * (List.range r.pages.length).foldl (fun m q => Nat.max m (pageTurn r q + 1)) 1

/-- The pages whose row an NB.MV reads in step t. -/
def mvPages (r : NbRun) (rows t : Nat) : List Nat := (List.range r.pages.length).filter (fun q => pageTurn r q == t / rows)

/-- The elements and scale bytes of a weight row (07 R169, R170; 04 R109). -/
def weightRow (t : EType) (bs : List Byte) : OperandRow :=
  (List.range (rowElems t)).map (fun k => (elemRaw t bs k, if t == .b4 then (bs.getD (960 + k / 32) 0).toNat else 0))

/-- The row of weights that was read for page q and row n. -/
def gotRow (r : NbRun) (q n : Nat) : List Byte := ((r.got.find? (fun e => e.1 == 64 * q + n)).map (·.2)).getD []

/-- Reads a weight row of each page of a step. -/
def mvRead (rows : Nat) (s : State) (r : NbRun) : State × NbRun :=
  (mvPages r rows r.mpc).foldl (fun (p : State × NbRun) q =>
    let row := rowAt (p.2.pages.getD q (0, 0)) (r.mpc % rows)
    let s0 := p.1.foldRow row.2
    let d := dramRow s0.mem row.2
    let (s1, r1) := nbPoison s0 p.2 row d.2
    (s1, { r1 with got := r1.got ++ [(64 * q + r.mpc % rows, d.1)],
                   bad := if d.2.isSome then r1.bad ++ [r.mpc % rows] else r1.bad })) (s, r)

/-- The outputs of an NB.MV (07 R170): each what an MMA of one row and one column gives. -/
def mvOutputs (np : BitVec 8) (r : NbRun) (rows : Nat) (x old : List Byte) : List CellRun :=
  let xf := (EType.ofCode r.xfmt).getD .i8
  let ef := (EType.ofCode r.efmt).getD .i8
  let n := r.pages.length * rowElems ef
  let xs : OperandRow := (List.range n).map (fun k => (elemRaw xf x k, 0))
  (List.range rows).map (fun m =>
    let ws := (List.range r.pages.length).flatMap (fun q => weightRow ef (gotRow r q m))
    let acc : W32 := if r.z then 0 else BitVec.ofNat 32 (natOfBytes ((old.drop (4 * m)).take 4))
    accumulate np xf ef m 0 acc xs ws)

/-- The end of an NB.MV: x and the old y are read, y is written (07 R173, R176). Of their poisoned sectors the first is recorded and
raised, as lost where it carries that mark (10 R244). A poisoned output is 0x8000_0000 under every integer profile, and its flags and
provenance are left out (DESIGN CHOICE, log 92). -/
def mvFinish (np : BitVec 8) (rows : Nat) (r : NbRun) : E NbRun := do
  let xb ← eReadPieces none r.x
  let old ← (if r.z then pure [] else eReadPieces none r.y)
  let s0 ← get
  let outs := mvOutputs np r rows (xb.map (·.1)) (old.map (·.1))
  let badOld (m : Nat) : Bool := ((old.drop (4 * m)).take 4).any (·.2)
  let bad (m : Nat) : Bool := r.bad.contains m || xb.any (·.2) || badOld m
  let isInt := profileInt np ((EType.ofCode r.xfmt).getD .i8)
  let nan : W32 := if isInt then 0x80000000 else BitVec.ofNat 32 FFmt.fp32.canonNaN
  let word (m : Nat) : W32 := if bad m then nan else (outs.map (·.acc)).getD m 0
  let p ← eWritePieces (cleanBytes ((List.range rows).flatMap (fun m => bytesOfNat 4 (word m).toNat))) 0 r.y
  let left := (p.bind (fun a => r.y.find? (fun e => e.1 == a))).map (fun e => (e.1, e.2.2))
  let first? := (firstPoisoned r.x xb).or ((firstPoisoned r.y old).or left)
  modify (fun s => match first? with
    | some (a, t) => s.noteEcc 2 (s0.lostT t) (sectorVa a)
    | none => s)
  let kept := ((List.range rows).zip outs).filter (fun e => !bad e.1)
  pure { r with flags := kept.foldl (fun f e => f ||| e.2.fl) r.flags,
                event := kept.foldl (fun e c => ProvEvent.least e c.2.event) r.event,
                poisoned := r.poisoned.or (first?.map (fun e => sectorVa e.1)) }

/-- What one step of a row command does (07 R171 to R173): the state, and the command with its row and buffer moved on. -/
def rowWork (fn : NbFn) (b : W64) (s : State) (r : NbRun) : State × NbRun :=
  let src := rowAt r.src r.row
  let dst := rowAt r.dst r.row
  let put (s : State) (bs : List Byte) (poison : Bool) : State :=
    { s with mem := putDramRow (s.foldRow dst.2).mem dst.2 bs poison }.markStale dst.2
  let done (r : NbRun) : NbRun := { r with row := r.row + 1, written := r.written ++ [dst.2], buffer := none }
  match fn with
  | .rzero => (put s (List.replicate 1024 0) false, done r)
  | .saxpy =>
    let s0 := (s.foldRow src.2).foldRow dst.2
    let x := dramRow s0.mem src.2
    let y := dramRow s0.mem dst.2
    let (s1, r1) := nbPoison s0 r src x.2
    let (s2, r2) := nbPoison s1 r1 dst y.2
    let o := saxpyRow ((EType.ofCode r.efmt).getD .fp32) (b.setWidth 32) x.1 y.1
    (put s2 o.1 (x.2.isSome || y.2.isSome), done { r2 with flags := r2.flags ||| o.2 })
  | _ =>
    match r.buffer with
    | some (bs, poison) => (put s bs poison, done r)
    | none =>
      let s0 := s.foldRow src.2
      let x := dramRow s0.mem src.2
      let (s1, r1) := nbPoison s0 r src x.2
      if inSubarray r src.2 dst.2 then (put s1 x.1 x.2.isSome, done r1)
      else (s1, { r1 with buffer := some (x.1, x.2.isSome) })

/-- Row reads that the next step counts towards the allowance (07 R177): either step of a buffered copy counts one. -/
def stepReads (fn : NbFn) (rows : Nat) (r : NbRun) : Nat :=
  match fn with
  | .mv => (mvPages r rows r.mpc).length
  | .saxpy => 2
  | .rcpy => 1
  | .rzero => 0

/-- Whether the allowance of a stack admits row reads now: at most 16,000 in a window of 1,000 ns (07 R177). -/
def State.admits (s : State) (k n : Nat) : Bool :=
  decide (n = 0) ||
  decide (((s.stack k).reads.filter (fun e => decide (s.ns < e.1 + 1000))).foldl (fun t e => t + e.2) 0 + n ≤ 16000)

/-- Counts row reads of a stack. -/
def State.countReads (s : State) (k n : Nat) : State :=
  if n = 0 then s
  else
    let x := s.stack k
    s.setStack k { x with reads := x.reads.filter (fun e => decide (s.ns < e.1 + 1000)) ++ [(s.ns, n)] }

/-- After a step: the check of ordinary requests at every window-th boundary (07 R178). -/
def nbBoundary (window : Nat) (s : State) (q : W32) (r : NbRun) : State :=
  if r.sinceCheck + 1 < window then s.setRun q { r with sinceCheck := r.sinceCheck + 1 }
  else s.setRun q { r with sinceCheck := 0, suspended := s.requestsBefore r }

/-- A near-bank command's work is done: its poison is to be raised, and it retires in its place (07 R176). -/
def nbFinish (s : State) (q : W32) (r : NbRun) : State :=
  let s1 := s.setRun q r
  (match r.poisoned with
   | some va => s1.addCause q .poison va
   | none => s1).finish q

/-- NB_ROW_STEP (07 R177, R178): a suspended command first goes on, once no request waits at any of its pseudo-channels and their
services are over. -/
def execNbRowStep (seq : W32) (s : State) : Host.Outcome State Fault Refusal :=
  .next (match s.cmd seq with
    | some c =>
      (match c.body with
       | .nb fn _ b _ rows np window (some r) =>
         let n := stepReads fn rows r
         if c.finished || r.held || !s.standsFirst r (s.nbName seq) || !s.served r then s
         else if r.suspended then (if s.requestsWait r then s else s.setRun seq { r with suspended := false, sinceCheck := 0 })
         else if !s.admits r.home n then (s.nbHold r true).setRun seq { r with held := true }
         else
           let s1 := s.countReads r.home n
           if fn = .mv then
             let (s2, r2) := mvRead rows s1 r
             let r3 := { r2 with mpc := r2.mpc + 1 }
             if r3.mpc < mvSteps r rows then nbBoundary window s2 seq r3
             else match mvFinish np rows r3 s2 with
               | .ok r4 t => nbFinish t seq r4
               | .error _ _ => s
           else
             let (s2, r2) := rowWork fn b s1 r
             let r3 := { r2 with mpc := r2.mpc + 1 }
             if r3.row < rows then nbBoundary window s2 seq r3 else nbFinish s2 seq r3
       | _ => s)
    | none => s)

/-- NB_ALLOWANCE_ADMIT (07 R177). The end of a hold leaves the count towards NBWIN where it stood (DESIGN CHOICE, log 92). -/
def execNbAllowanceAdmit (seq : W32) (s : State) : Host.Outcome State Fault Refusal :=
  .next (match s.cmd seq with
    | some c =>
      (match c.body with
       | .nb fn _ _ _ rows _ _ (some r) =>
         if r.held && s.admits r.home (stepReads fn rows r) then (s.nbHold r false).setRun seq { r with held := false } else s
       | _ => s)
    | none => s)

/-- Whether a command of a context at a name is suspended. -/
def Ctx.suspends (c : Ctx) (name : Nat × W32 × W32) : Bool :=
  c.eng.cmds.any (fun m => State.runName c.id m.seq == name && (match m.body with
    | .nb _ _ _ _ _ _ _ (some r) => r.suspended
    | _ => false))

/-- NB_REQUEST_SERVICE (07 R178): a suspended command's pseudo-channel serves its oldest request. -/
def execNbRequestService (stack pch : Nat) (s : State) : Host.Outcome State Fault Refusal :=
  let p := Cells.get Pch.reset (s.stack stack).pchs pch
  .next (if p.accepted.head?.any (fun name => (s.ctx :: s.others).any (·.suspends name)) then s.servePch stack pch 1 else s)

/-- NB_L2_INVALIDATE (05 R144): every copy of the written lines goes, clean or dirty. -/
def execNbL2Invalidate (seq : W32) (s : State) : Host.Outcome State Fault Refusal :=
  .next (match s.ctx.eng.invals.find? (fun v => v.seq == seq) with
    | none => s
    | some v =>
      let line (m : Mem) (k : Nat) : Mem := (List.range 4).foldl (fun (m : Mem) i => m.drop (4 * k + i)) (m.dropCopies k)
      let row (m : Mem) (key : Nat) : Mem := (List.range 8).foldl (fun (m : Mem) i => line m (key / 128 + i)) m
      { s with mem := v.rows.foldl row s.mem }.modCtx (fun c => { c with eng := { c.eng with invals := c.eng.invals.erase v } }))

/-- Whether a command runs in a bank of a stack: it uses the bank and stands first. -/
def State.runsIn (s : State) (c : Ctx) (m : Cmd) (stack pch bank : Nat) : Option (NbFn × Nat × BitVec 8 × NbRun) :=
  match m.body with
  | .nb fn _ _ _ rows np _ (some r) =>
    if r.home = stack ∧ r.banks.contains (16 * pch + bank) ∧
        s.standsFirst r (State.runName c.id m.seq) then some (fn, rows, np, r) else none
  | _ => none

/-- The command that runs in the bank that NBMSEL selects (07 R180, R181): its context and itself. -/
def State.bankRun (s : State) : Option (Ctx × Cmd × NbFn × Nat × BitVec 8 × NbRun) :=
  let sel := s.rd.csr.nbmsel.toNat
  (s.ctx :: s.others).findSome? (fun c => c.eng.cmds.findSome? (fun m =>
    (s.runsIn c m (sel / 1024 % 32) (sel / 16 % 64) (sel % 16)).map (fun v => (c, m, v))))

/-- Steps that the selected bank has completed, and its weight pages in their order. A buffered copy between two banks counts its read
and its write steps for either (DESIGN CHOICE, log 92). -/
def State.bankSteps (s : State) (fn : NbFn) (rows : Nat) (r : NbRun) : Nat × List Nat :=
  let bank := s.rd.csr.nbmsel.toNat % 16
  let pch := s.rd.csr.nbmsel.toNat / 16 % 64
  let qs := (List.range r.pages.length).filter (fun q => r.banks[q]? == some (16 * pch + bank))
  (if fn = .mv then Nat.min r.mpc (rows * qs.length) else r.mpc, qs)

/-- NBMPC (07 R181). -/
def State.nbmpc (s : State) : W64 :=
  match s.bankRun with
  | none => 0
  | some (c, m, fn, rows, _, r) =>
    let kind : Nat := match fn with | .mv => 0 | .saxpy => 1 | .rcpy => 2 | .rzero => 3
    let own := c.id.pasid == s.ctx.id.pasid
    BitVec.ofNat 64 (2 ^ 63 + (if r.suspended then 2 ^ 62 else 0) + kind * 2 ^ 60 +
      (if own then 2 ^ 59 + (s.bankSteps fn rows r).1 % 65536 * 2 ^ 32 + m.seq.toNat else 0))

/-- NBMACC (07 R181): the last chunk value that the selected bank delivered. -/
def State.nbmacc (s : State) : W64 :=
  match s.bankRun with
  | some (c, _, .mv, rows, np, r) =>
    let (t, qs) := s.bankSteps .mv rows r
    if t = 0 ∨ c.id.pasid ≠ s.ctx.id.pasid then 0
    else
      let q := qs.getD ((t - 1) / rows) 0
      let xf := (EType.ofCode r.xfmt).getD .i8
      let ef := (EType.ofCode r.efmt).getD .i8
      let e := rowElems ef
      let n := Nat.min e (chunkLen np.toNat)
      let xb := match eReadPieces none r.x s with | .ok bs _ => bs.map (·.1) | .error .. => []
      let xs := (List.range n).map (fun k => (elemRaw xf xb (q * e + e - n + k), 0))
      let ws := (weightRow ef (gotRow r q ((t - 1) % rows))).drop (e - n)
      if np = 255 ∨ np = 4 then ((accumulate np xf ef 0 0 0 xs ws).acc).setWidth 64
      else
        let ps := (xs.zip ws).map (fun p => (product (operandVal xf p.1.1 p.1.2) (operandVal ef p.2.1 p.2.2)).1)
        BitVec.ofNat 64 (bitsOf .fp32 (chunkValue np.toNat ps).1)
  | _ => 0

end Sys2Proof.Machine
end

