-- ==== Sys2Proof/Machine/Issue.lean ====
section
/-! DEFINITION. Issuing a bundle: when a strand may issue, the fetch, the checks of a whole bundle, its members one after
another, and its end (02 R34, R46, R52, R55 to R58; 09 R223, R433; 10 R247, R261; 11 R267 to R269; 18 R353). Every
function takes the meaning of an instruction as its argument `ex`. -/

namespace Sys2Proof.Machine

/-- The meaning of instructions. -/
abbrev Exec := Instr → State → Host.Outcome State Fault Refusal

namespace State

/-- Slots of F in a window of 64 clk (09 R224). -/
def fShare (c : Core) : Nat := if c.fwshare = 0 then 1 else Nat.min 64 c.fwshare.toNat

/-- Whether the clk's slot is removed by throttling (10 R261). -/
def throttled (s : State) : Bool := decide (8 - s.hereDie.thermal.level.toNat ≤ s.cycle.toNat % 8)

/-- Whether the acting context may issue at all: Clove starts before the cores, and a die whose firmware images are not both
verified stays in reset except for Clove (10 R258, R262). -/
def ctxIssues (s : State) : Bool :=
  (decide (s.ctx.id.kind = .clove) || s.hereDie.boot.ready) &&
  decide (s.ctx.id.residency = .resident) && s.ctx.fault.isNone && !s.throttled &&
  (match s.ctx.id.kind with
   | .A | .B => decide (s.hereCore.issuing = s.ctx.id.kind)
   | .F => decide (s.hereCore.fSlots < fShare s.hereCore + (if s.bypassLive s.ctx.k then 3 else 0))
   | .clove => true)

/-- Whether another context of the core has used a strand's slot of this clk (02 R44, R46; 09 R223). -/
def slotTaken (s : State) (k : StrandId) : Bool :=
  decide (s.ctx.id.kind ≠ .clove) &&
  s.others.any (fun c => decide (c.id.kind ≠ .clove) && decide (coreNo c.id = s.here) && (c.str k).issued)

/-- Whether a strand may issue a bundle now: at most one in a clk, strands of a clk in the order L, C, S, K; a strand that a
token FIFO holds up may follow a later one, whose TPOST of the same clk is applied first (02 R34). The load strand replays its
markers before it issues anything new (09 R229, 19 R393). -/
def mayIssue (s : State) (k : StrandId) : Bool :=
  let p := s.ctx.str k
  let app := s.ctx.id.kind.isApp
  s.ctxIssues && (app || decide (k = .K)) && !p.halted && !p.issued && p.barWait.isNone && p.held.isNone &&
  (k != .L || !s.ctx.replaying || s.ctx.loads.isEmpty) &&
  (match p.waitUntil with | some t => decide (t ≤ s.cycle.toNat) | none => true) &&
  (!s.ctx.trap.active || decide (k = .K) ) &&
  (!app || k != .K || !s.coreHeld s.here) && !s.slotTaken k &&
  ((match p.blocked with | some (.tf _) => true | _ => false) ||
    [StrandId.L, .C, .S, .K].all (fun j => decide (j.code ≤ k.code) || !(s.ctx.str j).issued))

/-- The size limit of a strand's bundles (11 R267). -/
def bundleLimit (s : State) : Nat := if s.ctx.id.kind.isApp ∧ s.strand = .C then 128 else 64

/-- Whether a bundle of the strand that has issued may go on: its item is in a bank and awaits no fault, and a handler of
another strand does not run. -/
def mayGoOn (s : State) (k : StrandId) : Bool :=
  (s.ctx.id.residency == .resident || s.ctx.id.residency == .stopping) && s.ctx.fault.isNone && (!s.ctx.trap.active || decide (k = .K))

/-- What the members of a bundle read that is issued now. -/
def snapshot (s : State) : Snap := { clk := s.cycle, ctx := s.ctx, cores := s.cores, clusters := s.clusters, dies := s.dies }

/-- What the members that are left of a held bundle read: the strand's registers, the compute state, the CSRs, SEQNO and CYCLE as the
bundle found them. -/
def heldSnap (s : State) (h : Held) : Snap :=
  { s.snapshot with clk := h.clk, ctx := { (s.ctx.modStr s.strand (fun p => { p with x := h.x, taint := h.taint, bypass := h.bypass })) with
      comp := h.comp, csr := h.csr, eng := { s.ctx.eng with seqno := h.seq } } }

/-- Copy commands among the members that are left get their numbers with their bundle (05 R136, 11 R268). -/
def keepNumbers (s : State) (rest : List (W64 × W32 × Instr)) : State :=
  rest.foldl (fun (t : State) m => match m.2.2 with
    | .ceCopy .. | .ceFill .. | .ceGath .. => t.modCtx (fun c => c.keepNumber t.strand m.1)
    | _ => t) s

/-- The strand's bundle, which found the state `s0`, is held at a member. -/
def hold (s s0 : State) (start : W64) (rest : List (W64 × W32 × Instr)) (b : Block) : State :=
  let p := s0.ctx.str s.strand
  let h : Held := { start, next := (s.ctx.str s.strand).pc, rest, seq := s0.ctx.eng.seqno, clk := s0.cycle, taken := s.issue.taken,
                    x := p.x, taint := p.taint, bypass := p.bypass, comp := s0.ctx.comp, csr := s0.ctx.csr }
  { (s.modMe (fun p => { p with held := some h, blocked := some b })).keepNumbers rest with issue := Issue.idle }

/-- At a bundle boundary, a cleared MODE.SETUP takes effect once every slot has expired (02 R58). -/
def leaveSetup (s : State) : State :=
  if s.ctx.leaving ∧ s.bypassLive (s.ctx.str s.strand) = false then s.modCtx (fun c => { c with leaving := false }) else s

/-- One step of the sampling shift register (10 R247). -/
def galois (l : W16) : W16 := if l.toNat % 2 = 1 then (l >>> 1) ^^^ 0xB400 else l >>> 1

/-- Marks a bundle (10 R247). -/
def markBundle (s : State) (st : StrandId) (pc : W64) : State :=
  s.modCtx (fun c => { c with csr := { c.csr with samp := { c.csr.samp with
    marked := some (st, pc, s.cycle, false), count := 0, lfsr := galois c.csr.samp.lfsr } } })

/-- Bundles between two marks (10 R247, R248). -/
def sampleInterval (m : Sampling) : Nat :=
  let p := if m.per.toNat < 4 then 4 else m.per.toNat
  2 ^ p + m.lfsr.toNat % 2 ^ p

/-- Counts a bundle that the acting strand fetched; once the count has been reached, the next such bundle is marked (10
R247). -/
def countBundle (s : State) (pc : W64) : State :=
  let m := s.ctx.csr.samp
  if m.en = false ∨ m.smask.toNat / 2 ^ s.strand.code % 2 = 0 then s
  else if m.count < sampleInterval m then
    s.modCtx (fun c => { c with csr := { c.csr with samp := { m with count := m.count + 1 } } })
  else if m.marked.isSome ∨ (m.v ∧ s.ctx.csr.trace.samp = false) then s
  else s.markBundle s.strand pc

/-- A marked bundle of the acting strand that is discarded is killed (10 R247). -/
def killMarked (s : State) (pc : W64) : State := s.modCtx (fun c => c.killMark s.strand pc)

/-- The state with a member about to be executed. -/
def atMember (s : State) (pc : W64) (word : W32) : State :=
  { s with issue := { s.issue with pc, word, ended := .completed } }

/-- Whether an active level ends inside a member's words, past the first word of the bundle, or ends with the bundle while
it rotates and the member is not its LOOP.R (18 R353). -/
def loopEndBad (p : Strand) (start lo hi : Nat) (last loopR : Bool) : Bool :=
  let f (l : LoopLevel) : Bool :=
    l.active && ((decide (start < l.stop.toNat) && decide (lo ≤ l.stop.toNat) && decide (l.stop.toNat < hi)) ||
      (last && l.rotating && !loopR && decide (l.stop.toNat = hi)))
  f p.loop0 || f p.loop1

/-- The first member that makes a bundle raise Illegal-Instruction (11 R267, R269; 02 R55, R58; 18 R353). `bits`, `matrix`
and `written` sum up the members before. -/
def firstIllegal (s : State) (limit start : Nat) (all : List Member) : Nat → Bool → List Written → List Member → Option Member
  | _, _, _, [] => none
  | bits, matrix, written, m :: rest =>
    match m.instr with
    | none => some m
    | some i =>
      let w := Instr.written i s.ctx.comp.trb
      let lo := start + m.off
      let loopR : Bool := match i with | .loopR .. => true | _ => false
      if bits + m.bits > limit || (matrix && i.isMatrix) || (i.isControl && !rest.isEmpty) ||
          (s.atMember (BitVec.ofNat 64 lo) m.word).illegal i || w.any (fun x => written.contains x) ||
          (Instr.writesMode i && all.any (fun o => o.off != m.off && (match o.instr with
            | some j => Instr.namesBypass j | none => false))) ||
          loopEndBad (s.ctx.str s.strand) start lo (lo + m.bits / 8) rest.isEmpty loopR then some m
      else firstIllegal s limit start all (bits + m.bits) (matrix || i.isMatrix) (w ++ written) rest

/-- The first member on a strand that may not issue it (11 R269). -/
def firstStrand (s : State) (ms : List Member) : Option Member :=
  ms.find? (fun m => match m.instr with | some i => s.strandBad i | none => false)

/-- How a bundle that was in flight leaves the machine when it completes: the back-edge of a loop that ends with it (18 R353), then
nothing is in flight, and what its boundary brings where strands have halted (09 R433). -/
def closeBundle (s : State) : State :=
  let t := if s.issue.taken then s else s.endOfBundle
  State.afterHalts { (t.modMe (fun p => { p with blocked := none, held := none })) with issue := Issue.idle }

/-- Whether a later strand of the order L, C, S, K has issued a bundle in this clk. -/
def isLate (s : State) : Bool := [StrandId.L, .C, .S, .K].any (fun j => decide (s.strand.code < j.code) && (s.ctx.str j).issued)

end State

/-- The members of a bundle from one on, run only to see whether one of them would block or trap at issue: then the bundle
as a whole does so (11 R268). -/
def issueStop (ex : Exec) (start : W64) : List Member → State → Option (IssueEnd × W64)
  | [], _ => none
  | m :: rest, s =>
    let pc := start + BitVec.ofNat 64 m.off
    match ex (m.instr.getD .nop) (s.atMember pc m.word) with
    | .next t =>
      match t.issue.ended with
      | .blocked b => some (.blocked b, pc)
      | .trapped c a k => some (.trapped c a k, pc)
      | .completed => issueStop ex start rest t
      | _ => issueStop ex start rest s
    | _ => none

/-- The members of a bundle from one on, with their addresses. -/
def heldMembers (start : W64) (ms : List Member) : List (W64 × W32 × Instr) :=
  ms.map (fun m => (start + BitVec.ofNat 64 m.off, m.word, m.instr.getD .nop))

/-- Goes on with a held bundle of the acting strand, member by member: what stops it again holds it again. A fault or a trap of a member
leaves it held at that member, for its other members are done (log 41). -/
def goOn (ex : Exec) (h : Held) : List (W64 × W32 × Instr) → State → Host.Outcome State Fault Refusal
  | [], s => .next s.closeBundle
  | (pc, word, i) :: rest, s0 =>
    let again (t : State) (b : Option Block) : State :=
      { (t.modMe (fun p => { p with held := some { h with rest := (pc, word, i) :: rest, taken := t.issue.taken }, blocked := b })) with
        issue := Issue.idle }
    let s := s0.modMe (fun p => { p with held := some { h with rest := (pc, word, i) :: rest, taken := s0.issue.taken } })
    match ex i { s with issue := { s.issue with pc, word, snap := some (s.heldSnap h), ended := .completed } } with
    | .next t =>
      match t.issue.ended with
      | .completed => goOn ex h rest (t.modMe (fun p => { p with blocked := none }))
      | .blocked b => .next (again s (some b))
      | .waits b => .next (again t (some b))
      | .trapped c a k => .next { (s.killMarked h.start).trapAtIssue c a pc k with issue := Issue.idle }
      | .faulted => .next { t.killMarked h.start with issue := Issue.idle }
      | .replayed => .next (again (t.modMe (fun p => { p with pc := (s.ctx.str s.strand).pc })) none)
    | o => o

/-- The members behind one that waits: those that need not keep their place behind it have their effect now, with the bundle's issue (11
R268); the others are left. -/
def runBeside (ex : Exec) : List (W64 × W32 × Instr) → State → List (W64 × W32 × Instr) × State
  | [], s => ([], s)
  | m :: rest, s =>
    let left := (m :: (runBeside ex rest s).1, (runBeside ex rest s).2)
    if Instr.inOrder m.2.2 then left
    else match ex m.2.2 (s.atMember m.1 m.2.1) with
      | .next t => if t.issue.ended == .completed then runBeside ex rest t else left
      | _ => left

/-- A TWAIT and a later TPOST of one bundle on the same token FIFO are applied post first (02 R34). -/
def postFirst (ms : List Member) : List Member :=
  ms.foldr (fun m rest => match m.instr with
    | some (.twait q _ _) =>
      let posts (o : Member) : Bool := match o.instr with | some (.tpost p _) => p == q | _ => false
      rest.filter posts ++ m :: rest.filter (fun o => !posts o)
    | _ => m :: rest) []

/-- Executes the members in word order. `s0` is the state before the bundle, `s1` the same with the bundle counted. -/
def runMembers (ex : Exec) (s0 s1 : State) (start : W64) : List Member → State → Host.Outcome State Fault Refusal
  | [], s => .next s.closeBundle
  | m :: rest, s =>
    let pc := start + BitVec.ofNat 64 m.off
    let block (b : Block) : State := s0.modMe (fun p => { p with blocked := some b })
    let trap (c : BitVec 8) (a at_ : W64) (k : Nat) : State := (s1.killMarked start).trapAtIssue c a at_ k
    match ex (m.instr.getD .nop) (s.atMember pc m.word) with
    | .next t =>
      match t.issue.ended with
      | .completed => runMembers ex s0 s1 start rest t
      | .blocked b => .next (block b)
      | .trapped c a k => .next (trap c a pc k)
      | e =>
        match issueStop ex start rest s with
        | some (.blocked b, _) => .next (block b)
        | some (.trapped c a k, p) => .next (trap c a p k)
        | _ =>
          match e with
          | .waits b =>
            let (left, u) := runBeside ex (heldMembers start rest) t
            .next (u.hold s0 start ((pc, m.word, m.instr.getD .nop) :: left) b)
          | .replayed =>
            match ex (m.instr.getD .nop) ({ s1.killMarked start with issue := Issue.idle }.atMember pc m.word) with
            | .next u => .next { (u.modMe (fun p => { p with pc := start })) with issue := Issue.idle }
            | o => o
          | _ => .next { t.killMarked start with issue := Issue.idle }
    | o => o

/-- Issues the bundle of the acting strand whose members are given (11 R268, R269). One that a TPOST of a later strand has freed in this
clk, and whose effect depends on the order of the strands in a clk, issues in the next clk (log 14). -/
def issueBundle (ex : Exec) (s0 : State) (bundle : Framed) : Host.Outcome State Fault Refusal :=
  let start := (s0.ctx.str s0.strand).pc
  let ms := bundle.members
  let bad (strandFault : Bool) (m : Member) : Host.Outcome State Fault Refusal :=
    let at_ := start + BitVec.ofNat 64 m.off
    match ex (.illegalInstruction strandFault m.word at_) ((s0.countBundle start).killMarked start |>.atMember at_ m.word) with
    | .next t => .next { t with issue := Issue.idle }
    | o => o
  match s0.firstIllegal s0.bundleLimit start.toNat ms 0 false [] ms with
  | some m => bad false m
  | none =>
    match s0.firstStrand ms with
    | some m => bad true m
    | none =>
      if s0.isLate ∧ ms.any (fun m => Instr.clkOrder (m.instr.getD .nop)) then .next { s0 with issue := Issue.idle } else
      let s1 := s0.countBundle start
      let s2 := s1.modMe (fun p => { p with pc := start + BitVec.ofNat 64 bundle.bytes, issued := true })
      let snap := if ms.length = 1 then none else some s0.snapshot
      runMembers ex s0 s1 start (postFirst ms) { s2 with issue := { Issue.idle with snap } }

/-- Fetches words from an address until they make a bundle (11 R265, R267): each is aligned, of one sector, and read as a
load reads (10 R242); Clove fetches from its private memory alone (10 R259). -/
def fetchBundle : Nat → W64 → List Nat → M (List Nat)
  | 0, _, ws => pure ws
  | n + 1, a, ws => do
    let s ← get
    if (frame s.bundleLimit 8 0 ws).complete then pure ws
    else
      checkAddr a 4
      if s.ctx.id.kind = .clove ∧ bitsAt a 63 1 = 0 then violate 11 a
      let (t, _) ← findT s.strand 0 a false
      let bs ← fetchM s.strand a t 4
      fetchBundle n (a + 4) (ws ++ [natOfBytes bs])

/-- The name under which the accesses of a strand of the acting context wait at a pseudo-channel. -/
def State.strandAsker (s : State) (k : StrandId) : Asker := .strand (State.ctxName s.ctx.id) k s.ctx.trap.active

/-- An access of a strand waits at a pseudo-channel. -/
def State.awaitPch (s : State) : State :=
  { s.modMe (fun p => { p with blocked := some .request }) with issue := { s.issue with ended := .waits .request } }

/-- The members of bundles as strands execute them: an instruction whose accesses have to wait at a pseudo-channel waits after its issue
with no effect yet (07 R178, 15 R304). -/
def awaiting (ex : Exec) : Exec := fun i s =>
  let w := s.strandAsker s.strand
  match ex i { s with asker := some w } with
  | .next t => .next (s.askEnd w State.awaitPch t)
  | o => o

/-- An event of a unit: one whose accesses have to wait at a pseudo-channel is tried again later, `held` says how (07 R178). -/
def askEvent (ex : Exec) (ctx : Nat × W32) (i : Instr) (held : State → State) (s : State) : Host.Outcome State Fault Refusal :=
  match ex i { s with asker := some (.event ctx i) } with
  | .next t => .next (s.askEnd (.event ctx i) held t)
  | o => o

/-- The stack front end accepts the near-bank commands of a strand that nothing keeps from starting before the strand goes on (07
R174, 15 R305; log 80). -/
def acceptNear (ex : Exec) (k : StrandId) (s : State) : State :=
  (s.ctx.eng.cmds.filter (fun c => c.cls == .nbu && c.strand == k && !c.started && !c.finished)).foldl (fun (t : State) c =>
    match askEvent ex (State.ctxName t.ctx.id) (.nbStart c.seq) id t with
    | .next u => u
    | _ => t) s

/-- One turn of a strand of the acting context: a bundle that it holds goes on; nothing when it may not issue; a deferred cause
it has to take (09 R433); otherwise the fetch of a bundle and its issue. -/
def turn (ex : Exec) (k : StrandId) (s : State) : Host.Outcome State Fault Refusal :=
  let s : State := acceptNear ex k { s with strand := k, issue := Issue.idle }
  match (s.ctx.str k).held with
  | some h =>
    if s.mayGoOn k then goOn (awaiting ex) h h.rest { s with issue := { Issue.idle with taken := h.taken } } else .next s
  | none =>
  if s.mayIssue k = false then .next s
  else if s.ctx.eng.deferred.any (fun d => d.strand == k) then ex .deferredTrap s
  else
    let s := s.leaveSetup
    let pc := (s.ctx.str k).pc
    let w := s.strandAsker k
    let fetched (t : State) (u : State) : Option State := match t.pchsWith (·.asked) with | [] => none | _ => some (u.askEnd w State.awaitPch t)
    match fetchBundle 6 pc [] { s.atMember pc 0 with asker := some w } with
    | .ok ws t =>
      match fetched t s with
      | some u => .next { u with issue := Issue.idle }
      | none => issueBundle (awaiting ex) { (s.askEnd w id t) with issue := Issue.idle } (frame s.bundleLimit 8 0 ws)
    | .error e t =>
      match fetched t s with
      | some u => .next { u with issue := Issue.idle }
      | none => .next { State.settle e (s.atMember pc 0) (s.askEnd w id t) with issue := Issue.idle }

end Sys2Proof.Machine
end

