-- ==== Sys2Proof/Machine/Trace.lean ====
section
/-! DEFINITION. Trace buffers and tagged sampling: DBG.MARK, the writes of TRCCTL and SAMPCTL, and the record of a marked
bundle (10 R247, R248, R251 to R254; 18 R336). -/

namespace Sys2Proof.Machine

/-- A 16-bit duration of a trace record stops at its largest value (10 R253). -/
def sat16 (v : W32) : Nat := Nat.min v.toNat 0xFFFF

namespace State

/-- Where the trace unit of the acting context reaches a byte of its buffer: none when the page is unmapped or may not be
written, or the bytes cannot be (10 R254). A whole sector can also be written where it stands poisoned (10 R242). -/
def traceAt (s : State) (off : Nat) (whole : Bool) : Option Target × State :=
  match locate s (s.reqOf s.strand 0) (BitVec.ofNat 64 (s.ctx.csr.trace.base.toNat * 65536 + off)) true with
  | (.at_ t _, s1) =>
    match t with
    | .scratch .. => (none, s1)
    | _ => if (s1.linkError t).isSome || (!whole && s1.poisonedT t) then (none, s1) else (some t, s1)
  | (_, s1) => (none, s1)

/-- Writes doublewords of the buffer from an offset, and the doublewords of the header. -/
def tracePut (s : State) (t : Target) (ws : List W64) : State := s.writeT t (ws.flatMap (fun w => bytesOfNat 8 w.toNat))

/-- Appends a record of four words to the trace buffer (10 R253, R254). -/
def traceRecord (s : State) (ws : List W64) : State :=
  match s.traceAt 0 false with
  | (none, s1) => s1.modCtx (fun c => { c with csr := { c.csr with trace :=
      { c.csr.trace with hdrop := if c.csr.trace.hdrop = 0xFFFF then 0xFFFF else c.csr.trace.hdrop + 1 } } })
  | (some h, s1) =>
    let word (i : Nat) : W64 := BitVec.ofNat 64 (natOfBytes (s1.readT (h.plus (8 * i)) 8).1.data)
    let size := s.ctx.csr.trace.pages.toNat * 65536
    let full := size < (word 1).toNat + 32
    let drop (t : State) : State := t.tracePut (h.plus 24) [word 3 + 1]
    if full ∧ s.ctx.csr.trace.wrap = false then drop s1
    else
      let head := if full then 64 else (word 1).toNat
      match s1.traceAt head true with
      | (none, s2) => drop s2
      | (some t, s2) => (s2.tracePut t ws).tracePut (h.plus 8) [BitVec.ofNat 64 (head + 32), if full then word 2 + 1 else word 2]

/-- Whether a page of the buffer may be used (10 R252): a pinned leaf that permits writes and is not RSH. -/
def tracePageOk (s : State) (page : Nat) : Bool × State :=
  match locate s (s.reqOf s.strand 0) (BitVec.ofNat 64 ((s.ctx.csr.trace.base.toNat + page) * 65536)) false with
  | (.at_ t leaf, s1) =>
    (match t with
     | .scratch .. => false
     | _ => bitsAt leaf 63 1 == 1 && bitsAt leaf 4 1 == 1 && bitsAt leaf 5 2 != 1, s1)
  | (_, s1) => (false, s1)

/-- Every page of the buffer is checked, from one on. -/
def tracePagesOk (s : State) : Nat → Nat → Bool × State
  | 0, _ => (true, s)
  | n + 1, page =>
    match s.tracePageOk page with
    | (true, s1) => tracePagesOk s1 n (page + 1)
    | r => r

/-- A write of TRCCTL (10 R252). -/
def writeTrcctl (s : State) (v : W64) : State :=
  let set (t : State) (en : Bool) : State := t.modCtx (fun c => { c with csr := { c.csr with trace :=
    { c.csr.trace with pages := BitVec.ofNat 16 (bitsAt v 32 16), hdrop := BitVec.ofNat 16 (bitsAt v 16 16),
                       wrap := bitAt v.toNat 3, samp := bitAt v.toNat 2, mark := bitAt v.toNat 1, en } } })
  let pages := bitsAt v 32 16
  if bitAt v.toNat 0 ∧ 1 ≤ pages ∧ pages ≤ 4096 then
    let old := s.ctx.csr.trace.en
    let (ok, s1) := s.tracePagesOk pages 0
    let s2 := set s1 ok
    if ok ∧ old = false then
      match s2.traceAt 0 true with
      | (some h, s3) => (s3.tracePut h [0x0001000000000020, 64, 0, 0]).tracePut (h.plus 32) [0, 0, 0, 0]
      | (none, s3) => s3
    else s2
  else set s false

/-- A write of SAMPCTL (10 R247, R248): the shift register is loaded and the counter starts. -/
def writeSampctl (s : State) (v : W64) : State :=
  let seed : W16 := BitVec.ofNat 16 (bitsAt v 16 16)
  s.modCtx (fun c => { c with csr := { c.csr with samp :=
    { c.csr.samp with seed, per := BitVec.ofNat 4 (bitsAt v 8 4), smask := BitVec.ofNat 4 (bitsAt v 4 4),
                      en := bitAt v.toNat 0, lfsr := if seed = 0 then 1 else seed, count := 0 } } })

/-- The record of the marked bundle (10 R247, R248, R253): to the trace buffer, or to the sampling registers. KILL says that the
bundle was discarded, as its mark knows; nothing is recorded while the mark says otherwise than the event, or while the bundle is
held, for then it has neither retired nor been discarded. -/
def recordSample (s : State) (killed : Bool) (d : Vector W32 6) : State :=
  match s.ctx.csr.samp.marked with
  | none => s
  | some (st, pc, t, kill) =>
    let isHeld := (s.ctx.str st).held.any (fun h => h.start == pc) || (st = .K && s.ctx.trap.kHeld.any (fun h => h.start == pc))
    if kill ≠ killed ∨ (isHeld && !kill) then s else
    let s1 := s.modCtx (fun c => { c with csr := { c.csr with samp := { c.csr.samp with marked := none } } })
    if s1.ctx.csr.trace.en ∧ s1.ctx.csr.trace.samp then
      s1.traceRecord [t,
        BitVec.ofNat 64 (2 * 2 ^ 56 + st.code * 2 ^ 48 + sat16 d[0] * 2 ^ 32 + sat16 d[1] * 2 ^ 16 + sat16 d[2]), pc,
        BitVec.ofNat 64 ((if kill then 2 ^ 63 else 0) + sat16 d[3] * 2 ^ 32 + sat16 d[4] * 2 ^ 16 + sat16 d[5])]
    else if s1.ctx.csr.samp.v then s1
    else s1.modCtx (fun c => { c with csr := { c.csr with samp :=
      { c.csr.samp with v := true, kill, strand := st, pc, t, durations := d } } })

end State

/-- DBG.MARK (10 R251, 18 R336). -/
def execDbgMark (a : Reg) (imm : BitVec 10) (s : State) : Host.Outcome State Fault Refusal :=
  .next (if s.ctx.id.kind.isApp ∧ s.rd.csr.trace.en ∧ s.rd.csr.trace.mark then
      s.traceRecord [s.cycle, BitVec.ofNat 64 (2 ^ 56 + s.strand.code * 2 ^ 48 + imm.toNat), s.issue.pc, s.getX a]
    else s)

/-- TRCCTL_WRITE (10 R252). -/
def execTrcctlWrite (value : W64) (s : State) : Host.Outcome State Fault Refusal := .next (s.writeTrcctl value)
/-- SAMPCTL_WRITE (10 R247). -/
def execSampctlWrite (value : W64) (s : State) : Host.Outcome State Fault Refusal := .next (s.writeSampctl value)
/-- SAMPLE_MARK (10 R247). -/
def execSampleMark (st : StrandId) (pc : W64) (s : State) : Host.Outcome State Fault Refusal := .next (s.markBundle st pc)
/-- SAMPLE_RECORD (10 R253): the marked bundle has retired, or been killed; its durations are the hardware's measurements (log 21). -/
def execSampleRecord (killed : Bool) (fetch decode opwait issue exec retire : W32) (s : State) :
    Host.Outcome State Fault Refusal :=
  .next (s.recordSample killed #v[fetch, decode, opwait, issue, exec, retire])

end Sys2Proof.Machine
end

