-- ==== Sys2Proof/Machine/Csr.lean ====
section
/-! DEFINITION. The control and status registers by number: what each reads as, which bits a write takes, and the CSR
instructions (00 R2 to R5, R8, R13; 01 R17, R23; 02 R45, R54, R58; 03 R68 to R73; 04 R95, R100; 05 R137; 06 R153; 07 R179 to
R182; 08 R207; 09 R221, R224, R225; 10 R243 to R252, R260; 17 R326, R329 to R331; 18 R355; 19 R390). -/

namespace Sys2Proof.Machine

/-- CAP0 and CAP1 of a part (00 R5). -/
def cap0 : Part → W64
  | .sl3240 => 0x00000000001F1F03
  | .sl3240m => 0x00000000001F1F00
  | .sl3216 => 0x00000000000F0F03
def cap1 : Part → W64
  | .sl3216 => 0x0000000000F40501
  | _ => 0x0000000001F40501

/-- Whether the numbers from a first one on, so many of them, contain a number. -/
def within (n first count : Nat) : Bool := decide (first ≤ n) && decide (n < first + count)

/-- The word of CTXID (02 R45). -/
def Ident.word (i : Ident) : W64 :=
  if i.kind.isApp then
    BitVec.ofNat 64 (i.pasid.toNat * 2 ^ 36 + i.item.toNat * 16 + (if i.pers then 8 else 0) + (if i.det then 4 else 0) +
      (if i.kind = .B then 1 else 0))
  else if i.kind = .F then 2 else 0

/-- The word of SCWIN (04 R95). -/
def Cluster.word (c : Cluster) : W64 :=
  BitVec.ofNat 64 (c.owner.toNat * 2 ^ 36 + c.base.toNat * 2 ^ 16 + c.size.toNat * 2 ^ 12 + c.count.toNat)

/-- The word of an error record (07 R182, 17 R326), and the record of a word. -/
def ErrRec.word (e : ErrRec) : W64 := BitVec.ofNat 64 (e.seq.toNat * 2 ^ 32 + e.count.toNat * 2 ^ 16 + e.code.toNat)
def ErrRec.ofWord (v : W64) : ErrRec :=
  { seq := BitVec.ofNat 32 (bitsAt v 32 32), count := BitVec.ofNat 16 (bitsAt v 16 16), code := BitVec.ofNat 4 (bitsAt v 0 4) }

/-- The word of ECCLOG (10 R244), and the record of a word. -/
def EccLog.word (e : EccLog) : W64 :=
  BitVec.ofNat 64 (e.kind.toNat * 2 ^ 62 + (if e.mult then 2 ^ 61 else 0) + e.addr.toNat * 32)
def EccLog.ofWord (v : W64) : EccLog :=
  { kind := BitVec.ofNat 2 (bitsAt v 62 2), mult := bitAt v.toNat 61, addr := BitVec.ofNat 50 (bitsAt v 5 50) }

/-- SAMPCTL, SAMPINFO and the others by their place (10 R248). -/
def Sampling.word (m : Sampling) (k : Nat) : W64 :=
  match k with
  | 0 => BitVec.ofNat 64 (m.seed.toNat * 2 ^ 16 + m.per.toNat * 2 ^ 8 + m.smask.toNat * 2 ^ 4 + (if m.en then 1 else 0))
  | 1 => BitVec.ofNat 64 ((if m.v then 2 ^ 63 else 0) + (if m.kill then 2 ^ 62 else 0) + m.strand.code)
  | 2 => m.pc
  | 3 => m.t
  | k => (m.durations.getD (k - 4) 0).setWidth 64

/-- TRCCTL (10 R252). -/
def Trace.word (t : Trace) : W64 :=
  BitVec.ofNat 64 (t.pages.toNat * 2 ^ 32 + t.hdrop.toNat * 2 ^ 16 + (if t.wrap then 8 else 0) + (if t.samp then 4 else 0) +
    (if t.mark then 2 else 0) + (if t.en then 1 else 0))

/-- LSTAT (18 R355): a closed level shows no rotation. -/
def Strand.lstat (p : Strand) (trb : BitVec 4) (compute : Bool) : W64 :=
  let f (l : LoopLevel) (k : Nat) : Nat := if l.active then 2 ^ k + (if l.rotating then 2 ^ (k + 2) else 0) else 0
  BitVec.ofNat 64 (f p.loop0 0 + f p.loop1 1 + (if compute then trb.toNat * 256 else 0))

/-- TRAPCAUSE (09 R225). -/
def TrapRegs.causeWord (t : TrapRegs) : W64 :=
  BitVec.ofNat 64 ((if t.active then 2 ^ 15 else 0) + (if t.defer then 2 ^ 14 else 0) + t.strand.code * 2 ^ 8 + t.cause.toNat)

/-- A thermal register of a die by its place (10 R260). -/
def Thermal.word (t : Thermal) (k : Nat) : W64 :=
  if k < 16 then (t.sens.getD k 0).setWidth 64
  else match k with
    | 0x10 => t.alert.setWidth 64
    | 0x11 => t.hyst.setWidth 64
    | 0x12 => t.crit.setWidth 64
    | 0x13 => t.level.setWidth 64
    | 0x14 => BitVec.ofNat 64 (t.down.toNat * 2 ^ 16 + t.up.toNat)
    | _ => 0

namespace State

/-- What a CSR reads as for the acting strand; a number that names no register reads as zero (11 R275). -/
def csrRead (s : State) (n : Nat) : W64 :=
  let c := s.rd
  let p := s.me
  if within n 0x060 8 then c.csr.prov.getD (n - 0x060) 0
  else if within n 0x070 16 then c.csr.qhc.getD (n - 0x070) 0
  else if within n 0x080 10 then c.csr.samp.word (n - 0x080)
  else if within n 0x200 0x15 then s.rdDie.thermal.word (n - 0x200)
  else match n with
    | 0x000 => cap0 s.part
    | 0x001 => cap1 s.part
    | 0x002 => BitVec.ofNat 64 s.here
    | 0x003 => c.id.word
    | 0x004 => s.rdClk
    | 0x010 => c.csr.frm.setWidth 64
    | 0x011 => c.csr.fflags.setWidth 64
    | 0x012 => if c.csr.ftz then 1 else 0
    | 0x021 => c.eng.seqno.setWidth 64
    | 0x030 => s.rdCluster.word
    | 0x031 => BitVec.ofNat 64 (c.csr.miss.toNat * 2 ^ 32 + c.csr.hit.toNat)
    | 0x032 => BitVec.ofNat 64 ((if s.rdCore.tlbAll then 2 ^ 63 else 0) + s.rdCore.tlbPasid.toNat)
    | 0x034 => c.csr.ceerr.word
    | 0x038 => if s.part = .sl3240m then 0 else c.csr.nbwin.setWidth 64
    | 0x039 => c.csr.nbmsel.setWidth 64
    | 0x03A => s.nbmpc
    | 0x03B => s.nbmacc
    | 0x03C => c.csr.nberr.word
    | 0x050 => c.csr.ecczcnt.setWidth 64
    | 0x051 => c.csr.ecclog.word
    | 0x08E => BitVec.ofNat 64 (c.csr.trace.base.toNat * 2 ^ 16)
    | 0x08F => c.csr.trace.word
    | 0x0C0 => p.loop0.cnt.setWidth 64
    | 0x0C1 => p.loop1.cnt.setWidth 64
    | 0x0C2 => p.loop0.idx.setWidth 64
    | 0x0C3 => p.loop1.idx.setWidth 64
    | 0x0C4 => p.lstat c.comp.trb (decide (s.strand = .C))
    | 0x100 => s.rdCore.fwshare.setWidth 64
    | 0x101 => s.rdCore.leaselim.setWidth 64
    | 0x102 => s.rdCore.qdlimit.setWidth 64
    | 0x103 => s.rdCore.ageq.setWidth 64
    | 0x104 => if c.setup then 1 else 0
    | 0x110 => c.trap.causeWord
    | 0x111 => c.trap.addr
    | 0x112 => c.trap.pc
    | 0x113 => c.trap.vec
    | 0x114 => c.trap.rpc
    | _ => 0

/-- Changes the CSRs, the trap registers or the core registers of the acting context. -/
def modCsr (s : State) (f : Csrs → Csrs) : State := s.modCtx (fun c => { c with csr := f c.csr })
def modTrap (s : State) (f : TrapRegs → TrapRegs) : State := s.modCtx (fun c => { c with trap := f c.trap })
def modCore (s : State) (f : Core → Core) : State := s.setCore s.here (f s.hereCore)
def modThermal (s : State) (f : Thermal → Thermal) : State :=
  s.setDie s.ctx.id.die { s.hereDie with thermal := f s.hereDie.thermal }

/-- Notes FRM and FTZ before a write by another strand than the compute strand (03 R73). -/
def noteNumerics (s : State) : State :=
  if s.strand = .C then s
  else s.modCsr (fun c => match c.earlier with
    | some (t, _) => if t = s.cycle then c else { c with earlier := some (s.cycle, c.frm, c.ftz) }
    | none => { c with earlier := some (s.cycle, c.frm, c.ftz) })

/-- A write of MODE (02 R58): setting SETUP makes every slot expired, also while an earlier clear still waits for the slots;
clearing it waits for the slots. A SETUP that is in force already stays as it is (log 75). -/
def writeMode (s : State) (v : W64) : State :=
  if bitAt v.toNat 0 then
    if s.ctx.setup then s
    else (s.modCtx (fun c => { c with setup := true, leaving := false })).modMe (fun p =>
      { p with bypass := p.bypass.map (fun b => { b with live := false }) })
  else if s.ctx.setup then s.modCtx (fun c => { c with setup := false, leaving := true }) else s

/-- What a write leaves in a CSR: RW fields take their bits, every other bit stays (00 R13, 17 R329). Flags raised in the
clk of the write survive it (03 R73). Numbers that name no register ignore the write. -/
def csrStore (s : State) (n : Nat) (v : W64) : State :=
  let w32 (lo : Nat) : W32 := BitVec.ofNat 32 (bitsAt v lo 32)
  if within n 0x060 8 then
    let kept : W64 := if n % 2 = 0 then v &&& 0xFFFFFFFFFFFFFE03 else v &&& 0x00000000FFFFFFFF
    s.modCsr (fun c => { c with prov := c.prov.setIfInBounds (n - 0x060) kept })
  else if within n 0x070 16 then s.modCsr (fun c => { c with qhc := c.qhc.setIfInBounds (n - 0x070) v })
  else match n with
    | 0x010 => s.noteNumerics.modCsr (fun c => { c with frm := v.setWidth 2 })
    | 0x011 => s.modCsr (fun c =>
        { c with fflags := if c.raised.1 = s.cycle then v.setWidth 7 ||| c.raised.2 else v.setWidth 7 })
    | 0x012 => s.noteNumerics.modCsr (fun c => { c with ftz := bitAt v.toNat 0 })
    | 0x031 => s.modCsr (fun c => { c with miss := w32 32, hit := w32 0 })
    | 0x032 => s.modCore (fun c => { c with tlbAll := bitAt v.toNat 63, tlbPasid := v.setWidth 20 })
    | 0x034 => s.modCsr (fun c => { c with ceerr := ErrRec.ofWord v })
    | 0x038 => if s.part = .sl3240m then s else s.modCsr (fun c => { c with nbwin := v.setWidth 4 })
    | 0x039 => s.modCsr (fun c => { c with nbmsel := v.setWidth 15 })
    | 0x03C => s.modCsr (fun c => { c with nberr := ErrRec.ofWord v })
    | 0x050 => s.modCsr (fun c => { c with ecczcnt := w32 0 })
    | 0x051 => s.modCsr (fun c => { c with ecclog := EccLog.ofWord v })
    | 0x080 => s.writeSampctl v
    | 0x081 => s.modCsr (fun c => { c with samp := { c.samp with v := bitAt v.toNat 63 } })
    | 0x08E => s.modCsr (fun c => { c with trace := { c.trace with base := BitVec.ofNat 39 (bitsAt v 16 39) } })
    | 0x08F => s.writeTrcctl v
    | 0x100 => s.modCore (fun c => { c with fwshare := v.setWidth 7 })
    | 0x101 => s.modCore (fun c => { c with leaselim := v.setWidth 7 })
    | 0x102 => s.modCore (fun c => { c with qdlimit := v.setWidth 32 })
    | 0x103 => s.modCore (fun c => { c with ageq := v.setWidth 16 })
    | 0x104 => s.writeMode v
    | 0x112 => s.modTrap (fun t => { t with pc := v })
    | 0x113 => s.modTrap (fun t => { t with vec := v })
    | 0x114 => s.modTrap (fun t => { t with rpc := v })
    | 0x210 => s.modThermal (fun t => { t with alert := v.setWidth 16 })
    | 0x211 => s.modThermal (fun t => { t with hyst := v.setWidth 16 })
    | 0x212 => s.modThermal (fun t => { t with crit := v.setWidth 16 })
    | 0x214 => s.modThermal (fun t => { t with down := BitVec.ofNat 16 (bitsAt v 16 16), up := BitVec.ofNat 16 (bitsAt v 0 16) })
    | _ => s

end State

/-- What CSR.RD shows: the compute strand sees FRM and FTZ as they govern it (03 R73). -/
def State.csrShown (s : State) (n : Nat) : W64 :=
  if s.strand = .C ∧ n = 0x010 then s.numerics.1.setWidth 64
  else if s.strand = .C ∧ n = 0x012 then (if s.numerics.2 then 1 else 0)
  else s.csrRead n

/-- A CSR instruction (17 R329): the checks, the old value into xd untainted, then the write. -/
def csrOp (i : Instr) (d : Reg) (a : Reg) (n : BitVec 10) (writes : Bool) (f : W64 → W64 → W64) : M Unit := do
  enter i
  let s ← get
  require (!(writes && s.ctx.id.kind.isApp && s.ctx.id.det && (n == 0x010 || n == 0x012) && s.tainted a)) .knobNumerics
  let old := if writes then s.csrRead n.toNat else s.csrShown n.toNat
  let x := s.getX a
  wx d old
  if writes then modify (fun s => s.csrStore n.toNat (f old x))

/-- CSR.RD (17 R329). -/
def execCsrRd (d : Reg) (n : BitVec 10) (s : State) : Host.Outcome State Fault Refusal :=
  run (csrOp (.csrRd d n) d 0 n false (fun o _ => o)) s
/-- CSR.WR (17 R329, R330). -/
def execCsrWr (d a : Reg) (n : BitVec 10) (s : State) : Host.Outcome State Fault Refusal :=
  run (csrOp (.csrWr d a n) d a n true (fun _ x => x)) s
/-- CSR.SET (17 R329, R330): with X0 a pure read. -/
def execCsrSet (d a : Reg) (n : BitVec 10) (s : State) : Host.Outcome State Fault Refusal :=
  run (csrOp (.csrSet d a n) d a n (decide (a ≠ 0)) (fun o x => o ||| x)) s
/-- CSR.CLR (17 R329, R330): with X0 a pure read. -/
def execCsrClr (d a : Reg) (n : BitVec 10) (s : State) : Host.Outcome State Fault Refusal :=
  run (csrOp (.csrClr d a n) d a n (decide (a ≠ 0)) (fun o x => o &&& ~~~x)) s

/-- MODE_WRITE (02 R58). -/
def execModeWrite (value : W64) (s : State) : Host.Outcome State Fault Refusal := .next (s.writeMode value)

/-- BYPASS_EXPIRY (02 R56): a slot of the acting strand three clk after its last write. -/
def execBypassExpiry (slot : BitVec 2) (s : State) : Host.Outcome State Fault Refusal :=
  .next (s.modMe (fun p => { p with bypass := vecMod p.bypass slot.toNat (fun b =>
    if b.writtenAt + 3 < s.cycle.toNat then { b with live := false } else b) }))

end Sys2Proof.Machine
end

