-- ==== Sys2Proof/Machine/Links.lean ====
section
/-! DEFINITION. What arrives on the links: host transactions and peer accesses, and links that go down (05 R120, R132; 04 R91,
R431; 09 R232, R235; 10 R242, R256, R257). -/

namespace Sys2Proof.Machine

/-- Whether a request has a size and an address that a link carries (10 R257). -/
def linkShape (addr : W64) (n : Nat) : Bool :=
  [1, 2, 4, 8, 16, 32, 64, 128, 256].contains n && addr.toNat % n == 0

/-- Cuts a naturally aligned request into pieces of one size at most. -/
def linkPieces (piece : Nat) (n : Nat) : List (Nat × Nat) :=
  (List.range ((n + piece - 1) / piece)).map (fun i => (i * piece, Nat.min piece (n - i * piece)))

/-- Whether the host may write a register of die control space: NOTIFY as a doubleword, and the request area of MBOX (10
R256, R264). -/
def hostWrites (off n : Nat) : Bool :=
  (off == 0x40 && n == 8) || (decide (0x100000 ≤ off) && decide (off + n ≤ 0x100008)) ||
  (decide (0x100040 ≤ off) && decide (off + n ≤ 0x100080))

/-- The effect of an atomic on its word, unsigned at its width (17 R312, R314; 10 R257); none for a code that is no atomic
of that size. -/
def hostAtomicFn (a : HostAmo) : Option (Nat → Option Nat) :=
  let m := 2 ^ (8 * (amoBytes a.size))
  let x := a.operand.toNat % m
  let e := a.expected.toNat % m
  let bf (b : Bool) : Option (Nat → Option Nat) :=
    if a.size = .w then some (fun o => some (faddWord b (BitVec.ofNat 32 o) (BitVec.ofNat 32 x)).toNat) else none
  match a.op.toNat with
  | 0 => some (fun o => some ((o + x) % m))
  | 1 => some (fun o => some (if signedOf a.size x < signedOf a.size o then x else o))
  | 2 => some (fun o => some (if signedOf a.size o < signedOf a.size x then x else o))
  | 3 => some (fun o => some (Nat.min o x))
  | 4 => some (fun o => some (Nat.max o x))
  | 5 => some (fun o => some (o &&& x))
  | 6 => some (fun o => some (o ||| x))
  | 7 => some (fun o => some (o ^^^ x))
  | 8 => some (fun _ => some x)
  | 9 => some (fun o => if o = e then some x else none)
  | 10 => bf false
  | 11 => bf true
  | _ => none

namespace State

/-- The die that holds a Gnostad Link port (01 R20). -/
def hostDie (p : Part) (q : Nat) : Nat :=
  match q, p with
  | 0, _ => 0 | 1, _ => 7 | 2, .sl3216 => 8 | 2, _ => 24 | _, .sl3216 => 15 | _, _ => 31

/-- Where a request of a link leads: spaces 0 and 1 through the home L2 or DRAM, and die control space for the host (04
R431, 10 R257). -/
def linkTarget (s : State) (host : Bool) (addr : W64) (n : Nat) : Option Target :=
  if addr.toNat / 2 ^ 48 ≠ 0 then none
  else match addr.toNat / 2 ^ 44, physical s 0 host addr.toNat 0x4000 with
    | 0, .at_ t _ => some t
    | 1, .at_ t _ => if host then some t else none
    | 8, .at_ (.regs d o) _ =>
      if host && (linkPieces 8 n).all (fun p => (s.dieWord d ((o + p.1) / 8 * 8)).isSome) then some (.regs d o) else none
    | _, _ => none

/-- The pieces of a request in which it is performed. -/
def targetPieces (t : Target) (n : Nat) : List (Nat × Nat) :=
  match t with
  | .regs .. => linkPieces 8 n
  | _ => linkPieces 32 n

/-- Reads for a link: all-ones with error or poison status where the bytes cannot be given (09 R235, 10 R242). -/
def linkRead (s : State) (host : Bool) (die : Nat) (addr : W64) (n : Nat) : LinkAnswer × State :=
  let ones := List.replicate n (0xFF : Byte)
  match s.linkTarget host addr n with
  | none => (.data ones true false, s.logViolation die 4 (physAddr addr.toNat) 0 (if host then 256 else 257))
  | some t =>
    let (bs, bad, s1) := (targetPieces t n).foldl (fun (p : List Byte × Bool × State) c =>
      let (g, u) := p.2.2.readT (t.plus c.1) c.2
      (p.1 ++ g.data, p.2.1 || g.poison, u)) ([], false, s)
    (if bad then .data ones false true else .data bs false false, s1)

/-- Writes for a link: none when it is done, an error answer when it is dropped. Part of a poisoned sector stays as it is
(10 R242). -/
def linkWrite (s : State) (host : Bool) (die : Nat) (addr : W64) (bs : List Byte) : Option LinkAnswer × State :=
  let no : Option LinkAnswer × State :=
    (some (.done true), s.logViolation die 4 (physAddr addr.toNat) 0 (if host then 256 else 257))
  match s.linkTarget host addr bs.length with
  | none => no
  | some (.regs d o) => if hostWrites o bs.length then (none, s.regStore d o bs) else no
  | some t =>
    (targetPieces t bs.length).foldl (fun (p : Option LinkAnswer × State) c =>
      if p.2.poisonedT (t.plus c.1) && c.2 != 32 then (some (.done true), p.2)
      else (p.1, p.2.writeT (t.plus c.1) ((bs.drop c.1).take c.2))) (none, s)

/-- An atomic for the host (10 R257). -/
def linkAtomic (s : State) (die : Nat) (addr : W64) (n : Nat) (f : Nat → Option Nat) : LinkAnswer × State :=
  let ones := List.replicate n (0xFF : Byte)
  let no : LinkAnswer × State := (.data ones true false, s.logViolation die 4 (physAddr addr.toNat) 0 256)
  match s.linkTarget true addr n with
  | none | some (.regs ..) => no
  | some t =>
    let (g, s1) := s.readT t n
    if g.poison then (.data ones false true, s1)
    else (.data g.data false false, match f (natOfBytes g.data) with
      | some v => s1.writeT t (bytesOfNat n v)
      | none => s1)

/-- Notes an answer on a port. -/
def answerHost (s : State) (q : Nat) (a : LinkAnswer) : State :=
  { s with hostPorts := vecMod s.hostPorts q (fun p => { p with answers := a :: p.answers }) }
def answerPeer (s : State) (q : Nat) (a : LinkAnswer) : State :=
  { s with peerPorts := vecMod s.peerPorts q (fun p => { p with answers := a :: p.answers }) }

/-- Whether requests arrive on a port. -/
def hostUp (s : State) (q : Nat) : Bool := (s.hostPorts[q]?).any (·.up)
def peerUp (s : State) (q : Nat) : Bool := decide (q < s.part.dies) && (s.peerPorts[q]?).any (·.up)

/-- The error answer of a request that a port has held (09 R235). -/
def errorAnswer (i : Instr) : LinkAnswer :=
  match i with
  | .hostRead _ _ n => .data (List.replicate n 0xFF) true false
  | .hostAtomic _ _ a => .data (List.replicate (amoBytes a.size) 0xFF) true false
  | .peerAccess _ _ n none => .data (List.replicate n 0xFF) true false
  | _ => .done true

/-- A link goes down (09 R232, R233; 10 R257): requests that still stand at a port complete with error status. -/
def linkDown (s : State) (l : LinkName) : State :=
  let down (p : Port) : Port := { p with up := false, answers := (p.waiting.map errorAnswer).reverse ++ p.answers, waiting := [] }
  match l with
  | .host q => { s with hostPorts := vecMod s.hostPorts q down }
  | .peer q => if s.part.dies ≤ q then s else { s with peerPorts := vecMod s.peerPorts q down }
  | .fabric d h =>
    if d < s.part.dies ∧ (hopFrom s.part d h).isSome ∧ s.downLinks.contains (d, h) = false then
      { s with downLinks := s.downLinks ++ [(d, h)] }
    else s

end State

/-- Whether a request of a Gnostad Link port waits behind a notify that found every latch taken (09 R213). -/
def State.portHeld (s : State) (q : Nat) : Bool := (s.hostPorts[q]?).any (fun p => !p.waiting.isEmpty)

/-- A request waits at its port. -/
def State.holdAtPort (s : State) (q : Nat) (i : Instr) : State :=
  { s with hostPorts := vecMod s.hostPorts q (fun p => { p with waiting := p.waiting ++ [i] }) }

/-- The same at a port to peers. -/
def State.holdAtPeer (s : State) (q : Nat) (i : Instr) : State :=
  { s with peerPorts := vecMod s.peerPorts q (fun p => { p with waiting := p.waiting ++ [i] }) }

/-- HOST_READ (10 R257). -/
def execHostRead (port : Nat) (addr : W64) (size : Nat) (s : State) : Host.Outcome State Fault Refusal :=
  .next (if s.portHeld port then s.holdAtPort port (.hostRead port addr size)
    else if s.hostUp port && linkShape addr size then
      let (a, t) := s.linkRead true (State.hostDie s.part port) addr size
      t.answerHost port a
    else s)

/-- HOST_WRITE (10 R257): posted. A notify that finds every latch of its die's gated front end taken holds its port (09 R213). -/
def execHostWrite (port : Nat) (addr : W64) (data : List Byte) (s : State) : Host.Outcome State Fault Refusal :=
  .next (if s.portHeld port then s.holdAtPort port (.hostWrite port addr data)
    else if s.hostUp port && linkShape addr data.length then
      if data.length = 8 ∧ (s.linkTarget true addr 8).any s.notifyHeld then s.holdAtPort port (.hostWrite port addr data) else
      match s.linkWrite true (State.hostDie s.part port) addr data with
      | (some a, t) => t.answerHost port a
      | (none, t) => t
    else s)

/-- HOST_ATOMIC (10 R257). -/
def execHostAtomic (port : Nat) (addr : W64) (amo : HostAmo) (s : State) : Host.Outcome State Fault Refusal :=
  .next (match hostAtomicFn amo with
    | some f =>
      if s.portHeld port then s.holdAtPort port (.hostAtomic port addr amo)
      else if s.hostUp port && linkShape addr (amoBytes amo.size) then
        let (a, t) := s.linkAtomic (State.hostDie s.part port) addr (amoBytes amo.size) f
        t.answerHost port a
      else s
    | none => s)

/-- PEER_ACCESS (05 R132, 04 R91): a read, or a write of data. -/
def execPeerAccess (port : Nat) (addr : W64) (size : Nat) (write : Option (List Byte)) (s : State) :
    Host.Outcome State Fault Refusal :=
  .next (if (s.peerPorts[port]?).any (fun p => !p.waiting.isEmpty) then s.holdAtPeer port (.peerAccess port addr size write)
    else if s.peerUp port then
      match write with
      | none =>
        if linkShape addr size then
          let (a, t) := s.linkRead false port addr size
          t.answerPeer port a
        else s
      | some bs =>
        if linkShape addr bs.length then
          match s.linkWrite false port addr bs with
          | (some a, t) => t.answerPeer port a
          | (none, t) => t
        else s
    else s)

/-- LINK_DOWN (10 R257). -/
def execLinkDown (link : LinkName) (s : State) : Host.Outcome State Fault Refusal := .next (s.linkDown link)

end Sys2Proof.Machine
end

