-- ==== Sys2Proof/Machine/Manage.lean ====
section
/-! DEFINITION. Clove's work: thermal control, signed boot, the mailbox (10 R259 to R264), with SHA-512 (log 6). -/

namespace Sys2Proof.Machine

/-- Round constants 0 to 7 of SHA-512. -/
def shaK0 : List W64 :=
  [0x428A2F98D728AE22, 0x7137449123EF65CD, 0xB5C0FBCFEC4D3B2F, 0xE9B5DBA58189DBBC,
   0x3956C25BF348B538, 0x59F111F1B605D019, 0x923F82A4AF194F9B, 0xAB1C5ED5DA6D8118]
/-- Round constants 8 to 15 of SHA-512. -/
def shaK1 : List W64 :=
  [0xD807AA98A3030242, 0x12835B0145706FBE, 0x243185BE4EE4B28C, 0x550C7DC3D5FFB4E2,
   0x72BE5D74F27B896F, 0x80DEB1FE3B1696B1, 0x9BDC06A725C71235, 0xC19BF174CF692694]
/-- Round constants 16 to 23 of SHA-512. -/
def shaK2 : List W64 :=
  [0xE49B69C19EF14AD2, 0xEFBE4786384F25E3, 0x0FC19DC68B8CD5B5, 0x240CA1CC77AC9C65,
   0x2DE92C6F592B0275, 0x4A7484AA6EA6E483, 0x5CB0A9DCBD41FBD4, 0x76F988DA831153B5]
/-- Round constants 24 to 31 of SHA-512. -/
def shaK3 : List W64 :=
  [0x983E5152EE66DFAB, 0xA831C66D2DB43210, 0xB00327C898FB213F, 0xBF597FC7BEEF0EE4,
   0xC6E00BF33DA88FC2, 0xD5A79147930AA725, 0x06CA6351E003826F, 0x142929670A0E6E70]
/-- Round constants 32 to 39 of SHA-512. -/
def shaK4 : List W64 :=
  [0x27B70A8546D22FFC, 0x2E1B21385C26C926, 0x4D2C6DFC5AC42AED, 0x53380D139D95B3DF,
   0x650A73548BAF63DE, 0x766A0ABB3C77B2A8, 0x81C2C92E47EDAEE6, 0x92722C851482353B]
/-- Round constants 40 to 47 of SHA-512. -/
def shaK5 : List W64 :=
  [0xA2BFE8A14CF10364, 0xA81A664BBC423001, 0xC24B8B70D0F89791, 0xC76C51A30654BE30,
   0xD192E819D6EF5218, 0xD69906245565A910, 0xF40E35855771202A, 0x106AA07032BBD1B8]
/-- Round constants 48 to 55 of SHA-512. -/
def shaK6 : List W64 :=
  [0x19A4C116B8D2D0C8, 0x1E376C085141AB53, 0x2748774CDF8EEB99, 0x34B0BCB5E19B48A8,
   0x391C0CB3C5C95A63, 0x4ED8AA4AE3418ACB, 0x5B9CCA4F7763E373, 0x682E6FF3D6B2B8A3]
/-- Round constants 56 to 63 of SHA-512. -/
def shaK7 : List W64 :=
  [0x748F82EE5DEFB2FC, 0x78A5636F43172F60, 0x84C87814A1F0AB72, 0x8CC702081A6439EC,
   0x90BEFFFA23631E28, 0xA4506CEBDE82BDE9, 0xBEF9A3F7B2C67915, 0xC67178F2E372532B]
/-- Round constants 64 to 71 of SHA-512. -/
def shaK8 : List W64 :=
  [0xCA273ECEEA26619C, 0xD186B8C721C0C207, 0xEADA7DD6CDE0EB1E, 0xF57D4F7FEE6ED178,
   0x06F067AA72176FBA, 0x0A637DC5A2C898A6, 0x113F9804BEF90DAE, 0x1B710B35131C471B]
/-- Round constants 72 to 79 of SHA-512. -/
def shaK9 : List W64 :=
  [0x28DB77F523047D84, 0x32CAAB7B40C72493, 0x3C9EBE0A15C9BEBC, 0x431D67C49C100D4C,
   0x4CC5D4BECB3E42B6, 0x597F299CFC657E2A, 0x5FCB6FAB3AD6FAEC, 0x6C44198C4A475817]
/-- The 80 round constants. -/
def shaK : List W64 := shaK0 ++ shaK1 ++ shaK2 ++ shaK3 ++ shaK4 ++ shaK5 ++ shaK6 ++ shaK7 ++ shaK8 ++ shaK9

/-- The eight initial words. -/
def shaH : List W64 :=
  [0x6A09E667F3BCC908, 0xBB67AE8584CAA73B, 0x3C6EF372FE94F82B, 0xA54FF53A5F1D36F1,
   0x510E527FADE682D1, 0x9B05688C2B3E6C1F, 0x1F83D9ABFB41BD6B, 0x5BE0CD19137E2179]

/-- A big-endian doubleword. -/
def wordBE (l : List Byte) : W64 := l.foldl (fun v b => v * 256 + b.setWidth 64) 0

/-- The message schedule: words are kept newest first; each round adds one. -/
def shaSchedule : Nat → List W64 → List W64
  | 0, w => w
  | n + 1, w =>
    let a := w.getD 1 0
    let b := w.getD 14 0
    let s1 := a.rotateRight 19 ^^^ a.rotateRight 61 ^^^ (a >>> 6)
    let s0 := b.rotateRight 1 ^^^ b.rotateRight 8 ^^^ (b >>> 7)
    shaSchedule n ((s1 + w.getD 6 0 + s0 + w.getD 15 0) :: w)

/-- One round on the eight working words. -/
def shaRound (h : List W64) (kw : W64) : List W64 :=
  match h with
  | [a, b, c, d, e, f, g, x] =>
    let t1 := x + (e.rotateRight 14 ^^^ e.rotateRight 18 ^^^ e.rotateRight 41) + ((e &&& f) ^^^ (~~~e &&& g)) + kw
    let t2 := (a.rotateRight 28 ^^^ a.rotateRight 34 ^^^ a.rotateRight 39) + ((a &&& b) ^^^ (a &&& c) ^^^ (b &&& c))
    [t1 + t2, a, b, c, d + t1, e, f, g]
  | l => l

/-- One block of 128 bytes. -/
def shaBlock (h : List W64) (block : List Byte) : List W64 :=
  let w := (List.range 16).map (fun i => wordBE ((block.drop (8 * i)).take 8))
  let all := (shaSchedule 64 w.reverse).reverse
  let v := ((shaK.zip all).map (fun p => p.1 + p.2)).foldl shaRound h
  (h.zip v).map (fun p => p.1 + p.2)

/-- The blocks of a padded message. -/
def shaBlocks : Nat → List W64 → List Byte → List W64
  | 0, h, _ => h
  | n + 1, h, m => shaBlocks n (shaBlock h (m.take 128)) (m.drop 128)

/-- SHA-512 of a message, as its 64 bytes (10 R262; log 6). -/
def sha512 (m : List Byte) : List Byte :=
  let zeros := (239 - m.length % 128) % 128
  let len := (List.range 16).map (fun i => BitVec.ofNat 8 (8 * m.length / 256 ^ (15 - i)))
  let p := m ++ [0x80] ++ List.replicate zeros (0 : Byte) ++ len
  (shaBlocks (p.length / 128) shaH p).flatMap (fun w => (bytesOfNat 8 w.toNat).reverse)

/-- Why an image is refused (10 R264): the reasons of BOOTERR; none when the image is verified. -/
def imageFault (die : Nat) (i : BootImage) : Option Nat :=
  if i.wellFormed = false then some 4
  else if sha512 i.body ≠ bytesOfNat 64 i.digest.toNat then some 1
  else if Config.ecdsaVerifies die (bytesOfNat 64 i.digest.toNat) i.signature = false then some 2
  else if i.version < Config.minVersion die then some 3
  else none

namespace State

/-- A sensor sample of a die (10 R260): the lowest value is never a reading. -/
def sensorSample (s : State) (d : Nat) (temps : List W16) : State :=
  let x := s.die d
  s.setDie d { x with thermal := { x.thermal with sens := Vector.ofFn (fun i : Fin 16 =>
    match temps[i.val]? with
    | some v => if v = 0x8000 then x.thermal.sens[i] else v
    | none => x.thermal.sens[i]) } }

end State

/-- One step of thermal control (10 R261). -/
def Thermal.control (t : Thermal) (overPower : Bool) : Thermal :=
  let tmax := t.sens.toList.foldl (fun m v => max m v.toInt) (-32768)
  let alert := t.alert.toInt
  if t.crit.toInt ≤ tmax then { t with level := 7, upCount := 0, downCount := 0 }
  else if alert ≤ tmax ∨ overPower then
    let n := t.upCount + 1
    if t.up.toNat ≤ n then { t with level := if t.level = 7 then 7 else t.level + 1, upCount := 0, downCount := 0 }
    else { t with upCount := n, downCount := 0 }
  else if tmax ≤ alert - t.hyst.toInt then
    let n := t.downCount + 1
    if t.down.toNat ≤ n then { t with level := if t.level = 0 then 0 else t.level - 1, upCount := 0, downCount := 0 }
    else { t with upCount := 0, downCount := n }
  else { t with upCount := 0, downCount := 0 }

namespace State

/-- Clove's boot ROM verifies the next image of a die (10 R262): Clove's own first, then F's; a verified one extends the
measurement, a refused one is reported in the mailbox. -/
def bootVerify (s : State) (d stage : Nat) (i : BootImage) : State :=
  let x := s.die d
  if x.boot.failed ∨ stage ≠ x.boot.stage + 1 ∨ 2 < stage then s
  else match imageFault d i with
    | some reason =>
      s.setDie d { x with boot := { x.boot with failed := true },
                          mbox := { x.mbox with rsp := 3, bootErr := BitVec.ofNat 64 (reason * 256 + stage) } }
    | none =>
      let meas := sha512 (bytesOfNat 64 x.boot.meas.toNat ++ bytesOfNat 64 i.digest.toNat)
      let v : W32 := BitVec.ofNat 32 i.version
      s.setDie d { x with boot := { x.boot with
        stage, meas := BitVec.ofNat 512 (natOfBytes meas),
        cloveVersion := if stage = 1 then v else x.boot.cloveVersion, fVersion := if stage = 2 then v else x.boot.fVersion } }

/-- The report that a request with a nonce is answered with (10 R263, R264). -/
def attestReport (s : State) (d : Nat) : List Byte :=
  let x := s.die d
  let msg := bytesOfNat 2 1 ++ bytesOfNat 2 d ++ bytesOfNat 4 0 ++ bytesOfNat 8 (cap0 s.part).toNat ++ bytesOfNat 8 (cap1 s.part).toNat ++
    (List.range 16).map (Config.serial d) ++ bytesOfNat 4 x.boot.cloveVersion.toNat ++ bytesOfNat 4 x.boot.fVersion.toNat ++
    bytesOfNat 64 x.boot.meas.toNat ++ (List.range 64).map (fun i => x.mbox.nonce.getD i 0)
  msg ++ (List.range 132).map (Config.ecdsaSign d x.boot.nonceCount msg)

/-- The public identity key: an uncompressed point (10 R264). -/
def identityPoint (d : Nat) : List Byte := 0x04 :: (List.range 132).map (Config.identityKey d)

/-- Clove serves a request of the mailbox whose GO is set (10 R264): the answer, GO cleared, then RSP with DONE. After a boot
failure the status stays 3 (log 28). -/
def serveMbox (s : State) (d status : Nat) (answer : List Byte) : State :=
  let x := s.die d
  let m := x.mbox
  if bitsAt m.req 63 1 = 0 then s
  else
    let st := if x.boot.failed then 3 else status
    let a := if x.boot.failed then [] else answer
    s.setDie d { x with
      mbox := { m with req := m.req &&& 0x7FFFFFFFFFFFFFFF, answer := a ++ m.answer.drop a.length,
                       rsp := BitVec.ofNat 64 (2 ^ 63 + a.length * 2 ^ 16 + st) } }

end State

/-- SENSOR_SAMPLE (10 R260). -/
def execSensorSample (die : Nat) (temps : List W16) (s : State) : Host.Outcome State Fault Refusal :=
  .next (s.sensorSample die temps)
/-- THERMAL_STEP (10 R261). -/
def execThermalStep (die : Nat) (overPower : Bool) (s : State) : Host.Outcome State Fault Refusal :=
  .next (s.setDie die { s.die die with thermal := (s.die die).thermal.control overPower })
/-- BOOT_VERIFY (10 R262). -/
def execBootVerify (die stage : Nat) (image : BootImage) (s : State) : Host.Outcome State Fault Refusal :=
  .next (s.bootVerify die stage image)
/-- ATTEST (10 R263): a request with CMD 1. -/
def execAttest (die : Nat) (s : State) : Host.Outcome State Fault Refusal :=
  .next (if bitsAt (s.die die).mbox.req 0 16 = 1 then
      let t := s.serveMbox die 0 (s.attestReport die)
      if bitsAt (s.die die).mbox.req 63 1 = 1 ∧ (s.die die).boot.failed = false then
        t.setDie die { t.die die with boot := { (t.die die).boot with nonceCount := (t.die die).boot.nonceCount + 1 } }
      else t
    else s)
/-- READ_IDENTITY_KEY (10 R264): a request with CMD 2. -/
def execReadIdentityKey (die : Nat) (s : State) : Host.Outcome State Fault Refusal :=
  .next (if bitsAt (s.die die).mbox.req 0 16 = 2 then s.serveMbox die 0 (State.identityPoint die) else s)
/-- MBOX_BAD_COMMAND (10 R264): a request with a reserved CMD. -/
def execMboxBadCommand (die : Nat) (s : State) : Host.Outcome State Fault Refusal :=
  .next (if bitsAt (s.die die).mbox.req 0 16 = 1 ∨ bitsAt (s.die die).mbox.req 0 16 = 2 then s else s.serveMbox die 2 [])

end Sys2Proof.Machine
end

