-- ==== Sys2Proof/Machine/Queue.lean ====
section
/-! DEFINITION. Message queues and token FIFOs (02 R29, R33, R34; 05 R124; 19 R376, R377, R395). -/

namespace Sys2Proof.Machine

/-- The count of a token FIFO. -/
def tfCount (q : BitVec 3) : M Nat := do let s ← get; pure (s.ctx.q.tf.getD q.toNat 0)

/-- Sets the count of a token FIFO. -/
def setTf (q : BitVec 3) (n : Nat) : M Unit :=
  modify (fun s => s.modCtx (fun c => { c with q := { c.q with tf := c.q.tf.setIfInBounds q.toNat n } }))

/-- Notes what a TWAIT takes in its clk (02 R34). -/
def noteTaken (q : BitVec 3) (n : Nat) : M Unit :=
  modify (fun s => s.modCtx (fun c =>
    let v := if c.q.tfTaken.1 = s.cycle then c.q.tfTaken.2 else Vector.replicate 8 0
    { c with q := { c.q with tfTaken := (s.cycle, vecMod v q.toNat (· + n)) } }))

/-- QPUSH (02 R33, 19 R376): after every earlier access of its strand. -/
def execQpush (q : BitVec 3) (x : Reg) (s : State) : Host.Outcome State Fault Refusal :=
  run (do
    enter (.qpush q x)
    tilesDone
    let s ← get
    let l := s.ctx.q.mq.getD q.toNat []
    check (decide (l.length < 16)) (.block (.mq q.toNat))
    let e : MqEntry := { value := s.getX x, taint := s.tainted x, clk := s.cycle }
    modify (fun s => s.modCtx (fun c => { c with q := { c.q with mq := c.q.mq.setIfInBounds q.toNat (l ++ [e]) } }))) s

/-- QPOP (02 R33, 19 R376). -/
def execQpop (x : Reg) (q : BitVec 3) (peek : Bool) (s : State) : Host.Outcome State Fault Refusal :=
  run (do
    enter (.qpop x q peek)
    let e ← takeMq q.toNat peek
    wx x e.value e.taint) s

/-- What the TWAITs of the clk have taken from a token FIFO (02 R34). -/
def Queues.takenIn (q : Queues) (clk : W64) (n : Nat) : Nat := if q.tfTaken.1 = clk then q.tfTaken.2.getD n 0 else 0

/-- TPOST (02 R33, 19 R395): it is applied before the TWAITs of its clk (02 R34). -/
def execTpost (q : BitVec 3) (n : BitVec 8) (s : State) : Host.Outcome State Fault Refusal :=
  run (do
    enter (.tpost q n)
    tilesDone
    let c ← tfCount q
    check (decide (c + s.ctx.q.takenIn s.cycle q.toNat + n.toNat ≤ 255)) (.block (.tf q.toNat))
    setTf q (c + n.toNat)) s

/-- TWAIT (02 R33, 19 R395). -/
def execTwait (q : BitVec 3) (peek : Bool) (n : BitVec 8) (s : State) : Host.Outcome State Fault Refusal :=
  run (do
    enter (.twait q peek n)
    let c ← tfCount q
    check (decide (n.toNat ≤ c)) (.block (.tf q.toNat))
    if !peek then
      setTf q (c - n.toNat)
      noteTaken q n.toNat) s

/-- The occupancy of a queue (02 R33): reserved or filled lines, entries, or the count. -/
def Queues.occupancy (q : Queues) (n : QName) : Nat :=
  match n with
  | .lq i => (q.lq.getD i.toNat []).length
  | .sq i => (q.sq.getD i.toNat []).length
  | .mq i => (q.mq.getD i.toNat []).length
  | .tf i => q.tf.getD i.toNat 0

/-- QSTAT (02 R33, 19 R376): the occupancy after everything that the clk does to the queue; the end of the clk writes it, and
the strand issues nothing before. -/
def execQstat (x : Reg) (q : QName) (s : State) : Host.Outcome State Fault Refusal :=
  .next (s.modMe (fun p => { p with qstats := p.qstats ++ [(x, q)] }))

/-- The results of a strand's QSTATs, at the end of a clk (19 R376). -/
def State.writeQstats (s : State) (k : StrandId) : State :=
  let t := (s.ctx.str k).qstats.foldl (fun (t : State) p => t.setX p.1 (BitVec.ofNat 64 (s.ctx.q.occupancy p.2)))
    { s with strand := k, issue := Issue.idle }
  { (t.modMe (fun p => { p with qstats := [] })) with strand := s.strand, issue := s.issue }

end Sys2Proof.Machine
end

