-- ==== Sys2Proof/Machine/Graph.lean ====
section
/-! DEFINITION. The graph search engine: GS.CFG, GS.QRY, and the search of a query (07 R183 to R191; 18 R344, R345). -/

namespace Sys2Proof.Machine

/-- Bytes rounded up to a multiple of 64. -/
def up64 (n : Nat) : Nat := (n + 63) / 64 * 64

/-- Bytes of an element of a graph's format. -/
def GraphDesc.size (g : GraphDesc) : Nat := ((EType.ofCode g.vfmt).getD .i8).bits / 8

/-- Bytes of a vertex record (07 R184). -/
def GraphDesc.recsz (g : GraphDesc) : Nat := up64 (g.dim * g.size) + up64 (4 * g.deg)

/-- The table of a stack. -/
def GraphDesc.table (g : GraphDesc) (k : Nat) : VertexTable := g.tables.getD k { base := 0, count := 0 }

/-- The address of a vertex's record; none for an absent stack or an index at or beyond its count (07 R184, R189). -/
def GraphDesc.record (g : GraphDesc) (p : Part) (v : W32) : Option W64 :=
  let t := g.table (v.toNat / 2 ^ 27)
  let n := v.toNat % 2 ^ 27
  if v.toNat / 2 ^ 27 < p.dies ∧ n < t.count then some (t.base + BitVec.ofNat 64 (n * g.recsz)) else none

/-- A graph descriptor read from its words: a status of 1 or 2, or the descriptor (07 R184, R185). -/
def graphOf (p : Part) (ws : List W64) : Sum Nat GraphDesc :=
  let w0 := ws.getD 0 0
  let tables := (List.range 32).map (fun k => ({ base := ws.getD (2 + 2 * k) 0, count := (ws.getD (3 + 2 * k) 0).toNat } : VertexTable))
  let vfmt := bvAt 4 w0.toNat 0
  let deg := bitsAt w0 16 8
  let dim := bitsAt w0 32 16 + 1
  if w0 &&& 0x0000FFFF00FF010F ≠ w0 ∨ ws.getD 1 0 ≠ 0 ∨ 2048 < dim ∨ deg = 0 ∨ 64 < deg ∨
      ¬(vfmt = 0 ∨ vfmt = 6 ∨ vfmt = 7 ∨ vfmt = 9) ∨
      tables.any (fun t => decide (2 ^ 27 < t.count) || (t.count != 0 && (bitsAt t.base 55 9 != 0 || bitsAt t.base 0 6 != 0))) then .inl 1
  else if (tables.drop p.dies).any (fun t => t.count != 0) then .inl 2
  else .inr { dim, deg, inner := bitsAt w0 8 1 == 1, vfmt, tables }

/-- GS.CFG (07 R183 to R185, 18 R344). -/
def execGsCfg (d : Option Reg) (a b : Reg) (s : State) : Host.Outcome State Fault Refusal :=
  run (do
    enter (.gsCfg d a b)
    require s.part.hasNear .unitAbsent
    let va := s.getX a
    let vb := s.getX b
    check (va.toNat % 16 == 0) (.trap .misaligned va)
    let slot := vb.toNat % 4
    let busy (c : Cmd) : Bool := match c.body with | .gs _ g _ _ _ _ => g.toNat == slot | _ => false
    check (!s.ctx.eng.cmds.any busy) (.block .engine)
    let ws ← loadWords 66 va
    match graphOf s.part ws with
    | .inl n => wxo d (if vb.toNat < 4 then BitVec.ofNat 64 n else 1)
    | .inr g =>
      if vb.toNat < 4 then
        modify (fun s => s.modCtx (fun c => { c with eng := { c.eng with graphs := c.eng.graphs.setIfInBounds slot (some g) } }))
        wxo d 0
      else wxo d 1) s

/-- The footprint of a query (05 R140). -/
def gsFoot (g : GraphDesc) (a b : W64) : Foot :=
  { reads := rangeAt a (32 + g.dim * g.size) ::
      (g.tables.filter (fun t => t.count != 0)).map (fun t => rangeAt t.base (t.count * g.recsz)),
    writes := [rangeAt b 544] }

/-- Profiles of a query (07 R186). -/
def gsProfile (g : Option GraphDesc) (np : BitVec 8) : Bool :=
  match g with
  | none => np = 0 || np = 4 || np = 5
  | some g => if g.vfmt = 0 then np = 4 else np = 0 || np = 5

/-- GS.QRY (07 R186, 18 R345). -/
def execGsQry (d a b : Reg) (slot : BitVec 2) (d1 d2 : BitVec 6) (np : BitVec 8) (s : State) :
    Host.Outcome State Fault Refusal :=
  run (do
    enter (.gsQry d a b slot d1 d2 np)
    require s.part.hasNear .unitAbsent
    let g := s.ctx.eng.graphs.getD slot.toNat none
    require (gsProfile g np) .profileInvalid
    match g with
    | none => raise .shapeInvalid
    | some g =>
      let va := s.getX a
      let vb := s.getX b
      let foot := gsFoot g va vb
      checkFoot .gse d1 d2 foot
      slotForCmd
      let q ← pushCmd .gse d1 d2 foot (.gs g slot va vb np none)
      wx d (q.setWidth 64)) s

/-- Whether a key comes before another (07 R188): numbers by value, the NaN last, then by id. -/
def GKey.before (a b : GKey) : Bool :=
  let x := elemVal .fp32 a.dist.toNat
  let y := elemVal .fp32 b.dist.toNat
  if x.isNaN != y.isNaN then y.isNaN
  else if !x.isNaN && x.lt y then true
  else if !x.isNaN && y.lt x then false
  else decide (a.id.toNat < b.id.toNat)

/-- Inserts a key in its place. -/
def insertKey (a : GKey) : List GKey → List GKey
  | [] => [a]
  | b :: l => if b.before a then b :: insertKey a l else a :: b :: l

/-- A key enters the candidates and results of the search (07 R189). -/
def GsRun.enterKey (r : GsRun) (key : GKey) : GsRun :=
  if r.res.length < r.ef then { r with res := insertKey key r.res, cand := insertKey key r.cand }
  else match r.res.getLast? with
    | some m => if key.before m then { r with res := insertKey key r.res.dropLast, cand := insertKey key r.cand } else r
    | none => r

/-- The distance of a vertex (07 R188). -/
def graphDist (g : GraphDesc) (np : BitVec 8) (q w : List Byte) : W32 :=
  let t := (EType.ofCode g.vfmt).getD .i8
  let val (bs : List Byte) (k : Nat) : FVal := elemVal t (elemRaw t bs k)
  let int (bs : List Byte) (k : Nat) : Int := intOf t (elemRaw t bs k)
  let ks := List.range g.dim
  let acc : FVal :=
    if np = 4 then
      let s := ks.foldl (fun (n : Int) k =>
        if g.inner then n + int q k * int w k else n + (int q k - int w k) * (int q k - int w k)) 0
      (rn .fp32 (FVal.ofInt s)).1
    else
      let terms := ks.map (fun k =>
        if g.inner then (val q k).mul (val w k)
        else let e := (val q k).add .rne (val w k).neg; e.mul e)
      (pieces (chunkLen np.toNat) g.dim terms).foldl (fun a c => (rnAdd .fp32 a (chunkValue np.toNat c).1).1) FVal.zero
  let v := if g.inner then acc.neg else acc
  if v.isZero then 0 else BitVec.ofNat 32 (bitsOf .fp32 v)

/-- Reads a vertex and gives its distance (07 R188, R191). -/
def gsEval (r : Req) (p : Part) (g : GraphDesc) (np : BitVec 8) (q : List Byte) (v : W32) : E W32 := do
  match g.record p v with
  | none => pure 0
  | some va =>
    let w ← eReadClean r va (g.dim * g.size)
    pure (graphDist g np q w)

/-- Changes the running state of a query. -/
def State.setGs (s : State) (q : W32) (run : GsRun) : State :=
  s.modCmd q (fun m => match m.body with
    | .gs g slot a b np _ => { m with body := .gs g slot a b np (some run), stalled := none }
    | _ => m)

/-- A query with a distance that has returned. -/
def GsRun.answer (x : GsRun) (v d : W32) : GsRun :=
  { x with evaluated := x.evaluated + 1, visiting := x.visiting.map (fun (w : W32 × Option W32) => if w.1 = v then (v, some d) else w) }

/-- Evaluates awaited vertices; each distance stands as soon as it has returned, whatever the next one meets (07 R188, R190). -/
def gsDistances (q : W32) (r : Req) (p : Part) (g : GraphDesc) (np : BitVec 8) : List W32 → GsRun → E GsRun
  | [], x => pure x
  | v :: rest, x => do
    let d ← gsEval r p g np x.query v
    let y := x.answer v d
    modify (fun s => s.setGs q y)
    gsDistances q r p g np rest y

/-- What the neighbours of an expanded vertex give (07 R189): those to be evaluated with the visited set, or a status. -/
def gsNeighbours (p : Part) (g : GraphDesc) (cap : Nat) : List W32 → List W32 → List W32 → List W32 × List W32 × Option (BitVec 4)
  | [], visited, l => (visited, l, none)
  | u :: rest, visited, l =>
    if u = 0xFFFFFFFF then (visited, l, none)
    else if (g.record p u).isNone then (visited, [], some 4)
    else if visited.contains u then gsNeighbours p g cap rest visited l
    else if visited.length = cap then (visited, [], some 3)
    else gsNeighbours p g cap rest (visited ++ [u]) (l ++ [u])

/-- Reads the neighbours of the candidate that has been removed (07 R189). -/
def gsExpand (r : Req) (p : Part) (g : GraphDesc) (x : GsRun) (c : GKey) : E GsRun := do
  let va := (g.record p c.id).getD 0
  let bs ← eReadClean r (va + BitVec.ofNat 64 (up64 (g.dim * g.size))) (4 * g.deg)
  let ns := (List.range g.deg).map (fun k => (BitVec.ofNat 32 (natOfBytes ((bs.drop (4 * k)).take 4)) : W32))
  let (visited, l, st) := gsNeighbours p g (2 ^ x.vcap) ns x.visited []
  pure { x with current := none, visited, visiting := l.map (fun u => (u, none)), status := st }

/-- The next vertices to evaluate: an entry vertex, or the neighbours of the next candidate (07 R189), which counts as expanded before
its neighbours are read. -/
def gsNext (q : W32) (r : Req) (p : Part) (g : GraphDesc) (x : GsRun) : E GsRun := do
  let cap := 2 ^ x.vcap
  match x.entries[x.taken]? with
  | some e =>
    if (g.record p e).isNone then pure { x with status := some 4 }
    else if x.visited.contains e then pure { x with taken := x.taken + 1 }
    else if x.visited.length = cap then pure { x with status := some 3 }
    else pure { x with taken := x.taken + 1, visited := x.visited ++ [e], visiting := [(e, none)] }
  | none =>
    match x.current, x.cand with
    | some c, _ => gsExpand r p g x c
    | none, [] => pure { x with status := some 1 }
    | none, c :: rest =>
      if x.res.length == x.ef && x.res.getLast?.any (fun m => m.before c) then pure { x with cand := rest, status := some 1 }
      else if x.maxExp != 0 && decide (x.maxExp < x.expansions + 1) then
        pure { x with cand := rest, expansions := x.expansions + 1, status := some 2 }
      else
        let y := { x with cand := rest, expansions := x.expansions + 1, current := some c }
        modify (fun s => s.setGs q y)
        gsExpand r p g y c

/-- A step of the search: awaited distances of the home stack, and once all have returned their admission and the next
vertices (07 R189). -/
def gsAdvance (q : W32) (r : Req) (p : Part) (g : GraphDesc) (np : BitVec 8) (home : Nat) (x : GsRun) : E GsRun := do
  let local_ := (x.visiting.filter (fun v => v.2.isNone && v.1.toNat / 2 ^ 27 == home)).map (·.1)
  let y ← gsDistances q r p g np local_ x
  if y.visiting.any (fun v => v.2.isNone) then pure y
  else
    let z := { y.visiting.foldl (fun (z : GsRun) v => z.enterKey { dist := v.2.getD 0, id := v.1 }) y with visiting := [] }
    modify (fun s => s.setGs q z)
    gsNext q r p g z

/-- A query whose packet is not read yet. -/
def gsFresh (out : List (W64 × Nat × Target)) : GsRun :=
  { out, loaded := false, k := 0, ef := 0, vcap := 0, filt := false, maxExp := 0, entries := [], taken := 0, query := [],
    cand := [], res := [], visited := [], expansions := 0, evaluated := 0, visiting := [], current := none, status := none }

/-- Reads and checks the query packet (07 R187, R190; 18 R345). -/
def gsPacket (r : Req) (g : GraphDesc) (va : W64) (x : GsRun) : E GsRun := do
  let bad : GsRun := { x with loaded := true, status := some 6 }
  if va.toNat % 16 != 0 then pure bad
  else
    let bs ← eReadClean r va (32 + g.dim * g.size)
    let ws := wordsOf (bs.take 16)
    let w0 := ws.getD 0 0
    let w1 := ws.getD 1 0
    let k := bitsAt w0 0 7
    let ef := bitsAt w0 16 10
    let vcap := bitsAt w0 36 4
    if w0 &&& 0x000100F303FF007F != w0 || bitsAt w1 32 32 != 0 || k == 0 || decide (64 < k) || decide (ef < k) ||
        decide (512 < ef) || decide (vcap < 4) || decide (14 < vcap) then pure bad
    else pure { x with
      loaded := true, k, ef, vcap, filt := bitsAt w0 48 1 == 1, maxExp := bitsAt w1 0 32, query := bs.drop 32,
      entries := (List.range (bitsAt w0 32 2 + 1)).map (fun e => BitVec.ofNat 32 (natOfBytes ((bs.drop (16 + 4 * e)).take 4))) }

namespace State

/-- A query meets what ends it with status FAULT: what it has found so far stands (07 R190). -/
def gsFault (s : State) (q : W32) : State :=
  s.modCmd q (fun m => match m.body with
    | .gs g slot a b np (some x) =>
      { m with body := .gs g slot a b np (some { x with loaded := true, visiting := [], status := some 5 }), stalled := none }
    | _ => m)

/-- Ends a step of a query: a page fault stalls it; a violation is logged and ends it with status FAULT, as poison does, which is
recorded (07 R190; 09 R235; 10 R244, log 60). A link that is down ends it so too, and is raised on its strand as for every engine
command (09 R232, log 60). -/
def gsEnd (s : State) (c : Cmd) (r : EStateM.Result EngStop State GsRun) : State :=
  match r with
  | .ok y t => t.setGs c.seq y
  | .error .wait _ => s
  | .error (.pageFault va) t => t.stallAt c va
  | .error (.error cause k va) t =>
    (match cause with
     | .poison => t.enginePoison (s.reqOf c.strand 9) va
     | .linkDown => t.addCause c.seq .linkDown va
     | _ => t.logEngine c k va).gsFault c.seq

end State

/-- GS_QUERY_START (18 R345): the result buffer, then the packet. -/
def execGsQueryStart (seq : W32) (s : State) : Host.Outcome State Fault Refusal :=
  .next (match s.cmd seq with
    | some c =>
      (match c.body with
       | .gs g _ va vb _ run =>
         let r := s.reqOf c.strand 9
         if c.finished || run.any (·.loaded) || !s.mayStart c || s.edgeWaits seq c.foot then s
         else match run with
           | some x => s.gsEnd c (gsPacket r g va x s)
           | none =>
             if vb.toNat % 8 ≠ 0 then (s.addCause seq .misaligned vb).finish seq
             else match ePlan r true vb (sectorPieces 19 vb 544) s with
               | .ok out t =>
                 let x := gsFresh out
                 let u := (t.setGs seq x).modCmd seq (fun m => { m with started := true })
                 u.gsEnd c (gsPacket r g va x u)
               | .error .wait _ => s
               | .error (.pageFault a) t => t.stallAt c a
               | .error (.error cause k a) t =>
                 ((t.logEngine c k a).addCause seq cause (if cause = .accessViolation then vb else a)).finish seq
       | _ => s)
    | none => s)

/-- GS_EXPANSION (07 R189). -/
def execGsExpansion (seq : W32) (s : State) : Host.Outcome State Fault Refusal :=
  .next (match s.cmd seq with
    | some c =>
      (match c.body with
       | .gs g _ _ _ np (some x) =>
         if x.loaded && x.status.isNone then s.gsEnd c (gsAdvance seq (s.reqOf c.strand 9) s.part g np s.ctx.id.die x s) else s
       | _ => s)
    | none => s)

/-- GS_REMOTE_DISTANCE (07 R188): the first awaited vertex of another stack is evaluated by that stack's engine. -/
def execGsRemoteDistance (seq : W32) (s : State) : Host.Outcome State Fault Refusal :=
  .next (match s.cmd seq with
    | some c =>
      (match c.body with
       | .gs g _ _ _ np (some x) =>
         (match x.visiting.find? (fun v => v.2.isNone && v.1.toNat / 2 ^ 27 != s.ctx.id.die) with
          | some (v, _) => s.gsEnd c (gsDistances seq (s.reqOf c.strand 9) s.part g np [v] x s)
          | none => s)
       | _ => s)
    | none => s)

/-- The pieces of a buffer from an offset on, for n bytes. -/
def clipPieces (off n : Nat) : Nat → List (W64 × Nat × Target) → List (W64 × Nat × Target)
  | _, [] => []
  | pos, (va, k, t) :: rest =>
    let lo := Nat.max off pos
    let hi := Nat.min (off + n) (pos + k)
    (if lo < hi then [(va + BitVec.ofNat 64 (lo - pos), hi - lo, t.plus (lo - pos))] else []) ++ clipPieces off n (pos + k) rest

/-- The results of a query and its completion record (07 R190). -/
def gsBytes (seq : W32) (x : GsRun) (status : BitVec 4) : List Byte × List Byte :=
  let l := (if x.filt then x.res.filter (fun k => !x.entries.contains k.id) else x.res).take x.k
  (l.flatMap (fun k => bytesOfNat 8 (k.dist.toNat * 2 ^ 32 + k.id.toNat)),
   bytesOfNat 8 (seq.toNat * 2 ^ 32 + l.length * 256 + status.toNat) ++
   bytesOfNat 8 (x.evaluated % 2 ^ 32 * 2 ^ 32 + x.expansions % 2 ^ 32) ++ bytesOfNat 8 x.visited.length ++ bytesOfNat 8 0)

/-- GS_QUERY_FINISH (07 R190, R191): once the query is the oldest of its class, its results and last its record are written,
and it retires. What would write part of a poisoned sector of the buffer is left out, and the status stays (DESIGN CHOICE, log 93). -/
def execGsQueryFinish (seq : W32) (s : State) : Host.Outcome State Fault Refusal :=
  .next (match s.ctx.eng.cmds.find? (fun m => m.cls == .gse) with
    | some c =>
      if c.seq ≠ seq then s
      else (match c.body with
        | .gs _ _ _ _ _ (some x) =>
          (match x.status with
           | none => s
           | some st =>
             let (res, record) := gsBytes seq x st
             match (do
                 let _ ← eWritePieces (cleanBytes res) 0 (clipPieces 0 res.length 0 x.out)
                 eWritePieces (cleanBytes record) 0 (clipPieces 512 32 0 x.out)) s with
             | .ok _ t => t.finish seq
             | .error _ _ => s)
        | _ => s)
    | none => s)

end Sys2Proof.Machine
end

