-- ==== Sys2Proof/Machine/Control.lean ====
section
/-! DEFINITION. Control: branches and jumps (17 R317, R318; 18 R347), hardware loops (02 R38 to R42; 17 R320; 18 R352 to
R354), traps (09 R226, R227, R432; 19 R379, R396), WAIT, HALT and NOP (18 R346; 19 R369; 20 R425, R426), KNRD (08 R194). -/

namespace Sys2Proof.Machine

/-- A taken transfer to an address: it closes the levels it leaves (02 R39). -/
def State.transfer (s : State) (t : W64) : State := (s.modMe (fun p => p.leaveLoops t)).jumpTo t

/-- A conditional branch (17 R317). -/
def State.branchIf (s : State) (a b : Reg) (off : BitVec 15) (c : W64 → W64 → Bool) : State :=
  if c (s.getX a) (s.getX b) then s.transfer (s.issue.pc + 4 * sext64 off) else s

/-- BEQ (17 R317). -/
def execBeq (a b : Reg) (off : BitVec 15) (s : State) : Host.Outcome State Fault Refusal :=
  .next (s.branchIf a b off (fun x y => x == y))
/-- BNE (17 R317). -/
def execBne (a b : Reg) (off : BitVec 15) (s : State) : Host.Outcome State Fault Refusal :=
  .next (s.branchIf a b off (fun x y => x != y))
/-- BLT (17 R317). -/
def execBlt (a b : Reg) (off : BitVec 15) (s : State) : Host.Outcome State Fault Refusal :=
  .next (s.branchIf a b off (fun x y => x.slt y))
/-- BGE (17 R317). -/
def execBge (a b : Reg) (off : BitVec 15) (s : State) : Host.Outcome State Fault Refusal :=
  .next (s.branchIf a b off (fun x y => !x.slt y))
/-- BLTU (17 R317). -/
def execBltu (a b : Reg) (off : BitVec 15) (s : State) : Host.Outcome State Fault Refusal :=
  .next (s.branchIf a b off (fun x y => x.ult y))
/-- BGEU (17 R317). -/
def execBgeu (a b : Reg) (off : BitVec 15) (s : State) : Host.Outcome State Fault Refusal :=
  .next (s.branchIf a b off (fun x y => !x.ult y))

/-- JAL (18 R347): the link is untainted. -/
def execJal (d : Reg) (off : BitVec 20) (s : State) : Host.Outcome State Fault Refusal :=
  .next ((s.setX d (s.issue.pc + 4)).transfer (s.issue.pc + 4 * sext64 off))

/-- JALR (18 R347): the target is checked first; the link carries the taint of xa. -/
def execJalr (d a : Reg) (imm : BitVec 15) (s : State) : Host.Outcome State Fault Refusal :=
  run (do
    let t := s.getX a + sext64 imm
    check (fld t.toNat 0 2 == 0) (.trap .misaligned t)
    check (fld t.toNat 55 9 == 0) (.violation 11 t)
    modify (fun s => (s.setX d (s.issue.pc + 4) (s.tainted a)).transfer t)) s

/-- Opens a loop level, or skips its body when the count is 0 (18 R352). -/
def State.openLoop (s : State) (a : Reg) (e : BitVec 15) (rot : Bool) : State :=
  let n := (s.getX a).setWidth 32
  let one := (s.ctx.str s.strand).loop0.active
  let stop := s.issue.pc + 4 * zext64 e
  if n = 0 then
    (s.modMe (fun p => p.setLevel one { p.level one with active := false, cnt := 0, idx := 0 })).leaveAt one stop
  else
    let s1 := s.modMe (fun p => p.setLevel one
      { active := true, rotating := rot, cnt := n - 1, idx := 0, start := s.issue.pc + 4, stop })
    if rot then
      s1.modCtx (fun c => { c with comp := { c.comp with
        preds := Vector.ofFn (fun i : Fin 16 => if i.val < 8 then c.comp.preds[i] else if i.val = 8 then 0xFFFF else 0) } })
    else s1

/-- LOOP (18 R352). -/
def execLoop (a : Reg) (e : BitVec 15) (s : State) : Host.Outcome State Fault Refusal :=
  run (do enter (.loop a e); modify (fun s => s.openLoop a e false)) s

/-- LOOP with its rotate field set (02 R40, 18 R352). -/
def execLoopRot (a : Reg) (e : BitVec 15) (s : State) : Host.Outcome State Fault Refusal :=
  run (do enter (.loopRot a e); modify (fun s => s.openLoop a e true)) s

/-- The rotation of LOOP.R on the innermost level (02 R41): counters, stage predicates, TRB, and the branch. On level 0
it takes a pending knob commit (08 R193). -/
def State.rotate (s : State) (two : Bool) (e : BitVec 3) (one : Bool) : State :=
  let l := (s.ctx.str s.strand).level one
  let more := decide (l.cnt ≠ 0)
  let old := s.ctx.comp
  let preds : Vector W16 16 := Vector.ofFn (fun i : Fin 16 =>
    if i.val < 8 then old.preds[i] else if i.val = 8 then (if more then 0xFFFF else 0) else old.preds.getD (i.val - 1) 0)
  let go := (List.range (e.toNat + 1)).any (fun k => preds.getD (8 + k) 0 != 0)
  let s1 := s.modCtx (fun c => { c with comp := { c.comp with preds, trb := c.comp.trb - (if two then 2 else 1) } })
  let s2 := s1.modMe (fun p =>
    let q := p.setLevel one { l with idx := l.idx + 1, cnt := if more then l.cnt - 1 else 0, active := go }
    if one then q else q.takeKnobs s.ctx.tsu (s.strand == .K) s.cycle)
  if go then s2.jumpTo l.start else s2

/-- LOOP.R (02 R41, 18 R354). -/
def execLoopR (two : Bool) (e : BitVec 3) (s : State) : Host.Outcome State Fault Refusal :=
  run (do
    enter (.loopR two e)
    modify (fun s => match (s.ctx.str s.strand).innermost with
      | some one => s.rotate two e one
      | none => s)) s

/-- BRK.L (17 R320). -/
def execBrkL (s : State) : Host.Outcome State Fault Refusal :=
  run (do
    enter .brkL
    modify (fun s =>
      let p := s.ctx.str s.strand
      match p.innermost with
      | some one =>
        (s.modMe (fun p => p.setLevel one { p.level one with active := false })).leaveAt one (p.level one).stop
      | none => s)) s

/-- TRAP (09 R227, 19 R396): Software-Trap at the end of the bundle, whose other members take effect; the strand's resume
point is what follows the bundle. -/
def execTrap (imm : BitVec 10) (s : State) : Host.Outcome State Fault Refusal :=
  run (do modify State.endOfBundle; throw (.fault .softwareTrap (zext64 imm))) s

/-- RETT (09 R227, 19 R379). -/
def execRett (s : State) : Host.Outcome State Fault Refusal :=
  run (do enter .rett; modify (fun s => { s.returnTrap with issue := { s.issue with taken := true } })) s

/-- HALT's effect (02 R28, 18 R346): the strand issues nothing further, and the item ends with its last strand, unless a cause still
waits for the boundary of a halted strand (09 R433); a firmware program is suspended. -/
def State.haltStrand (s : State) : State :=
  let s1 := s.modMe (fun p => { p with halted := true })
  if s1.ctx.allHalted ∧ (s1.ctx.trap.active ∨ s1.ctx.eng.deferred = []) then s1.endItem else s1

/-- WAIT (20 R425). -/
def execWait (imm : BitVec 10) (s : State) : Host.Outcome State Fault Refusal :=
  .next (if imm ≠ 0 then s.modMe (fun p => { p with waitUntil := some (s.cycle.toNat + imm.toNat) })
    else if s.ctx.id.kind.isApp then s else s.haltStrand)

/-- A WAIT's last clk has passed (20 R425). -/
def execWaitExpiry (st : StrandId) (s : State) : Host.Outcome State Fault Refusal :=
  .next (s.modCtx (fun c => c.modStr st (fun p =>
    match p.waitUntil with
    | some t => if t ≤ s.cycle.toNat then { p with waitUntil := none } else p
    | none => p)))

/-- HALT (18 R346). -/
def execHalt (s : State) : Host.Outcome State Fault Refusal := .next s.haltStrand

/-- NOP (19 R369). -/
def execNop (s : State) : Host.Outcome State Fault Refusal := .next s

/-- The view that KNRD reads: in the clk of a commit that writes every view, another strand than the control strand still sees the view
before it (08 R209). -/
def State.knobView (s : State) : Vector W16 16 :=
  match s.me.wasView with
  | some (clk, v) => if s.strand ≠ .K ∧ clk = s.rdClk then v else s.me.view
  | none => s.me.view

/-- KNRD (08 R194): the strand's view, tainted; in F and on Clove zero, untainted. -/
def execKnrd (d : Reg) (k : BitVec 4) (s : State) : Host.Outcome State Fault Refusal :=
  .next (if s.ctx.id.kind.isApp then s.setX d (sext64 (s.knobView.getD k.toNat 0)) true else s.setX d 0)

/-- A word or a member that is no legal instruction (11 R269): Illegal-Instruction, or Illegal-Strand, at the word's own
address with the word in TRAPADDR. -/
def execIllegalInstruction (strandFault : Bool) (word : W32) (at_ : W64) (s : State) : Host.Outcome State Fault Refusal :=
  .next (s.trapAtIssue (if strandFault then Cause.illegalStrand.code else Cause.illegalInstruction.code) (word.setWidth 64) at_ 0)

/-- A cause that waits for a strand's bundle boundary is raised there (09 R433). -/
def execDeferredTrap (s : State) : Host.Outcome State Fault Refusal :=
  .next (match s.ctx.eng.deferred.find? (fun d => d.strand == s.strand) with
    | none => s
    | some d =>
      (s.modCtx (fun c => { c with eng := { c.eng with deferred := c.eng.deferred.erase d } })).takeTrap
        d.cause d.addr d.pc d.strand true)

end Sys2Proof.Machine
end

