-- ==== Sys2Proof/Machine/Window.lean ====
section
/-! DEFINITION. The scratch cache windows: PROBE, fills and write-backs, and the SLOT instructions (04 R93 to R100; 19 R374,
R375, R383). -/

namespace Sys2Proof.Machine

/-- How a transfer between a slot and its block ended. -/
inductive BlockEnd
  | done
  | pageFault (va : W64)
  | violation (kind : Nat) (va : W64)
  | linkDown (va : W64)
  deriving DecidableEq, Repr

/-- First scratchpad byte of a slot (04 R94). -/
def Cluster.slotBase (c : Cluster) (n : Nat) : Nat := c.base.toNat * 65536 + n * c.slotBytes

/-- A slot of a window. -/
def Cluster.slot (c : Cluster) (n : Nat) : Slot := Cells.get Slot.reset c.slots n
def Cluster.setSlot (c : Cluster) (n : Nat) (x : Slot) : Cluster := { c with slots := Cells.set Slot.reset c.slots n x }

namespace State

/-- The requester of a block transfer for a context of a core (04 R98). -/
def blockReq (core : Nat) (kind : CtxKind) (pasid : BitVec 20) : Req :=
  { core, die := core / 64, pasid, kind, party := 4 * (core % 64), tlb := 0 }

/-- Who probed a slot (04 R98): for an item that is gone, a context of the first core of the cluster stands in. -/
def proberOf (s : State) (k : Nat) (x : Slot) : Ident :=
  match (s.ctx :: s.others).find? (fun c => c.id.kind.isApp && c.id.task == x.prober.1 && c.id.item == x.prober.2) with
  | some c => c.id
  | none => { Ctx.vacant.id with die := k / 16, core := 4 * k % 64, kind := .A }

/-- The requester of a slot's fill or write-back: the context that probed (04 R98). -/
def proberReq (s : State) (k : Nat) (x : Slot) (pasid : BitVec 20) : Req :=
  let i := s.proberOf k x
  blockReq (coreNo i) i.kind pasid

/-- Where each of n sectors of a block goes, from an address on; traffic of a deterministic context takes its flow (09 R232). -/
def blockTargets (s : State) (i : Ident) (r : Req) (write : Bool) : Nat → W64 → Sum (List Target) BlockEnd × State
  | 0, _ => (.inl [], s)
  | n + 1, va =>
    match locate s r va write with
    | (.at_ t _, s1) =>
      (match s1.linkErrorFor i (i.det && i.kind.isApp) t with
       | some (.accessViolation, k) => (.inr (.violation k va), s1)
       | some _ => (.inr (.linkDown va), s1)
       | none =>
         match blockTargets s1 i r write n (va + 32) with
         | (.inl l, s2) => (.inl (t :: l), s2)
         | e => e)
    | (.pageFault, s1) => (.inr (.pageFault va), s1)
    | (.violation k, s1) => (.inr (.violation k va), s1)

/-- Writes a slot's bytes to a block (04 R99). -/
def blockOut (s : State) (i : Ident) (r : Req) (k n block : Nat) : BlockEnd × State :=
  let c := s.cluster k
  match s.blockTargets i r true (c.slotBytes / 32) (BitVec.ofNat 64 block) with
  | (.inl ts, s1) =>
    (.done, (ts.foldl (fun (p : Nat × State) t =>
      (p.1 + 32, p.2.writeT t (cellsGet c.mem p.1 32) (Marks.mem c.poison (p.1 / 32)))) (c.slotBase n, s1)).2)
  | (.inr e, s1) => (e, s1)

/-- Reads a block into a slot: the whole slot once all the data are there, poison marks with them (04 R98). -/
def blockIn (s : State) (i : Ident) (r : Req) (k n block : Nat) : BlockEnd × State :=
  let c := s.cluster k
  match s.blockTargets i r false (c.slotBytes / 32) (BitVec.ofNat 64 block) with
  | (.inl ts, s1) =>
    let got := ts.foldl (fun (p : List (List Byte × Bool) × State) t =>
      let (g, s') := p.2.readVia (some i.die) t 32
      (p.1 ++ [(g.data, g.poison)], s')) ([], s1)
    let c1 := got.2.cluster k
    let x := c1.slot n
    let c2 := (got.1.foldl (fun (p : Nat × Cluster) d => (p.1 + 32, p.2.put p.1 d.1 d.2)) (c.slotBase n, c1.setSlot n { x with valid := false })).2
    (.done, got.2.setCluster k (c2.setSlot n { x with pending := false, dirty := false }))
  | (.inr e, s1) => (e, s1)

/-- A fill that cannot be made: the slot is invalid and its bytes are poisoned (04 R98). -/
def fillFailed (s : State) (k n : Nat) : State :=
  let c := s.cluster k
  let marks := (List.range (c.slotBytes / 32)).foldl (fun m i => Marks.add m (c.slotBase n / 32 + i)) c.poison
  s.setCluster k ({ c with poison := marks }.setSlot n Slot.reset)

/-- A fill or write-back that does not end well: the probing context takes a page fault as a faulting load, and an
Access-Violation or a Link-Down precisely (04 R98, 09 R232); a context that is gone takes nothing. Where the spec is silent, for the
write-back of a dirty victim, the same is done: the slot is given up and poisoned, and the victim's data are lost (DESIGN CHOICE, log
74). -/
def blockStop (s : State) (k n : Nat) (x : Slot) (e : BlockEnd) : State :=
  let mine (c : Ctx) : Bool := c.id.kind.isApp && c.id.task == x.prober.1 && c.id.item == x.prober.2 && c.id.residency != .ended
  let there := mine s.ctx || s.others.any mine
  match e with
  | .done => s
  | .pageFault va =>
    if there then s.inCtx mine (fun t =>
      if t.ctx.fault.isSome then t else t.postFaultRec { strand := .L, addr := va, pc := x.pc, slot := some n })
    else s.fillFailed k n
  | .violation kind va =>
    let s1 := (s.logViolation (k / 16) kind va x.pasid (s.proberReq k x x.pasid).party).fillFailed k n
    s1.inCtx mine (fun t => t.takeTrap Cause.accessViolation.code va x.pc .L false)
  | .linkDown va => (s.fillFailed k n).inCtx mine (fun t => t.takeTrap Cause.linkDown.code va x.pc .L false)

/-- Whether a slot may be a victim (04 R97): no load strand holds it, it is not pending, no tile load still reads it. -/
def slotFree (s : State) (k n : Nat) : Bool :=
  let c := s.cluster k
  let lo := scratchBase.toNat + c.slotBase n
  let hi := lo + c.slotBytes
  let rows (l : TileLoad) : List W64 := match l.idx with
    | none => (List.range l.rows).map (fun m => l.addr + BitVec.ofNat 64 m * l.stride)
    | some is => is.map (fun i => l.addr + i * l.stride)
  let reads (l : TileLoad) : Bool := (rows l).any (fun a => decide (a.toNat < hi) && decide (lo < a.toNat + 64 * widthBytes l.width))
  !(c.slot n).pending &&
  !(s.ctx :: s.others).any (fun x => coreNo x.id / 4 == k && x.id.residency != .ended && (x.holds.contains n || x.loads.any reads))

/-- The clock hand goes round (04 R97): the victim and the cluster after the search. -/
def clockTurn (free : Nat → Bool) : Nat → Cluster → Option (Nat × Cluster)
  | 0, _ => none
  | steps + 1, c =>
    let n := c.hand
    let c1 := { c with hand := if n + 1 < c.count.toNat then n + 1 else 0 }
    if !free n then clockTurn free steps c1
    else if (c.slot n).ref then clockTurn free steps (c1.setSlot n { c.slot n with ref := false })
    else some (n, c1)

/-- The load strand holds the slot: the last four slots stay held, and the item stays in its cluster (04 R97). -/
def holdSlot (s : State) (n : Nat) : State :=
  s.modCtx (fun c => let l := c.holds ++ [n]; { c with holds := l.drop (l.length - 4), window := some s.hereCluster })

end State

/-- Whether a PROBE has to wait at the tag table (04 R98, 19 R375): a SLOT.SET of the cluster has begun to reconfigure it, or
a PROBE of a higher core, or a SLOT.SET, has been applied in this clk. -/
def State.tableTaken (s : State) : Bool :=
  let c := s.hereCluster
  (s.ctx :: s.others).any (fun x => State.coreNo x.id / 4 == c && x.k.blocked == some .slotSet) ||
  ((s.cluster c).tagAt.1 == s.cycle && decide (s.here < (s.cluster c).tagAt.2))

/-- PROBE (04 R96, R97, R98, R100; 19 R374, R375). The KIND that a scratchpad address is logged under is 12, the one for a
window that is absent or another's: 09 R235 names none for it (DESIGN CHOICE, log 73). -/
def execProbe (d a : Reg) (off : BitVec 15) (s : State) : Host.Outcome State Fault Refusal :=
  run (do
    enter (.probe d a off)
    let k := s.hereCluster
    let c := s.cluster k
    let va := s.getX a
    let pasid := s.ctx.id.pasid
    check (bitsAt va 55 9 == 0) (.violation 11 va)
    check (!s.tableTaken) (.block .victim)
    check (!isScratch va && c.count != 0 && c.owner == pasid) (.violation 12 va)
    let c := { c with tagAt := (s.cycle, s.here) }
    let block := va.toNat / c.slotBytes * c.slotBytes
    match (List.range c.count.toNat).find? (fun n => (c.slot n).valid && (c.slot n).pasid == pasid && (c.slot n).block == block) with
    | some n =>
      modify (fun s => ((s.setCluster k (c.setSlot n { c.slot n with ref := true })).holdSlot n).modCtx (fun x =>
        { x with csr := { x.csr with hit := x.csr.hit + 1 } }))
      wx d (BitVec.ofNat 64 n)
    | none =>
      match State.clockTurn (s.slotFree k) (2 * c.count.toNat) c with
      | none => throw (.block .victim)
      | some (n, c1) =>
        let old := c1.slot n
        let x : Slot := { valid := true, pasid, block, pending := true, ref := true, dirty := false,
                          victim := if old.valid && old.dirty then some (old.pasid, old.block) else none,
                          prober := (s.ctx.id.task, s.ctx.id.item), pc := s.issue.pc }
        modify (fun s => ((s.setCluster k (c1.setSlot n x)).holdSlot n).modCtx (fun x =>
          { x with csr := { x.csr with miss := x.csr.miss + 1 } }))
        wx d (BitVec.ofNat 64 (n + 2 ^ 63))
        modify (fun s => s.transfer (s.issue.pc + 4 * sext64 off))) s

/-- SCW_WRITEBACK (04 R97 to R99): the dirty victim of a slot goes to its block before the fill. -/
def execScwWriteback (cluster slot : Nat) (s : State) : Host.Outcome State Fault Refusal :=
  .next (
    let x := (s.cluster cluster).slot slot
    match x.victim with
    | none => s
    | some (pasid, block) =>
      match s.blockOut (s.proberOf cluster x) (s.proberReq cluster x pasid) cluster slot block with
      | (.done, t) => t.setCluster cluster ((t.cluster cluster).setSlot slot { x with victim := none })
      | (e, t) => t.blockStop cluster slot x e)

/-- SCW_FILL (04 R98). -/
def execScwFill (cluster slot : Nat) (s : State) : Host.Outcome State Fault Refusal :=
  .next (
    let x := (s.cluster cluster).slot slot
    if x.pending = false ∨ x.victim.isSome then s
    else
      match s.blockIn (s.proberOf cluster x) (s.proberReq cluster x x.pasid) cluster slot x.block with
      | (.done, t) => t
      | (e, t) => t.blockStop cluster slot x e)

/-- Writes a valid dirty slot back as stores of the issuing context and clears its dirty bit (04 R99, 19 R383). -/
def cleanSlot (k n : Nat) : M Unit := do
  let s ← get
  let x := (s.cluster k).slot n
  if x.valid && x.dirty then
    match s.blockOut s.ctx.id { (s.reqOf .K 0) with pasid := x.pasid } k n x.block with
    | (.done, t) => set (t.setCluster k ((t.cluster k).setSlot n { x with dirty := false }))
    | (.pageFault va, t) => set t; throw (.pageFault va)
    | (.violation kind va, t) => set t; violate kind va
    | (.linkDown va, t) => set t; throw (.fault .linkDown va)

/-- Does something for each slot of a list. -/
def eachSlot (f : Nat → M Unit) : List Nat → M Unit
  | [] => pure ()
  | n :: rest => do f n; eachSlot f rest

/-- Notes how far a SLOT.INV or SLOT.WB has come; none when it does not run. -/
def noteSlots (r : Option SlotRun) : M Unit := modify (fun s => s.modCtx (fun c => { c with slotRun := r }))

/-- Drops the holds of a cluster's load strands on some slots (04 R97, R99). -/
def dropHolds (k : Nat) (gone : Nat → Bool) : M Unit :=
  let free (x : Ctx) : Ctx := if State.coreNo x.id / 4 = k then { x with holds := x.holds.filter (fun n => !gone n) } else x
  modify (fun s => { s with ctx := free s.ctx, others := s.others.map free })

/-- SLOT.INV slot by slot (04 R99): each is counted when it is reached, if it holds a block, and cleared once no fill of it is
pending. It answers the count. -/
def invSlots (k : Nat) : List Nat → Nat → Bool → M Nat
  | [], count, _ => pure count
  | n :: rest, count, seen => do
    let s ← get
    let x := (s.cluster k).slot n
    let count := if !seen && x.valid then count + 1 else count
    if x.pending then
      noteSlots (some { todo := n :: rest, count, seen := true })
      throw (.wait .fill)
    modify (fun s => s.setCluster k ((s.cluster k).setSlot n Slot.reset))
    dropHolds k (fun m => m == n)
    invSlots k rest count false

/-- SLOT.WB slot by slot (04 R99): each waits for its pending fill and is written back if it is dirty. It answers how many
were. -/
def wbSlots (k : Nat) : List Nat → Nat → M Nat
  | [], count => pure count
  | n :: rest, count => do
    let s ← get
    let x := (s.cluster k).slot n
    if x.pending then
      noteSlots (some { todo := n :: rest, count, seen := false })
      throw (.wait .fill)
    cleanSlot k n
    wbSlots k rest (if x.valid && x.dirty then count + 1 else count)

/-- The slots an instruction affects (04 R99): the one holding a block, or every slot; none where the issuing process does
not own the window. -/
def affected (s : State) (a : Reg) (all : Bool) : List Nat :=
  let c := s.cluster s.hereCluster
  let pasid := s.ctx.id.pasid
  if c.count = 0 ∨ c.owner ≠ pasid then []
  else
    let block := (s.getX a).toNat / c.slotBytes * c.slotBytes
    (List.range c.count.toNat).filter (fun n => all || ((c.slot n).valid && (c.slot n).pasid == pasid && (c.slot n).block == block))

/-- SLOT.SET (04 R94, 19 R375, R383): it begins when it reaches the window, and waits there for the pending fills. -/
def execSlotSet (d : Option Reg) (a : Reg) (s : State) : Host.Outcome State Fault Refusal :=
  run (do
    enter (.slotSet d a)
    let k := s.hereCluster
    let c := s.cluster k
    let v := s.getX a
    let count := bitsAt v 0 11
    modify (fun s => s.modCtx (fun x => { x with window := some k }))
    if v &&& 0x3F37FF ≠ v ∨ (0 < count ∧ count < 32) ∨ 1024 < count ∨
        2 ^ 22 < bitsAt v 16 6 * 65536 + count * (1024 * 2 ^ bitsAt v 12 2) then wxo d 1
    else if c.count ≠ 0 ∧ c.owner ≠ s.ctx.id.pasid then wxo d 2
    else
      if c.count ≠ 0 then
        check (!(List.range c.count.toNat).any (fun n => (c.slot n).pending)) (.wait .slotSet)
        eachSlot (cleanSlot k) (List.range c.count.toNat)
      let pasid := s.ctx.id.pasid
      modify (fun s => s.setCluster k { s.cluster k with
        slots := [], hand := 0, base := BitVec.ofNat 6 (bitsAt v 16 6), size := BitVec.ofNat 2 (bitsAt v 12 2),
        count := BitVec.ofNat 11 count, owner := if count = 0 then 0 else pasid, tagAt := (s.cycle, s.part.cores) })
      dropHolds k (fun _ => true)
      wxo d 0) s

/-- Where a SLOT.INV or SLOT.WB goes on: where it waited, or at the first slot it affects. -/
def slotsTodo (s : State) (a : Reg) (all : Bool) : SlotRun := s.ctx.slotRun.getD { todo := affected s a all, count := 0, seen := false }

/-- SLOT.INV (04 R99, 19 R383). -/
def execSlotInv (d : Option Reg) (a : Reg) (all : Bool) (s : State) : Host.Outcome State Fault Refusal :=
  run (do
    enter (.slotInv d a all)
    let r := slotsTodo s a all
    noteSlots none
    let n ← invSlots s.hereCluster r.todo r.count r.seen
    wxo d (BitVec.ofNat 64 n)) s

/-- SLOT.WB (04 R99, 19 R383). -/
def execSlotWb (d : Option Reg) (a : Reg) (all : Bool) (s : State) : Host.Outcome State Fault Refusal :=
  run (do
    enter (.slotWb d a all)
    let r := slotsTodo s a all
    noteSlots none
    let n ← wbSlots s.hereCluster r.todo r.count
    wxo d (BitVec.ofNat 64 n)) s

end Sys2Proof.Machine
end

