-- ==== Sys2Proof/Machine/Faults.lean ====
section
/-! DEFINITION. Page faults and their answers, engine faults that cannot be resolved, Queue-Deadlock and Watchdog (02 R46,
R53, R54; 04 R98; 09 R217, R228, R434). -/

namespace Sys2Proof.Machine

namespace State

/-- A bank of a core becomes the issuing one: the bank that issued stops, its WAITs complete and its lease lapses (02 R46,
06 R152, 20 R426); F may hold the switch off (02 R57). -/
def takeBank (s : State) (n : Nat) (k : CtxKind) : State :=
  let old := (s.core n).issuing
  let stops (c : Ctx) : Bool := coreNo c.id == n && c.id.kind == old && c.id.residency == .resident
  (if old = k ∨ s.coreHeld n then s else s.inCtx stops completeWaits).issueFrom n k

/-- Firmware answers the fault of the acting context (09 R228): the bank issues again. A fault that it cannot resolve is
delivered: as Page-Fault on its strand, or for the fill of a slot as Access-Violation with the slot given up (04 R98). -/
def answerFault (s : State) (resolved : Bool) : State :=
  match s.ctx.fault with
  | none => s
  | some f =>
    let s1 := s.modCtx (fun c => { c with fault := none })
    let s2 := if s1.ctx.id.kind.isApp ∧ s1.ctx.id.residency = .resident then s1.takeBank s1.here s1.ctx.id.kind else s1
    if resolved then s2
    else match f.slot with
      | some n => (s2.fillFailed s2.hereCluster n).takeTrap Cause.accessViolation.code f.addr f.pc .L false
      | none =>
        let kill (c : Ctx) : Ctx := match (c.str f.strand).held with | some h => c.killMark f.strand h.start | none => c
        (s2.modCtx kill).takeTrap Cause.pageFault.code f.addr f.pc f.strand false

/-- Firmware cannot resolve the fault that stalls an engine command (09 R434): the command ends, and Page-Fault is raised on
its strand; a graph query that has found its result buffer ends with status FAULT and raises nothing. -/
def engineFault (s : State) (q : W32) : State :=
  match s.cmd q with
  | none => s
  | some c =>
    match c.stalled with
    | none => s
    | some va =>
      match c.cls, c.body with
      | .mxa, _ => (s.modCmd q (fun m => { m with stalled := none })).mxFail c .pageFault 0 va
      | .gse, .gs _ _ _ _ _ (some x) => if x.status.isNone then s.gsFault q else s
      | _, _ => (s.addCause q .pageFault va).finish q

/-- Clk of total blockage before Queue-Deadlock (02 R54): 0 when detection is off. -/
def deadlockLimit (c : Core) : Nat := if c.qdlimit = 0 then 0 else Nat.max 1024 c.qdlimit.toNat

/-- Whether the acting context has a pending external event (02 R53): an access or tile load outstanding, a command not
retired, a lease request, a barrier generation awaited, a WAIT that runs, or a probe, fill or maintenance operation
awaited. -/
def pendingEvent (s : State) : Bool :=
  let c := s.ctx
  let waits (p : Strand) : Bool :=
    p.barWait.isSome || (match p.waitUntil with | some t => decide (s.cycle.toNat < t) | none => false) ||
    (match p.blocked with
     | some .lease | some .barrier | some .victim | some .fill | some .waiting | some .slotSet | some .upkeep | some .request => true
     | _ => false)
  !c.loads.isEmpty || !c.eng.posted.isEmpty || !c.eng.cmds.isEmpty || waits c.l || waits c.c || waits c.s || waits c.k

/-- Whether all four strands of the acting context are halted or blocked (02 R53): those that a trap stopped count as
halted while its handler runs. -/
def allStuck (s : State) : Bool :=
  let stuck (p : Strand) : Bool :=
    !p.issued && (p.halted || p.blocked.isSome || p.barWait.isSome || p.held.isSome || p.waitUntil.isSome)
  let c := s.ctx
  stuck c.k && (c.trap.active || (stuck c.l && stuck c.c && stuck c.s))

/-- A doubleword that the manual leaves open: two values of the free counter (log 5). -/
def openWord (s : State) : W64 × State :=
  (Config.freeWord s.free ++ Config.freeWord (s.free + 1), { s with free := s.free + 2 })

/-- The head of a strand: the member at which its bundle is held, or its next bundle. -/
def headOf (p : Strand) : W64 := ((p.held.bind (·.rest.head?)).map (·.1)).getD p.pc

/-- A cause of the control strand that names no address and no word: TRAPPC is its head, TRAPADDR is left open (log 26). -/
def headTrap (s : State) (c : Cause) : State :=
  let (a, t) := s.openWord
  t.takeTrap c.code a (headOf s.ctx.k) .K false

/-- Queue-Deadlock once the counter has reached LIMIT (02 R53). -/
def deadlockTrap (s : State) : State :=
  let n := deadlockLimit s.hereCore
  if n ≠ 0 ∧ n ≤ s.ctx.deadlock ∧ s.ctx.id.residency = .resident then
    (s.modCtx (fun c => { c with deadlock := 0 })).headTrap .queueDeadlock
  else s

/-- Watchdog once the count of issuing clk has reached the limit (09 R217). -/
def watchdogTrap (s : State) : State :=
  if s.ctx.wdogLimit ≠ 0 ∧ s.ctx.wdogLimit ≤ s.ctx.wdog ∧ s.ctx.id.residency = .resident then
    s.headTrap .watchdog
  else s

end State

/-- PAGE_FAULT (09 R228): a strand's access has met a page fault. -/
def execPageFault (st : StrandId) (addr : W64) (_write : Bool) (s : State) : Host.Outcome State Fault Refusal :=
  .next (s.postFaultRec { strand := st, addr, pc := (s.ctx.str st).pc, slot := none })
/-- PAGE_FAULT_ANSWERED (09 R228). -/
def execPageFaultAnswered (resolved : Bool) (s : State) : Host.Outcome State Fault Refusal := .next (s.answerFault resolved)
/-- ENGINE_FAULT_DELIVERY (09 R434). -/
def execEngineFaultDelivery (seq : W32) (s : State) : Host.Outcome State Fault Refusal := .next (s.engineFault seq)
/-- QUEUE_DEADLOCK (02 R53). -/
def execQueueDeadlock (s : State) : Host.Outcome State Fault Refusal := .next s.deadlockTrap
/-- WATCHDOG (09 R217). -/
def execWatchdog (s : State) : Host.Outcome State Fault Refusal := .next s.watchdogTrap

end Sys2Proof.Machine
end

