-- ==== Sys2Proof/Machine/Tasks.lean ====
section
/-! DEFINITION. The dispatcher, pre-emption and the save area, the end of a task, and the core dump (02 R46, R47; 04 R97; 09
R214, R216 to R222, R230, R231; 10 R255; 20 R426, R428). -/

namespace Sys2Proof.Machine

/-- The strand of a number. -/
def strandOf (n : Nat) : StrandId := match n % 4 with | 0 => .L | 1 => .C | 2 => .S | _ => .K

/-- A binding byte of a launch record (09 R216). -/
def bindingOf (b : Nat) : Option Binding :=
  if b / 128 = 1 then some { producer := strandOf (b / 4), consumer := strandOf b } else none

namespace State

/-- Every context. -/
def allCtxs (s : State) : List Ctx := s.ctx :: s.others

/-- Changes every context. -/
def mapCtxs (s : State) (f : Ctx → Ctx) : State := { s with ctx := f s.ctx, others := s.others.map f }

/-- Items of a full gang of a task, and how many gangs it has (02 R47). -/
def gangSize (s : State) (t : Task) : Nat := levelCores s.part (lrecLevel t.lrec)
def gangCount (s : State) (t : Task) : Nat := (lrecCount t.lrec + s.gangSize t - 1) / s.gangSize t

end State

/-- A context as its item becomes resident (02 R28, 09 R217): the entries, the argument, the bindings and tokens, the trap
vector and the watchdog limit of its launch record. -/
def startCtx (t : Task) (gang item now core : Nat) (kind : CtxKind) : Ctx :=
  let w := t.lrec
  let c := Ctx.fresh
    { kind, die := core / 64, core := core % 64, pasid := t.pasid, item := BitVec.ofNat 32 item, pers := lrecPers w,
      det := lrecDet w, task := t.id, gang, residency := .resident, since := now, area := 0 }
  let at_ (pc : W64) : Strand := { Strand.reset with pc, x := Strand.reset.x.setIfInBounds 1 w[8] }
  let byte (v : W64) (q : Nat) : Nat := bitsAt v (8 * q) 8
  let q : Queues := { Queues.reset with
    mqMap := Vector.ofFn (fun i : Fin 8 => bindingOf (byte w[5] i.val)),
    tfMap := Vector.ofFn (fun i : Fin 8 => bindingOf (byte w[6] i.val)),
    tf := Vector.ofFn (fun i : Fin 8 => byte w[7] i.val) }
  { c with l := at_ w[0], c := at_ w[1], s := at_ w[2], k := at_ w[3], q, trap := { c.trap with vec := w[11] },
           wdogLimit := bitsAt w[10] 0 32 * 65536 }

/-- Whether a context has asked for the matrix array's lease (06 R152): its compute strand is blocked on it. -/
def Ctx.leaseAsked (c : Ctx) : Bool := c.c.blocked == some .lease

/-- A gang that waits for a place (09 R220): new, or saved with its items. -/
structure Cand where
  task : Task
  gang : Nat
  items : Option (List Ctx)
  eff : Nat
  deriving DecidableEq, Repr

/-- The key of a candidate's queue; a task of the launch queue has queue number 4,096 (09 R220). -/
def Task.key (t : Task) : Nat × Nat := (t.pasid.toNat, (t.queue.map (·.1)).getD 4096)

/-- Keys in ascending order of PASID and queue. -/
def keyLe (a b : Nat × Nat) : Bool := decide (a.1 < b.1) || (a.1 == b.1 && decide (a.2 ≤ b.2))

/-- Whether a candidate comes before another (09 R220 steps 1 and 2): the higher effective priority; among equals the next
key after the last served, wrapping; then the earlier task and gang. -/
def Cand.before (served : Nat × Nat) (a b : Cand) : Bool :=
  let wrapped (c : Cand) : Bool := keyLe c.task.key served
  if a.eff ≠ b.eff then decide (b.eff < a.eff)
  else if wrapped a ≠ wrapped b then wrapped b
  else if a.task.key ≠ b.task.key then keyLe a.task.key b.task.key
  else decide (a.task.id < b.task.id) || (a.task.id == b.task.id && decide (a.gang ≤ b.gang))

/-- Puts a candidate in its place. -/
def Cand.insert (served : Nat × Nat) (c : Cand) : List Cand → List Cand
  | [] => [c]
  | d :: rest => if c.before served d then c :: d :: rest else d :: Cand.insert served c rest

/-- Finds banks for items, each on a core of its own: an item that is bound to a cluster has it (04 R97). -/
def assign : List (Nat × CtxKind) → List (Nat × Option Nat) → Option (List (Nat × Nat × CtxKind))
  | _, [] => some []
  | free, (i, want) :: rest =>
    match free.find? (fun f => want.all (fun k => f.1 / 4 == k)) with
    | none => none
    | some f => (assign (free.erase f) rest).map (fun l => (i, f) :: l)

namespace State

/-- Effective priority of a task's gang that has waited since a µs (09 R220, R221). -/
def effective (s : State) (d : Nat) (t : Task) (since : Nat) : Nat :=
  let a := (s.core (64 * d)).ageq.toNat
  if a = 0 then lrecPri t.lrec else Nat.min 255 (lrecPri t.lrec + (s.us - since) / a)

/-- Whether a task is the current one of its queue, or is in the launch queue of a die, and may use the die (09 R214,
R220). -/
def isCurrent (s : State) (d : Nat) (t : Task) : Bool :=
  match t.queue with
  | none => t.die == d
  | some (q, _) =>
    (lrecDies s.part t.lrec).contains d &&
    ((s.tasks.find? (fun u => !u.done && u.pasid == t.pasid && (u.queue.map (·.1)) == some q)).map (·.id)) == some t.id

/-- The items of a gang that have not ended. -/
def gangItems (s : State) (task gang : Nat) : List Ctx :=
  s.allCtxs.filter (fun c => c.id.kind.isApp && c.id.task == task && c.id.gang == gang && c.id.residency != .ended)

/-- The candidates of a die, in the order they are taken (09 R220). -/
def candidates (s : State) (d : Nat) : List Cand :=
  let live := s.tasks.filter (fun t => !t.done && !t.dead && s.isCurrent d t)
  let fresh := (live.filter (fun t => decide (t.placed < s.gangCount t))).map (fun t =>
    ({ task := t, gang := t.placed, items := none, eff := s.effective d t t.since } : Cand))
  let saved := live.flatMap (fun t => (List.range t.placed).filterMap (fun g =>
    let items := s.gangItems t.id g
    if !items.isEmpty && items.all (fun c => c.id.residency == .saved) then
      some ({ task := t, gang := g, items := some items,
              eff := s.effective d t (items.foldl (fun m c => Nat.max m c.id.since) 0) } : Cand)
    else none))
  (fresh ++ saved).foldl (fun l c => Cand.insert (s.die d).served c l) []

/-- The instances of a task's level within its dies, as their cores in ascending order (02 R47, 09 R220). -/
def instances (s : State) (t : Task) : List (List Nat) :=
  let dies := lrecDies s.part t.lrec
  let cores (d n lo : Nat) : List Nat := (List.range n).map (fun i => 64 * d + lo + i)
  match lrecLevel t.lrec with
  | 0 => dies.flatMap (fun d => (List.range 16).map (fun c => cores d 4 (4 * c)))
  | 1 => dies.map (fun d => cores d 64 0)
  | _ => [dies.flatMap (fun d => cores d 64 0)]

/-- Whether a bank of a core holds an item, or the deque of one that ended in a gang that still runs (20 R428). -/
def bankHeld (s : State) (task gang n : Nat) (k : CtxKind) : Bool :=
  s.allCtxs.any (fun c => coreNo c.id == n && c.id.kind == k &&
    (match c.id.residency with
     | .resident | .stopping => true
     | .saved => false
     | .ended => !c.deque.isEmpty && !(c.id.task == task && c.id.gang == gang) && !(s.gangItems c.id.task c.id.gang).isEmpty))

/-- A free bank of a core, A before B. -/
def freeBank (s : State) (task gang n : Nat) : Option CtxKind :=
  if !s.bankHeld task gang n .A then some .A else if !s.bankHeld task gang n .B then some .B else none

/-- How many items a candidate places. -/
def candNeed (s : State) (c : Cand) : Nat :=
  match c.items with
  | some l => l.length
  | none => Nat.min (s.gangSize c.task) (lrecCount c.task.lrec - c.gang * s.gangSize c.task)

/-- A candidate's items, those bound to a cluster first (04 R97). -/
def candWants (s : State) (c : Cand) : List (Nat × Option Nat) :=
  let wants : List (Nat × Option Nat) := match c.items with
    | none => (List.range (s.candNeed c)).map (fun i => (i, none))
    | some l => (List.range l.length).map (fun i => (i, (l[i]?).bind (·.window)))
  wants.filter (·.2.isSome) ++ wants.filter (·.2.isNone)

/-- Places of a candidate's items in an instance, if it has room. -/
def placesIn (s : State) (c : Cand) (cores : List Nat) : Option (List (Nat × Nat × CtxKind)) :=
  assign (cores.filterMap (fun n => (s.freeBank c.task.id c.gang n).map (fun k => (n, k)))) (s.candWants c)

/-- The class-1 commands of an item that is resumed on a bank count as those of a lease granted now: the array takes them after those of
earlier grants, in their order (06 R151; DEDUCED, log 58). -/
def renewLease (s : State) (n : Nat) (k : CtxKind) : State :=
  let c := s.cluster (n / 4)
  let lies (x : Ctx) : Bool := coreNo x.id == n && x.id.kind == k && x.id.residency == .resident && x.eng.cmds.any (·.cls == .mxa)
  let f (x : Ctx) : Ctx := if lies x then
    { x with eng := { x.eng with cmds := x.eng.cmds.map (fun m => if m.cls == .mxa then { m with lease := c.grants + 1 } else m) } } else x
  if s.allCtxs.any lies then (s.mapCtxs f).setCluster (n / 4) { c with grants := c.grants + 1 } else s

/-- Makes a candidate's items resident at their places; every bank that receives one issues (02 R46, R47; 09 R217). -/
def settleGang (s : State) (d : Nat) (c : Cand) (at_ : List (Nat × Nat × CtxKind)) : State :=
  let s1 : State := match c.items with
    | none =>
      let new := at_.map (fun p => startCtx c.task (c.gang) (c.gang * s.gangSize c.task + p.1) s.us p.2.1 p.2.2)
      { s with others := s.others ++ new,
               tasks := s.tasks.map (fun t => if t.id = c.task.id then { t with placed := t.placed + 1, since := s.us } else t) }
    | some l => s.mapCtxs (fun x =>
        if x.id.kind.isApp ∧ x.id.task = c.task.id ∧ x.id.gang = c.gang ∧ x.id.residency = .saved then
          (match at_.find? (fun p => ((l[p.1]?).map (·.id.item)) == some x.id.item) with
           | some p => { x with id := { x.id with kind := p.2.2, die := p.2.1 / 64, core := p.2.1 % 64,
                                                  residency := .resident, since := s.us } }
           | none => x)
        else x)
  let s2 := at_.foldl (fun (t : State) p => (t.renewLease p.2.1 p.2.2).takeBank p.2.1 p.2.2) s1
  s2.setDie d { s2.die d with served := c.task.key }

/-- An item stops for a pre-emption (09 R230 steps 1 and 2): its lease lapses, and the other bank may issue. A request for the lease
stays with the context (18 R365). -/
def stopItem (s : State) : State :=
  if s.ctx.id.residency = .resident then
    let asks := s.ctx.leaseAsked
    let s1 := s.completeWaits.modCtx (fun c =>
      { c with id := { c.id with residency := .stopping }, stopReq := false, c := { c.c with blocked := if asks then some .lease else none } })
    s1.bankGone s1.here s1.ctx.id.kind
  else s

/-- Whether an item of a gang is resident on a core where F holds a live bypass value (02 R57). -/
def gangHeld (s : State) (task gang : Nat) : Bool :=
  (s.gangItems task gang).any (fun c => c.id.residency == .resident && s.coreHeld (coreNo c.id))

/-- A gang stops as a whole (09 R220); while a live bypass value holds pre-emption off on one of its cores, the request is kept
(02 R57, 09 R230 step 2). -/
def stopGang (s : State) (task gang : Nat) : State :=
  let held := s.gangHeld task gang
  let f (t : State) : State := if held then t.modCtx (fun c => { c with stopReq := c.id.residency == .resident }) else t.stopItem
  (s.gangItems task gang).foldl (fun (t : State) c =>
    t.inCtx (fun x => x.id.kind.isApp && x.id.task == task && x.id.item == c.id.item && x.id.residency != .ended) f) s

/-- What a live bypass value has held off is done once it has expired: pre-emptions, then bank switches (02 R57). -/
def releaseHolds (s : State) : State :=
  let gangs := ((s.allCtxs.filter (·.id.kind.isApp)).filter (·.stopReq)).map (fun c => (c.id.task, c.id.gang))
  let s1 := gangs.foldl (fun (t : State) g => if t.gangHeld g.1 g.2 then t else t.stopGang g.1 g.2) s
  s1.cores.foldl (fun (t : State) e => match e.2.next with
    | some k => if t.coreHeld e.1 then t else t.takeBank e.1 k
    | none => t) s1

/-- Puts a gang, as (PRI, start, task, gang), in its place: lowest priority first, the most recently started first among
equals (09 R220 step 4). -/
def insVictim (a : Nat × Nat × Nat × Nat) : List (Nat × Nat × Nat × Nat) → List (Nat × Nat × Nat × Nat)
  | [] => [a]
  | b :: rest =>
    if a.1 < b.1 ∨ (a.1 = b.1 ∧ b.2.1 ≤ a.2.1) then a :: b :: rest else b :: insVictim a rest

/-- Gangs with a resident item on a list of cores whose priority lies below a bound, in the order they go (09 R220 step
4). -/
def victimsIn (s : State) (eff : Nat) (cores : List Nat) : List (Nat × Nat × Nat × Nat) :=
  let one (c : Ctx) : Option (Nat × Nat × Nat × Nat) :=
    if c.id.kind.isApp ∧ c.id.residency = .resident ∧ c.stopReq = false ∧ cores.contains (coreNo c.id) then
      (s.tasks.find? (fun t => t.id == c.id.task)).bind (fun t =>
        if lrecPri t.lrec < eff then some (lrecPri t.lrec, c.id.since, c.id.task, c.id.gang) else none)
    else none
  (s.allCtxs.filterMap one).eraseDups.foldl (fun l a => insVictim a l) []

/-- Whether an instance has room for a candidate in the banks that are free or about to be: those of gangs stopped for their
save, and of the gangs given. -/
def roomWith (s : State) (c : Cand) (gangs : List (Nat × Nat)) (cores : List Nat) : Bool :=
  let soon (n : Nat) : Option CtxKind := (s.allCtxs.find? (fun x => coreNo x.id == n && x.id.kind.isApp &&
    (x.id.residency == .stopping || x.stopReq || (x.id.residency == .resident && gangs.contains (x.id.task, x.id.gang))))).map (·.id.kind)
  (assign (cores.filterMap (fun n => ((s.freeBank c.task.id c.gang n).or (soon n)).map (fun k => (n, k)))) (s.candWants c)).isSome

/-- The gangs to pre-empt for a candidate: taken in their order until one instance has room; none when all of them would not
make it. -/
def chooseVictims (s : State) (c : Cand) (insts : List (List Nat)) : List (Nat × Nat) → List (Nat × Nat × Nat × Nat) → Option (List (Nat × Nat))
  | gangs, [] => if insts.any (s.roomWith c gangs) then some gangs else none
  | gangs, v :: more =>
    if insts.any (s.roomWith c gangs) then some gangs
    else chooseVictims s c insts (gangs ++ [(v.2.2.1, v.2.2.2)]) more

/-- Takes the candidates in their order: the first that can be placed is placed; one that gains room by pre-emption stops the
gangs in its way; one that waits does not hold up the others (09 R220). -/
def tryCands (s : State) (d : Nat) : List Cand → State
  | [] => s
  | c :: rest =>
    let insts := s.instances c.task
    match insts.findSome? (s.placesIn c) with
    | some p => s.settleGang d c p
    | none =>
      if insts.any (s.roomWith c []) then tryCands s d rest
      else match s.chooseVictims c insts [] (s.victimsIn c.eff insts.flatten) with
        | some gangs => gangs.foldl (fun (t : State) g => t.stopGang g.1 g.2) s
        | none => tryCands s d rest

/-- The loads of a pre-empted item drain; a faulting one becomes a marker (09 R230 step 3). -/
def drainLoads : Nat → State → State
  | 0, s => s
  | n + 1, s =>
    let t := s.drainRow
    if t.ctx.loads = s.ctx.loads then t else drainLoads n t

end State

/-- Bytes whose value the save area's description does not give. -/
def openBytes (n : Nat) : List (Option Byte) := List.replicate n none

/-- Known bytes of values of a width. -/
def knownBytes (w : Nat) (l : List Nat) : List (Option Byte) := l.flatMap (fun v => (bytesOfNat w v).map some)

/-- A part of the save area of which 09 R231 lists what it holds but not the places: its bytes are a function of exactly those
values, which the implementation fixes (DESIGN CHOICE, log 27). -/
def laidOut (part n : Nat) (values : List Nat) : List (Option Byte) := (List.range n).map (fun i => some (Config.saveByte part values i))

/-- Fills a field of a length: what is not given stays open. -/
def padOpen (n : Nat) (l : List (Option Byte)) : List (Option Byte) := l.take n ++ openBytes (n - l.length)

/-- A line in the save area. -/
def lineBytes (l : Line) : List (Option Byte) := knownBytes 4 (l.data.toList.map (·.toNat))

def boolNat (b : Bool) : Nat := if b then 1 else 0
def optNat (l : Option (List Nat)) : List Nat := match l with | none => [0] | some x => 1 :: x
def strandNat (k : StrandId) : Nat := k.code

/-- A loop level, a bound queue and a marker as values. -/
def LoopLevel.values (l : LoopLevel) : List Nat := [boolNat l.active, boolNat l.rotating, l.cnt.toNat, l.idx.toNat, l.start.toNat, l.stop.toNat]
def Binding.values (b : Binding) : List Nat := [strandNat b.producer, strandNat b.consumer]
def TileLoad.values (l : TileLoad) : List Nat :=
  [l.q, l.addr.toNat, l.stride.toNat, l.rows, widthBytes l.width, boolNat l.zp, l.pc.toNat] ++ optNat (l.idx.map (fun v => v.map (·.toNat)))
def Replay.values (r : Replay) : List Nat := [r.pc.toNat, r.n, r.k, r.done]
def Range.values (r : Range) : List Nat := [boolNat r.scratch, r.lo, r.hi]
def Knob.values (k : Knob) : List Nat := [k.num.toNat, k.lo.toNat, k.hi.toNat]

/-- What a command does, as values: its operands. -/
def CmdBody.values : CmdBody → List Nat
  | .ce op card row => (match op with | .copy => 0 | .fill => 1 | .gath => 2) :: row :: card.toList.map (·.toNat)
  | .mma z p af bf m n k b qp va vb => [3, boolNat z, p.toNat, af.toNat, bf.toNat, m, n, k, b, qp.toNat, va.toNat, vb.toNat]
  | .drain td trb qp f c pa b a r fmt _ =>
    [4, (match td with | .tile r _ _ => r.toNat | .sq q => 32 + q.toNat), trb.toNat, qp.toNat, f, c, pa.toNat, boolNat b, boolNat a, boolNat r, fmt.toNat]
  | .act a => [5, a.toNat]
  | .nb fn a b c rows np w _ =>
    [6, (match fn with | .mv => 0 | .saxpy => 1 | .rcpy => 2 | .rzero => 3), a.toNat, b.toNat, c.toNat, rows, np.toNat, w]
  | .gs _ slot p r np _ => [7, slot.toNat, p.toNat, r.toNat, np.toNat]

/-- A saved command: its number, class, place, footprint, predecessors and operands (05 R145, 09 R230). -/
def Cmd.values (m : Cmd) : List Nat :=
  [m.seq.toNat, (match m.cls with | .ce => 0 | .mxa => 1 | .nbu => 2 | .gse => 3), strandNat m.strand, m.pc.toNat, m.d1.toNat, m.d2.toNat] ++
  (m.foot.reads ++ m.foot.writes).flatMap Range.values ++ m.body.values

/-- The commands that are saved: those that have not started. -/
def Ctx.savedCmds (c : Ctx) : List Cmd := c.eng.cmds.filter (fun m => !m.started)

/-- The values of the header of the save area (09 R231): format, CTXID, PCs and halted flags, marker and replay state, count of saved
commands, and the type bits of the accumulator blocks. -/
def Ctx.headerValues (c : Ctx) : List Nat :=
  [1, c.id.word.toNat] ++ [c.l, c.c, c.s, c.k].flatMap (fun p => [p.pc.toNat, boolNat p.halted]) ++
  [boolNat c.replaying, c.loads.length] ++ c.loads.flatMap TileLoad.values ++ optNat (c.tst.map Replay.values) ++
  optNat (c.cstq.map Replay.values) ++
  [c.l, c.c, c.s, c.k].flatMap (fun p => optNat (p.held.map (fun h => h.start.toNat :: h.rest.map (·.1.toNat)))) ++ [c.savedCmds.length] ++ c.comp.accInt.toList.map boolNat

/-- The values of the register block of the save area (09 R231). -/
def Ctx.blockValues (c : Ctx) (lease : Bool) : List Nat :=
  [c.csr.frm.toNat, boolNat c.csr.ftz, c.csr.fflags.toNat, c.eng.seqno.toNat, c.csr.miss.toNat * 2 ^ 32 + c.csr.hit.toNat, c.csr.nbwin.toNat,
   c.csr.nbmsel.toNat, c.csr.nberr.word.toNat, c.trap.causeWord.toNat, c.trap.addr.toNat, c.trap.pc.toNat, c.trap.vec.toNat, c.trap.rpc.toNat,
   c.comp.trb.toNat, c.comp.la.toNat, c.comp.lb.toNat] ++
  c.comp.preds.toList.map (·.toNat) ++ c.comp.slots.toList.map (·.toNat) ++ c.q.tf.toList ++
  (c.q.mqMap.toList ++ c.q.tfMap.toList).flatMap (fun b => optNat (b.map Binding.values)) ++
  [c.l, c.c, c.s, c.k].flatMap (fun p => p.loop0.values ++ p.loop1.values) ++ (c.holds.length :: c.holds) ++ [boolNat lease] ++
  [c.l, c.c, c.s, c.k].flatMap (fun p => p.taint.toList.map boolNat) ++ c.q.mq.toList.flatMap (fun l => l.map (fun e => boolNat e.taint))

/-- The values of the tuning unit and the format table (09 R231, 08 R208). -/
def Ctx.tuneValues (c : Ctx) : List Nat :=
  let t := c.tsu
  [(match t.phase with | none => 0 | some .sweep => 1 | some .exploit => 2), boolNat t.frozen, t.knobs.length] ++ t.knobs.flatMap Knob.values ++
  t.setting.toList.map (·.toNat) ++ [t.epoch] ++
  (match t.objective with | none => [0] | some .clks => [1] | some (.qhc i) => [2, i.toNat] | some .software => [3] | some (.replay a n) => [4, a.toNat, n]) ++
  [t.trials.toNat, t.cursor] ++ optNat (t.best.map (fun b => [b.1, b.2.toNat])) ++ [t.ecnt, t.pptr] ++
  optNat (t.trial.map (fun x => [(match x.kind with | .sweep => 0 | .exploit => 1 | .probe => 2), x.point, x.start.toNat])) ++ [t.clks.toNat] ++
  [c.l, c.c, c.s, c.k].flatMap (fun p => p.view.toList.map (·.toNat) ++ [p.viewEpoch]) ++ c.comp.fmt.toList.map (·.toNat)

/-- The values of a graph slot (07 R184). -/
def graphValues (g : Option GraphDesc) : List Nat :=
  optNat (g.map (fun d => [d.dim, d.deg, boolNat d.inner, d.vfmt.toNat] ++ d.tables.flatMap (fun t => [t.base.toNat, t.count])))

/-- The image of a context in the save area (09 R231), 320 KiB: where the rule gives a place for every value, the value stands there; a
part whose contents it only lists is laid out by the implementation; entries past the occupancy of a queue are open (log 27). -/
def saveImage (c : Ctx) (lease : Bool) : List (Option Byte) :=
  let xs (p : Strand) : List (Option Byte) := knownBytes 8 (p.x.toList.map (·.toNat))
  let lq (q : Nat) (l : List LqEntry) : List (Option Byte) := padOpen 8192 (l.flatMap (fun e => match e with
    | .line x => lineBytes x
    | .reserved => laidOut (5 + q) 256 ((c.loads.filter (fun l => l.q == q)).flatMap TileLoad.values)))
  laidOut 0 256 c.headerValues ++ laidOut 1 768 (c.blockValues lease) ++
  xs c.l ++ xs c.c ++ xs c.s ++ xs c.k ++
  c.q.mq.toList.flatMap (fun l => padOpen 128 (knownBytes 8 (l.map (fun e => e.value.toNat)))) ++
  laidOut 2 1024 c.tuneValues ++
  c.eng.graphs.toList.flatMap (fun g => laidOut 3 528 (graphValues g)) ++
  knownBytes 8 (c.csr.qhc.toList.map (·.toNat)) ++
  knownBytes 8 (c.csr.prov.toList.map (·.toNat)) ++
  knownBytes 8 ((List.range 10).map (fun k => (c.csr.samp.word k).toNat)) ++
  knownBytes 8 [c.csr.trace.base.toNat * 2 ^ 16, c.csr.trace.word.toNat] ++
  knownBytes 8 [c.csr.ecczcnt.toNat, c.csr.ecclog.word.toNat, c.csr.ceerr.word.toNat] ++
  List.replicate 648 (some 0) ++
  padOpen 512 (knownBytes 8 (c.deque.map (·.toNat))) ++ knownBytes 8 [c.deque.length] ++
  List.replicate 504 (some 0) ++
  (match c.comp.act with
   | some a => padOpen 4096 (knownBytes 4 [a.l.toNat, (BitVec.ofInt 32 a.e).toNat, 0, 0] ++
       (List.range 256).flatMap (fun j => knownBytes 4 [(a.slope.getD j 0).toNat, (a.icept.getD j 0).toNat]))
   | none => openBytes 4096) ++
  (List.range 64).flatMap (fun i => match c.savedCmds[i]? with
    | some m => laidOut 4 64 m.values
    | none => openBytes 64) ++
  (List.range 4).flatMap (fun q => lq q (c.q.lq.getD q [])) ++
  c.q.sq.toList.flatMap (fun l => padOpen 8192 (l.flatMap lineBytes)) ++
  c.comp.tiles.toList.flatMap (fun t => t.toList.flatMap (fun r => knownBytes 4 (r.toList.map (·.toNat)))) ++
  c.comp.acc.toList.flatMap (fun r => knownBytes 4 (r.toList.map (·.toNat)))

namespace State

/-- Open bytes take free values (log 5, log 27). -/
def fillOpen (l : List (Option Byte)) (s : State) : List Byte × State :=
  let (bs, n) := l.foldl (fun (p : List Byte × Nat) b => match b with
    | some b => (b :: p.1, p.2)
    | none => ((Config.freeWord p.2).setWidth 8 :: p.1, p.2 + 1)) ([], s.free)
  (bs.reverse, { s with free := n })

/-- Writes sectors at a physical address in space 0 for firmware, where the memory is known to exist. -/
def putPhys : Nat → Nat → List Byte → State → State
  | 0, _, _, s => s
  | n + 1, pa, bs, s =>
    putPhys n (pa + 32) (bs.drop 32)
      { s with mem := (foldAdds s.mem (dramKey false pa) 32).write0 (dramKey false pa) (bs.take 32) false false }

/-- An access of F of the acting core to a physical address that does not exist completes with Access-Violation and is logged once,
with F as its party (00 R10, 09 R235; log 90). -/
def noteAbsent (s : State) (pa : Nat) : State :=
  s.logViolation s.ctx.id.die 4 (physAddr pa) 0 (4 * s.ctx.id.core + 3)

/-- Pre-emption of the acting item (09 R230): its gang stops, its loads drain, its started class-1 commands complete, and
it is saved in the area firmware assigned. It is not saved while one of these is still to come; a drain whose lines find no room in
SQ0, which the stopped store strand does not empty, is saved with the lines that are left (log 64). Loads that are left are replayed
after the item is restored, before anything new issues (09 R229). An area that does not lie whole in memory that exists takes no image:
F's first write to it is a violation, and the item stays stopped until an area that exists is assigned (00 R10, log 90). -/
def preempt (s : State) (area : W64) : State :=
  if s.ctx.id.kind.isApp ∧ (s.ctx.id.residency = .resident ∨ s.ctx.id.residency = .stopping) then
    let base := bitsAt area 16 32 * 65536
    let s1 := s.stopGang s.ctx.id.task s.ctx.id.gang
    let s2 := drainLoads 128 s1
    let busy (m : Cmd) : Bool := m.cls == .mxa && m.started && !m.finished &&
      (match m.body with | .drain _ _ _ _ _ _ _ _ _ _ (some _) => decide ((s2.ctx.q.sq.getD 0 []).length < 32) | _ => true)
    if s2.ctx.id.residency ≠ .stopping ∨ s2.ctx.eng.cmds.any busy ∨ (s2.ctx.loads ≠ [] ∧ s2.ctx.marked = false) then s2
    else if tableThere s2.part base = false ∨ tableThere s2.part (base + 5 * 65536 - 1) = false then s2.noteAbsent base
    else
      let (bytes, s3) := fillOpen (saveImage s2.ctx s2.ctx.leaseAsked) s2
      let s4 := putPhys 10240 base bytes s3
      s4.modCtx (fun c => { c with id := { c.id with residency := .saved, area, since := s4.us }, replaying := !c.loads.isEmpty })
  else s

/-- A task completes once its items have ended and their commands and posted writes are done (09 R218): the completion
record, then DONE. While the record's page fault waits for firmware, nothing happens; `giveUp` says that firmware could not
resolve it. -/
def taskComplete (s : State) (task : Nat) (giveUp : Bool) : State :=
  match s.tasks.find? (fun t => t.id == task) with
  | none => s
  | some t =>
    let idle (c : Ctx) : Bool := c.id.residency == .ended && c.eng.cmds.isEmpty && c.eng.posted.isEmpty
    let ended := s.allCtxs.all (fun c => !(c.id.kind.isApp && c.id.task == task) || idle c)
    if t.done ∨ task = 0 ∨ ¬ended ∨ (t.dead = false ∧ t.placed < s.gangCount t) then s
    else
      match s.storeComp t.die t.pasid t.lrec[9] (compBytes t.item t.cause t.status t.tpc) giveUp with
      | none => s
      | some u =>
        let v : State := { u with tasks := u.tasks.map (fun x => if x.id = task then { x with done := true } else x) }
        match t.queue with
        | none => v
        | some (q, qcb) =>
          let first := (s.tasks.find? (fun x => !x.done && x.pasid == t.pasid && (x.queue.map (·.1)) == some q)).map (·.id)
          let next := (v.tasks.find? (fun x => !x.done && x.pasid == t.pasid && (x.queue.map (·.1)) == some q)).map (·.id)
          { v.bumpDone qcb with tasks := v.tasks.map (fun x => if some x.id = next ∧ first = some task then { x with since := s.us } else x) }

/-- Writes bytes for F, sector by sector, up to a write that fails: how many bytes were written, and that write's address. -/
def writeF (r : Req) : List (W64 × Nat) → List Byte → Nat → State → (Nat × Option W64) × State
  | [], _, done, s => ((done, none), s)
  | (va, n) :: rest, bs, done, s =>
    match locate s r va true with
    | (.at_ t _, s1) =>
      (match t with
       | .regs .. | .scratch .. => ((done, some va), s1)
       | _ =>
         if (s1.linkErrorOf false t).isSome || (s1.poisonedT t && n != 32) then ((done, some va), s1)
         else writeF r rest (bs.drop n) (done + n) (s1.writeT t (bs.take n)))
    | (_, s1) => ((done, some va), s1)

/-- Writes bytes for F at an address. -/
def putF (s : State) (r : Req) (va : W64) (bs : List Byte) : (Nat × Option W64) × State :=
  writeF r (sectorPieces (bs.length / 32 + 2) va bs.length) bs 0 s

/-- The entries of a process in the violation ring, the oldest first (09 R235, 10 R255). -/
def ringOf (s : State) (r : RingReg) (pasid : BitVec 20) : List Byte :=
  let n := r.size.toNat
  let held := Nat.min n r.head.toNat
  (List.range held).flatMap (fun i =>
    let pa := r.base.toNat % 2 ^ 48 + 32 * ((r.head.toNat - held + i) % n)
    let w := (List.range 4).map (fun k => s.word0 (pa + 8 * k))
    if bitsAt (w.getD 1 0) 36 20 = pasid.toNat then w.flatMap (fun v => bytesOfNat 8 v.toNat) else [])

/-- Writes the sections of a dump from an offset on (10 R255): where it stopped, and the address of a write that failed. -/
def dumpSections (r : Req) (area : W64) (size : Nat) : Nat → List (Nat × List Byte) → State → (Nat × Bool × Option W64) × State
  | off, [], s => ((off, true, none), s)
  | off, (ty, bs) :: rest, s =>
    if size < off + 16 + bs.length then ((off, false, none), s)
    else
      let head := bytesOfNat 8 (ty * 2 ^ 48 + bs.length) ++ bytesOfNat 8 0
      match s.putF r (area + BitVec.ofNat 64 off) (head ++ bs) with
      | ((n, some va), t) => ((off + n, false, some va), t)
      | ((_, none), t) => dumpSections r area size (off + 16 + bs.length) rest t

/-- The dump of the first terminated item of a task (10 R255). Where its entry of the dump table would lie in memory that does not
exist, F's read is a violation, and nothing is written (00 R10, log 90). -/
def coreDump (s : State) (d task : Nat) : State :=
  let x := s.die d
  match s.tasks.find? (fun t => t.id == task) with
  | none => s
  | some t =>
    match s.allCtxs.find? (fun c => c.id.kind.isApp && c.id.task == task && c.id.item == t.item && c.id.residency == .ended) with
    | none => s
    | some c =>
      let pe := x.dumpBase.toNat % 2 ^ 48 + 16 * t.pasid.toNat
      let area := s.word0 pe
      let size := (s.word0 (pe + 8)).toNat
      if t.status ≠ 1 ∨ t.dumped ∨ x.dumpCount.toNat ≤ t.pasid.toNat then s
      else if tableThere s.part pe = false ∨ tableThere s.part (pe + 8) = false then
        s.logViolation d 4 (physAddr pe) 0 (4 * c.id.core + 3)
      else if size < 64 then s
      else
        let r : Req := { core := coreNo c.id, die := c.id.die, pasid := 0, kind := .F, party := 4 * c.id.core + 3, tlb := 0 }
        let (image, s1) := fillOpen (saveImage c false) s
        let regs := [c.trap.causeWord, c.trap.addr, c.trap.pc, c.trap.vec, c.trap.rpc, c.id.word].flatMap (fun v => bytesOfNat 8 v.toNat)
        let secs := [(1, regs), (2, image), (3, s1.ringOf x.vring t.pasid)]
        let all := secs.foldl (fun n e => n + 16 + e.2.length) 64
        let ((off, whole, va), s3) := match s1.putF r area (bytesOfNat 8 0) with
          | ((_, some va), s2) => ((0, false, some va), s2)
          | ((_, none), s2) => dumpSections r area size 64 secs s2
        let header := [2 ^ 48 + (if whole then 2 else 1), all, off, (va.map (·.toNat)).getD 0, c.id.word.toNat, c.trap.causeWord.toNat, 0, 0].flatMap (bytesOfNat 8)
        let s4 := (s3.putF r area header).2
        { s4 with tasks := s4.tasks.map (fun u => if u.id = task then { u with dumped := true } else u) }

end State

/-- DISPATCH (09 R220): one decision of a die's dispatcher. -/
def execDispatch (die : Nat) (s : State) : Host.Outcome State Fault Refusal := 
  .next (if (s.die die).boot.ready = false then s else s.tryCands die (s.candidates die))
/-- PREEMPTION (09 R230). -/
def execPreemption (area : W64) (s : State) : Host.Outcome State Fault Refusal := .next (s.preempt area)
/-- TASK_COMPLETE (09 R218). -/
def execTaskComplete (task : Nat) (giveUp : Bool) (s : State) : Host.Outcome State Fault Refusal :=
  .next (s.taskComplete task giveUp)
/-- CORE_DUMP (10 R255). -/
def execCoreDump (die task : Nat) (s : State) : Host.Outcome State Fault Refusal := .next (s.coreDump die task)

end Sys2Proof.Machine
end

