-- ==== Sys2Proof/Machine/Clk.lean ====
section
/-! DEFINITION. The clock and reset: what ends a clk for every context (01 R22, R23; 02 R53; 04 R101; 05 R122; 09 R217, R223;
10 R245, R246). -/

namespace Sys2Proof.Machine

/-- The counter of QHC that a strand adds to, from what its head did in the clk (10 R245); `taken` says that its slot was taken
by F or by throttling. -/
def Strand.qhcClass (p : Strand) (cycle : Nat) (taken : Bool) : Nat :=
  if p.issued then 0
  else if taken then 1
  else if p.barWait.isSome ∨ (p.waitUntil.any (fun t => cycle < t)) then 2
  else match p.blocked with
    | none => 1
    | some (.lq q) => 4 + q
    | some (.sq _) => 3
    | some (.mq n) => 8 + n
    | some (.tf n) => 8 + n
    | some _ => 2

namespace State

/-- Whether the acting context is the item of a bank that issues in this clk (10 R245). -/
def bankIssues (s : State) : Bool :=
  s.ctx.id.kind.isApp && s.ctx.id.residency == .resident && s.ctx.fault.isNone && s.hereCore.issuing == s.ctx.id.kind

/-- Whether F used a slot of the acting context's core in this clk. -/
def fIssued (s : State) : Bool := s.others.any (fun c => c.id.kind == .F && coreNo c.id == s.here && c.k.issued)

/-- Counts a clk of an issuing bank: QHC, issuing clk, watchdog and deadlock counter (02 R53; 08 R198; 09 R217; 10 R245). -/
def countClk (s : State) : State :=
  let t := s.throttled
  let f := s.fIssued
  let add (v : Vector W64 16) (p : Strand) (taken : Bool) : Vector W64 16 :=
    if p.halted then v else vecMod v (p.qhcClass s.cycle.toNat taken) (· + 1)
  let c := s.ctx
  let q := add (add (add (add c.csr.qhc c.l t) c.c t) c.s t) c.k (t || f)
  let stuck := s.allStuck && !s.pendingEvent
  s.modCtx (fun c => { c with
    csr := { c.csr with qhc := q }, tsu := { c.tsu with clks := c.tsu.clks + 1 }, wdog := c.wdog + 1,
    deadlock := if stuck then c.deadlock + 1 else 0 })

/-- A strand at the end of a clk: it may issue again, and a WAIT whose last clk this was is over (20 R425). -/
def freshStrand (next : Nat) (p : Strand) : Strand :=
  { p with issued := false, waitUntil := p.waitUntil.filter (fun t => decide (next < t)) }

/-- What a clk adds to the counters of the acting context and of its core. A slot that F holds through a live bypass value counts
against SHARE, used or not (02 R58). -/
def tallyCtx (s : State) : State :=
  let s1 := if s.bankIssues then s.countClk else s.modCtx (fun c => { c with deadlock := 0 })
  if s1.ctx.id.kind = .F ∧ (s1.ctx.k.issued ∨ s1.bypassLive s1.ctx.k) then
    s1.setCore s1.here { s1.hereCore with fSlots := s1.hereCore.fSlots + 1 }
  else s1

/-- The end of a clk for the acting context: the results of its QSTATs are written, its strands may issue again, and a tile store that
is done uses its page no more (04 R114); a counter that has reached its limit raises its cause (02 R53, 09 R217). -/
def tickCtx (s : State) : State :=
  let n := s.cycle.toNat + 1
  let t := (((s.writeQstats .L).writeQstats .C).writeQstats .S).writeQstats .K
  (t.modCtx (fun c => { c with l := freshStrand n c.l, c := freshStrand n c.c, s := freshStrand n c.s,
                               k := freshStrand n c.k,
                               sqAt := if c.tst.isSome then c.sqAt else Vector.replicate 2 none })).deadlockTrap.watchdogTrap

/-- Does the same for every context. -/
def everyCtx (s : State) (f : State → State) : State :=
  (List.range s.others.length).foldl (fun (t : State) n => t.inOther n f) (f s)

/-- A clk ends (01 R23): every context, then CYCLE; leases that have run out drop their copies, and a new window of 64 clk
opens F's slots (09 R223). -/
def tick (s : State) : State :=
  let s1 := (s.everyCtx tallyCtx).everyCtx tickCtx
  let n := s.cycle + 1
  let cores := if n.toNat % 64 = 0 then
      s1.cores.foldl (fun m e => Cells.set Core.reset m e.1 { e.2 with fSlots := 0 }) s1.cores
    else s1.cores
  let s2 : State := { s1 with cycle := n, cores, round := 0,
                              mem := { s1.mem with copies := s1.mem.copies.filter (fun c => decide (n.toNat < c.expiry)) } }
  s2.releaseHolds.fitCaches

end State

/-- A part by its number. -/
def partOf (n : Nat) : Part := match n with | 1 => .sl3240m | 2 => .sl3216 | _ => .sl3240

/-- CLK (01 R23). -/
def execClk (s : State) : Host.Outcome State Fault Refusal := .next s.tick

/-- RESET (01 R23, 00 R2): the device leaves reset. What is outside it, and the model's own schedule and counter of open
values, stay. -/
def execReset (part : Nat) (s : State) : Host.Outcome State Fault Refusal :=
  .next { State.reset with part := partOf part, agenda := s.agenda, free := s.free,
                           mem := { Mem.reset with host := s.mem.host, peer := s.mem.peer, hostPoison := s.mem.hostPoison, peerPoison := s.mem.peerPoison } }

end Sys2Proof.Machine
end

