-- ==== Sys2Proof/Machine/Deque.lean ====
section
/-! DEFINITION. Work deques (02 R48, R49; 20 R427 to R429). The list of a deque begins at its owner's end. -/

namespace Sys2Proof.Machine

/-- Grid distance of two dies (01 R19). -/
def gridDist (a b : Nat) : Nat :=
  (if a / 8 ≤ b / 8 then b / 8 - a / 8 else a / 8 - b / 8) + (if a % 8 ≤ b % 8 then b % 8 - a % 8 else a % 8 - b % 8)

/-- The place of a victim in the order of WD.STEAL: its group with the distance, then package core number and bank (02 R49). -/
def stealKey (mine victim : Ident) : Nat × Nat :=
  let a := State.coreNo mine
  let b := State.coreNo victim
  (if a / 4 = b / 4 then 0 else if mine.die = victim.die then 1 else 1 + gridDist mine.die victim.die,
   b * 2 + (if victim.kind = .B then 1 else 0))

/-- Whether one place comes before another. -/
def comesFirst (a b : Nat × Nat) : Bool := decide (a.1 < b.1) || (decide (a.1 = b.1) && decide (a.2 < b.2))

/-- The result of an empty deque. -/
def dequeEmpty : W64 := 0x8000000000000000

namespace State

/-- The first non-empty victim among the other contexts: its key and its place (02 R49). -/
def stealFrom (s : State) : Option ((Nat × Nat) × Nat) :=
  let mine (c : Ctx) : Bool := c.id.kind.isApp && c.id.task == s.ctx.id.task && c.id.gang == s.ctx.id.gang && !c.deque.isEmpty
  ((List.range s.others.length).filterMap (fun n => (s.others[n]?).bind (fun c =>
    if mine c then some (stealKey s.ctx.id c.id, n) else none))).foldl (fun best v => match best with
      | none => some v
      | some b => if comesFirst v.1 b.1 then some v else some b) none

end State

/-- Whether a deque takes an operation of the acting core now: operations of different cores in one clk are applied in ascending
package core number, and one that comes too late for that is applied in a later clk (20 R429). -/
def State.dequeFree (s : State) (c : Ctx) : Bool := c.dequeAt.1 != s.cycle || decide (c.dequeAt.2 ≤ s.here)

/-- Notes an operation of the acting core on a deque (20 R429). -/
def State.stampDeque (s : State) (c : Ctx) (l : List (BitVec 63)) : Ctx := { c with deque := l, dequeAt := (s.cycle, s.here) }

/-- WD.PUSH (02 R48, 20 R429). -/
def execWdPush (d a : Reg) (s : State) : Host.Outcome State Fault Refusal :=
  run (do
    enter (.wdPush d a)
    check (s.dequeFree s.ctx) (.block .interlock)
    let v : BitVec 63 := (s.getX a).setWidth 63
    if s.ctx.deque.length < 64 then
      modify (fun s => s.modCtx (fun c => s.stampDeque c (v :: c.deque)))
      wx d 0
    else
      modify (fun s => s.modCtx (fun c => s.stampDeque c c.deque))
      wx d 1) s

/-- The posted writes that the acting context's control strand has made at package scope reach their targets, in their order: an entry
that is taken from its deque orders the taker's later loads after every store before the push (02 R48; log 55). A notify that finds no
latch stays. -/
def State.performPushed (s : State) : State :=
  s.ctx.eng.posted.foldl (fun (t : State) p =>
    if p.strand = .K ∧ p.target.fenceScope s.ctx.id.die ≤ Scope.package.code ∧ t.notifyHeld p.target = false then
      (t.modCtx (fun c => { c with eng := { c.eng with posted := c.eng.posted.erase p } })).performPosted p
    else t) s

/-- WD.POP (02 R48, 20 R429). -/
def execWdPop (d : Reg) (s : State) : Host.Outcome State Fault Refusal :=
  run (do
    enter (.wdPop d)
    check (s.dequeFree s.ctx) (.block .interlock)
    modify (fun s => s.modCtx (fun c => s.stampDeque c c.deque.tail))
    match s.ctx.deque with
    | [] => wx d dequeEmpty
    | v :: _ =>
      modify State.performPushed
      wx d (v.setWidth 64)) s

/-- The deques that a WD.STEAL examines: its victim's and every one before it in the order of victims (02 R49), or all. -/
def State.examined (s : State) (c : Ctx) : Bool :=
  c.id.kind.isApp && c.id.task == s.ctx.id.task && c.id.gang == s.ctx.id.gang &&
  (match s.stealFrom with | none => true | some (key, _) => !comesFirst key (stealKey s.ctx.id c.id))

/-- WD.STEAL (02 R48, R49; 20 R429). -/
def execWdSteal (d : Reg) (s : State) : Host.Outcome State Fault Refusal :=
  run (do
    enter (.wdSteal d)
    check (s.others.all (fun c => !s.examined c || s.dequeFree c)) (.block .interlock)
    let looks (c : Ctx) : Ctx := if s.examined c then s.stampDeque c c.deque else c
    modify (fun t => { t with others := t.others.map looks })
    match s.stealFrom with
    | none => wx d dequeEmpty
    | some (_, n) =>
      match (s.others[n]?).bind (fun c => c.deque.getLast?) with
      | none => wx d dequeEmpty
      | some v =>
        modify (fun s => s.inOther n (fun t => (t.modCtx (fun c => { c with deque := c.deque.dropLast })).performPushed))
        wx d (v.setWidth 64)) s

end Sys2Proof.Machine
end

