-- ==== Sys2Proof/Machine/Dram.lean ====
section
/-! DEFINITION. What the stack logic does on its own: row tests, scrubbing, stripe refresh, retirement of a channel and
self-refresh (04 R108, R111 to R113; 10 R236 to R241). A data row is named by its number among the rows of its stack's BANK
pages. -/

namespace Sys2Proof.Machine

/-- Whether a stack of a part has a data row. -/
def rowExists (p : Part) (stack row : Nat) : Bool := decide (stack < p.dies) && decide (row * 1024 < stackBytes)

/-- The first DRAM byte of a data row. -/
def rowKey (stack row : Nat) : Nat := stack * 2 ^ 36 + row * 1024

namespace State

/-- Changes the health of a row (10 R239, R240). -/
def modHealth (s : State) (stack row : Nat) (f : RowHealth → RowHealth) : State :=
  let x := s.stack stack
  s.setStack stack { x with rows := Cells.set RowHealth.reset x.rows row (f (Cells.get RowHealth.reset x.rows row)) }

/-- The entry that makes room in a full hot list: the lowest score, among equals the oldest entry (10 R239). -/
def hotVictim (l : Cells RowHealth) : Option Nat :=
  ((l.filter (fun e => e.2.hot)).foldl (fun best e => match best with
    | none => some e
    | some b => if e.2.score < b.2.score ∨ (e.2.score = b.2.score ∧ e.2.entered < b.2.entered) then some e else some b) none).map (·.1)

/-- A row enters the hot list of 4,096 rows (10 R239); a row on it starts its clean scrubs anew. -/
def enterHot (s : State) (stack row : Nat) : State :=
  let l := (s.stack stack).rows
  if (Cells.get RowHealth.reset l row).hot then s.modHealth stack row (fun h => { h with clean := 0 })
  else
    let s1 := if (l.filter (fun e => e.2.hot)).length < 4096 then s
      else match hotVictim l with
        | some v => s.modHealth stack v (fun h => { h with hot := false, clean := 0, entered := 0 })
        | none => s
    let next := l.foldl (fun m e => Nat.max m e.2.entered) 0 + 1
    s1.modHealth stack row (fun h => { h with hot := true, clean := 0, entered := next })

/-- A row is remapped to one of its bank's 64 spares, with its contents; without a spare it stays in use, and that is logged
(10 R237, R240). -/
def remapRow (s : State) (stack row kind : Nat) : State :=
  let x := s.stack stack
  let b := s.bankId (rowKey stack row)
  let used := Cells.get 0 x.spares b
  if used < 64 then
    let s1 := s.setStack stack { x with spares := Cells.set 0 x.spares b (used + 1) }
    (s1.modHealth stack row (fun h => { h with score := 0, remaps := h.remaps + 1 })).logError stack kind (physAddr (rowKey stack row))
  else s.logError stack 6 (physAddr (rowKey stack row))

/-- An error in a row is handled (10 R236 to R240): an uncorrectable one poisons its sector, and a hot row counts its clean scrubs
anew; the test finds it soft or lasting; the row is scored or remapped. -/
def rowTest (s : State) (stack row : Nat) (bad : Option Nat) (lasting : Bool) : State :=
  if rowExists s.part stack row = false then s
  else
    let s1 := match bad with
      | some k => { s with mem := s.mem.markError (sectorOf (rowKey stack row) + k % 32) }.modHealth stack row (fun h => { h with clean := 0 })
      | none => s.enterHot stack row
    let addr := physAddr (rowKey stack row)
    if lasting then (s1.logError stack (if bad.isSome then 4 else 2) addr).remapRow stack row 5
    else
      let s2 := s1.logError stack (if bad.isSome then 3 else 1) addr
      let s3 := s2.modHealth stack row (fun h => { h with score := Nat.min 255 (h.score + (if bad.isSome then 64 else 32)) })
      if 128 ≤ (Cells.get RowHealth.reset (s3.stack stack).rows row).score then s3.remapRow stack row 7 else s3

/-- A scrub of a row (10 R239, R240): its read is a request; a clean scrub of a hot row counts. Rows of a half whose channel has been
retired are scrubbed on: the spec stops the scrubber for the half and does not say that it starts again (04 R113; DESIGN CHOICE, log
81). -/
def rowScrub (s : State) (stack row : Nat) (error : Option (Option Nat)) (lasting : Bool) : State :=
  if rowExists s.part stack row = false then s
  else
    let s1 := s.noteRequest (rowKey stack row)
    match error with
    | some bad => s1.rowTest stack row bad lasting
    | none =>
      s1.modHealth stack row (fun h =>
        if h.hot then
          (if h.clean + 1 = 64 then { h with score := h.score - 1, hot := false, clean := 0, entered := 0 }
           else { h with score := h.score - 1, clean := h.clean + 1 })
        else h)

/-- The stripe marked stale longest ago gets its parity again (04 R112). -/
def stripeRefresh (s : State) (stack : Nat) : State :=
  if stack < s.part.dies then s.setStack stack { s.stack stack with stale := (s.stack stack).stale.drop 1 } else s

/-- The data row of a stripe that lies in a channel of its half; none where the channel holds the stripe's parity (04 R108,
R111). -/
def failedRow (stack stripe channel : Nat) : Option Nat :=
  let row := stripe % 65536
  let unit := stripe / 65536
  let ip := parityAt row
  if channel = ip then none
  else
    let j := if channel < ip then channel else channel - 1
    some (stack * 2 ^ 36 + ((row / 64 * 15 + j) * 64 + unit) * 65536 + row % 64 * 1024)

/-- A row is lost at a retirement: its sectors are poisoned with the lost mark, and it is logged (04 R113). -/
def loseRow (s : State) (stack key : Nat) : State :=
  let m := (List.range 32).foldl (fun (m : Mem) i =>
    let n := sectorOf key + i
    m.setPoison n true true) s.mem
  { s with mem := m }.logError stack 8 (physAddr key)

/-- Inserts a number in ascending order. -/
def insertNat (n : Nat) : List Nat → List Nat
  | [] => [n]
  | k :: rest => if n ≤ k then n :: k :: rest else k :: insertNat n rest

/-- A failed channel of a half is retired (04 R113): rows of stale stripes that it held are lost, in ascending order; the half
has no parity from then on. A sector of a rebuilt row that was poisoned and not lost stays poisoned, which the spec leaves open (DESIGN
CHOICE, log 81). -/
def channelRetire (s : State) (stack half channel : Nat) : State :=
  let x := s.stack stack
  if stack < s.part.dies ∧ half < 2 ∧ channel < 16 ∧ (x.retired[half]?).join = none then
    let mine := (x.stale.filter (fun n => n / 65536 / 32 == half)).foldl (fun l n => insertNat n l) []
    let s1 := (mine.filterMap (fun n => failedRow stack n channel)).foldl (fun (t : State) k => t.loseRow stack k) s
    let y := s1.stack stack
    s1.setStack stack { y with stale := y.stale.filter (fun n => n / 65536 / 32 != half), retired := y.retired.setIfInBounds half (some channel) }
  else s

/-- A pseudo-channel that has received no request for SRIDLE and runs no near-bank command enters self-refresh (10 R241). -/
def selfRefresh (s : State) (stack pch : Nat) : State :=
  let x := s.stack stack
  let p := Cells.get Pch.reset x.pchs pch
  if stack < s.part.dies ∧ pch < 64 ∧ p.accepted = [] ∧ p.requests = [] ∧
      (s.die stack).sridle.toNat ≤ s.ns - p.last then
    s.setStack stack { x with pchs := Cells.set Pch.reset x.pchs pch { p with selfRefresh := true } }
  else s

end State

/-- ROW_TEST (10 R237). -/
def execRowTest (stack row : Nat) (bad : Option Nat) (lasting : Bool) (s : State) : Host.Outcome State Fault Refusal :=
  .next (s.rowTest stack row bad lasting)
/-- ROW_SCRUB (10 R239). -/
def execRowScrub (stack row : Nat) (error : Option (Option Nat)) (lasting : Bool) (s : State) :
    Host.Outcome State Fault Refusal := .next (s.rowScrub stack row error lasting)
/-- STRIPE_REFRESH (04 R112). -/
def execStripeRefresh (stack : Nat) (s : State) : Host.Outcome State Fault Refusal := .next (s.stripeRefresh stack)
/-- CHANNEL_RETIRE (04 R113). -/
def execChannelRetire (stack half channel : Nat) (s : State) : Host.Outcome State Fault Refusal :=
  .next (s.channelRetire stack half channel)
/-- SELF_REFRESH_ENTRY (10 R241). -/
def execSelfRefreshEntry (stack pch : Nat) (s : State) : Host.Outcome State Fault Refusal := .next (s.selfRefresh stack pch)

end Sys2Proof.Machine
end

