-- ==== Sys2Proof/Machine/Pctl.lean ====
section
/-! DEFINITION. Predicates, line counters, the rotation base and shape grants (02 R35, R37, R40; 06 R149, R150; 08 R207;
11 R276, R284; 18 R356; 19 R371, R372, R380, R397). -/

namespace Sys2Proof.Machine

/-- Changes the compute state of the acting context. -/
def modComp (f : Compute → Compute) : M Unit := modify (fun s => s.modCtx (fun c => { c with comp := f c.comp }))

/-- PSET (11 R276). -/
def execPset (p : BitVec 4) (imm : BitVec 16) (s : State) : Host.Outcome State Fault Refusal :=
  run (do enter (.pset p imm); modComp (fun c => c.setPred p imm)) s

/-- A predicate of two (11 R276). -/
def plog (i : Instr) (d a b : BitVec 4) (f : W16 → W16 → W16) : M Unit := do
  enter i
  let s ← get
  modComp (fun c => c.setPred d (f (s.rd.comp.pred a) (s.rd.comp.pred b)))

/-- PLOG.AND. -/
def execPlogAnd (d a b : BitVec 4) (s : State) : Host.Outcome State Fault Refusal :=
  run (plog (.plogAnd d a b) d a b (fun x y => x &&& y)) s
/-- PLOG.OR. -/
def execPlogOr (d a b : BitVec 4) (s : State) : Host.Outcome State Fault Refusal :=
  run (plog (.plogOr d a b) d a b (fun x y => x ||| y)) s
/-- PLOG.XOR. -/
def execPlogXor (d a b : BitVec 4) (s : State) : Host.Outcome State Fault Refusal :=
  run (plog (.plogXor d a b) d a b (fun x y => x ^^^ y)) s
/-- PLOG.ANDN. -/
def execPlogAndn (d a b : BitVec 4) (s : State) : Host.Outcome State Fault Refusal :=
  run (plog (.plogAndn d a b) d a b (fun x y => x &&& ~~~y)) s

/-- PMOV into a predicate (19 R371). -/
def execPmovToP (p : BitVec 4) (x : Reg) (s : State) : Host.Outcome State Fault Refusal :=
  run (do enter (.pmovToP p x); modComp (fun c => c.setPred p ((s.getX x).setWidth 16))) s

/-- PMOV into a register (19 R371). -/
def execPmovFromP (p : BitVec 4) (x : Reg) (s : State) : Host.Outcome State Fault Refusal :=
  run (do enter (.pmovFromP p x); wx x (zext64 (s.rd.comp.pred p))) s

/-- LSET (18 R356). -/
def execLset (lb : Bool) (a : Reg) (imm : BitVec 6) (s : State) : Host.Outcome State Fault Refusal :=
  run (do
    enter (.lset lb a imm)
    let v := (s.getX a).setWidth 6 + imm
    modComp (fun c => if lb then { c with lb := v } else { c with la := v })) s

/-- TRBSET (19 R397). -/
def execTrbset (a : Reg) (imm : BitVec 4) (s : State) : Host.Outcome State Fault Refusal :=
  run (do
    enter (.trbset a imm)
    modComp (fun c => { c with trb := (s.getX a).setWidth 4 + imm })) s

/-- What a request is granted in a slot; none when it is refused (06 R150). -/
def shapeGrant (req : W64) (slot0 : Bool) : Option W64 :=
  let r := req.toNat
  match EType.ofCode (bvAt 4 r 32), EType.ofCode (bvAt 4 r 36), EType.ofCode (bvAt 4 r 40), EType.ofCode (bvAt 4 r 44) with
  | some _, some af, some bf, some _ =>
    let m := fld r 0 7 + 1
    let n := fld r 7 9 + 1
    let k := fld r 16 16 + 1
    let m' := if slot0 then Nat.min m 16 else m
    let n' := Nat.min n (if slot0 then 64 else 256)
    let blk := if af = .b4 ∨ bf = .b4 then 32 else 16
    let k' := k - k % blk
    if fld r 48 16 ≠ 0 ∨ someAccepts af bf = false ∨ k' = 0 then none
    else some (BitVec.ofNat 64 (fld r 32 16 * 2 ^ 32 + (k' - 1) * 2 ^ 16 + (n' - 1) * 2 ^ 7 + (m' - 1)))
  | _, _, _, _ => none

/-- Whether a tainted request may pass in a deterministic context (08 R207): it keeps the slot's formats and splits K at a
multiple of 64. -/
def shapeTaintOk (slot req : W64) : Bool :=
  !bitAt slot.toNat 63 && fld slot.toNat 32 16 == fld req.toNat 32 16 && (fld req.toNat 16 16 + 1) % 64 == 0

/-- SHAPE (06 R150, 19 R380). -/
def execShape (d a : Reg) (slot : BitVec 2) (s : State) : Host.Outcome State Fault Refusal :=
  run (do
    enter (.shape d a slot)
    let req := s.getX a
    let old := s.rd.comp.slots.getD slot.toNat emptySlot
    require (!s.ctx.id.det || !s.tainted a || shapeTaintOk old req) .knobNumerics
    match shapeGrant req (slot = 0) with
    | some g =>
      modComp (fun c => { c with slots := c.slots.setIfInBounds slot.toNat g })
      wx d g
    | none => wx d (req ||| emptySlot)) s

end Sys2Proof.Machine
end

