-- ==== Sys2Proof/Machine/TileArith.lean ====
section
/-! DEFINITION. ARITH tile instructions (18 R338, R339; 20 R406 to R409, R411, R415, R420). -/

namespace Sys2Proof.Machine

/-- VADD (20 R407). -/
def execVadd (h : TileHd) (td : TDst) (ta : TSrc) (tb : TSrc) (s : State) : Host.Outcome State Fault Refusal :=
  run (tile2 (.vadd h td ta tb) h td ta tb numericType (fun v _ a b => v.add a b)) s

/-- VSUB (20 R407). -/
def execVsub (h : TileHd) (td : TDst) (ta : TSrc) (tb : TSrc) (s : State) : Host.Outcome State Fault Refusal :=
  run (tile2 (.vsub h td ta tb) h td ta tb numericType (fun v _ a b => v.sub a b)) s

/-- VMUL (20 R407). -/
def execVmul (h : TileHd) (td : TDst) (ta : TSrc) (tb : TSrc) (s : State) : Host.Outcome State Fault Refusal :=
  run (tile2 (.vmul h td ta tb) h td ta tb numericType (fun v _ a b => v.mul a b)) s

/-- VMIN (20 R415). -/
def execVmin (h : TileHd) (td : TDst) (ta : TSrc) (tb : TSrc) (s : State) : Host.Outcome State Fault Refusal :=
  run (tile2 (.vmin h td ta tb) h td ta tb numericType (fun v _ a b => v.min a b)) s

/-- VMAX (20 R415). -/
def execVmax (h : TileHd) (td : TDst) (ta : TSrc) (tb : TSrc) (s : State) : Host.Outcome State Fault Refusal :=
  run (tile2 (.vmax h td ta tb) h td ta tb numericType (fun v _ a b => v.max a b)) s

/-- VADD.SAT (20 R408). -/
def execVaddSat (h : TileHd) (td : TDst) (ta : TSrc) (tb : TSrc) (s : State) : Host.Outcome State Fault Refusal :=
  run (tile2 (.vaddSat h td ta tb) h td ta tb numericType (fun v _ a b => v.addSat a b)) s

/-- VSUB.SAT (20 R408). -/
def execVsubSat (h : TileHd) (td : TDst) (ta : TSrc) (tb : TSrc) (s : State) : Host.Outcome State Fault Refusal :=
  run (tile2 (.vsubSat h td ta tb) h td ta tb numericType (fun v _ a b => v.subSat a b)) s

/-- VMUL.SAT (20 R408). -/
def execVmulSat (h : TileHd) (td : TDst) (ta : TSrc) (tb : TSrc) (s : State) : Host.Outcome State Fault Refusal :=
  run (tile2 (.vmulSat h td ta tb) h td ta tb numericType (fun v _ a b => v.mulSat a b)) s

/-- VFMA (20 R407). -/
def execVfma (h : TileHd) (td : TDst) (ta : TSrc) (tb : TSrc) (tc : TSrc) (s : State) : Host.Outcome State Fault Refusal :=
  run (tile3 (.vfma h td ta tb tc) h td ta tb tc numericType ElemEnv.fma) s

/-- VABS (20 R406). -/
def execVabs (h : TileHd) (td : TDst) (ta : TSrc) (s : State) : Host.Outcome State Fault Refusal :=
  run (tile1 (.vabs h td ta) h td ta numericType ElemEnv.abs) s

/-- VNEG (20 R406). -/
def execVneg (h : TileHd) (td : TDst) (ta : TSrc) (s : State) : Host.Outcome State Fault Refusal :=
  run (tile1 (.vneg h td ta) h td ta numericType ElemEnv.neg) s

/-- VCMP (20 R411): bits of Pd whose guard bit is set. -/
def execVcmp (h : TileHd) (pd : BitVec 4) (ta tb : TSrc) (c : Cond) (s : State) : Host.Outcome State Fault Refusal :=
  run (do
    let col (t : TSrc) : Bool := TSrc.view t == some .col
    let o ← startTile (.vcmp h pd ta tb c) h (h.np = 0) true (col ta && (col tb || TSrc.view tb == none)) numericType
    let x ← readSrc o.m ta
    let y ← readSrc o.m tb
    modify (fun s => s.modCtx (fun k =>
      let old := k.comp.preds.getD pd.toNat 0
      let bit (i : Nat) : Bool := if o.on i then o.env.compare c (x i 0) (y i 0) else bitAt old.toNat i
      let v := (List.range 16).foldl (fun a i => a + (if bit i then 2 ^ i else 0)) 0
      { k with comp := k.comp.setPred pd (BitVec.ofNat 16 v) }))) s

/-- VSEL (20 R420). -/
def execVsel (h : TileHd) (td : TDst) (ta tb : TSrc) (ps : BitVec 4) (s : State) : Host.Outcome State Fault Refusal :=
  run (tile2 (.vsel h td ta tb ps) h td ta tb numericType
    (fun v r a b => v.selected (if bitAt (s.rd.comp.pred ps).toNat r then a else b))) s

/-- An exact-pair operation (03 R77, 20 R409). -/
def pairM (i : Instr) (h : TileHd) (td : TDst) (ta tb : TSrc) (op : PairOp) : M Unit := do
  let s ← get
  let o ← startTile i h (h.np = 0) (pairDst s.rd.comp.trb td) (fits td [ta, tb]) wideFloat
  let x ← readSrc o.m ta
  let y ← readSrc o.m tb
  putPair o td (fun r c => exactPair o.env.ty op (x r c) (y r c))

/-- VADDX (20 R409). -/
def execVaddx (h : TileHd) (td : TDst) (ta : TSrc) (tb : TSrc) (s : State) : Host.Outcome State Fault Refusal :=
  run (pairM (.vaddx h td ta tb) h td ta tb .add) s

/-- VSUBX (20 R409). -/
def execVsubx (h : TileHd) (td : TDst) (ta : TSrc) (tb : TSrc) (s : State) : Host.Outcome State Fault Refusal :=
  run (pairM (.vsubx h td ta tb) h td ta tb .sub) s

/-- VMULX (20 R409). -/
def execVmulx (h : TileHd) (td : TDst) (ta : TSrc) (tb : TSrc) (s : State) : Host.Outcome State Fault Refusal :=
  run (pairM (.vmulx h td ta tb) h td ta tb .mul) s

/-- A double-word operation on its pair sources; one that the form lacks is +0 (03 R78, 18 R338, R339). -/
def doubleM (i : Instr) (h : TileHd) (td : TDst) (op : DwOp) (ta : TSrc) (tb tc : Option TSrc) : M Unit := do
  let s ← get
  let trb := s.rd.comp.trb
  let srcs := ta :: (tb.toList ++ tc.toList)
  let o ← startTile i h (h.np = 0) (pairDst trb td && srcs.all (pairSrc trb)) (fits td srcs) (· == .fp32)
  let none2 : Grid × Grid := (fun _ _ => 0, fun _ _ => 0)
  let x ← readPair o.m ta
  let y ← (match tb with | some t => readPair o.m t | none => pure none2)
  let z ← (match tc with | some t => readPair o.m t | none => pure none2)
  putPair o td (fun r c => doubleWord op (x.1 r c, x.2 r c) (y.1 r c, y.2 r c) (z.1 r c, z.2 r c))

/-- DWADD (18 R339). -/
def execDwadd (h : TileHd) (td : TDst) (ta : TSrc) (tb : TSrc) (s : State) : Host.Outcome State Fault Refusal :=
  run (doubleM (.dwadd h td ta tb) h td .add ta (some tb) none) s

/-- DWMUL (18 R339). -/
def execDwmul (h : TileHd) (td : TDst) (ta : TSrc) (tb : TSrc) (s : State) : Host.Outcome State Fault Refusal :=
  run (doubleM (.dwmul h td ta tb) h td .mul ta (some tb) none) s

/-- DWFMA (18 R339). -/
def execDwfma (h : TileHd) (td : TDst) (ta : TSrc) (tb : TSrc) (tc : TSrc) (s : State) : Host.Outcome State Fault Refusal :=
  run (doubleM (.dwfma h td ta tb tc) h td .fma ta (some tb) (some tc)) s

/-- DWNORM (18 R339). -/
def execDwnorm (h : TileHd) (td : TDst) (ta : TSrc) (s : State) : Host.Outcome State Fault Refusal :=
  run (doubleM (.dwnorm h td ta) h td .norm ta none none) s

end Sys2Proof.Machine
end

