-- ==== Sys2Proof/Machine/TileMove.lean ====
section
/-! DEFINITION. BITS and PERM tile instructions (11 R282; 20 R410, R413, R414, R416, R419, R423, R424). -/

namespace Sys2Proof.Machine

/-- VLOG.AND (20 R414). -/
def execVlogAnd (h : TileHd) (td : TDst) (ta : TSrc) (tb : TSrc) (s : State) : Host.Outcome State Fault Refusal :=
  run (tile2 (.vlogAnd h td ta tb) h td ta tb anyType (fun _ _ a b => (a &&& b, 0))) s

/-- VLOG.OR (20 R414). -/
def execVlogOr (h : TileHd) (td : TDst) (ta : TSrc) (tb : TSrc) (s : State) : Host.Outcome State Fault Refusal :=
  run (tile2 (.vlogOr h td ta tb) h td ta tb anyType (fun _ _ a b => (a ||| b, 0))) s

/-- VLOG.XOR (20 R414). -/
def execVlogXor (h : TileHd) (td : TDst) (ta : TSrc) (tb : TSrc) (s : State) : Host.Outcome State Fault Refusal :=
  run (tile2 (.vlogXor h td ta tb) h td ta tb anyType (fun _ _ a b => (a ^^^ b, 0))) s

/-- VLOG.ANDN (20 R414). -/
def execVlogAndn (h : TileHd) (td : TDst) (ta : TSrc) (tb : TSrc) (s : State) : Host.Outcome State Fault Refusal :=
  run (tile2 (.vlogAndn h td ta tb) h td ta tb anyType (fun _ _ a b => (a &&& ~~~b, 0))) s

/-- VSH.SHL (20 R423). -/
def execVshShl (h : TileHd) (td : TDst) (ta : TSrc) (tb : TSrc) (s : State) : Host.Outcome State Fault Refusal :=
  run (tile2 (.vshShl h td ta tb) h td ta tb numericType (fun v _ a b => (shiftContainer v.ty true false a b, 0))) s

/-- VSH.SHR (20 R423). -/
def execVshShr (h : TileHd) (td : TDst) (ta : TSrc) (tb : TSrc) (s : State) : Host.Outcome State Fault Refusal :=
  run (tile2 (.vshShr h td ta tb) h td ta tb numericType (fun v _ a b => (shiftContainer v.ty false false a b, 0))) s

/-- VSH.SHRA (20 R423). -/
def execVshShra (h : TileHd) (td : TDst) (ta : TSrc) (tb : TSrc) (s : State) : Host.Outcome State Fault Refusal :=
  run (tile2 (.vshShra h td ta tb) h td ta tb numericType (fun v _ a b => (shiftContainer v.ty false true a b, 0))) s

/-- VMOV (20 R416). -/
def execVmov (h : TileHd) (td : TDst) (ta : TSrc) (s : State) : Host.Outcome State Fault Refusal :=
  run (tile1 (.vmov h td ta) h td ta anyType (fun _ a => (a, 0))) s

/-- Whether a source is a whole tile or load-queue lines (11 R282). -/
def wholeSrc (t : TSrc) : Bool := TSrc.view t == some .whole

/-- A permutation with a whole destination, or a store queue (11 R282): `f` moves the containers of the source. -/
def moveM (i : Instr) (h : TileHd) (td : TDst) (ta : TSrc) (views : Bool) (f : Grid → Grid) : M Unit := do
  let o ← startTile i h (h.np = 0) true (TDst.view td == .whole && views) anyType
  let x ← readSrc o.m ta
  putDst o td (fun r c => (f x r c, 0))

/-- VROTR (20 R419). -/
def execVrotr (h : TileHd) (td : TDst) (ta : TSrc) (amt : BitVec 9) (s : State) : Host.Outcome State Fault Refusal :=
  run (moveM (.vrotr h td ta amt) h td ta (wholeSrc ta) (fun x i j => x i ((j + 512 - amt.toNat) % 64))) s

/-- VROTC (20 R419). -/
def execVrotc (h : TileHd) (td : TDst) (ta : TSrc) (amt : BitVec 9) (s : State) : Host.Outcome State Fault Refusal :=
  run (moveM (.vrotc h td ta amt) h td ta (wholeSrc ta) (fun x i j => x ((i + 512 - amt.toNat) % 16) j)) s

/-- VBCR (20 R410). -/
def execVbcr (h : TileHd) (td : TDst) (ta : TSrc) (s : State) : Host.Outcome State Fault Refusal :=
  run (moveM (.vbcr h td ta) h td ta (TSrc.view ta == some .row) id) s

/-- VBCC (20 R410). -/
def execVbcc (h : TileHd) (td : TDst) (ta : TSrc) (s : State) : Host.Outcome State Fault Refusal :=
  run (moveM (.vbcc h td ta) h td ta (TSrc.view ta == some .col) id) s

/-- VSPLAT (20 R424). -/
def execVsplat (h : TileHd) (td : TDst) (ta : TSrc) (s : State) : Host.Outcome State Fault Refusal :=
  run (do
    let o ← startTile (.vsplat h td ta) h (h.np = 0) true (TSrc.view ta == none) anyType
    let x ← readSrc o.m ta
    putDst o td (fun r c => (x r c, 0))) s

/-- Whether a view is a column or a diagonal. -/
def slanted (v : View) : Bool := v == .col || v == .diag

/-- VEXT (20 R413): the source's elements 0 to 15 go to columns 0 to 15 of a row. -/
def execVext (h : TileHd) (td : TDst) (ta : TSrc) (s : State) : Host.Outcome State Fault Refusal :=
  run (do
    let o ← startTile (.vext h td ta) h (h.np = 0) true (TDst.view td == .row && (TSrc.view ta).any slanted) anyType
    let x ← readSrc o.m ta
    let s ← get
    let region := fun i j => o.region s.rd.comp td i j && decide (j < 16)
    putRegion o td region (fun _ j => (x j 0, 0))) s

/-- VINS (20 R413): columns 0 to 15 of a row go to the elements of a column or a diagonal. -/
def execVins (h : TileHd) (td : TDst) (ta : TSrc) (s : State) : Host.Outcome State Fault Refusal :=
  run (do
    let o ← startTile (.vins h td ta) h (h.np = 0) true (slanted (TDst.view td) && TSrc.view ta == some .row) anyType
    let x ← readSrc o.m ta
    let s ← get
    putRegion o td (o.region s.rd.comp td) (fun i _ => (x 0 i, 0))) s

end Sys2Proof.Machine
end

