-- ==== Sys2Proof/Machine/Special.lean ====
section
/-! DEFINITION. The special functions of VSF (20 R421, R422): the exact mathematical value, rounded once. RCP and RSQ
are exact integers with a sticky bit; the others are fixed-point numbers of 256 fraction bits with a sticky bit, which no
rounding boundary of the element types can reach (log 8). -/

namespace Sys2Proof.Machine

/-- Fraction bits of the fixed-point numbers. -/
def fixBits : Nat := 256
/-- One in fixed point. -/
def fixOne : Nat := 2 ^ fixBits

/-- Σ z^(2k+1) / (2k+1) for z = a / b: the series of artanh, `n` more terms from the k-th; `p` is z^(2k+1). -/
def atanhSeries (a b : Nat) : Nat → Nat → Nat → Nat
  | 0, _, _ => 0
  | n + 1, k, p => p / (2 * k + 1) + atanhSeries a b n (k + 1) (p * a * a / (b * b))

/-- ln(x) for x = m / 2^s between 1 and 2, as 2 artanh((x − 1) / (x + 1)). -/
def fixLn (m s : Nat) : Nat :=
  let a := m - 2 ^ s
  let b := m + 2 ^ s
  2 * atanhSeries a b 110 0 (a * fixOne / b)

/-- ln 2. -/
def fixLn2 : Nat := fixLn 2 0

/-- Σ r^k / k!: the series of e^r for 0 ≤ r < 1, `n` more terms from the k-th; `p` is r^k / k!. -/
def expSeries (r : Nat) : Nat → Nat → Nat → Nat
  | 0, _, _ => 0
  | n + 1, k, p => p + expSeries r n (k + 1) (p * r / fixOne / (k + 1))

/-- 2^f for a fixed-point f below one: between one and two. -/
def fixExp2 (f : Nat) : Nat := expSeries (f * fixLn2 / fixOne) 80 0 fixOne

/-- e^−y for y = m × 2^e not negative, as a fixed-point mantissa and an exponent of two that is not positive. -/
def fixExpNeg (m : Nat) (e : Int) : Nat × Nat :=
  -- y / ln 2 in fixed point
  let y := if 0 ≤ e then m * 2 ^ e.toNat * fixOne else m * fixOne / 2 ^ (-e).toNat
  let t := y * fixOne / fixLn2
  let n := t / fixOne
  let f := t % fixOne
  if f = 0 then (fixOne, n) else (fixExp2 (fixOne - f), n + 1)

/-- Integer square root by bits from the top: the root so far and the bits left. -/
def isqrtGo (x : Nat) : Nat → Nat → Nat
  | 0, r => r
  | k + 1, r => let r' := r + 2 ^ k; if r' * r' ≤ x then isqrtGo x k r' else isqrtGo x k r

/-- Integer square root of a number below 2^(2 k). -/
def isqrt (k x : Nat) : Nat := isqrtGo x k 0

/-- A positive value whose floor at 2^e is m, with a sticky bit. -/
def stickyVal (neg : Bool) (m : Nat) (e : Int) : FVal := .num neg (2 * m + 1) (e - 1)

/-- A value just below one. -/
def belowOne (neg : Bool) : FVal := .num neg (fixOne - 1) (-(fixBits : Int))
/-- A value far below every subnormal. -/
def farBelow (neg : Bool) : FVal := .num neg 1 (-1000)
/-- A value far above every largest finite value. -/
def farAbove : FVal := .num false 1 1000

/-- The exponent of the leading bit of m × 2^e. -/
def leadOf (m : Nat) (e : Int) : Int := e + Nat.log2 m

/-- 2^x for a finite x that is not zero. -/
def exp2Val (neg : Bool) (m : Nat) (e : Int) : FVal :=
  if leadOf m e ≥ 10 then (if neg then farBelow false else farAbove)
  else if leadOf m e < -200 then (if neg then belowOne false else stickyVal false fixOne (-(fixBits : Int)))
  else if 0 ≤ e then
    let n : Int := signedM neg (m * 2 ^ e.toNat)
    .num false 1 n
  else
    let d : Nat := 2 ^ (-e).toNat
    let n : Int := signedM neg m / (d : Int)
    let f : Nat := (signedM neg m % (d : Int)).toNat
    if f = 0 then .num false 1 n else stickyVal false (fixExp2 (f * fixOne / d)) (n - fixBits)

/-- log₂ x for a finite positive x. -/
def log2Val (m : Nat) (e : Int) : FVal :=
  let s := Nat.log2 m
  let n : Int := e + s
  if m = 2 ^ s then FVal.ofInt n
  else
    let frac := fixLn m s * fixOne / fixLn2
    let t : Int := n * (fixOne : Int) + frac
    if t ≥ 0 then stickyVal false t.natAbs (-(fixBits : Int)) else stickyVal true (t.natAbs - 1) (-(fixBits : Int))

/-- 1 / x for a finite x that is not zero. -/
def rcpVal (neg : Bool) (m : Nat) (e : Int) : FVal :=
  let q := 2 ^ 128 / m
  if q * m = 2 ^ 128 then .num neg q (-128 - e) else stickyVal neg q (-128 - e)

/-- 1 / √x for a finite positive x. -/
def rsqVal (m : Nat) (e : Int) : FVal :=
  let odd := e % 2 = 1
  let m := if odd then 2 * m else m
  let e := if odd then e - 1 else e
  let x := 2 ^ 256 / m
  let q := isqrt 129 x
  if q * q * m = 2 ^ 256 then .num false q (-128 - e / 2) else stickyVal false q (-128 - e / 2)

/-- tanh x for a finite x that is not zero. -/
def tanhVal (neg : Bool) (m : Nat) (e : Int) : FVal :=
  if leadOf m e ≥ 6 then belowOne neg
  else if leadOf m e < -40 then .num neg (m * 2 ^ 200 - 1) (e - 200)
  else
    let (a, n) := fixExpNeg (2 * m) e
    let t := a / 2 ^ n
    stickyVal neg ((fixOne - t) * fixOne / (fixOne + t)) (-(fixBits : Int))

/-- 1 / (1 + e^−x) for a finite x that is not zero. -/
def sigmVal (neg : Bool) (m : Nat) (e : Int) : FVal :=
  if leadOf m e ≥ 7 then (if neg then farBelow false else belowOne false)
  else if leadOf m e < -200 then
    (if neg then .num false (fixOne - 1) (-(fixBits : Int) - 1) else .num false (fixOne + 1) (-(fixBits : Int) - 1))
  else
    let (a, n) := fixExpNeg m e
    let t := a / 2 ^ n
    if neg then stickyVal false (a * fixOne / (fixOne + t)) (-(fixBits : Int) - n)
    else stickyVal false (fixOne * fixOne / (fixOne + t)) (-(fixBits : Int))

/-- A function's value and the flags of its special inputs (20 R422). -/
def specialVal (fn : SpecialFn) (x : FVal) : FVal × Fl :=
  match fn, x with
  | _, .nan => (.nan, 0)
  | .exp2, .inf neg => (if neg then FVal.zero else .inf false, 0)
  | .log2, .inf neg => if neg then (.nan, Fl.nv) else (.inf false, 0)
  | .rcp, .inf neg => (.num neg 0 0, 0)
  | .rsq, .inf neg => if neg then (.nan, Fl.nv) else (FVal.zero, 0)
  | .tanh, .inf neg => (.num neg 1 0, 0)
  | .sigm, .inf neg => (if neg then FVal.zero else .num false 1 0, 0)
  | fn, .num neg m e =>
    if m = 0 then
      match fn with
      | .exp2 => (.num false 1 0, 0)
      | .log2 => (.inf true, Fl.dz)
      | .rcp => (.inf neg, Fl.dz)
      | .rsq => (.inf neg, Fl.dz)
      | .tanh => (.num neg 0 0, 0)
      | .sigm => (.num false 1 (-1), 0)
    else
      match fn with
      | .exp2 => (exp2Val neg m e, 0)
      | .log2 => if neg then (.nan, Fl.nv) else (log2Val m e, 0)
      | .rcp => (rcpVal neg m e, 0)
      | .rsq => if neg then (.nan, Fl.nv) else (rsqVal m e, 0)
      | .tanh => (tanhVal neg m e, 0)
      | .sigm => (sigmVal neg m e, 0)

/-- VSF on one element. -/
def ElemEnv.special (v : ElemEnv) (fn : SpecialFn) (a : W32) : W32 × Fl :=
  let r := specialVal fn (v.read a)
  let o := flushOut v.ty.fmt v.ftz (r.1.round v.ty.fmt v.rnd)
  container (o.1, o.2 ||| r.2)

end Sys2Proof.Machine
end

