-- ==== Sys2Proof/Machine/TileReduce.lean ====
section
/-! DEFINITION. REDU tile instructions: reductions, special functions and conversions (03 R80, R81; 11 R282; 20 R412, R417, R418, R421, R422). -/

namespace Sys2Proof.Machine

/-- The elements a reduction takes for place n of its result: a row for VREDR, a column for VREDC (03 R80). -/
def reduced (o : TileOp) (rows : Bool) (x : Grid) (n : Nat) : List W32 :=
  if rows then (List.range o.n).map (fun j => x n j) else (List.range o.m).map (fun i => x i n)

/-- The elements of the destination that a reduction writes (20 R417). -/
def reduceRegion (o : TileOp) (c : Compute) (td : TDst) (rows : Bool) : Nat → Nat → Bool :=
  fun i j => o.region c td i j && (if rows then decide (i < o.m) else decide (j < o.n))

/-- Whether the views of a reduction are those it takes (11 R282). -/
def reduceViews (td : TDst) (ta : TSrc) (rows : Bool) : Bool :=
  TDst.view td == (if rows then .col else .row) && TSrc.view ta == some .whole

/-- A plain reduction (03 R80, 20 R417): `f` is told whether the profile is NP5. -/
def reduceM (i : Instr) (h : TileHd) (td : TDst) (ta : TSrc) (rows : Bool) (types : EType → Bool)
    (f : EType → Bool → List W32 → W32 × Fl) : M Unit := do
  let o ← startTile i h (h.np = 0 || h.np = 5) true (reduceViews td ta rows) types
  let x ← readSrc o.m ta
  let s ← get
  putRegion o td (reduceRegion o s.rd.comp td rows) (fun i j => f o.env.ty (h.np = 5) (reduced o rows x (if rows then i else j)))

/-- A compensated reduction (03 R81, 20 R418). -/
def reduceCaddM (i : Instr) (h : TileHd) (td : TDst) (ta : TSrc) (rows : Bool) : M Unit := do
  let s ← get
  let o ← startTile i h (h.np = 0) (pairDst s.rd.comp.trb td) (reduceViews td ta rows) wideFloat
  let x ← readSrc o.m ta
  putPairRegion td (reduceRegion o s.rd.comp td rows) (fun i j => reduceCadd o.env.ty (reduced o rows x (if rows then i else j)))

/-- VREDR.ADD (20 R417). -/
def execVredrAdd (h : TileHd) (td : TDst) (ta : TSrc) (s : State) : Host.Outcome State Fault Refusal :=
  run (reduceM (.vredrAdd h td ta) h td ta true sumType reduceAdd) s

/-- VREDR.MAX (20 R417). -/
def execVredrMax (h : TileHd) (td : TDst) (ta : TSrc) (s : State) : Host.Outcome State Fault Refusal :=
  run (reduceM (.vredrMax h td ta) h td ta true numericType (fun t _ xs => (reducePick t false xs, 0))) s

/-- VREDR.MIN (20 R417). -/
def execVredrMin (h : TileHd) (td : TDst) (ta : TSrc) (s : State) : Host.Outcome State Fault Refusal :=
  run (reduceM (.vredrMin h td ta) h td ta true numericType (fun t _ xs => (reducePick t true xs, 0))) s

/-- VREDR.CADD (20 R418). -/
def execVredrCadd (h : TileHd) (td : TDst) (ta : TSrc) (s : State) : Host.Outcome State Fault Refusal :=
  run (reduceCaddM (.vredrCadd h td ta) h td ta true) s

/-- VREDC.ADD (20 R417). -/
def execVredcAdd (h : TileHd) (td : TDst) (ta : TSrc) (s : State) : Host.Outcome State Fault Refusal :=
  run (reduceM (.vredcAdd h td ta) h td ta false sumType reduceAdd) s

/-- VREDC.MAX (20 R417). -/
def execVredcMax (h : TileHd) (td : TDst) (ta : TSrc) (s : State) : Host.Outcome State Fault Refusal :=
  run (reduceM (.vredcMax h td ta) h td ta false numericType (fun t _ xs => (reducePick t false xs, 0))) s

/-- VREDC.MIN (20 R417). -/
def execVredcMin (h : TileHd) (td : TDst) (ta : TSrc) (s : State) : Host.Outcome State Fault Refusal :=
  run (reduceM (.vredcMin h td ta) h td ta false numericType (fun t _ xs => (reducePick t true xs, 0))) s

/-- VREDC.CADD (20 R418). -/
def execVredcCadd (h : TileHd) (td : TDst) (ta : TSrc) (s : State) : Host.Outcome State Fault Refusal :=
  run (reduceCaddM (.vredcCadd h td ta) h td ta false) s

/-- VSF (20 R421, R422). -/
def execVsf (h : TileHd) (td : TDst) (ta : TSrc) (f : SpecialFn) (s : State) : Host.Outcome State Fault Refusal :=
  run (tile1 (.vsf h td ta f) h td ta wideFloat (fun v a => v.special f a)) s

/-- VCVT (20 R412): target codes 11 to 15 raise Shape-Invalid. -/
def execVcvt (h : TileHd) (td : TDst) (ta : TSrc) (code : BitVec 4) (s : State) : Host.Outcome State Fault Refusal :=
  let to_ := EType.ofCode code
  run (tile1 (.vcvt h td ta code) h td ta (fun t => numericType t && to_.any numericType)
    (fun v a => v.convert (to_.getD .fp32) a)) s

end Sys2Proof.Machine
end

