-- ==== Sys2Proof/Machine/Dispatch.lean ====
section
/-! DEFINITION. The dispatch: one arm for each constructor of Instr, a direct call of its meaning. -/

namespace Sys2Proof.Machine

/-- What an instruction or an event does. -/
def exec (i : Instr) (s : State) : Host.Outcome State Fault Refusal :=
  match i with
  | .add d a b => Sys2Proof.Machine.execAdd d a b s
  | .sub d a b => Sys2Proof.Machine.execSub d a b s
  | .mul d a b => Sys2Proof.Machine.execMul d a b s
  | .mulh d a b => Sys2Proof.Machine.execMulh d a b s
  | .mulhu d a b => Sys2Proof.Machine.execMulhu d a b s
  | .div d a b => Sys2Proof.Machine.execDiv d a b s
  | .divu d a b => Sys2Proof.Machine.execDivu d a b s
  | .rem d a b => Sys2Proof.Machine.execRem d a b s
  | .remu d a b => Sys2Proof.Machine.execRemu d a b s
  | .and d a b => Sys2Proof.Machine.execAnd d a b s
  | .or d a b => Sys2Proof.Machine.execOr d a b s
  | .xor d a b => Sys2Proof.Machine.execXor d a b s
  | .shl d a b => Sys2Proof.Machine.execShl d a b s
  | .shr d a b => Sys2Proof.Machine.execShr d a b s
  | .shra d a b => Sys2Proof.Machine.execShra d a b s
  | .slt d a b => Sys2Proof.Machine.execSlt d a b s
  | .sltu d a b => Sys2Proof.Machine.execSltu d a b s
  | .min d a b => Sys2Proof.Machine.execMin d a b s
  | .max d a b => Sys2Proof.Machine.execMax d a b s
  | .minu d a b => Sys2Proof.Machine.execMinu d a b s
  | .maxu d a b => Sys2Proof.Machine.execMaxu d a b s
  | .clz d a => Sys2Proof.Machine.execClz d a s
  | .popc d a => Sys2Proof.Machine.execPopc d a s
  | .addi d a imm => Sys2Proof.Machine.execAddi d a imm s
  | .andi d a imm => Sys2Proof.Machine.execAndi d a imm s
  | .ori d a imm => Sys2Proof.Machine.execOri d a imm s
  | .xori d a imm => Sys2Proof.Machine.execXori d a imm s
  | .slti d a imm => Sys2Proof.Machine.execSlti d a imm s
  | .shli d a n => Sys2Proof.Machine.execShli d a n s
  | .shri d a n => Sys2Proof.Machine.execShri d a n s
  | .shrai d a n => Sys2Proof.Machine.execShrai d a n s
  | .lih d imm => Sys2Proof.Machine.execLih d imm s
  | .beq a b off => Sys2Proof.Machine.execBeq a b off s
  | .bne a b off => Sys2Proof.Machine.execBne a b off s
  | .blt a b off => Sys2Proof.Machine.execBlt a b off s
  | .bge a b off => Sys2Proof.Machine.execBge a b off s
  | .bltu a b off => Sys2Proof.Machine.execBltu a b off s
  | .bgeu a b off => Sys2Proof.Machine.execBgeu a b off s
  | .jal d off => Sys2Proof.Machine.execJal d off s
  | .jalr d a imm => Sys2Proof.Machine.execJalr d a imm s
  | .ldB d a off => Sys2Proof.Machine.execLdB d a off s
  | .ldH d a off => Sys2Proof.Machine.execLdH d a off s
  | .ldW d a off => Sys2Proof.Machine.execLdW d a off s
  | .ldD d a off => Sys2Proof.Machine.execLdD d a off s
  | .ldBz d a off => Sys2Proof.Machine.execLdBz d a off s
  | .ldHz d a off => Sys2Proof.Machine.execLdHz d a off s
  | .ldWz d a off => Sys2Proof.Machine.execLdWz d a off s
  | .st v a size off => Sys2Proof.Machine.execSt v a size off s
  | .amoAdd d a b z => Sys2Proof.Machine.execAmoAdd d a b z s
  | .amoMin d a b z => Sys2Proof.Machine.execAmoMin d a b z s
  | .amoMax d a b z => Sys2Proof.Machine.execAmoMax d a b z s
  | .amoMinu d a b z => Sys2Proof.Machine.execAmoMinu d a b z s
  | .amoMaxu d a b z => Sys2Proof.Machine.execAmoMaxu d a b z s
  | .amoAnd d a b z => Sys2Proof.Machine.execAmoAnd d a b z s
  | .amoOr d a b z => Sys2Proof.Machine.execAmoOr d a b z s
  | .amoXor d a b z => Sys2Proof.Machine.execAmoXor d a b z s
  | .amoSwap d a b z => Sys2Proof.Machine.execAmoSwap d a b z s
  | .amoCas d a b z => Sys2Proof.Machine.execAmoCas d a b z s
  | .amoFaddF32 d a b => Sys2Proof.Machine.execAmoFaddF32 d a b s
  | .amoFaddBf16 d a b => Sys2Proof.Machine.execAmoFaddBf16 d a b s
  | .fence sc => Sys2Proof.Machine.execFence sc s
  | .bfence sc => Sys2Proof.Machine.execBfence sc s
  | .clInv sc a => Sys2Proof.Machine.execClInv sc a s
  | .clWb sc a => Sys2Proof.Machine.execClWb sc a s
  | .clWbi sc a => Sys2Proof.Machine.execClWbi sc a s
  | .tlbInv sc a => Sys2Proof.Machine.execTlbInv sc a s
  | .loop a e => Sys2Proof.Machine.execLoop a e s
  | .loopRot a e => Sys2Proof.Machine.execLoopRot a e s
  | .loopR two e => Sys2Proof.Machine.execLoopR two e s
  | .brkL => Sys2Proof.Machine.execBrkL s
  | .trap imm => Sys2Proof.Machine.execTrap imm s
  | .rett => Sys2Proof.Machine.execRett s
  | .wait imm => Sys2Proof.Machine.execWait imm s
  | .waitExpiry st => Sys2Proof.Machine.execWaitExpiry st s
  | .halt => Sys2Proof.Machine.execHalt s
  | .nop => Sys2Proof.Machine.execNop s
  | .csrRd d csr => Sys2Proof.Machine.execCsrRd d csr s
  | .csrWr d a csr => Sys2Proof.Machine.execCsrWr d a csr s
  | .csrSet d a csr => Sys2Proof.Machine.execCsrSet d a csr s
  | .csrClr d a csr => Sys2Proof.Machine.execCsrClr d a csr s
  | .knrd d k => Sys2Proof.Machine.execKnrd d k s
  | .dbgMark a imm => Sys2Proof.Machine.execDbgMark a imm s
  | .qpush q x => Sys2Proof.Machine.execQpush q x s
  | .qpop x q peek => Sys2Proof.Machine.execQpop x q peek s
  | .tpost q n => Sys2Proof.Machine.execTpost q n s
  | .twait q peek n => Sys2Proof.Machine.execTwait q peek n s
  | .qstat x q => Sys2Proof.Machine.execQstat x q s
  | .tld q a b rows w zp => Sys2Proof.Machine.execTld q a b rows w zp s
  | .tldG q a b m rows w zp => Sys2Proof.Machine.execTldG q a b m rows w zp s
  | .tileLineArrival q => Sys2Proof.Machine.execTileLineArrival q s
  | .probe d a off => Sys2Proof.Machine.execProbe d a off s
  | .scwFill cluster slot => Sys2Proof.Machine.execScwFill cluster slot s
  | .scwWriteback cluster slot => Sys2Proof.Machine.execScwWriteback cluster slot s
  | .tst q a b rows w => Sys2Proof.Machine.execTst q a b rows w s
  | .cstq d a b pair w => Sys2Proof.Machine.execCstq d a b pair w s
  | .pset p imm => Sys2Proof.Machine.execPset p imm s
  | .plogAnd d a b => Sys2Proof.Machine.execPlogAnd d a b s
  | .plogOr d a b => Sys2Proof.Machine.execPlogOr d a b s
  | .plogXor d a b => Sys2Proof.Machine.execPlogXor d a b s
  | .plogAndn d a b => Sys2Proof.Machine.execPlogAndn d a b s
  | .pmovToP p x => Sys2Proof.Machine.execPmovToP p x s
  | .pmovFromP p x => Sys2Proof.Machine.execPmovFromP p x s
  | .lset lb a imm => Sys2Proof.Machine.execLset lb a imm s
  | .trbset a imm => Sys2Proof.Machine.execTrbset a imm s
  | .shape d a slot => Sys2Proof.Machine.execShape d a slot s
  | .ceCopy d a => Sys2Proof.Machine.execCeCopy d a s
  | .ceFill d a => Sys2Proof.Machine.execCeFill d a s
  | .ceGath d a => Sys2Proof.Machine.execCeGath d a s
  | .ceStart seq => Sys2Proof.Machine.execCeStart seq s
  | .ceRow seq => Sys2Proof.Machine.execCeRow seq s
  | .tuneDecl d a b => Sys2Proof.Machine.execTuneDecl d a b s
  | .tuneObj d a b => Sys2Proof.Machine.execTuneObj d a b s
  | .tuneStep d a => Sys2Proof.Machine.execTuneStep d a s
  | .tuneFrz d => Sys2Proof.Machine.execTuneFrz d s
  | .tuneRsm d => Sys2Proof.Machine.execTuneRsm d s
  | .tuneSave d a => Sys2Proof.Machine.execTuneSave d a s
  | .tuneLoad d a => Sys2Proof.Machine.execTuneLoad d a s
  | .wdPush d a => Sys2Proof.Machine.execWdPush d a s
  | .wdPop d => Sys2Proof.Machine.execWdPop d s
  | .wdSteal d => Sys2Proof.Machine.execWdSteal d s
  | .barArrive sc => Sys2Proof.Machine.execBarArrive sc s
  | .barWait sc => Sys2Proof.Machine.execBarWait sc s
  | .barAw sc => Sys2Proof.Machine.execBarAw sc s
  | .barrierRelease st => Sys2Proof.Machine.execBarrierRelease st s
  | .slotSet d a => Sys2Proof.Machine.execSlotSet d a s
  | .slotInv d a all => Sys2Proof.Machine.execSlotInv d a all s
  | .slotWb d a all => Sys2Proof.Machine.execSlotWb d a all s
  | .engWait c a => Sys2Proof.Machine.execEngWait c a s
  | .engSeq d c => Sys2Proof.Machine.execEngSeq d c s
  | .engLnch d a => Sys2Proof.Machine.execEngLnch d a s
  | .mxLease d => Sys2Proof.Machine.execMxLease d s
  | .mxFree => Sys2Proof.Machine.execMxFree s
  | .mxFmt d a b => Sys2Proof.Machine.execMxFmt d a b s
  | .mxScl a all => Sys2Proof.Machine.execMxScl a all s
  | .mxAct d a => Sys2Proof.Machine.execMxAct d a s
  | .gsCfg d a b => Sys2Proof.Machine.execGsCfg d a b s
  | .illegalInstruction strandFault word at_ => Sys2Proof.Machine.execIllegalInstruction strandFault word at_ s
  | .vadd h td ta tb => Sys2Proof.Machine.execVadd h td ta tb s
  | .vsub h td ta tb => Sys2Proof.Machine.execVsub h td ta tb s
  | .vmul h td ta tb => Sys2Proof.Machine.execVmul h td ta tb s
  | .vfma h td ta tb tc => Sys2Proof.Machine.execVfma h td ta tb tc s
  | .vmin h td ta tb => Sys2Proof.Machine.execVmin h td ta tb s
  | .vmax h td ta tb => Sys2Proof.Machine.execVmax h td ta tb s
  | .vabs h td ta => Sys2Proof.Machine.execVabs h td ta s
  | .vneg h td ta => Sys2Proof.Machine.execVneg h td ta s
  | .vcmp h pd ta tb c => Sys2Proof.Machine.execVcmp h pd ta tb c s
  | .vsel h td ta tb ps => Sys2Proof.Machine.execVsel h td ta tb ps s
  | .vaddx h td ta tb => Sys2Proof.Machine.execVaddx h td ta tb s
  | .vsubx h td ta tb => Sys2Proof.Machine.execVsubx h td ta tb s
  | .vmulx h td ta tb => Sys2Proof.Machine.execVmulx h td ta tb s
  | .dwadd h td ta tb => Sys2Proof.Machine.execDwadd h td ta tb s
  | .dwmul h td ta tb => Sys2Proof.Machine.execDwmul h td ta tb s
  | .dwfma h td ta tb tc => Sys2Proof.Machine.execDwfma h td ta tb tc s
  | .dwnorm h td ta => Sys2Proof.Machine.execDwnorm h td ta s
  | .vaddSat h td ta tb => Sys2Proof.Machine.execVaddSat h td ta tb s
  | .vsubSat h td ta tb => Sys2Proof.Machine.execVsubSat h td ta tb s
  | .vmulSat h td ta tb => Sys2Proof.Machine.execVmulSat h td ta tb s
  | .vlogAnd h td ta tb => Sys2Proof.Machine.execVlogAnd h td ta tb s
  | .vlogOr h td ta tb => Sys2Proof.Machine.execVlogOr h td ta tb s
  | .vlogXor h td ta tb => Sys2Proof.Machine.execVlogXor h td ta tb s
  | .vlogAndn h td ta tb => Sys2Proof.Machine.execVlogAndn h td ta tb s
  | .vshShl h td ta tb => Sys2Proof.Machine.execVshShl h td ta tb s
  | .vshShr h td ta tb => Sys2Proof.Machine.execVshShr h td ta tb s
  | .vshShra h td ta tb => Sys2Proof.Machine.execVshShra h td ta tb s
  | .vmov h td ta => Sys2Proof.Machine.execVmov h td ta s
  | .vrotr h td ta amt => Sys2Proof.Machine.execVrotr h td ta amt s
  | .vrotc h td ta amt => Sys2Proof.Machine.execVrotc h td ta amt s
  | .vbcr h td ta => Sys2Proof.Machine.execVbcr h td ta s
  | .vbcc h td ta => Sys2Proof.Machine.execVbcc h td ta s
  | .vsplat h td ta => Sys2Proof.Machine.execVsplat h td ta s
  | .vext h td ta => Sys2Proof.Machine.execVext h td ta s
  | .vins h td ta => Sys2Proof.Machine.execVins h td ta s
  | .vredrAdd h td ta => Sys2Proof.Machine.execVredrAdd h td ta s
  | .vredrMax h td ta => Sys2Proof.Machine.execVredrMax h td ta s
  | .vredrMin h td ta => Sys2Proof.Machine.execVredrMin h td ta s
  | .vredrCadd h td ta => Sys2Proof.Machine.execVredrCadd h td ta s
  | .vredcAdd h td ta => Sys2Proof.Machine.execVredcAdd h td ta s
  | .vredcMax h td ta => Sys2Proof.Machine.execVredcMax h td ta s
  | .vredcMin h td ta => Sys2Proof.Machine.execVredcMin h td ta s
  | .vredcCadd h td ta => Sys2Proof.Machine.execVredcCadd h td ta s
  | .vsf h td ta f => Sys2Proof.Machine.execVsf h td ta f s
  | .vcvt h td ta code => Sys2Proof.Machine.execVcvt h td ta code s
  | .mma qp acc a b slot ft d1 d2 np => Sys2Proof.Machine.execMma qp acc a b slot ft d1 d2 np s
  | .mmaZ qp acc a b slot ft d1 d2 np => Sys2Proof.Machine.execMmaZ qp acc a b slot ft d1 d2 np s
  | .mxDrain qp td first count a bias act rq ft np => Sys2Proof.Machine.execMxDrain qp td first count a bias act rq ft np s
  | .mxaCommandRetire => Sys2Proof.Machine.execMxaCommandRetire s
  | .leaseGrant cluster => Sys2Proof.Machine.execLeaseGrant cluster s
  | .nbMv d a b c rows d1 d2 np => Sys2Proof.Machine.execNbMv d a b c rows d1 d2 np s
  | .nbSaxpy d a b c rows d1 d2 np => Sys2Proof.Machine.execNbSaxpy d a b c rows d1 d2 np s
  | .nbRcpy d a c rows d1 d2 np => Sys2Proof.Machine.execNbRcpy d a c rows d1 d2 np s
  | .nbRzero d a rows d1 d2 np => Sys2Proof.Machine.execNbRzero d a rows d1 d2 np s
  | .nbStart seq => Sys2Proof.Machine.execNbStart seq s
  | .nbRowStep seq => Sys2Proof.Machine.execNbRowStep seq s
  | .nbAllowanceAdmit seq => Sys2Proof.Machine.execNbAllowanceAdmit seq s
  | .nbRequestService stack pch => Sys2Proof.Machine.execNbRequestService stack pch s
  | .nbL2Invalidate seq => Sys2Proof.Machine.execNbL2Invalidate seq s
  | .gsQry d a b slot d1 d2 np => Sys2Proof.Machine.execGsQry d a b slot d1 d2 np s
  | .gsQueryStart seq => Sys2Proof.Machine.execGsQueryStart seq s
  | .gsExpansion seq => Sys2Proof.Machine.execGsExpansion seq s
  | .gsRemoteDistance seq => Sys2Proof.Machine.execGsRemoteDistance seq s
  | .gsQueryFinish seq => Sys2Proof.Machine.execGsQueryFinish seq s
  | .deferredTrap => Sys2Proof.Machine.execDeferredTrap s
  | .pageFault st addr write => Sys2Proof.Machine.execPageFault st addr write s
  | .pageFaultAnswered resolved => Sys2Proof.Machine.execPageFaultAnswered resolved s
  | .engineFaultDelivery seq => Sys2Proof.Machine.execEngineFaultDelivery seq s
  | .postedWritePerform n => Sys2Proof.Machine.execPostedWritePerform n s
  | .cacheLeaseExpiry copy => Sys2Proof.Machine.execCacheLeaseExpiry copy s
  | .tlbPrefetch stream va => Sys2Proof.Machine.execTlbPrefetch stream va s
  | .queueDeadlock => Sys2Proof.Machine.execQueueDeadlock s
  | .bypassExpiry slot => Sys2Proof.Machine.execBypassExpiry slot s
  | .modeWrite value => Sys2Proof.Machine.execModeWrite value s
  | .sampctlWrite value => Sys2Proof.Machine.execSampctlWrite value s
  | .trcctlWrite value => Sys2Proof.Machine.execTrcctlWrite value s
  | .sampleMark st pc => Sys2Proof.Machine.execSampleMark st pc s
  | .sampleRecord killed fetch decode opwait issue exec retire => Sys2Proof.Machine.execSampleRecord killed fetch decode opwait issue exec retire s
  | .notify die value => Sys2Proof.Machine.execNotify die value s
  | .notifyDelivery die => Sys2Proof.Machine.execNotifyDelivery die s
  | .notifyRetry die => Sys2Proof.Machine.execNotifyRetry die s
  | .readRecord die pasid queue => Sys2Proof.Machine.execReadRecord die pasid queue s
  | .dispatch die => Sys2Proof.Machine.execDispatch die s
  | .preemption area => Sys2Proof.Machine.execPreemption area s
  | .taskComplete task giveUp => Sys2Proof.Machine.execTaskComplete task giveUp s
  | .coreDump die task => Sys2Proof.Machine.execCoreDump die task s
  | .teardown die pasid => Sys2Proof.Machine.execTeardown die pasid s
  | .qcbinv die value => Sys2Proof.Machine.execQcbinv die value s
  | .routeInstall die value => Sys2Proof.Machine.execRouteInstall die value s
  | .registerWrite die off value => Sys2Proof.Machine.execRegisterWrite die off value s
  | .attest die => Sys2Proof.Machine.execAttest die s
  | .readIdentityKey die => Sys2Proof.Machine.execReadIdentityKey die s
  | .hostRead port addr size => Sys2Proof.Machine.execHostRead port addr size s
  | .hostWrite port addr data => Sys2Proof.Machine.execHostWrite port addr data s
  | .hostAtomic port addr amo => Sys2Proof.Machine.execHostAtomic port addr amo s
  | .peerAccess port addr size write => Sys2Proof.Machine.execPeerAccess port addr size write s
  | .linkDown link => Sys2Proof.Machine.execLinkDown link s
  | .sensorSample die temps => Sys2Proof.Machine.execSensorSample die temps s
  | .thermalStep die overPower => Sys2Proof.Machine.execThermalStep die overPower s
  | .rowTest stack row bad lasting => Sys2Proof.Machine.execRowTest stack row bad lasting s
  | .rowScrub stack row error lasting => Sys2Proof.Machine.execRowScrub stack row error lasting s
  | .stripeRefresh stack => Sys2Proof.Machine.execStripeRefresh stack s
  | .channelRetire stack half channel => Sys2Proof.Machine.execChannelRetire stack half channel s
  | .selfRefreshEntry stack pch => Sys2Proof.Machine.execSelfRefreshEntry stack pch s
  | .reset part => Sys2Proof.Machine.execReset part s
  | .bootVerify die stage image => Sys2Proof.Machine.execBootVerify die stage image s
  | .mboxBadCommand die => Sys2Proof.Machine.execMboxBadCommand die s
  | .clk => Sys2Proof.Machine.execClk s
  | .watchdog => Sys2Proof.Machine.execWatchdog s

end Sys2Proof.Machine
end

