-- ==== Sys2Proof/Machine/Inputs.lean ====
section
/-! DEFINITION. What reaches the machine beside the events of the opcode table: gating of a front end, events posted to firmware,
requests to move a page, evictions, uncorrectable errors outside the DRAM (04 R118; 05 R129, R131, R144; 09 R213; 10 R236, R254;
18 R346). -/

namespace Sys2Proof.Machine

namespace State

/-- Firmware of a core asks to migrate, replicate or move a page of an address space (04 R118): of a page with PIN = 1, whoever may
use it, this is refused and logged (09 R235 KIND 8, 10 R254); of any other it is firmware's work, by stores and TLB.INV. -/
def movePage (s : State) (core : Nat) (pasid : BitVec 20) (va : W64) : State :=
  if bitsAt va 55 9 = 0 ∧ isScratch va = false ∧ (s.leafOf (core / 64) pasid.toNat va.toNat).any (fun e => bitsAt e 63 1 == 1) then
    s.logViolation (core / 64) 8 va pasid (4 * (core % 64) + 3)
  else s

/-- Sets a mark in a line of a queue. -/
def markLine (l : Line) (sector : Nat) : Line := { l with poison := l.poison ||| BitVec.ofNat 8 (2 ^ (sector % 8)) }

/-- An uncorrectable error marks a sector (10 R236). -/
def markError (s : State) (p : ErrorAt) : State :=
  let modQ (f : Queues → Queues) : State := s.modCtx (fun c => { c with q := f c.q })
  match p with
  | .l2 n => match s.mem.held n with
    | some x => { s with mem := s.mem.hold n { x with poison := true } }
    | none => s
  | .rdc d line k =>
    { s with mem := { s.mem with copies := s.mem.copies.map (fun c =>
        if c.cache = .rdc ∧ c.holder = d ∧ c.line = line then { c with poison := c.poison ||| BitVec.ofNat 4 (2 ^ (k % 4)) } else c) } }
  | .scratch c n => s.setCluster c { s.cluster c with poison := Marks.add (s.cluster c).poison n }
  | .lq q e k => modQ (fun x => { x with lq := vecMod x.lq q (fun l => l.modify e (fun y => match y with
      | .line l => .line (markLine l k)
      | .reserved => .reserved)) })
  | .sq q e k => modQ (fun x => { x with sq := vecMod x.sq q (fun l => l.modify e (fun y => markLine y k)) })
  | .tile t r k => s.modCtx (fun c => { c with comp := { c.comp with tilePoison := Marks.add c.comp.tilePoison (128 * (t % 32) + 8 * (r % 16) + k % 8) } })

/-- An input takes place. -/
def input (s : State) (i : Input) : State :=
  match i with
  | .gate d => if d < s.part.dies then s.setDie d { s.die d with gated := true } else s
  | .posted clove n => s.wake clove n
  | .movePage core pasid va => s.movePage core pasid va
  | .evict n => s.evict n
  | .dropCopy n => { s with mem := { s.mem with copies := s.mem.copies.eraseIdx n } }
  | .error p => s.markError p

end State

end Sys2Proof.Machine
end

