-- ==== Sys2Proof/Machine/Schedule.lean ====
section
/-! DEFINITION. Whose turn it is: the acting context, the default schedule that fills an empty agenda, and which events an
agenda may hold (log 7). The logical order (05 R119) is the order of steps. -/

namespace Sys2Proof.Machine

/-- Whether an agenda may hold an event: inputs from outside and what units do on their own, but no instruction and none
of the consequences of an instruction. -/
def Instr.autonomous (i : Instr) : Bool :=
  (encode i).isNone &&
  match i with
  | .illegalInstruction .. | .deferredTrap | .pageFault .. | .modeWrite _ | .sampctlWrite _ | .trcctlWrite _ | .sampleMark ..
  | .bypassExpiry _ => false
  | _ => true

/-- Events of units whose accesses wait at occupied pseudo-channels (07 R178), with the context they belong to. What one event does on
the whole beside its accesses, and what firmware does, waits for none (DESIGN CHOICE, log 89). -/
def Instr.asks (i : Instr) (ctx : Nat × W32) : Option (Nat × W32) :=
  match i with
  | .tileLineArrival _ | .postedWritePerform _ | .ceStart _ | .ceRow _ | .nbStart _ | .gsQueryStart _ | .gsExpansion _
  | .gsRemoteDistance _ | .gsQueryFinish _ | .mxaCommandRetire => some ctx
  | .scwFill .. | .scwWriteback .. | .tlbPrefetch .. | .taskComplete .. | .hostRead .. | .hostWrite .. | .hostAtomic ..
  | .peerAccess .. => some (0, 0)
  | _ => none

namespace State

/-- A request of a link whose accesses have to wait stands at its port, and everything later behind it. -/
def holdRequest (i : Instr) (s : State) : State :=
  match i with
  | .hostRead q .. | .hostWrite q .. | .hostAtomic q .. => s.holdAtPort q i
  | .peerAccess q .. => s.holdAtPeer q i
  | _ => s

/-- An event of the agenda takes place. -/
def event (s : State) (ex : Exec) (i : Instr) (rest : List Agent) : Host.Outcome State Fault Refusal :=
  let t : State := { s with agenda := rest, issue := Issue.idle }
  match Instr.asks i (ctxName s.ctx.id) with
  | some c => askEvent ex c i (holdRequest i) t
  | none => ex i t

/-- The requests that stand at ports are tried again, in their order (07 R178, 09 R213). -/
def portEvents (s : State) : List Instr := s.hostPorts.toList.flatMap (·.waiting) ++ s.peerPorts.toList.flatMap (·.waiting)
def clearPorts (s : State) : State :=
  if s.portEvents.isEmpty then s
  else { s with hostPorts := s.hostPorts.map (fun p => { p with waiting := [] }), peerPorts := s.peerPorts.map (fun p => { p with waiting := [] }) }

/-- Puts the acting context back among the others; the placeholder of a machine without an item is dropped. -/
def parked (s : State) : List Ctx :=
  if s.ctx.id.kind.isApp ∧ s.ctx.id.task = 0 then s.others else s.others ++ [s.ctx]

/-- Makes the context at a place among the others the acting one. -/
def focus (s : State) (n : Nat) : State :=
  match s.others[n]? with
  | none => s
  | some c => { s with ctx := c, others := { s with others := s.others.eraseIdx n }.parked, round := s.round + 1 }

/-- The context of F on a core, or of Clove on a die, before it has run (10 R259; log 12). -/
def firmwareCtx (clove : Bool) (n : Nat) : Ctx :=
  let c := Ctx.fresh { kind := if clove then .clove else .F, die := if clove then n else n / 64, core := if clove then 0 else n % 64,
                       pasid := 0, item := 0, pers := false, det := false, task := 0, gang := 0, residency := .resident,
                       since := 0, area := 0 }
  if clove then { c with k := { c.k with pc := 0x8000000000000000 } } else c

/-- Makes F of a core, or Clove of a die, the acting context. -/
def toFirmware (s : State) (clove : Bool) (n : Nat) : State :=
  if isFirmware clove n s.ctx then s
  else
    match s.others.findIdx? (isFirmware clove n) with
    | some i => { s.focus i with round := s.round }
    | none =>
      if n < (if clove then s.part.dies else s.part.cores) then { s with ctx := firmwareCtx clove n, others := s.parked }
      else s

/-- What the units of a context have to do, as events (log 7). -/
def contextEvents (c : Ctx) : List Instr :=
  c.loads.flatMap (fun l => List.replicate l.rows (Instr.tileLineArrival (BitVec.ofNat 2 l.q))) ++
  c.eng.posted.map (fun _ => Instr.postedWritePerform 0) ++
  (List.range c.eng.posted.length).tail.map Instr.postedWritePerform ++
  c.eng.cmds.flatMap (fun m =>
    match m.body with
    | .ce .. => [if m.started then Instr.ceRow m.seq else .ceStart m.seq]
    | .nb _ _ _ _ _ _ _ run =>
      [if run.any (·.held) then Instr.nbAllowanceAdmit m.seq else if m.started then .nbRowStep m.seq else .nbStart m.seq]
    | .gs _ _ _ _ _ run =>
      [if run.any (·.loaded) then Instr.gsExpansion m.seq else .gsQueryStart m.seq, .gsRemoteDistance m.seq, .gsQueryFinish m.seq]
    | _ => [Instr.mxaCommandRetire]) ++
  (if c.c.blocked = some .lease then [Instr.leaseGrant (coreNo c.id / 4)] else []) ++
  c.eng.invals.map (fun v => Instr.nbL2Invalidate v.seq) ++
  [StrandId.L, .C, .S, .K].filterMap (fun k => if (c.str k).barWait.isSome then some (Instr.barrierRelease k) else none)

/-- What the package has to do beside its contexts: fills and write-backs of slots, requests that wait at a pseudo-channel,
tasks to place and to complete (log 7). -/
def packageEvents (s : State) : List Instr :=
  s.clusters.flatMap (fun e => (e.2.slots.filter (fun x => x.2.pending)).flatMap (fun x =>
    (if x.2.victim.isSome then [Instr.scwWriteback e.1 x.1] else []) ++ [Instr.scwFill e.1 x.1])) ++
  s.hbms.flatMap (fun e => (e.2.pchs.filter (fun p => !p.2.accepted.isEmpty && !p.2.requests.isEmpty)).map (fun p =>
    Instr.nbRequestService e.1 p.1)) ++
  (s.tasks.filter (fun t => !t.done)).flatMap (fun t =>
    [Instr.dispatch (if t.queue.isSome then (lrecDies s.part t.lrec).headD t.die else t.die), .taskComplete t.id false])

/-- The default schedule: what the units of the acting context have to do, then its four strands in their order and once more
those that a later one's TPOST may have freed (02 R34), then the next context; after all of them the package and a clk. -/
def schedule (s : State) : List Agent :=
  (s.portEvents).map .event ++ (contextEvents s.ctx).map .event ++ [.strand .L, .strand .C, .strand .S, .strand .K, .strand .L, .strand .C, .strand .S] ++
  (if s.round < s.others.length then [.focus 0] else (s.packageEvents).map .event ++ [.event .clk])

end State

end Sys2Proof.Machine
end

