-- ==== Sys2Proof/Machine/Step.lean ====
section
/-! DEFINITION. One step of the machine: what the agenda names happens; an empty agenda is filled with the default
schedule (log 7). -/

namespace Sys2Proof.Machine

/-- One step. -/
def step (s : State) : Host.Outcome State Fault Refusal :=
  match s.agenda with
  | [] => .next { s.clearPorts with agenda := s.schedule }
  | .strand k :: rest => turn exec k { s with agenda := rest }
  | .event i :: rest =>
    if Instr.autonomous i then s.event exec i rest else .next { s with agenda := rest }
  | .focus n :: rest => .next (State.focus { s with agenda := rest } n)
  | .firmware c n :: rest => .next (State.toFirmware { s with agenda := rest } c n)
  | .input i :: rest => .next (State.input { s with agenda := rest } i)

/-- The strand on which an instruction of the opcode table is placed: the control strand where it may issue there. -/
def State.fetchStrand (i : Option Instr) : StrandId :=
  match i with
  | none => .K
  | some i => ([StrandId.K, .C, .S, .L].find? (Instr.strands i)).getD .K

/-- The words of an opcode-table row with the stop bit of the last one set, as bytes. -/
def State.fetchBytes (nbits w : Nat) : List Byte :=
  let v := w % 2 ^ nbits
  let w0 := v % 2 ^ 32
  let w1 := v / 2 ^ 32
  if isLongWord w0 then wordBytes w0 ++ wordBytes (w1 % 2 ^ 31 + 2 ^ 31)
  else wordBytes (w0 % 2 ^ 31 + 2 ^ 31)

/-- The state with an instruction placed where the next step fetches it: the acting context is a resident item of a bank
that issues on a die whose firmware is verified, the strand stands at the lowest scratchpad address, and the agenda names that strand
(log 13). -/
def State.withFetchWord (s : State) (nbits w : Nat) : State :=
  let st := State.fetchStrand (decodeTableWord nbits w)
  let c := s.ctx
  let id := { c.id with kind := .A, residency := .resident }
  let ready (p : Strand) : Strand := { p with issued := false, held := none }
  let p := c.str st
  let c' := ({ c with id, fault := none, replaying := false, l := ready c.l, c := ready c.c, s := ready c.s, k := ready c.k,
                      trap := { c.trap with active := c.trap.active && decide (st = StrandId.K) },
                      eng := { c.eng with deferred := [] } }).setStr st
    { p with pc := scratchBase, halted := false, issued := false, waitUntil := none, barWait := none, held := none }
  let n := State.coreNo id
  let s1 := { s with ctx := c', agenda := [.strand st] }
  let s2 := (s1.setCore n { s1.core n with issuing := .A, next := none }).setDie id.die
    { s1.die id.die with boot := { (s1.die id.die).boot with failed := false, stage := 2 } }
  let k := n / 4
  s2.setCluster k { s2.cluster k with mem := cellsPut (s2.cluster k).mem 0 (State.fetchBytes nbits w) }

end Sys2Proof.Machine
end

