-- ==== Sys2Proof/Safety.lean ====
section
/-! DEFINITION. What a safe run is: the invariants that a step keeps, and the words the statements are made of. -/

namespace Sys2Proof.Machine

/-- The tables of memory are in canonical form: keys rise and no entry equals what an unlisted key reads as. -/
def Mem.wf (m : Mem) : Bool :=
  Cells.wf 0 m.dram && Cells.wf none m.l2 && Cells.wf 0 m.host && Cells.wf 0 m.peer

/-- The table of clusters and the scratchpads in it are in canonical form. -/
def clustersWf (c : Cells Cluster) : Bool := Cells.wf Cluster.reset c && c.all (fun e => Cells.wf 0 e.2.mem)

/-- The table of dies and Clove's private memories in it are in canonical form. -/
def diesWf (d : Cells Die) : Bool := Cells.wf Die.reset d && d.all (fun e => Cells.wf 0 e.2.cloveMem)

/-- Every memory of the machine is in canonical form: DRAM, the home L2, the memory of host and peers, every scratchpad and
Clove's private memories. -/
def Memory.wf (s : State) : Bool := Mem.wf s.mem && clustersWf s.clusters && diesWf s.dies

/-- The two checks that come before an instruction's own: it is legal where the machine stands, and its strand may issue
it (17 R309). -/
abbrev Allowed (s : State) (i : Instr) : Prop := s.illegal i = false ∧ s.strandBad i = false

/-- Every byte of the machine reads as before. -/
def SameBytes (s t : State) : Prop := ∀ g : Target, (t.readT g 1).1.data = (s.readT g 1).1.data

/-- An instruction raises a precise trap when it issues and has no other effect (11 R268): the exception is taken as
`State.takeTrap` says. -/
def Traps (i : Instr) (s : State) (c : Cause) (addr : W64) : Prop :=
  exec i s = .next { (s.modMe (fun p => { p with pc := s.issue.pc })).takeTrap c.code addr s.issue.pc s.strand false with
    issue := { s.issue with ended := .trapped c.code addr 0 } }

/-- An instruction raises Access-Violation when it issues and has no other effect: the violation is logged under its KIND with the
address space and party of its strand (09 R235), and the exception is taken. -/
def Violates (i : Instr) (s : State) (kind : Nat) (addr : W64) : Prop :=
  exec i s = .next { ((s.modMe (fun p => { p with pc := s.issue.pc })).logViolation s.ctx.id.die kind addr
      (s.reqOf s.strand 0).pasid (s.partyOf s.strand)).takeTrap 0x06 addr s.issue.pc s.strand false with
    issue := { s.issue with ended := .trapped 0x06 addr kind } }

/-- An access whose translation has been found, which leaves the machine in `u`, is refused: the violation is logged under its KIND,
and Access-Violation is taken with nothing read or written (09 R235). -/
def Refuses (i : Instr) (s u : State) (kind : Nat) (addr : W64) : Prop :=
  exec i s = .next { (u.logViolation u.ctx.id.die kind addr (u.reqOf u.strand 0).pasid (u.partyOf u.strand)).takeTrap
      0x06 addr u.issue.pc u.strand false with issue := { u.issue with ended := .faulted } }

/-- An instruction blocks: nothing changes but that its strand waits at it (02 R34). -/
def Blocks (i : Instr) (s : State) (b : Block) : Prop :=
  exec i s = .next { s.modMe (fun p => { p with pc := s.issue.pc, blocked := some b }) with
    issue := { s.issue with ended := .blocked b } }

/-- The address of a scalar access passes its checks, the strand has no tile load in flight before it, and the access goes
to a target: `u` is the state after the translation. -/
def Reaches (s : State) (va : W64) (n : Nat) (write : Bool) (g : Target) (leaf : W64) (u : State) : Prop :=
  va.toNat % n = 0 ∧ (s.ctx.id.kind = .clove ∨ bitsAt va 55 9 = 0) ∧ (s.strand ≠ .L ∨ s.ctx.loads = []) ∧
  findT s.strand 0 va write s = .ok (g, leaf) u

/-- Nothing holds an access of n bytes of a target up: no posted write of the strand, no pending fill, no link that is
down. -/
abbrev Open (s : State) (g : Target) (n : Nat) : Prop :=
  s.postedOn s.strand g n = false ∧ s.fillPending g n = false ∧ s.linkError g = none

/-- What an access of n bytes of a target reads is sound: neither its sector nor the copy of it in the die's RDC carries the mark of
an error (10 R236). -/
abbrev Sound (s : State) (g : Target) (n : Nat) : Prop :=
  (s.readT g n).1.poison = false ∧ s.copyMarked g = false

/-- The state after a read that succeeds: a load through the cache leaves its read copies (05 R122). -/
def State.afterRead (s : State) (g : Target) (n : Nat) : State :=
  match g with
  | .hbm k _ 0 false => (s.readT g n).2.noteCopies k
  | _ => (s.readT g n).2

/-- A tile instruction is allowed and slot 0 holds a grant (06 R149). -/
abbrev Starts (s : State) (i : Instr) (g : Grant) : Prop :=
  Allowed s i ∧ grantOf (s.rd.comp.slots.getD 0 emptySlot) = some g

/-- What a tile instruction works on under the grant of slot 0: its M and N, its element type with FRM and FTZ as the
compute strand sees them, and the bits of its guard (02 R37; 03 R66, R68, R70). -/
def tileOpOf (s : State) (h : TileHd) (g : Grant) : TileOp :=
  { m := g.m, n := g.n, env := { ty := g.ty, rnd := Rnd.ofFrm s.numerics.1, ftz := s.numerics.2 }, guard := s.rd.comp.pred h.qp }

/-- The number that a held bundle of the acting strand has kept for the copy command at the member (11 R268; log 41). -/
def State.keptNumber (s : State) : Option W32 :=
  (s.ctx.eng.cmds.find? (fun m => m.unread && m.strand == s.strand && m.pc == s.issue.pc)).map (·.seq)

/-- The machine with one more engine command of the acting strand in flight, not started: it takes the number kept for it, or the
context's next sequence number, which goes up by one and from the largest to 1 (05 R136). -/
def State.withCommand (s : State) (cls : EngClass) (d1 d2 : BitVec 6) (foot : Foot) (body : CmdBody) : State :=
  let c (q : W32) : Cmd :=
    { seq := q, cls, strand := s.strand, pc := s.issue.pc, d1, d2, foot, started := false, stalled := none,
      body, finished := false, causes := [], code := 0, desc := none,
      lease := if cls = .mxa then (s.cluster s.hereCluster).lease else 0, unread := false }
  s.modCtx (fun x => { x with eng := match s.keptNumber with
    | some q => { x.eng with cmds := x.eng.cmds.map (fun m => if m.seq = q then c q else m) }
    | none =>
      let q := s.ctx.eng.seqno
      { x.eng with cmds := x.eng.cmds ++ [c q], seqno := if q = 0xFFFFFFFF then 1 else q + 1, last := q,
                   wrapped := x.eng.wrapped || decide (q = 0xFFFFFFFF) } })

/-- The number of the command that the acting strand issues. -/
def State.commandNumber (s : State) : W32 := s.keptNumber.getD s.ctx.eng.seqno

/-- A number of half units compared with an exact positive value p / d × 2^e, the unit being 2^q. -/
def ratCmp (p d : Nat) (e q : Int) (k : Nat) : Ordering :=
  let b := min e (q - 1)
  compare (k * d * 2 ^ (q - 1 - b).toNat) (p * 2 ^ (e - b).toNat)

/-- The same with the square root of p / d × 2^e. -/
def rootCmp (p d : Nat) (e q : Int) (k : Nat) : Ordering :=
  let b := min e (2 * (q - 1))
  compare (k * k * d * 2 ^ (2 * (q - 1) - b).toNat) (p * 2 ^ (e - b).toNat)

/-- A rounding mode sends a value of a sign to n units, where `cmp` compares half units with its magnitude (03 R68): the nearest
number of units with ties to even, the next towards zero, or the next away from it. -/
def Near (mode : Rnd) (neg : Bool) (cmp : Nat → Ordering) (n : Nat) : Prop :=
  let nearest : Prop := (n = 0 ∨ cmp (2 * n - 1) ≠ .gt) ∧ cmp (2 * n + 1) ≠ .lt ∧
    ((0 < n ∧ cmp (2 * n - 1) = .eq) ∨ cmp (2 * n + 1) = .eq → n % 2 = 0)
  let inward : Prop := cmp (2 * n) ≠ .gt ∧ cmp (2 * n + 2) = .gt
  let outward : Prop := cmp (2 * n) ≠ .lt ∧ (n = 0 ∨ cmp (2 * n - 2) = .lt)
  match mode with
  | .rne => nearest
  | .rtz => inward
  | .rup => if neg then inward else outward
  | .rdn => if neg then outward else inward

/-- Bits and flags are an exact positive magnitude of a sign, given by its comparison with half units of 2^q, rounded to a format (03
R69, R72): L is the exponent of its leading bit and n0 its rounding at the format's precision, which decide overflow and tininess. -/
def RoundsTo (f : FFmt) (mode : Rnd) (neg : Bool) (cmp : Int → Nat → Ordering) (r : Nat × Fl) : Prop :=
  ∃ (L : Int) (n0 : Nat), cmp L 2 ≠ .gt ∧ cmp L 4 = .gt ∧ Near mode neg (cmp (L - f.fb)) n0 ∧
    let emin : Int := 1 - f.bias
    let emax : Int := (2 ^ f.eb - 1 : Nat) - f.bias - (if f.hasInf then 1 else 0)
    let most : Nat := if f.hasInf then 2 ^ (f.fb + 1) - 1 else 2 ^ (f.fb + 1) - 2
    let tooBig : Prop := emax < L ∨ (L = emax ∧ most < n0)
    let tiny : Prop := L < emin ∧ ¬(L = emin - 1 ∧ n0 = 2 ^ (f.fb + 1))
    let inf : Bool := f.hasInf && (match mode with | .rne => true | .rtz => false | .rup => !neg | .rdn => neg)
    let g : Int := max L emin - f.fb
    (tooBig → r = (if inf then f.infBits neg else f.maxBits neg, Fl.of ||| Fl.nx)) ∧
    (¬tooBig → ∃ (n m : Nat) (e : Int), Near mode neg (cmp g) n ∧ r.1 < 2 ^ (f.eb + f.fb + 1) ∧ f.decode r.1 = .num neg m e ∧
      m * 2 ^ (e - min e g).toNat = n * 2 ^ (g - min e g).toNat ∧
      r.2 &&& ~~~(Fl.uf ||| Fl.nx) = 0 ∧ (r.2 &&& Fl.nx = 0 ↔ cmp g (2 * n) = .eq) ∧
      (r.2 &&& Fl.uf = 0 ↔ cmp g (2 * n) = .eq ∨ ¬tiny))

/-- The exact sum of two values; a zero sum of opposite signs is +0, but −0 under RDN, and Inf − Inf is a NaN (03 R69, R72). -/
def IsSum (mode : Rnd) (x y z : FVal) : Prop :=
  match x, y with
  | .nan, _ | _, .nan => z = .nan
  | .inf a, .inf b => z = if a = b then .inf a else .nan
  | .inf a, .num .. => z = .inf a
  | .num .., .inf b => z = .inf b
  | .num na ma ea, .num nb mb eb => ∃ n m e, z = .num n m e ∧
      (let b := min e (min ea eb)
       signedM n (m * 2 ^ (e - b).toNat) = signedM na (ma * 2 ^ (ea - b).toNat) + signedM nb (mb * 2 ^ (eb - b).toNat)) ∧
      (m = 0 → n = if na = nb then na else decide (mode = .rdn))

/-- The exact product of two values; 0 × Inf is a NaN (03 R72). -/
def IsProduct (x y z : FVal) : Prop :=
  match x, y with
  | .nan, _ | _, .nan => z = .nan
  | .inf a, .inf b => z = .inf (a != b)
  | .inf a, .num b m _ => z = if m = 0 then .nan else .inf (a != b)
  | .num a m _, .inf b => z = if m = 0 then .nan else .inf (a != b)
  | .num na ma ea, .num nb mb eb => ∃ m e, z = .num (na != nb) m e ∧
      (let b := min e (ea + eb)
       m * 2 ^ (e - b).toNat = ma * mb * 2 ^ (ea + eb - b).toNat)

/-- A value lies below another: −0 and +0 do not differ (03 R63). -/
def Less (x y : FVal) : Prop :=
  match x, y with
  | .inf a, .inf b => a = true ∧ b = false
  | .inf a, .num .. => a = true
  | .num .., .inf b => b = false
  | .num na ma ea, .num nb mb eb =>
      let b := min ea eb
      signedM na (ma * 2 ^ (ea - b).toNat) < signedM nb (mb * 2 ^ (eb - b).toNat)
  | _, _ => False

/-- The value that RN gives, with the flags of the rounding: NV where operands without a NaN make one (03 R69, R72). -/
def RN (f : FFmt) (nan : Bool) (x : FVal) : FVal × Fl :=
  let r := x.round f .rne
  (f.decode r.1, r.2 ||| (if x = .nan ∧ nan = false then Fl.nv else 0))

/-- A node of the pairwise tree of R84 with the flags of the roundings below it: leaf i is the value at place i, and each higher node
holds RN of the sum of its present children. -/
def treeNode (f : FFmt) (xs : List FVal) : Nat → Nat → Option (FVal × Fl)
  | 0, i => xs[i]?.map (fun x => (x, 0))
  | level + 1, j =>
    match treeNode f xs level (2 * j), treeNode f xs level (2 * j + 1) with
    | some (x, a), some (y, b) =>
      let r := RN f (decide (x = .nan ∨ y = .nan)) (x.add .rne y)
      some (r.1, a ||| b ||| r.2)
    | some (x, a), none | none, some (x, a) =>
      let r := RN f (decide (x = .nan)) x
      some (r.1, a ||| r.2)
    | none, none => none

/-- A recorded event is the one of the least key KBLK, ROW, COL, EVENT among those that meet a condition, none where none does (10
R249). -/
def LeastEvent (e : Option ProvEvent) (among : ProvEvent → Prop) : Prop :=
  (e = none → ∀ x, ¬among x) ∧ ∀ x, e = some x → among x ∧ ∀ y, among y →
    ¬(y.kblk < x.kblk ∨ (y.kblk = x.kblk ∧ (y.row < x.row ∨ (y.row = x.row ∧ (y.col < x.col ∨ (y.col = x.col ∧ y.event < x.event))))))

end Sys2Proof.Machine
end

