-- ==== Sys2Proof/Certificates/Slice0/Obligations.lean ====
section
/-! DEFINITION. The statements for the provers: what the rules of the spec say the machine and its instructions do. -/

open Sys2Proof Sys2Proof.Machine

/-- Every instruction of ALU.R (ADD to POPC) completes for every state and operands, and writes the value its table entry gives
to xd, tainted when a source is tainted, and nothing else: the next state is the old one with that one register written.
Division by zero, the signed overflow of DIV and REM, and shift amounts of 64 and more have the values that R337, R378 and R381
give. -/
def Obligations.RegisterArithmetic : Prop :=
  ∀ (s : State) (d a b : Reg),
    let x := s.getX a
    let y := s.getX b
    let puts (i : Instr) (v : W64) : Prop := exec i s = .next (s.setX d v (s.tainted a || s.tainted b))
    puts (.add d a b) (BitVec.ofInt 64 (x.toInt + y.toInt)) ∧
    puts (.sub d a b) (BitVec.ofInt 64 (x.toInt - y.toInt)) ∧
    puts (.mul d a b) (BitVec.ofNat 64 (x.toNat * y.toNat)) ∧
    puts (.mulh d a b) (BitVec.ofInt 64 (x.toInt * y.toInt / 2 ^ 64)) ∧
    puts (.mulhu d a b) (BitVec.ofNat 64 (x.toNat * y.toNat / 2 ^ 64)) ∧
    puts (.div d a b) (if y = 0 then 0xFFFFFFFFFFFFFFFF else BitVec.ofInt 64 (x.toInt.tdiv y.toInt)) ∧
    puts (.divu d a b) (if y = 0 then 0xFFFFFFFFFFFFFFFF else BitVec.ofNat 64 (x.toNat / y.toNat)) ∧
    puts (.rem d a b) (if y = 0 then x else BitVec.ofInt 64 (x.toInt.tmod y.toInt)) ∧
    puts (.remu d a b) (if y = 0 then x else BitVec.ofNat 64 (x.toNat % y.toNat)) ∧
    puts (.and d a b) (x &&& y) ∧
    puts (.or d a b) (x ||| y) ∧
    puts (.xor d a b) (x ^^^ y) ∧
    puts (.shl d a b) (if 64 ≤ y.toNat then 0 else BitVec.ofNat 64 (x.toNat * 2 ^ y.toNat)) ∧
    puts (.shr d a b) (if 64 ≤ y.toNat then 0 else BitVec.ofNat 64 (x.toNat / 2 ^ y.toNat)) ∧
    puts (.shra d a b) (if 64 ≤ y.toNat then (if x.toInt < 0 then 0xFFFFFFFFFFFFFFFF else 0)
      else BitVec.ofInt 64 (x.toInt / 2 ^ y.toNat)) ∧
    puts (.slt d a b) (if x.toInt < y.toInt then 1 else 0) ∧
    puts (.sltu d a b) (if x.toNat < y.toNat then 1 else 0) ∧
    puts (.min d a b) (BitVec.ofInt 64 (Min.min x.toInt y.toInt)) ∧
    puts (.max d a b) (BitVec.ofInt 64 (Max.max x.toInt y.toInt)) ∧
    puts (.minu d a b) (BitVec.ofNat 64 (Min.min x.toNat y.toNat)) ∧
    puts (.maxu d a b) (BitVec.ofNat 64 (Max.max x.toNat y.toNat)) ∧
    (∃ n, n ≤ 64 ∧ (∀ k, k < n → x.getLsbD (63 - k) = false) ∧ (n < 64 → x.getLsbD (63 - n) = true) ∧
      exec (.clz d a) s = .next (s.setX d (BitVec.ofNat 64 n) (s.tainted a))) ∧
    exec (.popc d a) s = .next (s.setX d (BitVec.ofNat 64 ((List.range 64).countP x.getLsbD)) (s.tainted a))

/-- Every immediate form (ADDI to SHRAI, and LIH) completes for every state and operands and writes xd alone: the immediate is
sign-extended before use, a shift amount is its six bits, LIH places its 20 bits at bit 12, and the taint is that of xa (LIH:
none). No encoding of ADDI, ANDI, ORI, XORI, SLTI and LIH is reserved. -/
def Obligations.ImmediateArithmetic : Prop :=
  ∀ (s : State) (d a : Reg) (imm : BitVec 15) (n : BitVec 6) (im : BitVec 20),
    let x := s.getX a
    let puts (i : Instr) (v : W64) : Prop := exec i s = .next (s.setX d v (s.tainted a))
    puts (.addi d a imm) (BitVec.ofInt 64 (x.toInt + imm.toInt)) ∧
    puts (.andi d a imm) (x &&& BitVec.ofInt 64 imm.toInt) ∧
    puts (.ori d a imm) (x ||| BitVec.ofInt 64 imm.toInt) ∧
    puts (.xori d a imm) (x ^^^ BitVec.ofInt 64 imm.toInt) ∧
    puts (.slti d a imm) (if x.toInt < imm.toInt then 1 else 0) ∧
    puts (.shli d a n) (BitVec.ofNat 64 (x.toNat * 2 ^ n.toNat)) ∧
    puts (.shri d a n) (BitVec.ofNat 64 (x.toNat / 2 ^ n.toNat)) ∧
    puts (.shrai d a n) (BitVec.ofInt 64 (x.toInt / 2 ^ n.toNat)) ∧
    exec (.lih d im) s = .next (s.setX d (BitVec.ofInt 64 (im.toInt * 4096))) ∧
    ∀ w : Nat, fld w 25 6 ∈ [0x01, 0x02, 0x03, 0x04, 0x05, 0x07] → (decodeShort w).isSome = true

/-- What writing a scalar register does: a write to X0 changes nothing and X0 reads as zero; any other register that is no
bypass slot then holds the value and its taint; a bypass slot reads as the value, untainted, in the three clk after that of the write
and as zero from then on; what the members of the same bundle read in the clk of the write stays as it was, for every register; every
other register of the strand, its pc and loops, every other strand, the compute state, the queues, the CSRs, the trap registers and
every byte of memory stay. -/
def Obligations.RegisterWrite : Prop :=
  ∀ (s : State) (r : Reg) (v : W64) (b : Bool),
    s.setX 0 v b = s ∧ s.getX 0 = 0 ∧
    let t := s.setX r v b
    let p := s.ctx.str s.strand
    let q := t.ctx.str s.strand
    (r ≠ 0 → s.bypassed r = false → q.x.getD r.toNat 0 = v ∧ q.taint.getD r.toNat false = b) ∧
    (s.issue.snap = none → s.bypassed r = true → ∀ c : W64, ({ t with cycle := c }).tainted r = false ∧
      (s.cycle.toNat < c.toNat → c.toNat ≤ s.cycle.toNat + 3 → ({ t with cycle := c }).getX r = v) ∧
      (s.cycle.toNat + 3 < c.toNat → ({ t with cycle := c }).getX r = 0)) ∧
    (s.issue.snap ≠ none → ∀ k : Reg, t.getX k = s.getX k ∧ t.tainted k = s.tainted k) ∧
    (∀ k : Reg, (k ≠ r ∨ s.bypassed r = true) → q.x.getD k.toNat 0 = p.x.getD k.toNat 0 ∧
      q.taint.getD k.toNat false = p.taint.getD k.toNat false) ∧
    q.pc = p.pc ∧ q.halted = p.halted ∧ q.loop0 = p.loop0 ∧ q.loop1 = p.loop1 ∧ q.view = p.view ∧
    (∀ k, k ≠ s.strand → t.ctx.str k = s.ctx.str k) ∧
    t.ctx.comp = s.ctx.comp ∧ t.ctx.q = s.ctx.q ∧ t.ctx.csr = s.ctx.csr ∧ t.ctx.trap = s.ctx.trap ∧ t.ctx.eng = s.ctx.eng ∧
    t.others = s.others ∧ t.cycle = s.cycle ∧ SameBytes s t

/-- A conditional branch completes for every state: where its condition holds of X[xa] and X[xb] the strand goes on at the
branch word's address plus four times the signed offset, otherwise nothing changes. JAL and JALR write the address after their
word to xd and go on at their target; a JALR to an address that is not a multiple of 4 raises Misaligned, and one to an aligned
address with a bit of 63:55 set Access-Violation, logged with KIND 11; neither writes a link.
Going on at an address sets the strand's pc to it and closes exactly those active loop levels whose body, from its start up to
but not including its end, does not hold the address; the levels' counters, every register, every other strand and all of memory
stay. -/
def Obligations.ControlTransfers : Prop :=
  (∀ (s : State) (d a b : Reg) (off : BitVec 15) (far : BitVec 20),
      let x := s.getX a
      let y := s.getX b
      let goes (i : Instr) (c : Prop) : Prop :=
        (c → exec i s = .next (s.transfer (s.issue.pc + BitVec.ofInt 64 (4 * off.toInt)))) ∧ (¬c → exec i s = .next s)
      goes (.beq a b off) (x = y) ∧ goes (.bne a b off) (x ≠ y) ∧
      goes (.blt a b off) (x.toInt < y.toInt) ∧ goes (.bge a b off) (y.toInt ≤ x.toInt) ∧
      goes (.bltu a b off) (x.toNat < y.toNat) ∧ goes (.bgeu a b off) (y.toNat ≤ x.toNat) ∧
      exec (.jal d far) s = .next ((s.setX d (s.issue.pc + 4)).transfer (s.issue.pc + BitVec.ofInt 64 (4 * far.toInt))) ∧
      let t := x + BitVec.ofInt 64 off.toInt
      (t.toNat % 4 = 0 → t.toNat < 2 ^ 55 →
        exec (.jalr d a off) s = .next ((s.setX d (s.issue.pc + 4) (s.tainted a)).transfer t)) ∧
      (t.toNat % 4 ≠ 0 → Traps (.jalr d a off) s .misaligned t) ∧
      (t.toNat % 4 = 0 → 2 ^ 55 ≤ t.toNat → Violates (.jalr d a off) s 11 t)) ∧
  (∀ (s : State) (t : W64),
      let p := s.ctx.str s.strand
      let u := s.transfer t
      let q := u.ctx.str s.strand
      let closes (l m : LoopLevel) : Prop :=
        (m.active = true ↔ l.active = true ∧ l.start.toNat ≤ t.toNat ∧ t.toNat < l.stop.toNat) ∧
        m.cnt = l.cnt ∧ m.idx = l.idx ∧ m.start = l.start ∧ m.stop = l.stop ∧ m.rotating = l.rotating
      q.pc = t ∧ closes p.loop0 q.loop0 ∧ closes p.loop1 q.loop1 ∧ q.x = p.x ∧ q.taint = p.taint ∧
      (∀ k, k ≠ s.strand → u.ctx.str k = s.ctx.str k) ∧ u.ctx.comp = s.ctx.comp ∧ u.ctx.q = s.ctx.q ∧ u.ctx.csr = s.ctx.csr ∧
      u.ctx.trap = s.ctx.trap ∧ u.ctx.eng = s.ctx.eng ∧ u.others = s.others ∧ SameBytes s u)

/-- LOOP, where it may issue, completes. With a count N > 0 in bits 31:0 of X[xa] the free level opens with LCNT = N - 1 and
LIDX = 0, its body from the next word up to four times end15 past the LOOP; the rotating form also sets P8 and clears P9 to P15.
With N = 0 the level stays closed with both counters 0 and the strand goes on at the end address, where a level 0 that ends there too has
its back-edge as at the end of its last bundle. Nothing else changes. -/
def Obligations.LoopOpens : Prop :=
  ∀ (s : State) (a : Reg) (e : BitVec 15),
    let one := (s.ctx.str s.strand).loop0.active
    let n : W32 := (s.getX a).setWidth 32
    let stop := s.issue.pc + BitVec.ofNat 64 (4 * e.toNat)
    let opened (rot : Bool) : LoopLevel :=
      { active := true, rotating := rot, cnt := n - 1, idx := 0, start := s.issue.pc + 4, stop }
    (Allowed s (.loop a e) → n ≠ 0 → exec (.loop a e) s = .next (s.modMe (fun q => q.setLevel one (opened false)))) ∧
    (Allowed s (.loopRot a e) → n ≠ 0 → ∃ t, exec (.loopRot a e) s = .next t ∧
      t = { s.modMe (fun q => q.setLevel one (opened true)) with ctx := { (s.modMe (fun q => q.setLevel one (opened true))).ctx with
        comp := { s.ctx.comp with preds := t.ctx.comp.preds } } } ∧
      ∀ k, k < 16 → t.ctx.comp.preds.getD k 0 = if k < 8 then s.ctx.comp.preds.getD k 0 else if k = 8 then 0xFFFF else 0) ∧
    (n = 0 → ∀ i, (i = .loop a e ∨ i = .loopRot a e) → Allowed s i → exec i s = .next
        ((s.modMe (fun q => q.setLevel one { q.level one with active := false, cnt := 0, idx := 0 })).jumpTo stop).endOfBundle)

/-- The back-edges at the end of a bundle whose last word is the last of the body of an active level that does not rotate: such a level
counts LIDX up, and while LCNT is not zero LCNT counts down and the strand goes on at the body's start, otherwise the level closes
and the strand goes on after it. Where both levels end there, level 1 comes first, and level 0 follows only when that closed level
1; level 0 of a strand that has not halted takes the knobs' setting of a later epoch than its view's: the newest, and on another strand
than K in the clk of a commit that of the commits before. A level that does not end there, or rotates, stays as it is, and so does
everything else. -/
def Obligations.LoopBackEdge : Prop :=
  ∀ (s : State),
    let p := s.ctx.str s.strand
    let u := s.endOfBundle
    let q := u.ctx.str s.strand
    let ends (l : LoopLevel) : Prop := l.active = true ∧ l.rotating = false ∧ l.stop = p.pc
    let counted (l m : LoopLevel) : Prop :=
      m = { l with idx := l.idx + 1, cnt := if l.cnt = 0 then 0 else l.cnt - 1, active := decide (l.cnt ≠ 0) }
    let zero : Prop := ends p.loop0 ∧ (p.loop1.active = false ∨ p.loop1.stop ≠ p.pc ∨ (ends p.loop1 ∧ p.loop1.cnt = 0))
    (ends p.loop1 → counted p.loop1 q.loop1) ∧ (¬ends p.loop1 → q.loop1 = p.loop1) ∧
    (zero → counted p.loop0 q.loop0) ∧ (¬zero → q.loop0 = p.loop0) ∧
    (ends p.loop1 → p.loop1.cnt ≠ 0 → q.pc = p.loop1.start) ∧
    (zero → q.pc = if p.loop0.cnt = 0 then p.pc else p.loop0.start) ∧
    (¬zero → (¬ends p.loop1 ∨ p.loop1.cnt = 0) → q.pc = p.pc) ∧
    (∀ view epoch, ((s.strand = .K ∨ s.cycle ≠ s.ctx.tsu.commitClk) → view = s.ctx.tsu.setting ∧ epoch = s.ctx.tsu.epoch) →
      (s.strand ≠ .K → s.cycle = s.ctx.tsu.commitClk → view = s.ctx.tsu.before ∧ epoch = s.ctx.tsu.beforeEpoch) →
      (zero → p.viewEpoch < epoch → p.halted = false → q.view = view ∧ q.viewEpoch = epoch) ∧
      (¬zero ∨ epoch ≤ p.viewEpoch ∨ p.halted = true → q.view = p.view ∧ q.viewEpoch = p.viewEpoch)) ∧
    q.x = p.x ∧ (∀ k, k ≠ s.strand → u.ctx.str k = s.ctx.str k) ∧ u.ctx.comp = s.ctx.comp ∧ u.ctx.q = s.ctx.q ∧ u.mem = s.mem

/-- LOOP.R, where it may issue, completes: it counts the innermost level as a back-edge does, shifts P8 to P15 up by one with P8
all ones while LCNT was not zero and all zeros afterwards, subtracts its step from TRB, and goes on at the body's start while
one of its stage predicates is not zero; otherwise the level closes. BRK.L, where it may issue, closes the innermost level and
goes on at its end, leaving the counters as they are; a level 0 that ends there too has its back-edge as at the end of its last
bundle. -/
def Obligations.LoopRotateAndBreak : Prop :=
  ∀ (s : State) (two : Bool) (e : BitVec 3) (one : Bool),
    let p := s.ctx.str s.strand
    let l := p.level one
    p.innermost = some one →
    (Allowed s (.loopR two e) → ∃ t, exec (.loopR two e) s = .next t ∧
      let q := t.ctx.str s.strand
      let go : Prop := ∃ k, k ≤ e.toNat ∧ t.ctx.comp.preds.getD (8 + k) 0 ≠ 0
      (q.level one).idx = l.idx + 1 ∧ (q.level one).cnt = (if l.cnt = 0 then 0 else l.cnt - 1) ∧
      (∀ k, k < 16 → t.ctx.comp.preds.getD k 0 = if k < 8 then s.ctx.comp.preds.getD k 0
        else if k = 8 then (if l.cnt = 0 then 0 else 0xFFFF) else s.ctx.comp.preds.getD (k - 1) 0) ∧
      t.ctx.comp.trb = s.ctx.comp.trb - (if two then 2 else 1) ∧
      ((q.level one).active = true ↔ go) ∧ (go → q.pc = l.start) ∧ (¬go → q.pc = p.pc) ∧
      q.level (!one) = p.level (!one) ∧ q.x = p.x ∧ t.ctx.comp.tiles = s.ctx.comp.tiles ∧ t.ctx.q = s.ctx.q ∧ SameBytes s t) ∧
    (Allowed s .brkL →
      exec .brkL s = .next ((s.modMe (fun q => q.setLevel one { q.level one with active := false })).jumpTo l.stop).endOfBundle)

/-- NOP changes nothing. WAIT n with n ≥ 1 sets only the clk at which its strand issues again, n clk of CYCLE on; WAIT 0 in a
bank of an application changes nothing, and in firmware acts as HALT. HALT sets the strand halted, and the item ends where it is
the last, unless a cause still waits for a boundary; until then nothing else changes. Where a bundle ends, a cause that waits for the
boundary of a strand that has halted is taken, with DEFER set, and an item whose strands have all halted with none left ends. When a
WAIT's last clk has passed, its expiry clears it and nothing else. KNRD writes the strand's view of the knob, sign-extended and tainted:
in the clk of a commit that writes every view, another strand than K reads the view before it; in firmware it writes zero, untainted.
Nothing else changes. -/
def Obligations.WaitHaltNopKnob : Prop :=
  (∀ (s : State) (imm : BitVec 10) (st : StrandId),
      exec .nop s = .next s ∧
      (imm ≠ 0 → exec (.wait imm) s = .next (s.modMe (fun p => { p with waitUntil := some (s.cycle.toNat + imm.toNat) }))) ∧
      (s.ctx.id.kind.isApp = true → exec (.wait 0) s = .next s) ∧
      (s.ctx.id.kind.isApp = false → exec (.wait 0) s = exec .halt s) ∧
      ((∃ k, k ≠ s.strand ∧ (s.ctx.str k).halted = false) →
        exec .halt s = .next (s.modMe (fun p => { p with halted := true }))) ∧
      ((∀ k, k ≠ s.strand → (s.ctx.str k).halted = true) → (s.ctx.trap.active = true ∨ s.ctx.eng.deferred = []) →
        exec .halt s = .next (s.modMe (fun p => { p with halted := true })).endItem) ∧
      (s.ctx.trap.active = false → s.ctx.eng.deferred ≠ [] → exec .halt s = .next (s.modMe (fun p => { p with halted := true }))) ∧
      (s.ctx.trap.active = true → s.afterHalts = s) ∧
      (s.ctx.trap.active = false → ∀ d rest, s.ctx.eng.deferred = d :: rest → (s.ctx.str d.strand).halted = true →
        s.afterHalts = (s.modCtx (fun c => { c with eng := { c.eng with deferred := rest } })).takeTrap d.cause d.addr d.pc d.strand true) ∧
      (s.ctx.trap.active = false → (∀ d ∈ s.ctx.eng.deferred, (s.ctx.str d.strand).halted = false) →
        (s.ctx.allHalted = true → s.afterHalts = s.endItem) ∧ (s.ctx.allHalted = false → s.afterHalts = s)) ∧
      (∀ c, (s.ctx.str st).waitUntil = some c →
        (c ≤ s.cycle.toNat →
          exec (.waitExpiry st) s = .next (s.modCtx (fun x => x.modStr st (fun p => { p with waitUntil := none })))) ∧
        (s.cycle.toNat < c → ∃ t, exec (.waitExpiry st) s = .next t ∧ (t.ctx.str st).waitUntil = some c))) ∧
  (∀ (s : State) (d : Reg) (k : BitVec 4),
      (∀ view : Vector W16 16, s.ctx.id.kind.isApp = true →
        ((s.strand = .K ∨ ∀ v, s.me.wasView ≠ some (s.rdClk, v)) → view = s.me.view) →
        (s.strand ≠ .K → ∀ v, s.me.wasView = some (s.rdClk, v) → view = v) →
        exec (.knrd d k) s = .next (s.setX d (BitVec.ofInt 64 (view.getD k.toNat 0).toInt) true)) ∧
      (s.ctx.id.kind.isApp = false → exec (.knrd d k) s = .next (s.setX d 0)))

/-- Taking an exception writes the trap registers: the cause, its address, the trapping pc and strand, and DEFER. TRAPRPC
receives the control strand's next bundle address, but a precise trap of the control strand other than Software-Trap leaves the
trapping pc there. Where TRAPVEC is not 0, ACTIVE was clear and the cause is not Watchdog, ACTIVE is set and the control strand
goes on at TRAPVEC, its registers and loops as they were; every other strand keeps its pc and its registers and issues nothing.
An exception of an application's item that has no handler to go to (TRAPVEC 0, ACTIVE set, or Watchdog) ends the item: all four
strands are halted, the item is no longer resident, its task's status becomes TRAP with the cause unless an earlier item has set
it, and every byte of memory stays. -/
def Obligations.ExceptionEntry : Prop :=
  (∀ (s : State) (cause : BitVec 8) (addr pc : W64) (st : StrandId) (defer : Bool),
      let t := s.takeTrap cause addr pc st defer
      let r := t.ctx.trap
      r.cause = cause ∧ r.addr = addr ∧ r.pc = pc ∧ r.strand = st ∧ r.defer = defer ∧ r.vec = s.ctx.trap.vec ∧
      r.rpc = (if st = .K ∧ defer = false ∧ cause ≠ 0x0E then pc else s.ctx.k.pc) ∧
      (s.ctx.trap.vec ≠ 0 → s.ctx.trap.active = false → cause ≠ 0x10 →
        r.active = true ∧ t.ctx.k.pc = s.ctx.trap.vec ∧ t.ctx.k.halted = false ∧
        t.ctx.k.x = s.ctx.k.x ∧ t.ctx.k.loop0 = s.ctx.k.loop0 ∧ t.ctx.k.loop1 = s.ctx.k.loop1 ∧
        (∀ k, k ≠ .K → (t.ctx.str k).pc = (s.ctx.str k).pc ∧ (t.ctx.str k).x = (s.ctx.str k).x ∧
          (t.ctx.str k).halted = (s.ctx.str k).halted ∧ t.mayIssue k = false) ∧
        t.ctx.comp = s.ctx.comp ∧ t.ctx.q = s.ctx.q ∧ t.ctx.csr = s.ctx.csr ∧ t.tasks = s.tasks ∧ SameBytes s t)) ∧
  (∀ (s : State) (cause : BitVec 8) (addr pc : W64) (st : StrandId) (defer : Bool),
      s.ctx.id.kind.isApp = true → s.ctx.trap.vec = 0 ∨ s.ctx.trap.active = true ∨ cause = 0x10 →
      let t := s.takeTrap cause addr pc st defer
      t.ctx.allHalted = true ∧ t.ctx.id.residency = .ended ∧ t.ctx.trap.cause = cause ∧ t.ctx.trap.pc = pc ∧
      t.tasks = s.tasks.map (fun k => if k.id = s.ctx.id.task ∧ k.status = 0
        then { k with status := 1, cause, item := s.ctx.id.item, tpc := pc } else k) ∧ SameBytes s t)

/-- RETT, where it may issue, completes: ACTIVE is cleared, the control strand goes on at TRAPRPC with the halted state it had
when the trap came, and the strand of a precise trap of L, C or S goes on at TRAPPC, unless the trap was a Software-Trap or its
tile load left a marker; every other strand goes on where it stopped. A bundle that the trap found issued, with members done, goes on at
the member that trapped, its pc behind it; where the handler has moved TRAPPC or TRAPRPC elsewhere, what is left of the bundle is
dropped (the model's reading, log 41). The tile loads in flight stay, and a load strand that has markers to replay issues nothing until
their rows have arrived. Registers, flags, queues and memory stay as the handler left them. Without ACTIVE, RETT raises
Illegal-Instruction with its word. -/
def Obligations.ReturnFromException : Prop :=
  ∀ (s : State),
    let begins (h : Option Held) (pc : W64) : Prop := ∃ b m ms, h = some b ∧ b.rest = m :: ms ∧ m.1 = pc
    (Allowed s .rett → ∃ t, exec .rett s = .next t ∧
      let r := s.ctx.trap
      let precise : Prop := r.defer = false ∧ r.cause ≠ 0x0E
      t.ctx.trap.active = false ∧ t.ctx.k.halted = r.kHalted ∧ t.ctx.k.barWait = r.kWait ∧ t.issue.taken = true ∧
      ((r.strand ≠ .K ∨ ¬precise) → t.ctx.k.pc = r.rpc ∧ t.ctx.k.held = r.kHeld) ∧
      (r.strand = .K → precise → ¬begins r.kHeld r.rpc → t.ctx.k.pc = r.rpc ∧ t.ctx.k.held = none) ∧
      (r.strand = .K → precise → begins r.kHeld r.rpc → ∀ h, r.kHeld = some h → t.ctx.k.pc = h.next ∧ t.ctx.k.held = some h) ∧
      let marker : Prop := r.strand = .L ∧ ∃ l ∈ s.ctx.loads, l.pc = r.pc
      let back : Prop := r.strand ≠ .K ∧ precise ∧ ¬marker ∧ ¬begins (s.ctx.str r.strand).held r.pc
      (back → (t.ctx.str r.strand).pc = r.pc ∧ (t.ctx.str r.strand).held = none) ∧
      (∀ k, k ≠ .K → k ≠ r.strand ∨ ¬back → t.ctx.str k = s.ctx.str k) ∧
      t.ctx.loads = s.ctx.loads ∧ (s.ctx.replaying = true → s.ctx.loads ≠ [] → t.mayIssue .L = false) ∧
      (∀ k, (t.ctx.str k).x = (s.ctx.str k).x ∧ (t.ctx.str k).taint = (s.ctx.str k).taint) ∧
      t.ctx.comp = s.ctx.comp ∧ t.ctx.q = s.ctx.q ∧ { t.ctx.csr with samp := s.ctx.csr.samp } = s.ctx.csr ∧
      t.ctx.trap.cause = r.cause ∧ SameBytes s t) ∧
    (s.ctx.id.kind ≠ .clove → s.ctx.trap.active = false → Traps .rett s .illegalInstruction (s.issue.word.setWidth 64))

/-- TRAP takes Software-Trap with TRAPADDR its code and TRAPPC its own word, after the loop back-edge that its bundle may end
with. A word that is no instruction takes Illegal-Instruction, and a member on a strand that may not issue it Illegal-Strand,
with the word in TRAPADDR and its address in TRAPPC. A cause that was waiting for its strand's bundle boundary is taken there
with DEFER set and waits no longer. -/
def Obligations.SoftwareIllegalAndDeferredTraps : Prop :=
  ∀ (s : State) (imm : BitVec 10) (w : W32) (at_ : W64) (d : DeferredCause),
    (∃ t, exec (.trap imm) s = .next t ∧ t.ctx = (s.endOfBundle.takeTrap 0x0E (imm.setWidth 64) s.issue.pc s.strand false).ctx ∧
      t.tasks = (s.endOfBundle.takeTrap 0x0E (imm.setWidth 64) s.issue.pc s.strand false).tasks ∧ SameBytes s t) ∧
    exec (.illegalInstruction false w at_) s = .next (s.takeTrap 0x01 (w.setWidth 64) at_ s.strand false) ∧
    exec (.illegalInstruction true w at_) s = .next (s.takeTrap 0x02 (w.setWidth 64) at_ s.strand false) ∧
    (s.ctx.eng.deferred = [d] → d.strand = s.strand → exec .deferredTrap s = .next
      ((s.modCtx (fun c => { c with eng := { c.eng with deferred := [] } })).takeTrap d.cause d.addr d.pc d.strand true))

/-- An instruction that is not legal where the machine stands raises Illegal-Instruction, and a legal one on a strand that may
not issue it Illegal-Strand, each with the instruction's word and before any effect: stated for one instruction of each kind
that has such a check (loops, RETT, queues, predicates, tile loads and stores, scalar memory, engines, near-bank and matrix
commands). When an instruction is illegal, for every instruction: on Clove, where it is outside Clove's scalar subset; LOOP, where its
end is nearer than two words, level 1 is active, or level 0 is and ends before the new end (or there, rotating); LOOP.R without a
rotating innermost level that ends with its word; BRK.L without an active level; RETT without ACTIVE; a write of a CSR that its context
may not write; no other. Which strands may issue what, for an application's context: scalar loads, stores, atomics, cache-line maintenance and
copy-engine commands anywhere but on C; tile loads and PROBE on L alone; tile, predicate, line-counter, SHAPE and matrix
instructions on C alone; TST and CSTQ on S alone; near-bank and graph commands on S and K; RETT, TLB.INV, tuning, deques, SLOT,
GS.CFG and ENG.LNCH on K alone; a barrier wider than a core on K alone; arithmetic, branches, CSRs and the rest everywhere. -/
def Obligations.LegalityAndStrands : Prop :=
  (∀ (s : State) (d a b c : Reg) (e : BitVec 15) (q : BitVec 3) (q2 : BitVec 2) (sq : BitVec 1) (n : BitVec 8) (p : BitVec 4)
      (im : BitVec 16) (rows : BitVec 5) (r6 d1 d2 : BitVec 6) (w : TWidth) (off : BitVec 12) (z : AmoSize) (h : TileHd)
      (td : TDst) (ta tb : TSrc),
      ∀ i ∈ [Instr.loop a e, .loopRot a e, .brkL, .rett, .qpush q a, .qpop d q false, .tpost q n, .twait q false n, .pset p im,
          .plogAnd p p p, .lset false a r6, .trbset a p, .shape d a q2, .tld q2 a b rows w false, .tst sq a b rows w,
          .cstq d a b false w, .ldD d a off, .st a b .d off, .amoAdd d a b z, .ceCopy d a, .ceFill d a, .wdPush d a, .mxFree,
          .mxFmt d a b, .gsCfg none a b, .engLnch d a, .nbSaxpy d a b c r6 d1 d2 n, .gsQry d a b q2 d1 d2 n, .vadd h td ta tb],
        (s.illegal i = true → Traps i s .illegalInstruction (s.issue.word.setWidth 64)) ∧
        (s.illegal i = false → s.strandBad i = true → Traps i s .illegalStrand (s.issue.word.setWidth 64))) ∧
  (∀ (s : State) (i : Instr),
      let p := s.ctx.str s.strand
      let stop (e : BitVec 15) : Nat := s.issue.pc.toNat + 4 * e.toNat
      let loopBad (e : BitVec 15) : Prop := e.toNat < 2 ∨ p.loop1.active = true ∨ (p.loop0.active = true ∧
        (p.loop0.stop.toNat < stop e ∨ (p.loop0.rotating = true ∧ p.loop0.stop.toNat = stop e)))
      let turns (l : LoopLevel) : Prop := l.rotating = true ∧ l.stop = s.issue.pc + 4
      let csrBad (n : BitVec 10) : Prop :=
        n ∈ [(0x000 : BitVec 10), 0x001, 0x002, 0x003, 0x004, 0x021, 0x030, 0x03A, 0x03B, 0x0C0, 0x0C1, 0x0C2, 0x0C3, 0x0C4, 0x110, 0x111] ∨
        (s.ctx.id.kind.isApp = true ∧ (n ∈ [(0x032 : BitVec 10), 0x100, 0x101, 0x102, 0x103, 0x104] ∨ (0x200 ≤ n.toNat ∧ n.toNat ≤ 0x214)))
      let onClove : Prop := match i with
        | .add .. | .sub .. | .mul .. | .mulh .. | .mulhu .. | .div .. | .divu .. | .rem .. | .remu .. | .and .. | .or .. | .xor ..
        | .shl .. | .shr .. | .shra .. | .slt .. | .sltu .. | .min .. | .max .. | .minu .. | .maxu .. | .clz .. | .popc ..
        | .addi .. | .andi .. | .ori .. | .xori .. | .slti .. | .shli .. | .shri .. | .shrai .. | .lih .. | .beq .. | .bne .. | .blt ..
        | .bge .. | .bltu .. | .bgeu .. | .jal .. | .jalr .. | .ldB .. | .ldH .. | .ldW .. | .ldD .. | .ldBz .. | .ldHz .. | .ldWz ..
        | .st .. | .amoAdd .. | .amoMin .. | .amoMax .. | .amoMinu .. | .amoMaxu .. | .amoAnd .. | .amoOr .. | .amoXor .. | .amoSwap ..
        | .amoCas .. | .amoFaddF32 .. | .amoFaddBf16 .. | .fence _ | .bfence _ | .clInv .. | .clWb .. | .clWbi .. | .trap _ | .rett
        | .wait _ | .halt | .nop | .csrRd .. | .csrWr .. | .csrSet .. | .csrClr .. | .knrd .. | .dbgMark .. => True
        | _ => False
      s.illegal i = true ↔ ((s.ctx.id.kind = .clove ∧ ¬onClove) ∨ (match i with
        | .loop _ e | .loopRot _ e => loopBad e
        | .loopR .. => (p.loop1.active = true ∧ ¬turns p.loop1) ∨ (p.loop1.active = false ∧ (p.loop0.active = false ∨ ¬turns p.loop0))
        | .brkL => p.loop0.active = false ∧ p.loop1.active = false
        | .rett => s.ctx.trap.active = false
        | .csrWr _ _ n => csrBad n
        | .csrSet _ a n | .csrClr _ a n => a ≠ 0 ∧ csrBad n
        | _ => False))) ∧
  (∀ (s : State) (d a b c : Reg) (off : BitVec 12) (o15 : BitVec 15) (z : AmoSize) (q : BitVec 2) (sq : BitVec 1)
      (rows : BitVec 5) (w : TWidth) (p : BitVec 4) (im : BitVec 16) (r6 d1 d2 : BitVec 6) (n : BitVec 8) (sc : Scope)
      (h : TileHd) (td : TDst) (t5 : BitVec 5) (v v' : View) (ix ix' : IxSrc) (ac : BitVec 5) (bs : BarScope) (csr : BitVec 10),
      s.ctx.id.kind.isApp = true →
      let only (i : Instr) (l : List StrandId) : Prop := s.strandBad i = true ↔ s.strand ∉ l
      only (.ldW d a off) [.L, .S, .K] ∧ only (.st a b .w off) [.L, .S, .K] ∧ only (.amoSwap d a b z) [.L, .S, .K] ∧
      only (.clWb sc a) [.L, .S, .K] ∧ only (.ceFill d a) [.L, .S, .K] ∧
      only (.tld q a b rows w false) [.L] ∧ only (.probe d a o15) [.L] ∧
      only (.pset p im) [.C] ∧ only (.lset false a r6) [.C] ∧ only (.shape d a q) [.C] ∧ only (.loopRot a o15) [.C] ∧
      only (.vadd h td (.tile t5 v ix) (.tile t5 v' ix')) [.C] ∧ only (.mma p ac a b q false d1 d2 n) [.C] ∧ only (.mxLease d) [.C] ∧
      only (.tst sq a b rows w) [.S] ∧ only (.cstq d a b false w) [.S] ∧
      only (.nbSaxpy d a b c r6 d1 d2 n) [.S, .K] ∧ only (.gsQry d a b q d1 d2 n) [.S, .K] ∧
      only .rett [.K] ∧ only (.tlbInv sc a) [.K] ∧ only (.tuneFrz none) [.K] ∧ only (.wdPush d a) [.K] ∧ only (.slotSet none a) [.K] ∧
      only (.gsCfg none a b) [.K] ∧ only (.engLnch d a) [.K] ∧
      only (.barAw bs) (if bs = .core then [.L, .C, .S, .K] else [.K]) ∧
      only (.add d a b) [.L, .C, .S, .K] ∧ only (.beq a b o15) [.L, .C, .S, .K] ∧ only (.csrRd d csr) [.L, .C, .S, .K] ∧
      only (.fence sc) [.L, .C, .S, .K] ∧ only .halt [.L, .C, .S, .K])

/-- CSR.RD writes the CSR's value to xd, untainted, and changes nothing else. CSR.WR, CSR.SET and CSR.CLR, where the write is
permitted, write the old value to xd and then store the source, the old value with the source's bits set, and with them cleared;
SET and CLR with X0 are pure reads. A knob's taint in the source of a CSR.WR, CSR.SET or CSR.CLR of FRM or FTZ by a deterministic
item raises Knob-Numerics. A
write of a CSR that is read-only (CAP0, CAP1, COREID, CYCLE, CTXID, SEQNO, SCWIN, TRAPCAUSE, TRAPADDR, NBMPC, NBMACC, LCNT,
LIDX, LSTAT) raises Illegal-Instruction in every context, and one of QDLIMIT, LEASELIM, FWSHARE, AGEQ, MODE, TLBSEL or a thermal
register in an application's context. -/
def Obligations.CsrInstructions : Prop :=
  (∀ (s : State) (d a : Reg) (n : BitVec 10),
      let old := s.csrRead n.toNat
      let x := s.getX a
      let clean : Prop := s.ctx.id.kind.isApp = false ∨ s.ctx.id.det = false ∨ s.tainted a = false ∨ (n ≠ 0x010 ∧ n ≠ 0x012)
      (Allowed s (.csrRd d n) → (s.strand ≠ .C ∨ (n ≠ 0x010 ∧ n ≠ 0x012)) → exec (.csrRd d n) s = .next (s.setX d old)) ∧
      (Allowed s (.csrWr d a n) → clean → exec (.csrWr d a n) s = .next ((s.setX d old).csrStore n.toNat x)) ∧
      (Allowed s (.csrSet d a n) → a ≠ 0 → clean → exec (.csrSet d a n) s = .next ((s.setX d old).csrStore n.toNat (old ||| x))) ∧
      (Allowed s (.csrClr d a n) → a ≠ 0 → clean → exec (.csrClr d a n) s = .next ((s.setX d old).csrStore n.toNat (old &&& ~~~x))) ∧
      (Allowed s (.csrSet d 0 n) → (s.strand ≠ .C ∨ (n ≠ 0x010 ∧ n ≠ 0x012)) → exec (.csrSet d 0 n) s = .next (s.setX d old)) ∧
      (Allowed s (.csrClr d 0 n) → (s.strand ≠ .C ∨ (n ≠ 0x010 ∧ n ≠ 0x012)) → exec (.csrClr d 0 n) s = .next (s.setX d old)) ∧
      (∀ i ∈ [Instr.csrWr d a n, .csrSet d a n, .csrClr d a n], Allowed s i → ¬clean →
        Traps i s .knobNumerics (s.issue.word.setWidth 64))) ∧
  (∀ (s : State) (d a : Reg) (n : BitVec 10),
      let readOnly := n ∈ [(0x000 : BitVec 10), 0x001, 0x002, 0x003, 0x004, 0x021, 0x030, 0x110, 0x111, 0x03A, 0x03B, 0x0C0,
        0x0C1, 0x0C2, 0x0C3, 0x0C4]
      let firmware := n ∈ [(0x100 : BitVec 10), 0x101, 0x102, 0x103, 0x104, 0x032] ∨ (0x200 ≤ n.toNat ∧ n.toNat ≤ 0x214)
      (readOnly ∨ (firmware ∧ s.ctx.id.kind.isApp = true)) →
        Traps (.csrWr d a n) s .illegalInstruction (s.issue.word.setWidth 64) ∧
        (a ≠ 0 → Traps (.csrSet d a n) s .illegalInstruction (s.issue.word.setWidth 64) ∧
          Traps (.csrClr d a n) s .illegalInstruction (s.issue.word.setWidth 64)))

/-- What a store leaves in a CSR reads back: RW fields take their bits of the value and every other bit stays (FFLAGS in a clk
in which no flag is raised). A store changes no scalar register, no strand's pc, no tile, queue or byte of memory. -/
def Obligations.CsrStoreReadsBack : Prop :=
  ∀ (s : State) (v : W64),
    s.issue.snap = none → s.cycle ≠ s.ctx.csr.raised.1 →
    let back (n : Nat) (mask : W64) : Prop := (s.csrStore n v).csrRead n = (s.csrRead n &&& ~~~mask) ||| (v &&& mask)
    back 0x010 0x3 ∧ back 0x011 0x7F ∧ back 0x012 0x1 ∧ back 0x031 0xFFFFFFFFFFFFFFFF ∧ back 0x034 0xFFFFFFFFFFFF000F ∧
    (s.part ≠ .sl3240m → back 0x038 0xF) ∧ back 0x039 0x7FFF ∧ back 0x03C 0xFFFFFFFFFFFF000F ∧ back 0x050 0xFFFFFFFF ∧
    back 0x051 0xE07FFFFFFFFFFFE0 ∧ back 0x070 0xFFFFFFFFFFFFFFFF ∧ back 0x08E 0x007FFFFFFFFF0000 ∧
    back 0x100 0x7F ∧ back 0x101 0x7F ∧ back 0x102 0xFFFFFFFF ∧ back 0x103 0xFFFF ∧ back 0x032 0x80000000000FFFFF ∧
    back 0x112 0xFFFFFFFFFFFFFFFF ∧ back 0x113 0xFFFFFFFFFFFFFFFF ∧ back 0x114 0xFFFFFFFFFFFFFFFF ∧
    back 0x210 0xFFFF ∧ back 0x211 0xFFFF ∧ back 0x212 0xFFFF ∧ back 0x214 0xFFFFFFFF ∧
    (∀ n, n ∈ [0x010, 0x011, 0x012, 0x031, 0x034, 0x039, 0x03C, 0x050, 0x051, 0x070, 0x100, 0x102, 0x112, 0x113, 0x210] →
      let t := s.csrStore n v
      (∀ k, (t.ctx.str k).x = (s.ctx.str k).x ∧ (t.ctx.str k).pc = (s.ctx.str k).pc) ∧ t.ctx.comp = s.ctx.comp ∧
      t.ctx.q = s.ctx.q ∧ t.mem = s.mem ∧ t.clusters = s.clusters)

/-- Every scalar load that reaches a target (its address aligned and its translation found) and is neither held up nor meets
the mark of an error completes: it writes the bytes at the target, sign- or zero-extended by its form, untainted, to xd, and changes only what
the translation and the read itself leave (cached copies); an X0 destination discards the value. -/
def Obligations.LoadsReadTheirBytes : Prop :=
  ∀ (s u : State) (d a : Reg) (off : BitVec 12) (g : Target) (leaf : W64),
    let va := s.getX a + BitVec.ofInt 64 off.toInt
    let gives (i : Instr) (n : Nat) (ext : Nat → W64) : Prop :=
      Allowed s i → Reaches s va n false g leaf u → Open u g n → Sound u g n →
        exec i s = .next ((u.afterRead g n).setX d (ext (natOfBytes (u.readT g n).1.data)))
    gives (.ldB d a off) 1 (fun v => BitVec.ofInt 64 (BitVec.ofNat 8 v).toInt) ∧
    gives (.ldH d a off) 2 (fun v => BitVec.ofInt 64 (BitVec.ofNat 16 v).toInt) ∧
    gives (.ldW d a off) 4 (fun v => BitVec.ofInt 64 (BitVec.ofNat 32 v).toInt) ∧
    gives (.ldD d a off) 8 (BitVec.ofNat 64) ∧ gives (.ldBz d a off) 1 (BitVec.ofNat 64) ∧
    gives (.ldHz d a off) 2 (BitVec.ofNat 64) ∧ gives (.ldWz d a off) 4 (BitVec.ofNat 64)

/-- A store that reaches a target completes: in space 0 and the scratchpad the low bytes of X[xs] are written there at once,
where no pending fill and no broken way holds the store up and its sector is not poisoned; in spaces 1, 2, 3 and 8 the write joins the context's posted
writes with its address, bytes and pc. Nothing else changes but what the translation left. -/
def Obligations.StoresWriteTheirBytes : Prop :=
  ∀ (s u : State) (v a : Reg) (z : StSize) (off : BitVec 12) (g : Target) (leaf : W64),
    let va := s.getX a + BitVec.ofInt 64 off.toInt
    let n := match z with | .b => 1 | .h => 2 | .w => 4 | .d => 8
    let bs := (List.range n).map (fun i => BitVec.ofNat 8 ((s.getX v).toNat / 2 ^ (8 * i)))
    Allowed s (.st v a z off) → Reaches s va n true g leaf u →
    (g.posted = false → u.fillPending g n = false → u.linkError g = none → u.poisonedT g = false →
      exec (.st v a z off) s = .next (u.writeT g bs)) ∧
    (g.posted = true → exec (.st v a z off) s = .next (u.modCtx (fun c => { c with eng := { c.eng with posted :=
      c.eng.posted ++ [{ strand := s.strand, pc := s.issue.pc, va, target := g, data := bs, poison := false, seq := c.eng.seqno }] } })))

/-- Every integer atomic that reaches a target outside space 8, is not held up and meets no poison completes: it reads the old
value, stores the new one the table gives (sum, signed or unsigned minimum or maximum, and, or, exclusive or, the operand) at
the same place, and writes the old value, sign-extended for a word, to xd. CAS stores only where the old value equals the low
bits of xd. A floating atomic that reaches a target outside space 8 whose page defers no adds, is not held up and meets no
poison completes: it stores the rounded sum (two BF16 halves, or FP32) and writes the old word, zero-extended, to xd. On a
deterministic-reduction page the add of a context that is not deterministic is refused with KIND 6; a deterministic item's add,
no posted write of the strand standing before it, joins the pending ones under its key and xd receives 0, and no byte of memory is
written: those of DRAM, of which the home slice of the word, under the page's layout, holds 4,096, where one more is refused with KIND
7, and those of host and of peer memory, for which the spec names no store: the model's one list for each has no limit (log 78). -/
def Obligations.AtomicsReadModifyWrite : Prop :=
  (∀ (s u : State) (d a b : Reg) (z : AmoSize) (g : Target) (leaf : W64),
      let w := match z with | .w => 32 | .d => 64
      let n := w / 8
      let old := natOfBytes (u.readT g n).1.data
      let x := (s.getX b).toNat % 2 ^ w
      let e := (s.getX d).toNat % 2 ^ w
      let sg (v : Nat) : Int := (BitVec.ofNat w v).toInt
      let back : W64 := match z with | .w => BitVec.ofInt 64 (BitVec.ofNat 32 old).toInt | .d => BitVec.ofNat 64 old
      let does (i : Instr) (new : Nat) : Prop :=
        Allowed s i → exec i s = .next (((u.readT g n).2.writeT g (bytesOfNat n (new % 2 ^ w))).setX d back)
      Reaches s (s.getX a) n true g leaf u → (∀ k o, g ≠ .regs k o) → Open u g n →
      (u.readT g n).1.poison = false →
      does (.amoAdd d a b z) (old + x) ∧ does (.amoMin d a b z) (if sg x < sg old then x else old) ∧
      does (.amoMax d a b z) (if sg old < sg x then x else old) ∧ does (.amoMinu d a b z) (Min.min old x) ∧
      does (.amoMaxu d a b z) (Max.max old x) ∧ does (.amoAnd d a b z) (old &&& x) ∧ does (.amoOr d a b z) (old ||| x) ∧
      does (.amoXor d a b z) (old ^^^ x) ∧ does (.amoSwap d a b z) x ∧ (old = e → does (.amoCas d a b z) x) ∧
      (old ≠ e → Allowed s (.amoCas d a b z) → exec (.amoCas d a b z) s = .next ((u.readT g n).2.setX d back))) ∧
  (∀ (s u : State) (d a b : Reg) (bf : Bool) (g : Target) (leaf : W64),
      let i : Instr := if bf then .amoFaddBf16 d a b else .amoFaddF32 d a b
      let old := natOfBytes (u.readT g 4).1.data
      let x : W32 := (s.getX b).setWidth 32
      Allowed s i → Reaches s (s.getX a) 4 true g leaf u →
      ((∀ k o, g ≠ .regs k o) → bitsAt leaf 12 1 = 0 → Open u g 4 → (u.readT g 4).1.poison = false →
        exec i s = .next (((u.readT g 4).2.writeT g (bytesOfNat 4 (faddWord bf (BitVec.ofNat 32 old) x).toNat)).setX d (BitVec.ofNat 64 old))) ∧
      (bitsAt leaf 12 1 = 1 → (s.ctx.id.det = false ∨ s.ctx.id.kind.isApp = false) → Refuses i s u 6 (s.getX a)) ∧
      (∀ k bank c dir, g = .hbm k bank c dir → bitsAt leaf 12 1 = 1 → s.ctx.id.det = true → s.ctx.id.kind.isApp = true →
        u.postedOn s.strand g 4 = false → u.linkError g = none → u.poisonedT g = false → 4096 ≤ slicePending u.mem bank k →
        Refuses i s u 7 (s.getX a)) ∧
      (∀ k bank c dir, g = .hbm k bank c dir → bitsAt leaf 12 1 = 1 → s.ctx.id.det = true → s.ctx.id.kind.isApp = true →
        u.postedOn s.strand g 4 = false → u.linkError g = none → u.poisonedT g = false → slicePending u.mem bank k < 4096 →
        let p : PendingAdd :=
          { key := k, bank, item := s.ctx.id.item, strand := s.strand.code, n := (s.ctx.str s.strand).adds, value := x, bf16 := bf }
        ∃ t, exec i s = .next t ∧ t.mem.adds = u.mem.adds ++ [p] ∧ t.mem.dram = u.mem.dram ∧ t.mem.l2 = u.mem.l2 ∧ t.clusters = u.clusters ∧
          (d ≠ 0 → s.bypassed d = false → (t.ctx.str s.strand).x.getD d.toNat 0 = 0)) ∧
      (bitsAt leaf 12 1 = 1 → s.ctx.id.det = true → s.ctx.id.kind.isApp = true →
        u.postedOn s.strand g 4 = false → u.linkError g = none → u.poisonedT g = false →
        let p (key : Nat) : PendingAdd :=
          { key, bank := false, item := s.ctx.id.item, strand := s.strand.code, n := (s.ctx.str s.strand).adds, value := x, bf16 := bf }
        let later (m : Mem) : Prop := ∃ t, exec i s = .next t ∧ t.mem = m ∧ t.clusters = u.clusters ∧
          (d ≠ 0 → s.bypassed d = false → (t.ctx.str s.strand).x.getD d.toNat 0 = 0)
        (∀ o, g = .host o → later { u.mem with hostAdds := u.mem.hostAdds ++ [p o] }) ∧
        (∀ e w o k, g = .peer e w o → u.peerByte e w o = some k → later { u.mem with peerAdds := u.mem.peerAdds ++ [p k] })))

/-- A scalar load, store or atomic whose address is not a multiple of its size raises Misaligned with TRAPADDR the address, and
has no effect on any register or byte of memory. -/
def Obligations.MisalignedAccessesTrap : Prop :=
  ∀ (s : State) (d a b : Reg) (off : BitVec 12) (z : AmoSize),
    let va := s.getX a + BitVec.ofInt 64 off.toInt
    let bad (i : Instr) (addr : W64) (n : Nat) : Prop := Allowed s i → addr.toNat % n ≠ 0 → Traps i s .misaligned addr
    bad (.ldH d a off) va 2 ∧ bad (.ldW d a off) va 4 ∧ bad (.ldD d a off) va 8 ∧ bad (.ldHz d a off) va 2 ∧ bad (.ldWz d a off) va 4 ∧
    bad (.st d a .h off) va 2 ∧ bad (.st d a .w off) va 4 ∧ bad (.st d a .d off) va 8 ∧
    (∀ i ∈ [Instr.amoAdd d a b z, .amoMin d a b z, .amoMax d a b z, .amoMinu d a b z, .amoMaxu d a b z, .amoAnd d a b z,
        .amoOr d a b z, .amoXor d a b z, .amoSwap d a b z, .amoCas d a b z], bad i (s.getX a) (match z with | .w => 4 | .d => 8)) ∧
    bad (.amoFaddF32 d a b) (s.getX a) 4 ∧ bad (.amoFaddBf16 d a b) (s.getX a) 4

/-- Where an address of an application's context leads: with bits 63:55 not zero an Access-Violation of KIND 11; with bit 54 set
and bits 53:22 clear to its own cluster's scratchpad at bits 21:0, without translation; otherwise where the leaf that maps it
says. The strand, the registers and every table but memory's and the stacks' request records are as before. The walk of an address at a
level reads the entry at the level's index: with V = 0 it is a page fault; a malformed one is a violation of KIND 5 (reserved bits, a leaf at
level 3, a table at level 0, a NEXT that is not aligned or leads outside the part's memory, REGION 3, CACHE 3 whatever the space (log
82), a misaligned frame, BANK on a large page or with another format, an owner that the part has not); a table is followed with A set in
its entry; a leaf lets the access through with A, and for a write D, set in its entry, unless, in this order, F = 1 stops an
application (KIND 3), a write meets RSH (KIND 2), PRIV another core's page (KIND 1), or a write W = 0 (a page fault). How an address that no leaf names, such as that
of a table entry, lies in its stack is the model's reading (log 9). -/
def Obligations.AddressesLeadWhereTheSpecSays : Prop :=
  (∀ (s : State) (r : Req) (va : W64) (w : Bool),
    (2 ^ 55 ≤ va.toNat → locate s r va w = (.violation 11, s)) ∧
    (2 ^ 54 ≤ va.toNat → va.toNat < 2 ^ 54 + 2 ^ 22 → locate s r va w = (.at_ (.scratch (r.core / 4) (va.toNat - 2 ^ 54)) 0, s)) ∧
    (va.toNat < 2 ^ 54 → ∃ t, (locate s r va w).2 = t ∧ t = { s with mem := t.mem, hbms := t.hbms } ∧
      match (translate s r va.toNat w).1 with
      | .pageFault => (locate s r va w).1 = .pageFault
      | .violation k => (locate s r va w).1 = .violation k
      | .leaf e _ n => (locate s r va w).1 =
          physical t r.die (decide (r.kind = .F)) (bitsAt e 16 32 * 65536 + va.toNat % (n * 65536)) e)) ∧
  (∀ (p : Part) (r : Req) (w : Bool) (va level table : Nat) (m : Mem),
    level < 4 → table % 8 = 0 →
    let shift := match level with | 0 => 16 | 1 => 21 | 2 => 31 | _ => 43
    let size := match level with | 0 => 32 | 1 => 1024 | _ => 4096
    let below := match level with | 1 => 32 | 2 => 1024 | _ => 4096
    let pa := table + 8 * (va / 2 ^ shift % size)
    let e := readEntry m pa
    let b (lo n : Nat) : Nat := bitsAt e lo n
    let exists_ : Prop := b 1 1 = 0 ∨ b 5 2 ≠ 0 ∨ b 48 11 < p.cores
    let badLeaf : Prop := level = 3 ∨ b 59 4 ≠ 0 ∨ b 5 2 = 3 ∨ b 13 2 = 3 ∨ (level = 2 ∧ b 16 15 ≠ 0) ∨ (level = 1 ∧ b 16 5 ≠ 0) ∨
      (b 7 1 = 1 ∧ (level ≠ 0 ∨ b 8 4 ∉ [0, 1, 6, 7, 8, 9, 10, 11])) ∨ ¬exists_
    let next := b 8 40 * 256
    let badTable : Prop := level = 0 ∨ b 48 16 ≠ 0 ∨ b 3 5 ≠ 0 ∨ next % (8 * below) ≠ 0 ∨ next / 2 ^ 41 ≠ 0 ∨
      p.dies ≤ next / 2 ^ 36 ∨ 0xF00000000 ≤ next % 2 ^ 36
    let bad : Prop := (b 1 1 = 1 ∧ badLeaf) ∨ (b 1 1 = 0 ∧ badTable)
    let marked (bits : Nat) (m' : Mem) : Prop := readEntry m' pa = e ||| BitVec.ofNat 64 bits ∧
      ∀ n, n ≠ dramKey false pa / 32 → m'.sector n false = m.sector n false
    let x := walk p r w va (level + 1) table m
    (b 0 1 = 0 → x = (.pageFault, m)) ∧
    (b 0 1 = 1 → bad → x = (.violation 5, m)) ∧
    (b 0 1 = 1 → ¬bad → b 1 1 = 0 → ∃ m', marked 4 m' ∧ x = walk p r w va level next m') ∧
    (b 0 1 = 1 → ¬bad → b 1 1 = 1 →
      if b 15 1 = 1 ∧ r.kind.isApp = true then x = (.violation 3, m)
      else if w = true ∧ b 5 2 = 1 then x = (.violation 2, m)
      else if b 5 2 = 0 ∧ b 48 11 ≠ r.core then x = (.violation 1, m)
      else if w = true ∧ b 4 1 = 0 then x = (.pageFault, m)
      else ∃ m', marked (if w then 12 else 4) m' ∧ x = (.leaf e (va / 2 ^ shift) (2 ^ (shift - 16)), m')))

/-- What a store leaves, a load of the same bytes returns: after a write of bytes that lie in one sector of a target of memory,
a read of as many bytes there gives them (with no deferred add pending, here and below). A write touches only its own bytes: after a
write of bytes that lie in one sector of a target, every byte that is not among them reads as before. Bytes of DRAM are named by where
they lie in their stack, read the way they were written; the host's, peers', scratchpads' and Clove's bytes by their own addresses. A
read changes no byte: after a read of a target, every byte reads as before. -/
def Obligations.WritesReadBackAndTouchNothingElse : Prop :=
  (∀ (s : State) (g : Target) (bs : List Byte),
    s.mem.adds = [] → s.mem.hostAdds = [] → s.mem.peerAdds = [] →
    (match g with
      | .scratch _ _ | .host _ => True
      | .hbm k _ _ _ => k % 32 + bs.length ≤ 32
      | .peer d w a => (s.peerByte d w a).isSome = true
      | .priv _ o => 0x10000 ≤ o
      | .regs _ _ => False) →
    ((s.writeT g bs).readT g bs.length).1.data = bs) ∧
  ((∀ (s : State) (g h : Target) (bs : List Byte),
      s.mem.adds = [] → s.mem.hostAdds = [] → s.mem.peerAdds = [] →
      (match g with | .hbm k _ _ _ => k % 32 + bs.length ≤ 32 | _ => True) →
      (match g, h with
        | .scratch c o, .scratch c' o' => c ≠ c' ∨ o' < o ∨ o + bs.length ≤ o'
        | .hbm k _ _ d, .hbm k' _ _ d' => d = d' ∧ (k' < k ∨ k + bs.length ≤ k')
        | .host a, .host a' => a' < a ∨ a + bs.length ≤ a'
        | .peer d w a, .peer d' w' a' =>
          ∃ q, s.peerByte d' w' a' = some q ∧ ∀ p, s.peerByte d w a = some p → q < p ∨ p + bs.length ≤ q
        | .priv d o, .priv d' o' => d ≠ d' ∨ o' < o ∨ o + bs.length ≤ o'
        | _, _ => True) →
      ((s.writeT g bs).readT h 1).1.data = (s.readT h 1).1.data) ∧
  (∀ (s : State) (g h : Target) (n : Nat), s.mem.adds = [] → s.mem.hostAdds = [] → s.mem.peerAdds = [] →
    (((s.readT g n).2).readT h 1).1.data = (s.readT h 1).1.data))

/-- A fence, where it may issue and its strand's tile loads are done, completes as soon as nothing it waits for is left: no
engine command of its strand, no posted write of the strand that its scope orders, and for BFENCE (on a part with near-bank
units) no near-bank command or invalidation below its point, which is that of its first attempt. FENCE then changes nothing; BFENCE
writes the dirty sectors of BANK pages in the home L2s within its scope to DRAM, keeps them clean, and changes nothing else but the
request records of their pseudo-channels: afterwards each of them stands in DRAM with its mark, and every other sector is as it was.
While something is left the fence blocks. -/
def Obligations.FencesWaitAndComplete : Prop :=
  (∀ (s : State) (sc : Scope),
    let e := s.ctx.eng
    let early : Prop := (∀ c ∈ e.cmds, c.strand ≠ s.strand) ∧
      ∀ w ∈ e.posted, w.strand = s.strand → sc.code < w.target.fenceScope s.ctx.id.die
    let near (q : W32) : Prop := (∀ c ∈ e.cmds, c.cls = .nbu → seqBelow c.seq q = false) ∧ ∀ v ∈ e.invals, seqBelow v.seq q = false
    let point : W32 := match (s.ctx.str s.strand).blocked with | some (.fence q) => q | _ => e.seqno
    s.issue.snap = none → (s.strand ≠ .L ∨ s.ctx.loads = []) →
    (Allowed s (.fence sc) → early → exec (.fence sc) s = .next s) ∧
    (Allowed s (.fence sc) → ¬early → ∃ b, Blocks (.fence sc) s b) ∧
    (Allowed s (.bfence sc) → s.part = .sl3240m → (early → exec (.bfence sc) s = .next s) ∧ (¬early → ∃ b, Blocks (.bfence sc) s b)) ∧
    (Allowed s (.bfence sc) → s.part ≠ .sl3240m →
      (early → near point → ∃ t, exec (.bfence sc) s = .next t ∧ t.mem = flushBank s.mem s.ctx.id.die sc ∧
        t = { s with mem := t.mem, hbms := t.hbms }) ∧
      (¬early ∨ ¬near point → Blocks (.bfence sc) s (.fence point)))) ∧
  (∀ (m : Mem) (die : Nat) (sc : Scope) (n : Nat), Mem.wf m = true →
    let m' := flushBank m die sc
    let leaves : Prop := ∃ x, m.held n = some x ∧ x.bank = true ∧ x.dirty = true ∧ (3 ≤ sc.code ∨ stackOf (32 * n) = die)
    (leaves → ∀ x, m.held n = some x → m'.held n = some { x with dirty := false } ∧
      (m'.dramSector n x.bank).data = x.data ∧ (m'.dramSector n x.bank).poison = x.poison) ∧
    (¬leaves → m'.held n = m.held n ∧ (m'.dramSector n false).data = (m.dramSector n false).data ∧
      (m'.dramSector n false).poison = (m.dramSector n false).poison))

/-- CL.INV, CL.WB and CL.WBI, where they may issue, complete on a cached space-0 page: WB writes the line's dirty sectors to
DRAM and keeps them clean; INV drops the copies of the line within the scope, the home L2's where the scope reaches its die,
without writing them back, and is refused with KIND 2 on a page that is read-shared or not writable; WBI does both. Nothing else
changes but what the translation left and the request records of the write-backs. On an uncached or direct page, and on an address of
space 8 whether or not a register stands there, they complete and change nothing but what the translation left. What INV drops: the L1
and instruction-cache copies of cores within the scope and the RDC copies of dies within it, and from die scope on the line's sectors
in the home L2 that the scope reaches; no other line, and no byte or mark of DRAM; that INV reaches
instruction caches is the model's reading (log 34). Writing dirty
sectors back changes no byte that space 0 reads: after the write-backs of a BFENCE, and
after CL.WB of a line, every byte read through the home L2 is as before, and DRAM itself holds what space 0 reads for every
sector of the line written back. -/
def Obligations.CacheLineMaintenance : Prop :=
  (∀ (s u : State) (sc : Scope) (a : Reg) (k : Nat) (bank : Bool) (c : Nat) (leaf : W64),
      let va := s.getX a
      let reaches (i : Instr) (g : Target) : Prop := Allowed s i ∧ (s.strand ≠ .L ∨ s.ctx.loads = []) ∧
        (s.ctx.id.kind = .clove ∨ bitsAt va 55 9 = 0) ∧ findAny s.strand 0 va false s = .ok (g, leaf) u
      let does (i : Instr) (m : Mem) : Prop := ∃ t, exec i s = .next t ∧ t.mem = m ∧ t = { u with mem := m, hbms := t.hbms }
      let g : Target := .hbm k bank c false
      u.mem.adds = [] → c < 2 →
      (reaches (.clWb sc a) g → does (.clWb sc a) (cleanLine u.mem k)) ∧
      (reaches (.clWbi sc a) g → does (.clWbi sc a) (discardLine (cleanLine u.mem k) k sc s.here s.ctx.id.die)) ∧
      (reaches (.clInv sc a) g → (s.ctx.id.kind = .clove ∨ isScratch va = true ∨ (bitsAt leaf 5 2 ≠ 1 ∧ bitsAt leaf 4 1 = 1)) →
        exec (.clInv sc a) s = .next { u with mem := discardLine u.mem k sc s.here s.ctx.id.die }) ∧
      (∀ h, reaches (.clInv sc a) h → s.ctx.id.kind ≠ .clove → isScratch va = false → (bitsAt leaf 5 2 = 1 ∨ bitsAt leaf 4 1 = 0) →
        Refuses (.clInv sc a) s u 2 va) ∧
      (∀ h, (h = .hbm k bank 2 false ∨ h = .hbm k bank c true ∨ ∃ d o, h = .regs d o) →
        (reaches (.clWb sc a) h → exec (.clWb sc a) s = .next u) ∧ (reaches (.clWbi sc a) h → exec (.clWbi sc a) s = .next u))) ∧
  (∀ (m : Mem) (sc : Scope) (k core die n : Nat),
      let m' := discardLine m k sc core die
      let reached (c : Copy) : Prop := match sc with
        | .core => c.cache ≠ .rdc ∧ c.holder = core
        | .cluster => c.cache ≠ .rdc ∧ c.holder / 4 = core / 4
        | .die => if c.cache = .rdc then c.holder = die else c.holder / 64 = die
        | _ => True
      (∀ c, c ∈ m'.copies ↔ c ∈ m.copies ∧ ¬(c.line = k / 128 ∧ reached c)) ∧
      (n / 4 = k / 128 → (3 ≤ sc.code ∨ (sc.code = 2 ∧ stackOf k = die)) → m'.held n = none) ∧
      ((n / 4 ≠ k / 128 ∨ sc.code < 2 ∨ (sc.code = 2 ∧ stackOf k ≠ die)) → m'.held n = m.held n) ∧
      m'.dram = m.dram ∧ m'.poison = m.poison ∧ m'.lost = m.lost ∧ m'.adds = m.adds) ∧
  (∀ (m : Mem) (die : Nat) (sc : Scope) (k j : Nat) (b : Bool),
      ((flushBank m die sc).sector j b).data = (m.sector j b).data ∧
      ((cleanLine m k).sector j b).data = (m.sector j b).data ∧
      (j / 4 = k / 128 → m.held j ≠ none → (m.sector j b).dirty = true →
        ((cleanLine m k).dramSector j b).data = (m.sector j b).data))

/-- TLB.INV, where it may issue and no started near-bank command or graph query and no posted write of a context it reaches, and no
posted write of its own strand, is outstanding, completes: exactly the cached translations go that lie within its scope, belong to the
address space it names (every one for F with ALL set) and cover its address (all of them for X0); nothing else changes. While
another such context has one, or its own context had one before the bundle, it blocks. A cache lease that expires
removes that read copy. A prefetch of a stream TLB takes the page after the one in use by a row of its stream, in the direction of the
stream's stride, and leaves what the translation of that page leaves; for any other page it does nothing: the numbering of
the stream TLBs (log 33), and where a stream stands and which page is in use (log 87), are the model's choice. -/
def Obligations.TranslationMaintenance : Prop :=
  ∀ (s : State) (sc : Scope) (a : Reg) (n stream : Nat) (va : W64),
    let f : Prop := s.ctx.id.kind = .F
    let space : BitVec 20 := if s.ctx.id.kind = .F then s.hereCore.tlbPasid else s.ctx.id.pasid
    let hit (p : BitVec 20) : Prop := (f ∧ s.hereCore.tlbAll = true) ∨ p = space
    let gone (e : TlbEntry) : Prop := e.within sc s.here = true ∧ hit e.pasid ∧
      (a = 0 ∨ (s.getX a).toNat % 2 ^ 55 / 65536 / e.pages = e.vpage)
    let reached (c : Ctx) : Prop := coreWithin sc s.here (State.coreNo c.id) = true ∧ hit (if c.id.kind.isApp then c.id.pasid else 0)
    let busy (c : Ctx) : Prop := reached c ∧
      (c.eng.posted ≠ [] ∨ ∃ m ∈ c.eng.cmds, m.started = true ∧ (m.cls = .nbu ∨ m.cls = .gse))
    let own : Prop := busy s.ctx ∨ ∃ p ∈ s.ctx.eng.posted, p.strand = s.strand
    (Allowed s (.tlbInv sc a) → (∀ c ∈ s.others, ¬busy c) → ¬own →
      ∃ t, exec (.tlbInv sc a) s = .next t ∧ t = { s with mem := { s.mem with tlb := t.mem.tlb } } ∧
        ∀ e, e ∈ t.mem.tlb ↔ e ∈ s.mem.tlb ∧ ¬gone e) ∧
    (Allowed s (.tlbInv sc a) → s.issue.snap = none → ((∃ c ∈ s.others, busy c) ∨ own) → Blocks (.tlbInv sc a) s .upkeep) ∧
    exec (.cacheLeaseExpiry n) s = .next { s with mem := { s.mem with copies := s.mem.copies.eraseIdx n } } ∧
    (let page := va.toNat / 65536
     let next : Prop := ∃ x ∈ s.streamAt stream,
       (0 < x.2.toInt ∧ page = x.1.toNat / 65536 + 1) ∨ (x.2.toInt < 0 ∧ page + 1 = x.1.toNat / 65536)
     (va.toNat < 2 ^ 54 → next →
       exec (.tlbPrefetch stream va) s = .next (translate s (s.reqOf s.strand stream) va.toNat false).2) ∧
     (¬next → exec (.tlbPrefetch stream va) s = .next s) ∧
     (∀ l ∈ s.ctx.loads, stream = l.q + 1 → stream ≤ 4 → (l.next.1, l.stride) ∈ s.streamAt stream))

/-- A posted write is performed only when it is the first of its strand to its target's group, and a notify only while a gated front
end has a latch free; then it leaves the posted writes
and, its way being open and its sector sound (or wholly written), its bytes are written at its target (a register of die control
space: as that register says). An error found there is raised later, with DEFER set, TRAPPC at the store and TRAPADDR its
address: Link-Down, Access-Violation logged with KIND 4 where no register of space 8 stands, and Poison, recorded in ECCLOG, where part of
a poisoned sector would be written, which then stays. -/
def Obligations.PostedWritesPerform : Prop :=
  ∀ (s : State) (p : Posted) (ws : List Posted),
    s.ctx.eng.posted = p :: ws →
    let s1 := s.modCtx (fun c => { c with eng := { c.eng with posted := ws } })
    let late (t : State) (cause : BitVec 8) : State := t.raiseDeferred { strand := p.strand, cause, pc := p.pc, addr := p.va }
    let sound : Prop := s1.poisonedT p.target = false ∨ p.data.length = 32
    (s.notifyHeld p.target = true → exec (.postedWritePerform 0) s = .next s) ∧
    (s.notifyHeld p.target = false → s1.linkError p.target = none →
      (sound → (∀ d o, p.target = .regs d o → s1.dieWord d (o / 8 * 8) ≠ none) → exec (.postedWritePerform 0) s = .next (match p.target with
        | .regs d o => s1.regStore d o p.data
        | t => s1.writeT t p.data p.poison)) ∧
      (¬sound → exec (.postedWritePerform 0) s = .next (late (s1.noteEcc 2 (s1.lostT p.target) p.va) 0x0C)) ∧
      (∀ d o, p.target = .regs d o → s1.dieWord d (o / 8 * 8) = none → exec (.postedWritePerform 0) s =
        .next (late (s1.logViolation s1.ctx.id.die 4 p.va (s1.reqOf p.strand 0).pasid (s1.partyOf p.strand)) 0x06))) ∧
    (s.notifyHeld p.target = false →
      (s1.linkError p.target = some (.linkDown, 0) → exec (.postedWritePerform 0) s = .next (late s1 0x0D)) ∧
      (∀ k, s1.linkError p.target = some (.accessViolation, k) → exec (.postedWritePerform 0) s =
        .next (late (s1.logViolation s1.ctx.id.die k p.va (s1.reqOf p.strand 0).pasid (s1.partyOf p.strand)) 0x06))) ∧
    (∀ q rest, ws = q :: rest → q.strand = p.strand → q.target.group = p.target.group →
      exec (.postedWritePerform 1) s = .next s)

/-- The queue operations complete where they need not wait, and change only their queue and register: QPUSH appends X[x] with
its taint to a queue of fewer than 16 entries; QPOP writes the head and its taint to X[x] and removes it unless it peeks; TPOST
adds to a count that stays within 255; TWAIT subtracts from a count that is large enough unless it peeks; QSTAT names its register and
queue to its strand, and the end of the clk writes the occupancy that the queue then has. Where the queue is full or empty or the
count too small, or the head entry came in this clk, the strand blocks and nothing else changes, peeking or not. -/
def Obligations.QueueOperations : Prop :=
  (∀ (s : State) (q : BitVec 3) (x : Reg) (n : BitVec 8) (pk : Bool) (e : MqEntry) (rest : List MqEntry),
    let l := s.ctx.q.mq.getD q.toNat []
    let c := s.ctx.q.tf.getD q.toNat 0
    let withMq (l' : List MqEntry) : State := s.modCtx (fun c => { c with q := { c.q with mq := c.q.mq.setIfInBounds q.toNat l' } })
    let withTf (n : Nat) : State := s.modCtx (fun c => { c with q := { c.q with tf := c.q.tf.setIfInBounds q.toNat n } })
    (Allowed s (.qpush q x) → (s.strand ≠ .L ∨ s.ctx.loads = []) →
      (l.length < 16 → exec (.qpush q x) s = .next (withMq (l ++ [{ value := s.getX x, taint := s.tainted x, clk := s.cycle }]))) ∧
      (16 ≤ l.length → Blocks (.qpush q x) s (.mq q.toNat))) ∧
    (Allowed s (.qpop x q false) → l = e :: rest → e.clk ≠ s.cycle →
      exec (.qpop x q false) s = .next ((withMq rest).setX x e.value e.taint)) ∧
    (Allowed s (.qpop x q true) → l = e :: rest → e.clk ≠ s.cycle →
      exec (.qpop x q true) s = .next (s.setX x e.value e.taint)) ∧
    (Allowed s (.qpop x q pk) → (l = [] ∨ (l = e :: rest ∧ e.clk = s.cycle)) → Blocks (.qpop x q pk) s (.mq q.toNat)) ∧
    (Allowed s (.tpost q n) → (s.strand ≠ .L ∨ s.ctx.loads = []) →
      (c + n.toNat ≤ 255 → exec (.tpost q n) s = .next (withTf (c + n.toNat))) ∧
      (255 < c + n.toNat → Blocks (.tpost q n) s (.tf q.toNat))) ∧
    (Allowed s (.twait q false n) → n.toNat ≤ c → exec (.twait q false n) s = .next (withTf (c - n.toNat))) ∧
    (Allowed s (.twait q true n) → n.toNat ≤ c → exec (.twait q true n) s = .next s) ∧
    (Allowed s (.twait q pk n) → c < n.toNat → Blocks (.twait q pk n) s (.tf q.toNat))) ∧
  (∀ (s : State) (x : Reg) (nm : QName) (k : StrandId),
    exec (.qstat x nm) s = .next (s.modMe (fun p => { p with qstats := p.qstats ++ [(x, nm)] })) ∧
    ((s.ctx.str k).qstats = [(x, nm)] → x ≠ 0 → (s.ctx.setup = false ∧ s.ctx.leaving = false) →
      let t := s.writeQstats k
      (t.ctx.str k).qstats = [] ∧
      (t.ctx.str k).x = (s.ctx.str k).x.setIfInBounds x.toNat (BitVec.ofNat 64 (match nm with
        | .lq i => (s.ctx.q.lq.getD i.toNat []).length | .sq i => (s.ctx.q.sq.getD i.toNat []).length
        | .mq i => (s.ctx.q.mq.getD i.toNat []).length | .tf i => s.ctx.q.tf.getD i.toNat 0)) ∧
      t.ctx.q = s.ctx.q ∧ t.mem = s.mem ∧ t.strand = s.strand))

/-- The predicate, line-counter and rotation-base instructions complete where they may issue and change only what they name:
PSET writes its 16 bits; PLOG writes AND, OR, XOR or AND-NOT of two predicates; PMOV writes bits 15:0 of X[x] into a predicate,
or a predicate zero-extended and untainted into X[x]; P0 reads as all ones and a write of it is discarded; LSET writes X[xa]
plus its immediate modulo 64 to LA or LB; TRBSET writes X[xa] plus its immediate modulo 16 to TRB. SHAPE, where it may issue, completes. A request with assigned element codes, operand formats some profile accepts and no bit
63:48 set is granted: M' and N' are the request's, at most 16 and 64 in slot 0 and at most 128 and 256 elsewhere, K' the largest
multiple of the block size not above the request's; a K' of 0 refuses. A grant is written to the slot and to xd; a refusal
writes the request with bit 63 set to xd and leaves the slot. In a deterministic item a tainted request raises Knob-Numerics unless its
formats are those of the grant in the slot and its K is a multiple of 64; a slot without a grant lets none pass, which is the
model's reading (log 48). -/
def Obligations.PredicatesAndShapeGrants : Prop :=
  (∀ (s : State) (p a b : BitVec 4) (im : BitVec 16) (x : Reg) (i6 : BitVec 6) (i4 : BitVec 4),
    let P (k : BitVec 4) : W16 := if k = 0 then 0xFFFF else s.rd.comp.preds.getD k.toNat 0
    let comp (f : Compute → Compute) : State := s.modCtx (fun c => { c with comp := f c.comp })
    let sets (i : Instr) (v : W16) : Prop := Allowed s i → exec i s = .next
      (if p = 0 then s else comp (fun c => { c with preds := c.preds.setIfInBounds p.toNat v }))
    sets (.pset p im) im ∧ sets (.plogAnd p a b) (P a &&& P b) ∧ sets (.plogOr p a b) (P a ||| P b) ∧
    sets (.plogXor p a b) (P a ^^^ P b) ∧ sets (.plogAndn p a b) (P a &&& ~~~(P b)) ∧
    sets (.pmovToP p x) (BitVec.ofNat 16 (s.getX x).toNat) ∧
    (Allowed s (.pmovFromP p x) → exec (.pmovFromP p x) s = .next (s.setX x (BitVec.ofNat 64 (P p).toNat))) ∧
    (Allowed s (.lset false x i6) → exec (.lset false x i6) s =
      .next (comp (fun c => { c with la := BitVec.ofNat 6 ((s.getX x).toNat + i6.toNat) }))) ∧
    (Allowed s (.lset true x i6) → exec (.lset true x i6) s =
      .next (comp (fun c => { c with lb := BitVec.ofNat 6 ((s.getX x).toNat + i6.toNat) }))) ∧
    (Allowed s (.trbset x i4) → exec (.trbset x i4) s =
      .next (comp (fun c => { c with trb := BitVec.ofNat 4 ((s.getX x).toNat + i4.toNat) })))) ∧
  (∀ (s : State) (d a : Reg) (slot : BitVec 2) (m n k : Nat) (fa fb : EType) (fd fc : BitVec 4) (ea eb : BitVec 4),
    let req := s.getX a
    let big := slot ≠ 0
    let block := if fa = .b4 ∨ fb = .b4 then 32 else 16
    let k' := k / block * block
    let codes := fd.toNat + 16 * ea.toNat + 256 * eb.toNat + 4096 * fc.toNat
    let grant (m n k : Nat) : W64 := BitVec.ofNat 64 (codes * 2 ^ 32 + (k - 1) * 2 ^ 16 + (n - 1) * 2 ^ 7 + (m - 1))
    let held := s.rd.comp.slots.getD slot.toNat 0x8000000000000000
    let passes : Prop := held.getLsbD 63 = false ∧ bitsAt held 32 16 = bitsAt req 32 16 ∧ (bitsAt req 16 16 + 1) % 64 = 0
    (Allowed s (.shape d a slot) → s.ctx.id.det = true → s.tainted a = true → ¬passes →
      Traps (.shape d a slot) s .knobNumerics (s.issue.word.setWidth 64)) ∧
    (Allowed s (.shape d a slot) → (s.ctx.id.det = false ∨ s.tainted a = false ∨ passes) →
    1 ≤ m → m ≤ 128 → 1 ≤ n → n ≤ 512 → 1 ≤ k → k ≤ 65536 → req = grant m n k →
    EType.ofCode ea = some fa → EType.ofCode eb = some fb → EType.ofCode fd ≠ none → EType.ofCode fc ≠ none →
    (someAccepts fa fb = true → 1 ≤ k' →
      let g := if big then grant m (Min.min n 256) k' else grant (Min.min m 16) (Min.min n 64) k'
      exec (.shape d a slot) s = .next ((s.modCtx (fun c => { c with comp := { c.comp with
        slots := c.comp.slots.setIfInBounds slot.toNat g } })).setX d g)) ∧
    ((someAccepts fa fb = false ∨ k' = 0) → exec (.shape d a slot) s = .next (s.setX d (req ||| 0x8000000000000000)))))

/-- The deque operations complete where they may issue and no core of a higher number has worked on the deque in this clk: WD.PUSH
puts bits 62:0 of X[xa] at the owner's end of the item's deque and writes 0, or with 64 entries stores nothing and writes 1; WD.POP
removes the entry at the owner's end and writes it, or writes 0x8000_0000_0000_0000 when there is none; WD.STEAL removes the entry at
the far end of the first victim that has one, and only that, or writes 0x8000_0000_0000_0000 when none has. Its victims are the other
items of its gang, in order of their group (its own cluster, its own die, then other dies by grid distance), in a group of package core
number, on a core bank A before bank B. Before an entry that was taken, the stores at package scope that the pusher has posted are
performed, so that every later load of the taker comes after them. That a deque that an operation examines notes the clk and the core,
and that after one of a higher core in the same clk the operation waits for the next clk, so that a clk's operations are applied in
ascending core number (R429) although none of the three waits for anything else, is the model's way (log 85), and so is performing the
pusher's posted stores when the entry is taken (log 55). -/
def Obligations.WorkDeques : Prop :=
  ∀ (s : State) (d a : Reg) (v : BitVec 63) (rest : List (BitVec 63)),
    let own (l : List (BitVec 63)) : State := s.modCtx (fun c => { c with deque := l, dequeAt := (s.cycle, s.here) })
    let late (c : Ctx) : Prop := c.dequeAt.1 = s.cycle ∧ s.here < c.dequeAt.2
    let shares (c : Ctx) : Prop := c.id.kind.isApp = true ∧ c.id.task = s.ctx.id.task ∧ c.id.gang = s.ctx.id.gang
    let core (c : Ctx) : Nat := 64 * c.id.die + c.id.core
    let apart (x y : Nat) : Nat := Max.max x y - Min.min x y
    let group (c : Ctx) : Nat := if core s.ctx / 4 = core c / 4 then 0 else if s.ctx.id.die = c.id.die then 1 else
      1 + apart (s.ctx.id.die / 8) (c.id.die / 8) + apart (s.ctx.id.die % 8) (c.id.die % 8)
    let first (c e : Ctx) : Prop := group c < group e ∨ (group c = group e ∧
      (core c < core e ∨ (core c = core e ∧ c.id.kind ≠ .B ∧ e.id.kind = .B)))
    let looked (c : Ctx) : Ctx := if s.examined c then { c with dequeAt := (s.cycle, s.here) } else c
    let free : Prop := ∀ c ∈ s.others, s.examined c = true → ¬late c
    (¬late s.ctx →
      (Allowed s (.wdPush d a) → s.ctx.deque.length < 64 →
        exec (.wdPush d a) s = .next ((own (BitVec.ofNat 63 (s.getX a).toNat :: s.ctx.deque)).setX d 0)) ∧
      (Allowed s (.wdPush d a) → 64 ≤ s.ctx.deque.length → exec (.wdPush d a) s = .next ((own s.ctx.deque).setX d 1)) ∧
      (Allowed s (.wdPop d) → s.ctx.deque = v :: rest →
        exec (.wdPop d) s = .next ((own rest).performPushed.setX d (BitVec.ofNat 64 v.toNat))) ∧
      (Allowed s (.wdPop d) → s.ctx.deque = [] → exec (.wdPop d) s = .next ((own []).setX d 0x8000000000000000))) ∧
    (late s.ctx → ∀ i, (i = .wdPush d a ∨ i = .wdPop d) → Allowed s i → Blocks i s .interlock) ∧
    (¬free → Allowed s (.wdSteal d) → Blocks (.wdSteal d) s .interlock) ∧
    ((∀ c ∈ s.others, shares c → c.deque = []) → (∀ c, s.examined c = true ↔ shares c) ∧ (free → Allowed s (.wdSteal d) →
      exec (.wdSteal d) s = .next ({ s with others := s.others.map looked }.setX d 0x8000000000000000))) ∧
    (∀ (n : Nat) (c : Ctx) (l : List (BitVec 63)), s.others[n]? = some c → shares c → c.deque = l ++ [v] →
      (∀ (k : Nat) (e : Ctx), s.others[k]? = some e → shares e → e.deque ≠ [] → k = n ∨ first c e) →
      (∀ e, s.examined e = true ↔ shares e ∧ ¬first c e) ∧ (free → Allowed s (.wdSteal d) →
        exec (.wdSteal d) s = .next (({ s with others := s.others.map looked }.inOther n (fun t =>
          (t.modCtx (fun c => { c with deque := l })).performPushed)).setX d (BitVec.ofNat 64 v.toNat)))) ∧
    (let reaches (p : Posted) : Prop := p.strand = .K ∧ p.target.fenceScope s.ctx.id.die ≤ 3
     ((∀ p ∈ s.ctx.eng.posted, ¬reaches p) → s.performPushed = s) ∧
     (∀ p, s.ctx.eng.posted = [p] → reaches p → exec (.postedWritePerform 0) s = .next s.performPushed))

/-- What the operands of a tile instruction mean. A tile source supplies, by its view and index, the element at the same place,
of one row, of one column, or of a diagonal, and changes nothing; an LQ source supplies the first M lines as rows and consumes
them unless it peeks; an MQ source supplies the low 32 bits of the head everywhere and consumes it unless it peeks. A tile
destination takes the results at the elements its view covers whose guard bit is set, keeps every other element and every other
tile, and sets in FFLAGS exactly the flags of the results written; an SQ destination takes M lines, a row under a clear guard
bit as zeros and zeros from column N on. -/
def Obligations.TileOperands : Prop :=
  ∀ (s : State) (o : TileOp) (r : BitVec 5) (v : View) (ix : IxSrc) (q : BitVec 2) (mq : BitVec 3) (sq : BitVec 1) (pk : Bool)
    (m : Nat) (ls : List Line) (es : List LqEntry) (e : MqEntry) (rest : List MqEntry) (f : Nat → Nat → W32 × Fl),
    let p := physTile s.rd.comp.trb r.toNat
    let old (k i j : Nat) : W32 := ((s.ctx.comp.tiles.getD k Tile.zero).getD i (Vector.replicate 64 0)).getD j 0
    let cur (i j : Nat) : W32 := ((s.rd.comp.tiles.getD p Tile.zero).getD i (Vector.replicate 64 0)).getD j 0
    let x : Nat := match ix with | .zero => 0 | .la => s.rd.comp.la.toNat | .lb => s.rd.comp.lb.toNat
    let written (i j : Nat) : Prop := o.guard.getLsbD i = true ∧ (match v with
      | .whole => i < o.m ∧ j < o.n | .row => i = x % 16 | .col => j = x % 64 | .diag => j = (i + x) % 64)
    (s.ctx.drains (some p) = false → ∃ y, readSrc m (.tile r v ix) s = .ok y s ∧ ∀ i j, i < 16 → j < 64 → y i j = (match v with
      | .whole => cur i j | .row => cur (x % 16) j | .col => cur i (x % 64) | .diag => cur i ((i + x) % 64))) ∧
    (s.ctx.q.lq.getD q.toNat [] = ls.map LqEntry.line ++ es → ls.length = m → ∃ y t, readSrc m (.lq q pk) s = .ok y t ∧
      (∀ i j, i < m → y i j = (ls.getD i Line.zero).data.getD j 0) ∧
      t = if pk then s else s.modCtx (fun c => { c with q := { c.q with lq := c.q.lq.setIfInBounds q.toNat es } })) ∧
    (s.ctx.q.mq.getD mq.toNat [] = e :: rest → e.clk ≠ s.cycle → ∃ y t, readSrc m (.mq mq pk) s = .ok y t ∧
      (∀ i j, y i j = BitVec.ofNat 32 e.value.toNat) ∧
      t = if pk then s else s.modCtx (fun c => { c with q := { c.q with mq := c.q.mq.setIfInBounds mq.toNat rest } })) ∧
    (s.ctx.drains (some p) = false → ∃ t, putDst o (.tile r v ix) f s = .ok () t ∧
      (∀ k i j, k < 32 → i < 16 → j < 64 →
        (k = p ∧ written i j → ((t.ctx.comp.tiles.getD k Tile.zero).getD i (Vector.replicate 64 0)).getD j 0 = (f i j).1) ∧
        (¬(k = p ∧ written i j) → ((t.ctx.comp.tiles.getD k Tile.zero).getD i (Vector.replicate 64 0)).getD j 0 = old k i j)) ∧
      (∀ b, t.ctx.csr.fflags.getLsbD b = true ↔
        s.ctx.csr.fflags.getLsbD b = true ∨ ∃ i j, i < 16 ∧ j < 64 ∧ written i j ∧ (f i j).2.getLsbD b = true) ∧
      t.ctx.q = s.ctx.q ∧ t.ctx.comp.preds = s.ctx.comp.preds ∧ t.ctx.l = s.ctx.l ∧ t.ctx.k = s.ctx.k ∧ t.ctx.c = s.ctx.c ∧
      SameBytes s t) ∧
    ((sq = 1 ∨ s.ctx.drains none = false) → (s.ctx.q.sq.getD sq.toNat []).length + o.m ≤ 32 →
      ∃ t new, putDst o (.sq sq) f s = .ok () t ∧ t.ctx.q.sq.getD sq.toNat [] = s.ctx.q.sq.getD sq.toNat [] ++ new ∧
        new.length = o.m ∧ (∀ i j, i < o.m → j < 64 → (new.getD i Line.zero).poison = 0 ∧
          (new.getD i Line.zero).data.getD j 0 = if o.guard.getLsbD i ∧ j < o.n then (f i j).1 else 0) ∧
        t.ctx.comp.tiles = s.ctx.comp.tiles ∧ t.ctx.q.lq = s.ctx.q.lq ∧ SameBytes s t)

/-- The element-wise tile instructions complete where they may start, the type and the views are those they accept and their
operands can be read and written: they read ta, tb and tc in this order, compute each element under the type, FRM and FTZ of
slot 0, and write their destination; VSEL takes a row from ta where its bit of Ps is set and from tb elsewhere. Views that do
not combine raise Shape-Invalid and write nothing. (TileOperands says what reading and writing an operand does.) VCMP, where it may start on a numeric type with a column view of ta and a column view or an MQ scalar as tb, completes: bit
i of Pd becomes the comparison of the elements of row i where guard bit i is set and stays elsewhere; a write of P0 is
discarded; nothing else changes but the queue entries read. -/
def Obligations.ElementWiseInstructions : Prop :=
  (∀ (s u1 u2 u3 t : State) (h : TileHd) (td : TDst) (ta tb tc : TSrc) (g : Grant) (x y z : Grid) (ps : BitVec 4) (fn : SpecialFn)
    (code : BitVec 4) (to_ : EType),
    let o := tileOpOf s h g
    let v := o.env
    let one (i : Instr) (types : EType → Bool) (f : W32 → W32 × Fl) : Prop :=
      Starts s i g → h.np = 0 → types g.ty = true → fits td [ta] = true → readSrc g.m ta s = .ok x u1 →
      putDst o td (fun r c => f (x r c)) u1 = .ok () t → exec i s = .next t
    let two (i : Instr) (types : EType → Bool) (f : Nat → W32 → W32 → W32 × Fl) : Prop :=
      Starts s i g → h.np = 0 → types g.ty = true → fits td [ta, tb] = true → readSrc g.m ta s = .ok x u1 →
      readSrc g.m tb u1 = .ok y u2 → putDst o td (fun r c => f r (x r c) (y r c)) u2 = .ok () t → exec i s = .next t
    two (.vadd h td ta tb) numericType (fun _ => v.add) ∧ two (.vsub h td ta tb) numericType (fun _ => v.sub) ∧
    two (.vmul h td ta tb) numericType (fun _ => v.mul) ∧ two (.vmin h td ta tb) numericType (fun _ => v.min) ∧
    two (.vmax h td ta tb) numericType (fun _ => v.max) ∧ two (.vaddSat h td ta tb) numericType (fun _ => v.addSat) ∧
    two (.vsubSat h td ta tb) numericType (fun _ => v.subSat) ∧ two (.vmulSat h td ta tb) numericType (fun _ => v.mulSat) ∧
    two (.vlogAnd h td ta tb) anyType (fun _ a b => (a &&& b, 0)) ∧ two (.vlogOr h td ta tb) anyType (fun _ a b => (a ||| b, 0)) ∧
    two (.vlogXor h td ta tb) anyType (fun _ a b => (a ^^^ b, 0)) ∧ two (.vlogAndn h td ta tb) anyType (fun _ a b => (a &&& ~~~b, 0)) ∧
    two (.vshShl h td ta tb) numericType (fun _ a b => (shiftContainer g.ty true false a b, 0)) ∧
    two (.vshShr h td ta tb) numericType (fun _ a b => (shiftContainer g.ty false false a b, 0)) ∧
    two (.vshShra h td ta tb) numericType (fun _ a b => (shiftContainer g.ty false true a b, 0)) ∧
    two (.vsel h td ta tb ps) numericType (fun r a b => v.selected (if (s.rd.comp.pred ps).getLsbD r then a else b)) ∧
    (Starts s (.vfma h td ta tb tc) g → h.np = 0 → numericType g.ty = true → fits td [ta, tb, tc] = true →
      readSrc g.m ta s = .ok x u1 → readSrc g.m tb u1 = .ok y u2 → readSrc g.m tc u2 = .ok z u3 →
      putDst o td (fun r c => v.fma (x r c) (y r c) (z r c)) u3 = .ok () t → exec (.vfma h td ta tb tc) s = .next t) ∧
    one (.vabs h td ta) numericType v.abs ∧ one (.vneg h td ta) numericType v.neg ∧ one (.vmov h td ta) anyType (fun a => (a, 0)) ∧
    one (.vsf h td ta fn) wideFloat (v.special fn) ∧
    (EType.ofCode code = some to_ → to_ ≠ .b4 → one (.vcvt h td ta code) numericType (v.convert to_)) ∧
    (Starts s (.vadd h td ta tb) g → h.np = 0 → fits td [ta, tb] = false →
      Traps (.vadd h td ta tb) s .shapeInvalid (s.issue.word.setWidth 64))) ∧
  (∀ (s u1 u2 : State) (h : TileHd) (pd : BitVec 4) (ta tb : TSrc) (c : Cond) (g : Grant) (x y : Grid),
    let o := tileOpOf s h g
    Starts s (.vcmp h pd ta tb c) g → h.np = 0 → numericType g.ty = true → TSrc.view ta = some .col →
    (TSrc.view tb = some .col ∨ TSrc.view tb = none) → readSrc g.m ta s = .ok x u1 → readSrc g.m tb u1 = .ok y u2 →
    ∃ t, exec (.vcmp h pd ta tb c) s = .next t ∧ t = u2.modCtx (fun k => { k with comp := t.ctx.comp }) ∧
      t.ctx.comp.tiles = u2.ctx.comp.tiles ∧ t.ctx.comp.slots = u2.ctx.comp.slots ∧
      (∀ k, k < 16 → (k ≠ pd.toNat ∨ pd = 0) → t.ctx.comp.preds.getD k 0 = u2.ctx.comp.preds.getD k 0) ∧
      (pd ≠ 0 → ∀ i, i < 16 → (t.ctx.comp.preds.getD pd.toNat 0).getLsbD i =
        if o.guard.getLsbD i then o.env.compare c (x i 0) (y i 0) else (u2.ctx.comp.preds.getD pd.toNat 0).getLsbD i))

/-- The integer types: sum, difference, product and fused product of two elements are taken exactly and reduced to the width, in
a container whose upper bits are zero, without a flag, and so are the absolute value and the negation; the saturating forms clamp to
the type's range and set SAT exactly when they clamp; VMIN and VMAX order signed types as signed and the others as unsigned
numbers. The shifts of every type but B4 work lane by lane on the whole container: a lane is as wide as the type, its amount is the
same lane of the amount container, unmasked, and an amount of at least the width gives zeros, or for SHRA copies of the lane's top
bit. -/
def Obligations.IntegerElements : Prop :=
  ∀ (v : ElemEnv) (a b c : W32) (i : Nat),
    let w := v.ty.bits
    let A := a.toNat % 2 ^ w
    let B := b.toNat % 2 ^ w
    let C := c.toNat % 2 ^ w
    let num (n : Nat) : Int := if v.ty.signed then (BitVec.ofNat w n).toInt else n
    let lo : Int := if v.ty.signed then -(2 ^ (w - 1) : Int) else 0
    let hi : Int := if v.ty.signed then 2 ^ (w - 1) - 1 else 2 ^ w - 1
    let clamped (r : W32 × Fl) (e : Int) : Prop :=
      num r.1.toNat = (if e < lo then lo else if hi < e then hi else e) ∧ r.1.toNat < 2 ^ w ∧
      r.2 = (if e < lo ∨ hi < e then Fl.sat else 0)
    let lane (x : W32) : BitVec w := BitVec.ofNat w (x.toNat / 2 ^ (w * i))
    (v.ty ≠ .b4 → i < 32 / w →
      lane (shiftContainer v.ty true false a b) = lane a <<< (lane b).toNat ∧
      lane (shiftContainer v.ty false false a b) = lane a >>> (lane b).toNat ∧
      lane (shiftContainer v.ty false true a b) = (lane a).sshiftRight (lane b).toNat) ∧
    (v.ty.isInt = true →
    v.abs a = (BitVec.ofNat 32 ((num A).natAbs % 2 ^ w), 0) ∧ v.neg a = (BitVec.ofNat 32 ((2 ^ w - A) % 2 ^ w), 0) ∧
    v.add a b = (BitVec.ofNat 32 ((A + B) % 2 ^ w), 0) ∧ v.sub a b = (BitVec.ofNat 32 ((A + (2 ^ w - B)) % 2 ^ w), 0) ∧
    v.mul a b = (BitVec.ofNat 32 (A * B % 2 ^ w), 0) ∧ v.fma a b c = (BitVec.ofNat 32 ((A * B + C) % 2 ^ w), 0) ∧
    clamped (v.addSat a b) (num A + num B) ∧ clamped (v.subSat a b) (num A - num B) ∧ clamped (v.mulSat a b) (num A * num B) ∧
    v.min a b = (BitVec.ofNat 32 (if num B < num A then B else A), 0) ∧
    v.max a b = (BitVec.ofNat 32 (if num A < num B then B else A), 0))

/-- Floating-point numbers. Each format reads its bits as R61 lays them out, with the canonical NaN, the infinities and the largest
finite value of R61 and R62. Sums and products are exact, with the sign of a zero sum and the NaNs of R69 and R72. An exact value is
rounded to a format once (`RoundsTo`): to the nearest, ties to even, towards zero, up or down, at the format's precision or the grid
of its subnormals; a value that overflows gives the infinity or the largest finite value its mode names with OF and NX; NX tells an
inexact result and UF an inexact tiny one, tininess being judged after rounding with an unbounded exponent. -/
def Obligations.FloatRounding : Prop :=
  (∀ (t : EType) (eb fb : Nat) (bias : Int) (canon : Nat) (inf : Option Nat) (most : Nat),
    (t, eb, fb, bias, canon, inf, most) ∈ ([(.fp32, 8, 23, 127, 0x7FC00000, some 0x7F800000, 0x7F7FFFFF),
      (.fp16, 5, 10, 15, 0x7E00, some 0x7C00, 0x7BFF), (.bf16, 8, 7, 127, 0x7FC0, some 0x7F80, 0x7F7F),
      (.e5m2, 5, 2, 15, 0x7E, some 0x7C, 0x7B), (.e4m3, 4, 3, 7, 0x7F, none, 0x7E)] :
        List (EType × Nat × Nat × Int × Nat × Option Nat × Nat)) →
    let f := t.fmt
    let top := 2 ^ (eb + fb)
    let sign (n : Bool) : Nat := if n then top else 0
    t.isFloat = true ∧ f = { eb := eb, fb := fb, bias := bias, hasInf := inf.isSome } ∧ f.canonNaN = canon ∧ f.pairNaN = canon + 1 ∧
    (∀ n, f.maxBits n = sign n + most) ∧ (∀ n i, inf = some i → f.infBits n = sign n + i) ∧
    (∀ b, b < 2 * top →
      let x := b / 2 ^ fb % 2 ^ eb
      let y := b % 2 ^ fb
      f.decode b = if x = 0 then .num (decide (top ≤ b)) y (1 - bias - fb)
        else if x = 2 ^ eb - 1 ∧ inf ≠ none then (if y = 0 then .inf (decide (top ≤ b)) else .nan)
        else if x = 2 ^ eb - 1 ∧ y = 2 ^ fb - 1 then .nan
        else .num (decide (top ≤ b)) (2 ^ fb + y) (x - bias - fb)) ∧
    (∀ mode n e m, FVal.nan.round f mode = (canon, 0) ∧ (inf ≠ none → (FVal.inf n).round f mode = (f.infBits n, 0)) ∧
      (FVal.num n 0 e).round f mode = (sign n, 0) ∧
      (0 < m → RoundsTo f mode n (ratCmp m 1 e) ((FVal.num n m e).round f mode)))) ∧
  (∀ (mode : Rnd) (x y : FVal), IsSum mode x y (x.add mode y) ∧ IsProduct x y (x.mul y) ∧ (x.lt y = true ↔ Less x y)) ∧
  (∀ (n : Bool) (m : Nat) (e : Int), FVal.nan.neg = .nan ∧ (FVal.inf n).neg = .inf (!n) ∧ (FVal.num n m e).neg = .num (!n) m e)

/-- The floating types, element by element: under FTZ a subnormal operand is zero with its sign and a subnormal result becomes zero
with UF and NX; VADD, VSUB, VMUL and VFMA round the exact result once under FRM, with NV where operands without a NaN make one; a
saturating form gives the largest finite value with SAT and NX where that overflows; VMIN and VMAX give the canonical NaN for a NaN
and order −0 below +0, without a flag; of VCMP's conditions only "not equal" holds for a NaN; VABS, VNEG and VSEL change signs and
subnormals alone. VCVT from any type but B4: to an integer type the value rounded under FRM, or the nearer end of the range with SAT
alone, NX where it was inexact, and 0 with NV for a NaN; to E4M3 ±448 with SAT for an infinity, with SAT and NX for an overflow; to
the other types the value rounded once. -/
def Obligations.FloatElements : Prop :=
  ∀ (v : ElemEnv) (a b c : W32) (k : EType) (cond : Cond),
    let f := v.ty.fmt
    let sub (g : FFmt) (n : Nat) : Bool := v.ftz && n / 2 ^ g.fb % 2 ^ g.eb == 0 && n % 2 ^ g.fb != 0
    let signOf (g : FFmt) (n : Nat) : Nat := n / 2 ^ (g.eb + g.fb) * 2 ^ (g.eb + g.fb)
    let raw (x : W32) : Nat := x.toNat % 2 ^ v.ty.bits
    let bits (x : W32) : Nat := if sub f (raw x) then signOf f (raw x) else raw x
    let val (x : W32) : FVal := f.decode (bits x)
    let out (g : FFmt) (r : Nat × Fl) : W32 × Fl :=
      if sub g r.1 then (BitVec.ofNat 32 (signOf g r.1), r.2 ||| Fl.uf ||| Fl.nx) else (BitVec.ofNat 32 r.1, r.2)
    let result (x : FVal) (ops : List FVal) : W32 × Fl :=
      let r := out f (x.round f v.rnd)
      (r.1, r.2 ||| (if x = .nan ∧ FVal.nan ∉ ops then Fl.nv else 0))
    let overs (g : FFmt) (x : FVal) : Bool := match x with | .num .. => (x.round g v.rnd).2 &&& Fl.of != 0 | _ => false
    let largest (g : FFmt) (x : FVal) (fl : Fl) : W32 × Fl := (BitVec.ofNat 32 (g.maxBits (x.lt FVal.zero)), fl)
    let sat (x : FVal) (ops : List FVal) : W32 × Fl := if overs f x then largest f x (Fl.sat ||| Fl.nx) else result x ops
    let below (x y : FVal) : Prop := Less x y ∨ (¬Less x y ∧ ¬Less y x ∧ x.negative = true ∧ y.negative = false)
    let nans : Prop := val a = .nan ∨ val b = .nan
    let less : Prop := ¬nans ∧ Less (val a) (val b)
    let more : Prop := ¬nans ∧ Less (val b) (val a)
    let same : Prop := ¬nans ∧ ¬Less (val a) (val b) ∧ ¬Less (val b) (val a)
    let s1 := (val a).add v.rnd (val b)
    let s2 := (val a).add v.rnd (val b).neg
    let p := (val a).mul (val b)
    (v.ty.isFloat = true →
      v.add a b = result s1 [val a, val b] ∧ v.sub a b = result s2 [val a, val b] ∧ v.mul a b = result p [val a, val b] ∧
      v.fma a b c = result (p.add v.rnd (val c)) [val a, val b, val c] ∧
      v.addSat a b = sat s1 [val a, val b] ∧ v.subSat a b = sat s2 [val a, val b] ∧ v.mulSat a b = sat p [val a, val b] ∧
      (nans → v.min a b = (BitVec.ofNat 32 f.canonNaN, 0) ∧ v.max a b = (BitVec.ofNat 32 f.canonNaN, 0)) ∧
      (¬nans → (below (val b) (val a) → v.min a b = (BitVec.ofNat 32 (bits b), 0)) ∧
        (¬below (val b) (val a) → v.min a b = (BitVec.ofNat 32 (bits a), 0)) ∧
        (below (val a) (val b) → v.max a b = (BitVec.ofNat 32 (bits b), 0)) ∧
        (¬below (val a) (val b) → v.max a b = (BitVec.ofNat 32 (bits a), 0))) ∧
      (v.compare cond a b = true ↔ match cond with
        | .eq => same | .ne => ¬same | .lt => less | .le => less ∨ same | .gt => more | .ge => more ∨ same) ∧
      (val a = .nan → v.abs a = (BitVec.ofNat 32 f.canonNaN, 0) ∧ v.neg a = (BitVec.ofNat 32 f.canonNaN, 0)) ∧
      (val a ≠ .nan → v.abs a = (BitVec.ofNat 32 (bits a - signOf f (bits a)), 0) ∧
        v.neg a = (BitVec.ofNat 32 ((bits a + 2 ^ (f.eb + f.fb)) % 2 ^ v.ty.bits), 0)) ∧
      v.selected a = (if sub f (raw a) then BitVec.ofNat 32 (bits a) else a, 0)) ∧
    (v.ty ≠ .b4 → k ≠ .b4 →
      let whole : Int := if v.ty.signed then (BitVec.ofNat v.ty.bits a.toNat).toInt else raw a
      let x : FVal := if v.ty.isInt then .num (decide (whole < 0)) whole.natAbs 0 else val a
      let lo : Int := if k.signed then -(2 ^ (k.bits - 1) : Int) else 0
      let hi : Int := if k.signed then 2 ^ (k.bits - 1) - 1 else 2 ^ k.bits - 1
      let int (i : Int) (fl : Fl) : W32 × Fl := (BitVec.ofNat 32 (i % 2 ^ k.bits).toNat, fl)
      let y := v.convert k a
      (k.isInt = true →
        (x = .nan → y = (0, Fl.nv)) ∧ (∀ n, x = .inf n → y = int (if n then lo else hi) Fl.sat) ∧
        (∀ n m e, x = .num n m e → ∃ d, Near v.rnd n (ratCmp m 1 e 0) d ∧
          let i : Int := if n then -d else d
          y = if i < lo then int lo Fl.sat else if hi < i then int hi Fl.sat
            else int i (if ratCmp m 1 e 0 (2 * d) = .eq then 0 else Fl.nx))) ∧
      (k = .e4m3 → (∀ n, x = .inf n → y = (BitVec.ofNat 32 (k.fmt.maxBits n), Fl.sat)) ∧
        (overs k.fmt x = true → y = largest k.fmt x (Fl.sat ||| Fl.nx))) ∧
      (k.isFloat = true → (k = .e4m3 → x.isInf = false ∧ overs k.fmt x = false) → y = out k.fmt (x.round k.fmt v.rnd)))

/-- The pair instructions and the reductions complete where they may start on a type they accept, with the views and, for a
pair, the even register they need, and their operands can be read and written: the exact-pair forms write the rounded result and
its error to a pair, the double-word forms read pairs and write a pair, a reduction writes to element i of its column (VREDR) or
j of its row (VREDC) the reduction of that row or column of its source, whatever the guard, and a compensated one a pair. A
destination that is no pair raises Illegal-Pair and writes nothing. -/
def Obligations.PairsAndReductions : Prop :=
  ∀ (s u1 u2 u3 t : State) (h : TileHd) (td : TDst) (ta tb tc : TSrc) (g : Grant) (x y : Grid) (p q r : Grid × Grid) (rows : Bool),
    let o := tileOpOf s h g
    let trb := s.rd.comp.trb
    let z : W32 × W32 := (0, 0)
    let exact (i : Instr) (op : PairOp) : Prop :=
      Starts s i g → h.np = 0 → wideFloat g.ty = true → fits td [ta, tb] = true →
      (pairDst trb td = true → readSrc g.m ta s = .ok x u1 → readSrc g.m tb u1 = .ok y u2 →
        putPair o td (fun i j => exactPair g.ty op (x i j) (y i j)) u2 = .ok () t → exec i s = .next t) ∧
      (pairDst trb td = false → Traps i s .illegalPair (s.issue.word.setWidth 64))
    let dw (i : Instr) (op : DwOp) (n : Nat) : Prop :=
      Starts s i g → h.np = 0 → g.ty = .fp32 → fits td ([ta, tb, tc].take n) = true → pairDst trb td = true →
      ([ta, tb, tc].take n).all (pairSrc trb) = true → readPair g.m ta s = .ok p u1 →
      (if 2 ≤ n then readPair g.m tb u1 = .ok q u2 else u2 = u1) → (if 3 ≤ n then readPair g.m tc u2 = .ok r u3 else u3 = u2) →
      putPair o td (fun i j => doubleWord op (p.1 i j, p.2 i j) (if 2 ≤ n then (q.1 i j, q.2 i j) else z)
        (if 3 ≤ n then (r.1 i j, r.2 i j) else z)) u3 = .ok () t → exec i s = .next t
    let row (n : Nat) : List W32 := if rows then (List.range g.n).map (fun j => x n j) else (List.range g.m).map (fun i => x i n)
    let region (c : Compute) (i j : Nat) : Bool := o.region c td i j && (if rows then decide (i < g.m) else decide (j < g.n))
    let redu (i j : Instr) (types : EType → Bool) (f : List W32 → W32 × Fl) : Prop :=
      let k := if rows then i else j
      Starts s k g → (h.np = 0 ∨ h.np = 5) → types g.ty = true → reduceViews td ta rows = true → readSrc g.m ta s = .ok x u1 →
      putRegion o td (region u1.rd.comp) (fun i j => f (row (if rows then i else j))) u1 = .ok () t → exec k s = .next t
    exact (.vaddx h td ta tb) .add ∧ exact (.vsubx h td ta tb) .sub ∧ exact (.vmulx h td ta tb) .mul ∧
    dw (.dwadd h td ta tb) .add 2 ∧ dw (.dwmul h td ta tb) .mul 2 ∧ dw (.dwfma h td ta tb tc) .fma 3 ∧ dw (.dwnorm h td ta) .norm 1 ∧
    redu (.vredrAdd h td ta) (.vredcAdd h td ta) sumType (reduceAdd g.ty (decide (h.np = 5))) ∧
    redu (.vredrMax h td ta) (.vredcMax h td ta) numericType (fun l => (reducePick g.ty false l, 0)) ∧
    redu (.vredrMin h td ta) (.vredcMin h td ta) numericType (fun l => (reducePick g.ty true l, 0)) ∧
    (let k := if rows then Instr.vredrCadd h td ta else .vredcCadd h td ta
     Starts s k g → h.np = 0 → wideFloat g.ty = true → pairDst trb td = true → reduceViews td ta rows = true →
      readSrc g.m ta s = .ok x u1 →
      putPairRegion td (region s.rd.comp) (fun i j => reduceCadd g.ty (row (if rows then i else j))) u1 = .ok () t →
      exec k s = .next t)

/-- What the pairs, the reductions and the special functions write. An exact pair is RN of the exact result and of what it leaves;
double-word operations and compensated sums are the sequences of R76 to R81, step by step, with PI where a counted step is inexact, NX
where PI or the low part is not zero, and the first infinity a step makes of finite values deciding the result; that no step sets UF or
NV is the model's choice (log 31). A plain floating sum adds in index order under NP0 and as the tree of R84 under NP5; an integer sum
wraps; a maximum or minimum picks pairwise. VSF gives R422's results for special inputs, RCP and RSQ the exact quotient and root
rounded once, EXP2 of an integer and LOG2 of a power of two the exact result; what the other inputs of EXP2, LOG2, TANH and SIGM
give rests on log 8 and is not stated. -/
def Obligations.PairAndReductionValues : Prop :=
  ∀ (t : EType) (op : PairOp) (a b c d e g y : W32) (xs : List W32) (o : DwOp) (v : ElemEnv) (least : Bool),
    let f := t.fmt
    let val (x : W32) : FVal := f.decode (x.toNat % 2 ^ t.bits)
    let bits (x : FVal) : Nat := (x.round f .rne).1
    let fl (x : FVal) : Fl := (x.round f .rne).2
    let rn (x : FVal) : FVal := f.decode (bits x)
    let zeroed (x : FVal) : Nat := if x.isZero then 0 else bits x
    let pair (hi lo : Nat) (fl : Fl) : PairRes := ((BitVec.ofNat 32 hi, BitVec.ofNat 32 lo), fl)
    let nans (fl : Fl) : PairRes := pair f.canonNaN f.canonNaN fl
    let plus (x y : FVal) : FVal := x.add .rne y
    let minus (x y : FVal) : FVal := x.add .rne y.neg
    let two (count : Bool) (x y : FVal) : (FVal × FVal) × List (Bool × FVal) :=
      let s := rn (plus x y)
      let w := rn (minus s x)
      let z := rn (minus s w)
      let m := rn (minus x z)
      let n := rn (minus y w)
      ((s, rn (plus m n)), [(false, plus x y), (count, minus s x), (count, minus s w), (count, minus x z), (count, minus y w), (count, plus m n)])
    let fast (x y : FVal) : (FVal × FVal) × List (Bool × FVal) :=
      let s := rn (plus x y)
      let z := rn (minus s x)
      ((s, rn (minus y z)), [(false, plus x y), (true, minus s x), (true, minus y z)])
    let sumDw (p q : FVal × FVal) : (FVal × FVal) × List (Bool × FVal) :=
      let s := two true p.1 q.1
      let w := two true p.2 q.2
      let se := rn (plus s.1.2 w.1.1)
      let h := fast s.1.1 se
      let se' := rn (plus h.1.2 w.1.2)
      let r := fast h.1.1 se'
      (r.1, s.2 ++ w.2 ++ [(true, plus s.1.2 w.1.1)] ++ h.2 ++ [(true, plus h.1.2 w.1.2)] ++ r.2)
    let mulDw (p q : FVal × FVal) : (FVal × FVal) × List (Bool × FVal) :=
      let m := p.1.mul q.1
      let l := rn (minus m (rn m))
      let w := p.2.mul q.1
      let z := plus (p.1.mul q.2) (rn w)
      let r := fast (rn m) (rn (plus l (rn z)))
      (r.1, [(false, m), (true, minus m (rn m)), (true, w), (true, z), (true, plus l (rn z))] ++ r.2)
    let finish (r : (FVal × FVal) × List (Bool × FVal)) : PairRes :=
      match r.2.find? (fun s => !s.2.isInf && !s.2.isNaN && (rn s.2).isInf) with
      | some s => pair (f.infBits (s.2.lt FVal.zero)) f.pairNaN (Fl.of ||| Fl.pi ||| Fl.nx)
      | none =>
        let pi := r.2.any (fun s => s.1 && fl s.2 &&& Fl.nx != 0)
        pair (bits r.1.1) (zeroed r.1.2) ((if pi then Fl.pi else 0) ||| (if pi = true ∨ zeroed r.1.2 ≠ 0 then Fl.nx else 0))
    let x : FVal := match op with | .add => plus (val a) (val b) | .sub => minus (val a) (val b) | .mul => (val a).mul (val b)
    let rest := minus x (rn x)
    (wideFloat t = true →
      (x = .nan → exactPair t op a b = nans (if val a = .nan ∨ val b = .nan then 0 else Fl.nv)) ∧
      (x ≠ .nan → (val a).isInf = true ∨ (val b).isInf = true → exactPair t op a b = pair (bits x) 0 0) ∧
      (x ≠ .nan → (val a).isInf = false → (val b).isInf = false →
        exactPair t op a b = if fl x &&& Fl.of ≠ 0 then pair (bits x) f.pairNaN (Fl.of ||| Fl.pi ||| Fl.nx)
          else pair (bits x) (zeroed (rn rest)) ((fl x &&& Fl.uf) ||| (if fl rest &&& Fl.nx ≠ 0 then Fl.pi else 0) |||
            (if zeroed (rn rest) ≠ 0 then Fl.nx else 0)))) ∧
    (t = .fp32 →
      let p := (val a, val b)
      let q := (val c, val d)
      let r := (val e, val g)
      let used : List (FVal × FVal) := match o with | .norm => [p] | .fma => [p, q, r] | _ => [p, q]
      let parts := used.flatMap (fun z => [z.1, z.2])
      let h0 : FVal := match o with | .add => rn (plus p.1 q.1) | .mul => rn (p.1.mul q.1) | .fma => rn (plus (rn (p.1.mul q.1)) r.1) | .norm => p.1
      let seq : (FVal × FVal) × List (Bool × FVal) := match o with
        | .add => sumDw p q | .mul => mulDw p q | .norm => fast p.1 p.2
        | .fma => let m := mulDw p q; let w := sumDw m.1 r; (w.1, m.2 ++ w.2)
      doubleWord o (a, b) (if o = .norm then (0, 0) else (c, d)) (if o = .fma then (e, g) else (0, 0)) =
        if FVal.nan ∈ parts ∨ h0 = .nan then nans (if FVal.nan ∈ parts then 0 else Fl.nv)
        else if used.any (fun z => z.1.isInf) then pair (bits h0) 0 0
        else finish seq) ∧
    (t.isInt = true → ∀ np5, reduceAdd t np5 xs = (BitVec.ofNat 32 ((xs.map (fun z =>
      if t.signed then (BitVec.ofNat t.bits z.toNat).toInt else (z.toNat % 2 ^ t.bits : Int))).sum % 2 ^ t.bits).toNat, 0)) ∧
    (wideFloat t = true →
      let r := reduceAdd t false xs
      let n := plus (val r.1) (val y)
      reduceAdd t false [y] = (BitVec.ofNat 32 (bits (val y)), 0) ∧
      (xs ≠ [] → reduceAdd t false (xs ++ [y]) = (BitVec.ofNat 32 (bits n),
        r.2 ||| fl n ||| (if n = .nan ∧ val r.1 ≠ .nan ∧ val y ≠ .nan then Fl.nv else 0))) ∧
      (xs ≠ [] → xs.length ≤ 64 → ∃ z w, treeNode f (xs.map val) 6 0 = some (z, w) ∧ reduceAdd t true xs = (BitVec.ofNat 32 (bits z), w)) ∧
      (let vs := xs.map val
       let both : Prop := FVal.inf true ∈ vs ∧ FVal.inf false ∈ vs
       let sum := vs.foldl (fun (k : (FVal × FVal) × List (Bool × FVal)) z =>
         let s := two false k.1.1 z
         ((s.1.1, rn (plus k.1.2 s.1.2)), k.2 ++ s.2 ++ [(true, plus k.1.2 s.1.2)])) ((FVal.zero, FVal.zero), [])
       let last := fast sum.1.1 sum.1.2
       (FVal.nan ∈ vs ∨ both → reduceCadd t xs = nans (if FVal.nan ∈ vs then 0 else Fl.nv)) ∧
       (∀ n, FVal.nan ∉ vs → ¬both → FVal.inf n ∈ vs → reduceCadd t xs = pair (f.infBits n) 0 0) ∧
       (FVal.nan ∉ vs → (∀ n, FVal.inf n ∉ vs) → reduceCadd t xs = finish (last.1, sum.2 ++ last.2)))) ∧
    (t ≠ .b4 →
      let env : ElemEnv := { ty := t, rnd := .rne, ftz := false }
      let pick (x z : W32) : W32 := if least then (env.min x z).1 else (env.max x z).1
      reducePick t least [y] = pick y y ∧ (xs ≠ [] → reducePick t least (xs ++ [y]) = pick (reducePick t least xs) y)) ∧
    (wideFloat v.ty = true →
      let w := v.ty.fmt
      let sub (n : Nat) : Bool := v.ftz && n / 2 ^ w.fb % 2 ^ w.eb == 0 && n % 2 ^ w.fb != 0
      let signOf (n : Nat) : Nat := n / 2 ^ (w.eb + w.fb) * 2 ^ (w.eb + w.fb)
      let n := a.toNat % 2 ^ v.ty.bits
      let x := w.decode (if sub n then signOf n else n)
      let out (r : Nat × Fl) (more : Fl) : W32 × Fl :=
        if sub r.1 then (BitVec.ofNat 32 (signOf r.1), r.2 ||| Fl.uf ||| Fl.nx ||| more) else (BitVec.ofNat 32 r.1, r.2 ||| more)
      let gives (fn : SpecialFn) (r : FVal) (more : Fl) : Prop := v.special fn a = out (r.round w v.rnd) more
      let rounded (fn : SpecialFn) (neg : Bool) (cmp : Int → Nat → Ordering) : Prop := ∃ r, RoundsTo w v.rnd neg cmp r ∧ v.special fn a = out r 0
      (∀ fn, x = .nan → v.special fn a = (BitVec.ofNat 32 w.canonNaN, 0)) ∧
      (x = .inf false → gives .exp2 (.inf false) 0 ∧ gives .log2 (.inf false) 0 ∧ gives .rcp (.num false 0 0) 0 ∧
        gives .rsq (.num false 0 0) 0 ∧ gives .tanh (.num false 1 0) 0 ∧ gives .sigm (.num false 1 0) 0) ∧
      (x = .inf true → gives .exp2 (.num false 0 0) 0 ∧ gives .log2 .nan Fl.nv ∧ gives .rcp (.num true 0 0) 0 ∧
        gives .rsq .nan Fl.nv ∧ gives .tanh (.num true 1 0) 0 ∧ gives .sigm (.num false 0 0) 0) ∧
      (∀ s i, x = .num s 0 i → gives .exp2 (.num false 1 0) 0 ∧ gives .log2 (.inf true) Fl.dz ∧ gives .rcp (.inf s) Fl.dz ∧
        gives .rsq (.inf s) Fl.dz ∧ gives .tanh (.num s 0 0) 0 ∧ gives .sigm (.num false 1 (-1)) 0) ∧
      (∀ s m i, x = .num s m i → m ≠ 0 →
        (s = true → gives .log2 .nan Fl.nv ∧ gives .rsq .nan Fl.nv) ∧
        rounded .rcp s (ratCmp 1 m (-i)) ∧ (s = false → rounded .rsq false (rootCmp 1 m (-i))) ∧
        (∀ k : Int, k = (if s then -1 else 1) * m * 2 ^ i.toNat ∧ 0 ≤ i ∨ k * 2 ^ (-i).toNat = (if s then -1 else 1) * m ∧ i < 0 →
          rounded .exp2 false (ratCmp 1 1 k)) ∧
        (∀ k : Nat, m = 2 ^ k → s = false → gives .log2 (.num (decide ((k : Int) + i < 0)) ((k : Int) + i).natAbs 0) 0)))

/-- The permutations complete where they may start, for every element type, with the views R282 gives them and operands that can
be read and written: VROTR and VROTC move columns and rows round by their amount, VBCR and VBCC replicate a row or a column,
VSPLAT the scalar of an MQ; VEXT puts elements 0 to 15 of a column or diagonal into columns 0 to 15 of a row and leaves the
row's other columns; VINS puts columns 0 to 15 of a row into a column or diagonal. No flag is raised. -/
def Obligations.TilePermutations : Prop :=
  ∀ (s u t : State) (h : TileHd) (td : TDst) (ta : TSrc) (amt : BitVec 9) (g : Grant) (x : Grid),
    let o := tileOpOf s h g
    let moves (i : Instr) (views : Bool) (f : Nat → Nat → W32) : Prop :=
      Starts s i g → h.np = 0 → views = true → readSrc g.m ta s = .ok x u →
      putDst o td (fun i j => (f i j, 0)) u = .ok () t → exec i s = .next t
    let whole := TDst.view td == .whole
    let a := amt.toNat
    moves (.vrotr h td ta amt) (whole && TSrc.view ta == some .whole) (fun i j => x i ((j + (512 - a)) % 64)) ∧
    moves (.vrotc h td ta amt) (whole && TSrc.view ta == some .whole) (fun i j => x ((i + (512 - a)) % 16) j) ∧
    moves (.vbcr h td ta) (whole && TSrc.view ta == some .row) x ∧ moves (.vbcc h td ta) (whole && TSrc.view ta == some .col) x ∧
    moves (.vsplat h td ta) (TSrc.view ta == none) x ∧
    (Starts s (.vext h td ta) g → h.np = 0 → TDst.view td = .row → (TSrc.view ta = some .col ∨ TSrc.view ta = some .diag) →
      readSrc g.m ta s = .ok x u →
      putRegion o td (fun i j => o.region u.rd.comp td i j && decide (j < 16)) (fun _ j => (x j 0, 0)) u = .ok () t →
      exec (.vext h td ta) s = .next t) ∧
    (Starts s (.vins h td ta) g → h.np = 0 → (TDst.view td = .col ∨ TDst.view td = .diag) → TSrc.view ta = some .row →
      readSrc g.m ta s = .ok x u → putRegion o td (o.region u.rd.comp td) (fun i _ => (x 0 i, 0)) u = .ok () t →
      exec (.vins h td ta) s = .next t)

/-- TLD and TLD.G, where they may issue with a base and a stride that are multiples of the element width and room in their
queue, complete: they reserve an entry for each row and leave the load in flight, TLD.G with the indices it takes from its
message queue. A misaligned base or stride raises Misaligned; without room, or for TLD.G without as many indices as rows that stood
there before this clk, they block. A row that arrives is read in sectors and
becomes, element by element zero-extended, the oldest reserved line of its queue; the load ends with its last row. A row that faults
leaves the load from that row on as a marker and traps precisely at the load, and no row arrives while a marker waits. -/
def Obligations.TileLoads : Prop :=
  ∀ (s u : State) (q : BitVec 2) (a b : Reg) (m : BitVec 3) (rows : BitVec 5) (w : TWidth) (zp : Bool) (es rest : List MqEntry)
    (l : TileLoad) (ls : List TileLoad) (bs : List Byte),
    let nb := widthBytes w
    let n := rows.toNat + 1
    let x := s.getX a
    let y := s.getX b
    let i : Instr := .tld q a b rows w zp
    let g : Instr := .tldG q a b m rows w zp
    let room : Prop := (s.ctx.q.lq.getD q.toNat []).length + n ≤ 32
    let load (idx : Option (List W64)) : TileLoad :=
      { q := q.toNat, addr := x, stride := y, rows := n, width := w, zp, idx, pc := s.issue.pc, seq := s.ctx.eng.seqno }
    let lq (c : Ctx) : Vector (List LqEntry) 4 :=
      c.q.lq.setIfInBounds q.toNat (c.q.lq.getD q.toNat [] ++ List.replicate n LqEntry.reserved)
    (∀ j, j = i ∨ j = g → Allowed s j → (x.toNat % nb ≠ 0 → Traps j s .misaligned x) ∧
      (x.toNat % nb = 0 → y.toNat % nb ≠ 0 → Traps j s .misaligned (x + y))) ∧
    (Allowed s i → x.toNat % nb = 0 → y.toNat % nb = 0 →
      (room → exec i s = .next (s.modCtx (fun c => { c with loads := c.loads ++ [load none], q := { c.q with lq := lq c } }))) ∧
      (¬room → Blocks i s (.lq q.toNat))) ∧
    (Allowed s g → x.toNat % nb = 0 → y.toNat % nb = 0 → s.ctx.q.mq.getD m.toNat [] = es ++ rest → es.length = n →
      (∀ e ∈ es, e.clk ≠ s.cycle) →
      (room → exec g s = .next (s.modCtx (fun c => { c with
        loads := c.loads ++ [load (some (es.map MqEntry.value))],
        q := { c.q with lq := lq c, mq := c.q.mq.setIfInBounds m.toNat rest } }))) ∧
      (¬room → Blocks g s (.lq q.toNat))) ∧
    (Allowed s g → x.toNat % nb = 0 → y.toNat % nb = 0 →
      ((s.ctx.q.mq.getD m.toNat []).length < n ∨ ∃ e ∈ (s.ctx.q.mq.getD m.toNat []).take n, e.clk = s.cycle) → Blocks g s (.mq m.toNat)) ∧
    (let at_ : W64 := match l.idx with | none => l.addr | some ix => l.addr + ix.headD 0 * l.stride
     let wb := widthBytes l.width
     let left : TileLoad := match l.idx with
       | none => { l with addr := l.addr + l.stride, rows := l.rows - 1 }
       | some ix => { l with idx := some ix.tail, rows := l.rows - 1 }
     let row := readRow .L (1 + l.q) at_ l.zp (rowPieces at_ (64 * wb)) { s with strand := .L, issue := { Issue.idle with pc := l.pc } }
     s.ctx.loads = l :: ls → l.q = q.toNat → s.ctx.id.residency ≠ .saved → s.ctx.id.residency ≠ .ended →
     (s.ctx.marked = true → exec (.tileLineArrival q) s = .next s) ∧
     (∀ cause addr, s.ctx.marked = false → row = .error (.fault cause addr) u → exec (.tileLineArrival q) s = .next
       { (u.modCtx (fun c => { c with replaying := true })).takeTrap cause.code addr l.pc .L false with issue := Issue.idle }) ∧
     (s.ctx.marked = false → row = .ok bs u →
      ∃ ln : Line, ln.poison = 0 ∧ (∀ j, j < 64 → ln.data.getD j 0 = BitVec.ofNat 32 (natOfBytes ((bs.drop (j * wb)).take wb))) ∧
        exec (.tileLineArrival q) s = .next { u.modCtx (fun c => { c with
          loads := if l.rows - 1 = 0 then u.ctx.loads.tail else left :: u.ctx.loads.tail,
          replaying := u.ctx.replaying && !(decide (l.rows - 1 = 0) && u.ctx.loads.tail.isEmpty),
          q := { c.q with lq := c.q.lq.setIfInBounds l.q (deliverLine ln (c.q.lq.getD l.q [])) } }) with issue := Issue.idle }))

/-- TST and CSTQ, where they may issue with aligned addresses and enough lines, complete. TST stores its lines row by row, each
container's low bytes, and consumes them: stated for any rows that can be stored, and in full for one row that lies in the
scratchpad, whose stream then stands at its last row (log 87: the model's choice). CSTQ adds to the index in its counter as many of the selected elements as fit, stores those, in order, at the base
plus the old index, sector by sector, consumes the lines and writes the old index to xd, with bit 63 set where some did not fit: in
the scratchpad element m is the low bytes of the m-th selected container, and no other byte of it changes. -/
def Obligations.TileStores : Prop :=
  ∀ (s u v : State) (q : BitVec 1) (d a b : Reg) (rows : BitVec 5) (w : TWidth) (pair : Bool) (l sel : Line) (ls : List Line)
    (o : Nat) (g : Target) (leaf : W64),
    let nb := widthBytes w
    let n := rows.toNat + 1
    let x := s.getX a
    let y := s.getX b
    let i : Instr := .tst q a b rows w
    let lines (k : Nat) : List Line := s.ctx.q.sq.getD k []
    let aligned : Prop := x.toNat % nb = 0 ∧ y.toNat % nb = 0
    (Allowed s i → aligned → s.ctx.tst = none → (lines q.toNat).length < n → Blocks i s (.sq q.toNat)) ∧
    (Allowed s i → x.toNat % nb ≠ 0 → Traps i s .misaligned x) ∧
    (Allowed s i → aligned → s.ctx.tst = none → n ≤ (lines q.toNat).length →
      storeRows q.toNat x y nb s.issue.pc n 0 (s.modCtx (fun c => { c with
        sqAt := c.sqAt.setIfInBounds q.toNat (some (x + BitVec.ofNat 64 (n - 1) * y, y)) })) = .ok () u →
      exec i s = .next (u.modCtx (fun c => { c with tst := none }))) ∧
    (Allowed s i → rows = 0 → aligned → s.ctx.tst = none → s.ctx.id.kind ≠ .clove → lines q.toNat = l :: ls → l.poison = 0 →
      x.toNat = 2 ^ 54 + o → o + 64 * nb ≤ 2 ^ 22 → s.fillPending (.scratch (s.here / 4) o) (64 * nb) = false →
      (∀ k, k < 64 * nb → s.poisonedT (.scratch (s.here / 4) (o + k)) = false) →
      ∃ t, exec i s = .next t ∧ t.ctx.q.sq.getD q.toNat [] = ls ∧
        (∀ j k, j < 64 → k < nb →
          t.scratchByte (s.here / 4) (o + j * nb + k) = BitVec.ofNat 8 ((l.data.getD j 0).toNat / 2 ^ (8 * k))) ∧
        (∀ c k, c ≠ s.here / 4 ∨ k < o ∨ o + 64 * nb ≤ k → t.scratchByte c k = s.scratchByte c k) ∧
        t.mem = s.mem ∧ t.dies = s.dies ∧ t.ctx.comp = s.ctx.comp ∧ t.ctx.csr = s.ctx.csr ∧ t.ctx.q.lq = s.ctx.q.lq ∧
        (∀ st, (t.ctx.str st).x = (s.ctx.str st).x)) ∧
    (let c : Instr := .cstq d a b pair w
     let k0 := if pair then 1 else 0
     let picked := ((List.range 64).filter (fun j => sel.data.getD j 0 != 0)).map (fun j => l.data.getD j 0)
     let old := natOfBytes (u.readT g 8).1.data
     let idx := old % 2 ^ 32
     let k := if old / 2 ^ 32 ≤ idx then 0 else Min.min picked.length (old / 2 ^ 32 - idx)
     let used (k : Vector (List Line) 2) : Vector (List Line) 2 :=
       let k1 := k.setIfInBounds 0 (k.getD 0 []).tail
       if pair then k1.setIfInBounds 1 (k1.getD 1 []).tail else k1
     let drop (r : State) : State := r.modCtx (fun c => { c with cstq := none, q := { c.q with sq := used c.q.sq } })
     Allowed s c → x.toNat % 8 = 0 → y.toNat % nb = 0 → s.ctx.cstq = none → (lines 0).head? = some l →
      (lines k0).head? = some sel → l.poison = 0 → sel.poison = 0 →
      findT .S 5 x true s = .ok (g, leaf) u → (∀ k o, g ≠ .regs k o) → Open u g 8 → (u.readT g 8).1.poison = false →
      cstqElements d pair y nb idx k picked.length s.issue.pc 0 picked
        ((u.readT g 8).2.writeT g (bytesOfNat 8 (old + k))) = .ok () v →
      exec c s = .next ((drop v).setX d (BitVec.ofNat 64 (idx + if k < picked.length then 2 ^ 63 else 0)))) ∧
    (∀ (base : W64) (idx k cnt : Nat) (picked : List W32), k ≤ picked.length → s.ctx.id.kind ≠ .clove → base.toNat = 2 ^ 54 + o →
      o + (idx + k) * nb ≤ 2 ^ 22 → k ≤ 64 → s.fillPending (.scratch (s.here / 4) (o + idx * nb)) (k * nb) = false →
      (∀ m, s.poisonedT (.scratch (s.here / 4) m) = false) →
      ∃ t, cstqElements d pair base nb idx k cnt s.issue.pc 0 picked s = .ok () t ∧
        (∀ j m, j < k → m < nb → t.scratchByte (s.here / 4) (o + (idx + j) * nb + m) =
          BitVec.ofNat 8 ((picked.getD j 0).toNat / 2 ^ (8 * m))) ∧
        (∀ c m, c ≠ s.here / 4 ∨ m < o + idx * nb ∨ o + (idx + k) * nb ≤ m → t.scratchByte c m = s.scratchByte c m) ∧
        t.mem = s.mem ∧ t.ctx = s.ctx)

/-- The scratch cache window of a cluster. PROBE of the process that owns it, once no reconfiguration and no later core's PROBE of this
clk stands in its way: a valid slot with the block is a hit (its
reference bit set, held, counted, its number to xd); otherwise the clock hand's victim takes the block with its fill pending and
goes to xd with bit 63 set, and the strand goes on at the miss target; with no victim PROBE blocks (that a PROBE which
finds the table worked on by a later core of this clk waits for the next clk is the model's way of the order of cores, log 85); without the window, or for a
scratchpad address, an Access-Violation, whose KIND for the latter is the model's choice (log 73). A fill brings the block in, sector by
sector with its marks, and ends the pending state, a write-back takes a dirty
victim out first. SLOT.SET checks its fields (status 1), ownership (status 2), then waits for pending fills, cleans the slots and sets
the window; SLOT.INV and SLOT.WB take the slots they name one after another, wait at one whose fill is pending, drop or clean
them, and count those that held a block when they were reached, or were dirty. -/
def Obligations.ScratchWindows : Prop :=
  ∀ (s u t r r' : State) (d a : Reg) (dd : Option Reg) (off : BitVec 15) (n k j m : Nat) (c1 : Cluster) (p : BitVec 20) (b : Nat) (all : Bool)
    (ts : List Target) (rest : List Nat) (cnt : Nat),
    let kc := s.hereCluster
    let c : Cluster := { s.cluster s.hereCluster with tagAt := (s.cycle, s.here) }
    let va := s.getX a
    let pasid := s.ctx.id.pasid
    let i : Instr := .probe d a off
    let size := 1024 * 2 ^ c.size.toNat
    let block := va.toNat / size * size
    let has (m : Nat) : Prop := (c.slot m).valid = true ∧ (c.slot m).pasid = pasid ∧ (c.slot m).block = block
    let mayProbe : Prop := Allowed s i ∧ va.toNat < 2 ^ 54 ∧ c.count ≠ 0 ∧ c.owner = pasid ∧ s.tableTaken = false
    let put (r : State) (v : W64) : State := match dd with | none => r | some x => r.setX x v
    let waits (r : State) (b : Block) : State := { r.modMe (fun p => { p with blocked := some b }) with issue := { s.issue with ended := .waits b } }
    (mayProbe → n < c.count.toNat → has n → (∀ m, m < n → ¬has m) →
      exec i s = .next ((((s.setCluster kc (c.setSlot n { c.slot n with ref := true })).holdSlot n).modCtx (fun x =>
        { x with csr := { x.csr with hit := x.csr.hit + 1 } })).setX d (BitVec.ofNat 64 n))) ∧
    (mayProbe → (∀ m, m < c.count.toNat → ¬has m) →
      (State.clockTurn (s.slotFree kc) (2 * c.count.toNat) c = some (n, c1) →
        let o := c1.slot n
        let x : Slot := { valid := true, pasid, block, pending := true, ref := true, dirty := false,
                          victim := if o.valid && o.dirty then some (o.pasid, o.block) else none,
                          prober := (s.ctx.id.task, s.ctx.id.item), pc := s.issue.pc }
        exec i s = .next (((((s.setCluster kc (c1.setSlot n x)).holdSlot n).modCtx (fun x =>
          { x with csr := { x.csr with miss := x.csr.miss + 1 } })).setX d (BitVec.ofNat 64 (n + 2 ^ 63))).transfer
            (s.issue.pc + BitVec.ofInt 64 (4 * off.toInt)))) ∧
      (State.clockTurn (s.slotFree kc) (2 * c.count.toNat) c = none → Blocks i s .victim)) ∧
    (Allowed s i → va.toNat < 2 ^ 55 → s.tableTaken = true → Blocks i s .victim) ∧
    (Allowed s i → va.toNat < 2 ^ 55 → s.tableTaken = false →
      ((2 ^ 54 ≤ va.toNat ∧ va.toNat < 2 ^ 54 + 2 ^ 22) ∨ c.count = 0 ∨ c.owner ≠ pasid) → Violates i s 12 va) ∧
    (let x := (s.cluster k).slot j
     let base := (s.cluster k).base.toNat * 65536 + j * (s.cluster k).slotBytes
     x.pending = true → x.victim = none →
      s.blockIn (s.proberOf k x) (s.proberReq k x x.pasid) k j x.block = (.done, t) →
      exec (.scwFill k j) s = .next t ∧ (t.cluster k).slot j = { x with pending := false, dirty := false } ∧
      (s.blockTargets (s.proberOf k x) (s.proberReq k x x.pasid) false ((s.cluster k).slotBytes / 32) (BitVec.ofNat 64 x.block) = (.inl ts, u) →
        u.mem.adds = [] → (∀ g ∈ ts, ∃ q bank cc dir, g = .hbm q bank cc dir ∧ q % 32 = 0) → ∀ g, ts[m]? = some g → ∀ y, y < 32 →
        t.scratchByte k (base + 32 * m + y) = (u.readT g 32).1.data.getD y 0)) ∧
    (((s.cluster k).slot j).victim = some (p, b) →
      s.blockOut (s.proberOf k ((s.cluster k).slot j)) (s.proberReq k ((s.cluster k).slot j) p) k j b = (.done, t) →
      exec (.scwWriteback k j) s = .next (t.setCluster k ((t.cluster k).setSlot j { (s.cluster k).slot j with victim := none }))) ∧
    (let count := bitsAt va 0 11
     let bad : Prop := va &&& 0x3F37FF ≠ va ∨ (0 < count ∧ count < 32) ∨ 1024 < count ∨
       2 ^ 22 < bitsAt va 16 6 * 65536 + count * (1024 * 2 ^ bitsAt va 12 2)
     let held : State := s.modCtx (fun x => { x with window := some kc })
     let free (x : Ctx) : Ctx := if State.coreNo x.id / 4 = kc then { x with holds := [] } else x
     let pends : Prop := ∃ m, m < c.count.toNat ∧ (c.slot m).pending = true
     Allowed s (.slotSet dd a) →
      (bad → exec (.slotSet dd a) s = .next (put held 1)) ∧
      (¬bad → c.count ≠ 0 → c.owner ≠ pasid → exec (.slotSet dd a) s = .next (put held 2)) ∧
      (¬bad → c.count ≠ 0 → c.owner = pasid → pends → exec (.slotSet dd a) s = .next (waits held .slotSet)) ∧
      (¬bad → (c.count ≠ 0 → c.owner = pasid ∧ ¬pends) →
        (if c.count = 0 then u = held else eachSlot (cleanSlot kc) (List.range c.count.toNat) held = .ok () u) →
        exec (.slotSet dd a) s = .next (put { (u.setCluster kc { u.cluster kc with
          slots := [], hand := 0, base := BitVec.ofNat 6 (bitsAt va 16 6), size := BitVec.ofNat 2 (bitsAt va 12 2),
          count := BitVec.ofNat 11 count, owner := if count = 0 then 0 else pasid, tagAt := (s.cycle, s.part.cores) }) with
          ctx := free u.ctx, others := u.others.map free } 0))) ∧
    (let ns := affected s a all
     let free (x : Ctx) : Ctx :=
       if State.coreNo x.id / 4 = kc then { x with holds := x.holds.filter (fun m => !ns.contains m) } else x
     let noted (q : Option SlotRun) : State := s.modCtx (fun x => { x with slotRun := q })
     s.ctx.slotRun = none →
      (Allowed s (.slotInv dd a all) → (∀ m ∈ ns, (c.slot m).pending = false) → ∃ r, exec (.slotInv dd a all) s = .next
          (put r (BitVec.ofNat 64 (ns.countP (fun m => (c.slot m).valid)))) ∧
        (∀ m, (r.cluster kc).slot m = if m ∈ ns then Slot.reset else c.slot m) ∧ (∀ k, k ≠ kc → r.cluster k = s.cluster k) ∧
        r.ctx = free s.ctx ∧ r.others = s.others.map free ∧ r.mem = s.mem) ∧
      (Allowed s (.slotInv dd a all) → ns = m :: rest → (c.slot m).pending = true → exec (.slotInv dd a all) s = .next
        (waits (noted (some { todo := ns, count := if (c.slot m).valid then 1 else 0, seen := true })) .fill)) ∧
      (Allowed s (.slotWb dd a all) → ns = m :: rest → (c.slot m).pending = true → exec (.slotWb dd a all) s = .next
        (waits (noted (some { todo := ns, count := 0, seen := false })) .fill)) ∧
      (Allowed s (.slotWb dd a all) → wbSlots kc ns 0 (noted none) = .ok cnt u →
        exec (.slotWb dd a all) s = .next (put u (BitVec.ofNat 64 cnt)))) ∧
    (let x := (r.cluster k).slot m
     let dirty : Bool := x.valid && x.dirty
     (x.pending = false → cleanSlot k m r = .ok () r' →
       wbSlots k (m :: rest) cnt r = wbSlots k rest (if dirty then cnt + 1 else cnt) r') ∧ wbSlots k [] cnt r = .ok cnt r ∧
     (dirty = false → cleanSlot k m r = .ok () r) ∧
     (dirty = true → r.blockOut r.ctx.id { (r.reqOf .K 0) with pasid := x.pasid } k m x.block = (.done, t) →
       cleanSlot k m r = .ok () (t.setCluster k ((t.cluster k).setSlot m { x with dirty := false }))))

/-- The copy engine. CE.COPY, CE.FILL and CE.GATH, where they may issue with an aligned card that can be read, fewer than 64
commands in flight and no footprint conflict, put the command in flight under the next number (where its bundle was held before the
card was read, under the one kept for it then) and write that number to xd; a misaligned card raises Misaligned and a 65th command blocks. A command that may start starts where its checks pass, and
otherwise retires with the code they find: 1 for a layout error, 2 for a row past the address space, 3 for an image that is not
aligned or in the scratchpad, 4 for a row past the scratchpad (an index table that is not aligned counts as a layout error: the model's choice, log 22). A row is
read whole and written afterwards: FILL repeats the pattern, COPY moves LEN bytes, GATH moves the row its index names, CONV 1 puts codes,
scales and four zero bytes together and CONV 2 parts them; the command is done with its last row. What counts as one 4 KiB image for the
scratchpad, whose rows are written together, is said too. A poisoned sector that a copied row reads
is carried along, and the command then raises Poison at it. A read of scratchpad bytes gives those bytes, a write leaves them there and no
others changed. -/
def Obligations.CopyEngine : Prop :=
  ∀ (s s1 s2 s3 u v t : State) (d a : Reg) (w0 w1 w2 w3 : W64) (c : Cmd) (op which : CeOp) (w : Vector W64 4) (m n : Nat) (va : W64)
    (idx : List Nat) (iw bs scales : List (Byte × Bool)) (r : Req) (o : Nat),
    let i : Instr := match which with | .copy => .ceCopy d a | .fill => .ceFill d a | .gath => .ceGath d a
    let x := s.getX a
    let card : Vector W64 4 := #v[w0, w1, w2, w3]
    let f := cardOf card
    let foot := ceFoot which f
    (Allowed s i → x.toNat % 32 = 0 → s.ctx.eng.cmds.length < 64 → (s.strand ≠ .L ∨ s.ctx.loads = []) →
      loadWord x s = .ok w0 s1 → loadWord (x + 8) s1 = .ok w1 s2 → loadWord (x + 16) s2 = .ok w2 s3 →
      loadWord (x + 24) s3 = .ok w3 u → (u.ctx.isDet = false ∨ u.ctx.eng.cmds = []) →
      exec i s = .next ((u.withCommand .ce f.d1 f.d2 foot (.ce which card 0)).setX d (u.commandNumber.setWidth 64))) ∧
    (Allowed s i → x.toNat % 32 ≠ 0 → Traps i s .misaligned x) ∧
    (Allowed s i → x.toNat % 32 = 0 → 64 ≤ s.ctx.eng.cmds.length → Blocks i s .engine) ∧
    (s.cmd c.seq = some c → c.body = .ce op w m → c.finished = false →
      let g := cardOf w
      let at_ (a : W64) (n : Nat) : W64 := a + BitVec.ofNat 64 n
      let layout : Prop := bitsAt w[1] 55 9 ≠ 0 ∨ bitsAt w[3] 48 2 ≠ 0 ∨ g.conv = 3 ∨ (op ≠ .copy ∧ g.conv ≠ 0) ∨ (g.conv = 0 ↔ g.len = 0) ∨
        (op = .fill ∧ g.sstride ≠ 0) ∨ (op = .gath ∧ g.aux.toNat % 4 ≠ 0)
      let found (n : Nat) : Prop := ceCheck s (s.ceReq c) op w [] = .inl n
      (c.started = false → s.mayStart c = true → ceIndices s c op w = .ok idx u →
        (ceCheck u (s.ceReq c) op w idx = .inl 0 →
          exec (.ceStart c.seq) s = .next (u.modCmd c.seq (fun m => { m with started := true, stalled := none }))) ∧
        (∀ n, n ≠ 0 → ceCheck u (s.ceReq c) op w idx = .inl n → exec (.ceStart c.seq) s =
          .next ((u.modCmd c.seq (fun m => { m with code := BitVec.ofNat 4 n })).finish c.seq))) ∧
      (layout → found 1) ∧
      (¬layout → op = .fill →
        (2 ^ 55 < g.dst.toNat + (g.rows - 1) * g.dstride + g.len → found 2) ∧
        (g.dst.toNat + (g.rows - 1) * g.dstride + g.len ≤ 2 ^ 55 → isScratch g.dst = true →
          found (if 2 ^ 54 + 2 ^ 22 < g.dst.toNat + (g.rows - 1) * g.dstride + g.len then 4 else 0))) ∧
      (¬layout → g.conv = 1 → g.dst.toNat % 1024 ≠ 0 → ¬found 2 → found 3) ∧
      (g.image op = true ↔ g.conv = 0 ∧ g.rows * g.len = 4096 ∧ isScratch g.dst = true ∧
        (op = .gath ∨ g.rows = 1 ∨ g.dstride = g.len)) ∧
      (c.started = true → (g.image op = false ∨ m + 1 = g.rows) →
        let free (r : State) (reads writes : List Range) : Prop := r.edgeWaits c.seq { reads, writes } = false
        let clean (l : List (Byte × Bool)) : Prop := ∀ b ∈ l, b.2 = false
        let done (p : State) : State :=
          let q := p.modCmd c.seq (fun x => { x with body := .ce op w (m + 1), stalled := none })
          if m + 1 = g.rows then q.finish c.seq else q
        let moves (p : State) : Prop := exec (.ceRow c.seq) s = .next (done p)
        (op = .fill → free s [] [rangeAt (at_ g.dst (m * g.dstride)) g.len] →
          eWrite (s.ceReq c) (at_ g.dst (m * g.dstride))
            ((List.range g.len).map (fun k => (BitVec.ofNat 8 (g.src.toNat / 2 ^ (8 * (k % 8))), false))) s = .ok none t → moves t) ∧
        (op = .copy → g.conv ∉ [1, 2] →
          let a := at_ g.src (m * g.sstride)
          let d := at_ g.dst (m * g.dstride)
          free s [rangeAt a g.len] [rangeAt d g.len] → eRead (s.ceReq c) a g.len s = .ok bs u → eWrite (s.ceReq c) d bs u = .ok none t →
          (clean bs → moves t) ∧
          (∀ k, clean (bs.take k) → (∃ b, bs[k]? = some (b, true)) →
            let e := at_ a k - BitVec.ofNat 64 ((at_ a k).toNat % 32)
            moves ((t.modCmd c.seq (fun m => if m.causes.any (fun z => z.1 == 0x07) then m else
              { m with causes := m.causes ++ [(0x07, e)] })).enginePoison (s.ceReq c) e))) ∧
        (op = .gath →
          let j := at_ g.aux (4 * m)
          let d := at_ g.dst (m * g.len)
          free s [rangeAt j 4] [rangeAt d g.len] → eRead (s.ceReq c) j 4 s = .ok iw u →
          let a := at_ g.src (natOfBytes (iw.map (·.1)) * g.len)
          (isScratch g.src = false ∨ isScratch a = true) → free u [rangeAt a g.len] [] → eRead (s.ceReq c) a g.len u = .ok bs v →
          clean iw → clean bs → eWrite (s.ceReq c) d bs v = .ok none t → moves t) ∧
        (op = .copy → g.conv = 1 →
          let a := at_ g.src (960 * m)
          let x := at_ g.aux (60 * m)
          let d := at_ g.dst (1024 * m)
          free s [rangeAt a 960, rangeAt x 60] [rangeAt d 1024] → eRead (s.ceReq c) a 960 s = .ok bs u →
          eRead (s.ceReq c) x 60 u = .ok scales v → clean bs → clean scales →
          eWrite (s.ceReq c) d (bs ++ scales ++ List.replicate 4 (0, false)) v = .ok none t → moves t) ∧
        (op = .copy → g.conv = 2 →
          let a := at_ g.src (1024 * m)
          let x := at_ g.aux (60 * m)
          let d := at_ g.dst (960 * m)
          free s [rangeAt a 1020] [rangeAt d 960, rangeAt x 60] → eRead (s.ceReq c) a 1020 s = .ok bs u → clean bs →
          ∀ ps q, ePlan (s.ceReq c) true x (sectorPieces 4 x 60) u = .ok ps q → eWrite (s.ceReq c) d (bs.take 960) q = .ok none v →
          eWritePieces (bs.drop 960) 0 ps v = .ok none t → moves t))) ∧
    (let k := r.core / 4
     va.toNat = 2 ^ 54 + o → o + n ≤ 2 ^ 22 → (∀ z m, s.fillPending (.scratch k z) m = false) → (∀ z, s.poisonedT (.scratch k z) = false) →
      eRead r va n s = .ok ((List.range n).map (fun j => (s.scratchByte k (o + j), false))) s ∧
      (bs.length = n → (∀ b ∈ bs, b.2 = false) → ∃ t, eWrite r va bs s = .ok none t ∧
        (∀ j b, bs[j]? = some b → t.scratchByte k (o + j) = b.1) ∧
        (∀ c z, c ≠ k ∨ z < o ∨ o + n ≤ z → t.scratchByte c z = s.scratchByte c z) ∧ t.mem = s.mem ∧ t.ctx = s.ctx))

/-- The tuning instructions complete. While a search runs, TUNE.DECL, TUNE.OBJ and TUNE.LOAD answer 3, TUNE.SAVE 0, TUNE.FRZ
works and TUNE.RSM answers not-done 3; TUNE.DECL answers 1 for malformed operands and 2 for a range or a lattice that is too
large, and otherwise declares its knob; TUNE.OBJ sets its source; TUNE.STEP begins the search at lattice index 0, or closes the
trial and opens the next, or answers not-done (1 no knob, 2 no objective, 3 frozen); TUNE.FRZ freezes at the best point;
TUNE.RSM opens the next trial; TUNE.SAVE stores the state block and answers its length; TUNE.LOAD takes a block that is well
formed and answers 4 for one that is not. A trial closes with the objective that its source gives: the clk or the counter's increase since
it was opened, the operand, or the replay table's doubleword. Closing it counts it; a sweep or a probe trial becomes the best where its
objective is lower, or equal at a lower index, or none was the best before, and an exploit trial renews the best's objective; a sweep
moves the cursor on, and a probe that became the best starts the probing again. The next trial is the point at the cursor while the sweep
lasts, then twice the best point, then the first candidate, from the probe pointer on, of the best point with one knob one lower or one
higher inside its range, or the best point where there is none. Lattice indices count with the last-declared knob fastest. That the phase
is answered for before the operands is the model's choice (log 47), and so is the committed setting where no best stands (log 23). -/
def Obligations.Tuning : Prop :=
  (∀ (s s1 u : State) (d : Reg) (a b : Reg) (w0 : W64) (ws : List W64) (t' : Tsu),
    let t := s.ctx.tsu
    let x := s.getX a
    let y := s.getX b
    let runs : Bool := t.phase.isSome && !t.frozen
    let put (r : State) (t : Tsu) : State := r.modCtx (fun c => { c with tsu := t })
    let views (r : State) : State := r.modCtx (fun c =>
      let was (p : Strand) : Option (W64 × Vector W16 16) :=
        if p.wasView.any (fun w => w.1 == r.cycle) then p.wasView else some (r.cycle, p.view)
      let f (p : Strand) : Strand := { p with view := c.tsu.setting, viewEpoch := c.tsu.epoch, wasView := was p }
      { c with l := f c.l, c := f c.c, s := f c.s, k := f c.k })
    let k : Knob := { num := x.setWidth 4, lo := BitVec.ofNat 16 y.toNat, hi := BitVec.ofNat 16 (y.toNat / 65536) }
    let decl : Instr := .tuneDecl (some d) a b
    let malformed : Prop := 16 ≤ x.toNat ∨ 2 ^ 32 ≤ y.toNat ∨ k.hi.toInt < k.lo.toInt
    let large : Prop := 255 < k.hi.toInt - k.lo.toInt ∨ 2 ^ 32 < latticeSize (t.knobs.filter (fun o => o.num != k.num) ++ [k])
    let search (i : Instr) : Prop := Allowed s i ∧ s.ctx.id.kind.isApp = true
    (search decl →
      (runs = true → exec decl s = .next (s.setX d 3)) ∧
      (runs = false → malformed → exec decl s = .next (s.setX d 1)) ∧
      (runs = false → ¬malformed → large → exec decl s = .next (s.setX d 2)) ∧
      (runs = false → ¬malformed → ¬large → t.phase = none → exec decl s = .next ((views (put s (t.declare k s.cycle))).setX d 0)) ∧
      (runs = false → ¬malformed → ¬large → t.phase ≠ none → exec decl s = .next ((put s (t.declare k s.cycle)).setX d 0))) ∧
    (search (.tuneObj (some d) a b) →
      (runs = true → exec (.tuneObj (some d) a b) s = .next (s.setX d 3)) ∧
      (∀ o, runs = false → (match o with
          | Objective.clks => x = 0
          | .qhc i => x = BitVec.ofNat 64 (1 + 16 * i.toNat)
          | .software => x = 2
          | .replay base n => 0 < n ∧ n < 2 ^ 16 ∧ x = BitVec.ofNat 64 (3 + 65536 * n) ∧ base = y ∧ y.toNat % 8 = 0) →
        exec (.tuneObj (some d) a b) s = .next ((put s { t with objective := some o }).setX d 0)) ∧
      (runs = false → 2 ^ 32 ≤ x.toNat → exec (.tuneObj (some d) a b) s = .next (s.setX d 1))) ∧
    (search (.tuneStep (some d) a) →
      (t.frozen = true → exec (.tuneStep (some d) a) s = .next (s.setX d 0x8000000000000003 true)) ∧
      (t.frozen = false → t.phase = none →
        (t.knobs = [] → exec (.tuneStep (some d) a) s = .next (s.setX d 0x8000000000000001 true)) ∧
        (t.knobs ≠ [] → t.objective = none → exec (.tuneStep (some d) a) s = .next (s.setX d 0x8000000000000002 true)) ∧
        (t.knobs ≠ [] → t.objective ≠ none →
          let o := ({ t with phase := some .sweep, cursor := 0 } : Tsu).openTrial s.ctx.csr .sweep (latticePoint t.knobs 0) s.cycle
          exec (.tuneStep (some d) a) s = .next ((put s o.1).setX d (BitVec.ofNat 64 o.2) true))) ∧
      (t.frozen = false → t.phase ≠ none → t.objective = some .software →
        let n := (t.closeTrial x).nextTrial s.ctx.csr s.cycle
        exec (.tuneStep (some d) a) s = .next ((put s n.1).setX d (BitVec.ofNat 64 n.2) true)) ∧
      (t.frozen = false → t.phase ≠ none →
        let closes (r : State) (v : W64) : Prop :=
          let n := (t.closeTrial v).nextTrial s.ctx.csr s.cycle
          exec (.tuneStep (some d) a) s = .next ((put r n.1).setX d (BitVec.ofNat 64 n.2) true)
        let start := (t.trial.map Trial.start).getD 0
        (t.objective = some .clks → closes s (t.clks - start)) ∧
        (∀ i, t.objective = some (.qhc i) → closes s (s.ctx.csr.qhc.getD i.toNat 0 - start)) ∧
        (∀ base n, t.objective = some (.replay base n) →
          (n ≤ t.trials.toNat → closes s 0xFFFFFFFFFFFFFFFF) ∧
          (t.trials.toNat < n → loadWord (base + 8 * t.trials) s = .ok w0 u → closes u w0)))) ∧
    (search (.tuneFrz (some d)) →
      (runs = false → exec (.tuneFrz (some d)) s = .next (s.setX d 3)) ∧
      (runs = true → t.best = none → exec (.tuneFrz (some d)) s = .next ((put s { t with trial := none, frozen := true }).setX d 0)) ∧
      (∀ p o, runs = true → t.best = some (p, o) → exec (.tuneFrz (some d)) s = .next
        ((put s (({ t with trial := none, frozen := true } : Tsu).commitPoint (latticePoint t.knobs p) s.cycle)).setX d 0))) ∧
    (search (.tuneRsm (some d)) →
      (t.frozen = false → exec (.tuneRsm (some d)) s = .next (s.setX d 0x8000000000000003 true)) ∧
      (t.frozen = true →
        let n := ({ t with frozen := false } : Tsu).nextTrial s.ctx.csr s.cycle
        exec (.tuneRsm (some d)) s = .next ((put s n.1).setX d (BitVec.ofNat 64 n.2) true))) ∧
    (search (.tuneSave (some d) a) →
      (runs = true → exec (.tuneSave (some d) a) s = .next (s.setX d 0)) ∧
      (runs = false → x.toNat % 8 = 0 →
        storeWords x (t.blockWords ++ [t.blockWords.foldl (fun x y => x ^^^ y) 0]) s = .ok () u →
        exec (.tuneSave (some d) a) s = .next (u.setX d (BitVec.ofNat 64 (56 + 8 * t.knobs.length)))) ∧
      (runs = false → x.toNat % 8 ≠ 0 → Traps (.tuneSave (some d) a) s .misaligned x)) ∧
    (search (.tuneLoad (some d) a) →
      (runs = true → exec (.tuneLoad (some d) a) s = .next (s.setX d 3)) ∧
      (runs = false → x.toNat % 8 = 0 → loadWord x s = .ok w0 s1 → bitsAt w0 16 5 ≤ 16 →
        loadWords (6 + bitsAt w0 16 5) (x + 8) s1 = .ok ws u →
        (t.ofBlock (w0 :: ws) = none → exec (.tuneLoad (some d) a) s = .next (u.setX d 4)) ∧
        (t.ofBlock (w0 :: ws) = some t' →
          exec (.tuneLoad (some d) a) s =
            .next ((views (put u (({ t' with setting := t.setting } : Tsu).commit t'.setting s.cycle))).setX d 0))))) ∧
  (∀ (t : Tsu) (r : Trial) (v : W64), t.trial = some r →
    let better : Prop := ∀ i o, t.best = some (i, o) → v.toNat < o.toNat ∨ (v = o ∧ r.point < i)
    let q := t.closeTrial v
    q = { t with trial := none, trials := t.trials + 1, best := q.best, cursor := q.cursor, pptr := q.pptr } ∧
    q.cursor = (if r.kind = .sweep then t.cursor + 1 else t.cursor) ∧
    (r.kind ≠ .exploit → (better → q.best = some (r.point, v)) ∧ (¬better → q.best = t.best)) ∧
    (r.kind = .exploit → ∀ i o, t.best = some (i, o) → q.best = some (i, v)) ∧
    (r.kind = .probe → better → q.pptr = 0) ∧ (r.kind ≠ .probe ∨ ¬better → q.pptr = t.pptr)) ∧
  (∀ (t : Tsu) (c : Csrs) (clk : W64), t.phase ≠ none →
    let n := t.nextTrial c clk
    let opens (kind : TrialKind) (vs : List W16) : Prop :=
      n.2 = latticeIndex t.knobs vs ∧ n.1.trial = some { kind, point := latticeIndex t.knobs vs, start := t.measure c } ∧
      n.1.setting = t.settingOf vs ∧ n.1.epoch = t.epoch + 1 ∧ n.1.knobs = t.knobs ∧ n.1.best = t.best ∧ n.1.cursor = t.cursor ∧
      n.1.trials = t.trials
    let sweeps : Prop := t.phase = some .sweep ∧ t.cursor < latticeSize t.knobs
    let done := if t.phase = some .sweep then 0 else t.ecnt
    let places := 2 * t.knobs.length
    let moved (p : Nat) (x : W16) : Int := if p % 2 = 0 then x.toInt - 1 else x.toInt + 1
    let fits (p : Nat) (x : W16) : Prop := t.bestValues[p / 2]? = some x ∧
      ∃ k, t.knobs[p / 2]? = some k ∧ k.lo.toInt ≤ moved p x ∧ moved p x ≤ k.hi.toInt
    (sweeps → opens .sweep (latticePoint t.knobs t.cursor) ∧ n.1.phase = some .sweep ∧ n.1.ecnt = t.ecnt ∧ n.1.pptr = t.pptr) ∧
    (¬sweeps → n.1.phase = some .exploit ∧
      (done < 2 → opens .exploit t.bestValues ∧ n.1.ecnt = done + 1 ∧ n.1.pptr = t.pptr) ∧
      (2 ≤ done → n.1.ecnt = 0 ∧
        (∀ j p x, j < places → p = (t.pptr + j) % places → fits p x → (∀ i y, i < j → ¬fits ((t.pptr + i) % places) y) →
          opens .probe (t.bestValues.set (p / 2) (BitVec.ofInt 16 (moved p x))) ∧ n.1.pptr = (p + 1) % places) ∧
        ((∀ i y, i < places → ¬fits ((t.pptr + i) % places) y) → opens .probe t.bestValues ∧ n.1.pptr = t.pptr))) ∧
    (∀ i o, t.best = some (i, o) → t.bestValues = latticePoint t.knobs i) ∧
    (t.best = none → t.bestValues = t.knobs.map (fun k => t.setting.getD k.num.toNat 0))) ∧
  (∀ (ks : List Knob) (k : Knob) (vs : List W16) (x : W16) (i : Nat) (t : Tsu),
    (vs.length = ks.length → latticeIndex (ks ++ [k]) (vs ++ [x]) =
      latticeIndex ks vs * (k.hi.toInt - k.lo.toInt + 1).toNat + (x.toInt - k.lo.toInt).toNat) ∧ latticeIndex [] [] = 0 ∧
    ((∀ m ∈ ks, m.lo.toInt ≤ m.hi.toInt) → i < latticeSize ks →
      (latticePoint ks i).length = ks.length ∧ latticeIndex ks (latticePoint ks i) = i ∧
      ∀ m, m < ks.length → (ks.getD m k).lo.toInt ≤ ((latticePoint ks i).getD m 0).toInt ∧
        ((latticePoint ks i).getD m 0).toInt ≤ (ks.getD m k).hi.toInt) ∧
    (t.knobs = ks ++ [k] → (∀ m ∈ ks, m.num ≠ k.num) → vs.length = ks.length →
      t.settingOf (vs ++ [x]) = (({ t with knobs := ks } : Tsu).settingOf vs).setIfInBounds k.num.toNat x) ∧
    (t.knobs = [] → t.settingOf vs = t.setting))

/-- The matrix array's lease and tables. MX.LEASE with the lease writes the commands it still permits, and blocks without it;
MX.FREE gives the lease up; a free lease goes to the requester of the highest priority, among equals to the first core after the
last holder's, and the grants are numbered. MX.FMT puts an accepted entry at an index below 16 and answers 0, otherwise 1; MX.SCL drops
the process's cached scales of a tensor or all of them; MX.ACT with the lease puts its command in flight and counts it. A command that
uses up the lease's limit gives the lease to a waiting requester, or restarts the count. Three clauses are the model's choice: the limit
is that of the core's own LEASELIM, and a bundle that began to issue under the lease still issues what its members hold it for after one
of them has ended it, MX.LEASE then writing 0 (log 83); an MX.SCL stands noted while earlier class-1 commands are in flight (log 58). -/
def Obligations.MatrixLeases : Prop :=
  ∀ (s : State) (d a b : Reg) (all : Bool) (k : Nat),
    let kc := s.hereCluster
    let c := s.cluster kc
    let mine : Prop := c.holder = some (s.here % 4, s.ctx.id.kind)
    let limit := if s.hereCore.leaselim = 0 then 1 else Min.min 64 s.hereCore.leaselim.toNat
    let had : Prop := s.rdCluster.holder = some (s.here % 4, s.ctx.id.kind)
    let lapsed (r : State) : State := r.setCluster kc { r.cluster kc with holder := none, lastHolder := s.here % 4, issued := 0 }
    let x := s.getX a
    let y := s.getX b
    let prio (z : Ctx) : Nat := s.prioOf z
    let turn (z : Ctx) : Nat := (State.coreNo z.id % 4 + 7 - (s.cluster k).lastHolder) % 4
    (Allowed s (.mxLease d) →
      (mine → exec (.mxLease d) s = .next (s.setX d (BitVec.ofNat 64 (limit - c.issued)))) ∧
      (¬mine → had → exec (.mxLease d) s = .next (s.setX d 0)) ∧
      (¬mine → ¬had → Blocks (.mxLease d) s .lease)) ∧
    (s.issue.snap = none → (had ↔ mine)) ∧
    (Allowed s .mxFree → (mine → exec .mxFree s = .next (lapsed s)) ∧ (¬mine → exec .mxFree s = .next s)) ∧
    ((s.cluster k).holder ≠ none → exec (.leaseGrant k) s = .next s) ∧
    ((s.cluster k).holder = none → (∀ z ∈ s.ctx :: s.others, s.wantsLease k z = false) → exec (.leaseGrant k) s = .next s) ∧
    ((s.cluster k).holder = none → (∃ z ∈ s.ctx :: s.others, s.wantsLease k z = true) →
      ∃ z ∈ s.ctx :: s.others, s.wantsLease k z = true ∧
        (∀ v ∈ s.ctx :: s.others, s.wantsLease k v = true → prio v < prio z ∨ (prio v = prio z ∧ turn z ≤ turn v)) ∧
        exec (.leaseGrant k) s = .next (s.setCluster k { s.cluster k with
          holder := some (State.coreNo z.id % 4, z.id.kind), lastHolder := State.coreNo z.id % 4, issued := 0,
          grants := (s.cluster k).grants + 1, lease := (s.cluster k).grants + 1 })) ∧
    (Allowed s (.mxFmt d a b) → (s.ctx.isDet = false ∨ s.tainted b = false) →
      (x.toNat < 16 → fmtEntryOk y = true → exec (.mxFmt d a b) s = .next ((s.modCtx (fun c =>
        { c with comp := { c.comp with fmt := c.comp.fmt.setIfInBounds x.toNat y } })).setX d 0)) ∧
      (16 ≤ x.toNat ∨ fmtEntryOk y = false → exec (.mxFmt d a b) s = .next (s.setX d 1))) ∧
    (Allowed s (.mxScl a all) →
      let t := s.setCluster kc { c with scales := c.scales.filter (fun e =>
        e.pasid != (s.reqOf .C 10).pasid || (!all && e.tid != x.setWidth 32)) }
      ((∀ m ∈ s.ctx.eng.cmds, m.cls ≠ .mxa) → exec (.mxScl a all) s = .next t) ∧
      ((∃ m ∈ s.ctx.eng.cmds, m.cls = .mxa) → exec (.mxScl a all) s = .next (t.modCtx (fun z => { z with eng := { z.eng with
        scls := z.eng.scls ++ [(z.eng.seqno, if all then none else some (x.setWidth 32))] } })))) ∧
    (Allowed s (.mxAct d a) → x.toNat % 16 = 0 → s.ctx.eng.cmds = [] →
      let r := s.withCommand .mxa 0 0 { reads := [rangeAt x 2064], writes := [] } (.act x)
      (mine → exec (.mxAct d a) s = .next (State.setX
        (if c.issued + 1 < limit then r.setCluster kc { c with issued := c.issued + 1 }
          else if s.others.any (s.wantsLease kc) then lapsed r else r.setCluster kc { c with issued := 0 })
        d (s.ctx.eng.seqno.setWidth 64))) ∧
      (¬mine → had → exec (.mxAct d a) s = .next (r.setX d (s.ctx.eng.seqno.setWidth 64))) ∧
      (¬mine → ¬had → Blocks (.mxAct d a) s .lease)) ∧
    (Allowed s (.mxAct d a) → x.toNat % 16 ≠ 0 → Traps (.mxAct d a) s .misaligned x)

/-- MMA, MMA.Z and MX.DRAIN. Under a grant of their slot (or an entry of the format table, chosen by LIDX0 mod 16) whose formats
the profile accepts, with their cells inside the array, the type bits of their blocks right, the lease, a free command slot and
no command before them, they put their command in flight with all it captured, and count it. A slot without a grant raises
Shape-Invalid. The oldest class-1 command that may start, when no command of an earlier lease is left, executes whole: an MMA's cells, the
table of an MX.ACT or a drain's tiles are written, or its lines pushed where the store queue has room, its flags set, and it retires; first the
MX.SCL noted before it drop what was cached. While an earlier lease's command is left, nothing happens. As it retires, its event takes the
lowest-numbered provenance record that is free, and is dropped where all four are valid. That a command is executed at one event, and that
the check of the accumulator type looks at an MMA.Z in flight, is the model's choice (log 58), and so is that this check passes over a
block whose covered rows are all predicated off (log 83). (MatrixNumerics says what the cells and the events are.) -/
def Obligations.MatrixCommands : Prop :=
  ∀ (s s0 u : State) (qp : BitVec 4) (acc : BitVec 5) (a b : Reg) (slot : BitVec 2) (ft zero : Bool) (d1 d2 : BitVec 6)
    (np : BitVec 8) (af bf : EType) (td : TDst) (blk : BitVec 5) (cnt : BitVec 6) (bias act rq : Bool) (cs : List Cmd) (c : Cmd)
    (f : Fl) (ev : Option ProvEvent) (table : Option ActTable) (par : DrainPar),
    let comp := s.rd.comp
    let e := (comp.fmt.getD (s.rd.c.loop0.idx.toNat % 16) 0).toNat
    let x := s.getX a
    let y := s.getX b
    let kc := s.hereCluster
    let lease : Prop := (s.cluster kc).holder = some (s.here % 4, s.ctx.id.kind)
    (let i : Instr := if zero then .mmaZ qp acc a b slot ft d1 d2 np else .mma qp acc a b slot ft d1 d2 np
     let w := (comp.slots.getD slot.toNat emptySlot).toNat
     let prof : BitVec 8 := if ft then BitVec.ofNat 8 (e / 256) else np
     let ca : BitVec 4 := BitVec.ofNat 4 (if ft then e else w / 2 ^ 36)
     let cb : BitVec 4 := BitVec.ofNat 4 (if ft then e / 16 else w / 2 ^ 40)
     let m := w % 128 + 1
     let n := w / 128 % 512 + 1
     let k := w / 65536 % 65536 + 1
     let bits := comp.pred qp
     let foot := mmaFoot s x y af bf m n k
     Allowed s i → profileLegal prof s.ctx.isDet = true →
      (w / 2 ^ 63 = 0 → EType.ofCode ca = some af → EType.ofCode cb = some bf → profileAccepts prof s.ctx.isDet af bf = true →
        16 * (acc.toNat / 4) + m ≤ 128 → 64 * (acc.toNat % 4) + n ≤ 256 →
        (ft = false ∨ (af ≠ .b4 ∧ bf ≠ .b4) ∨ k % 32 = 0) →
        (zero = true ∨ ∀ j ∈ mmaBlocks acc.toNat m n bits, s.ctx.blockInt j = profileInt prof af) →
        x.toNat % 8 = 0 → y.toNat % 8 = 0 → lease → s.ctx.eng.cmds = [] →
        exec i s = .next (s.withCommand .mxa d1 d2 foot (.mma zero prof ca cb m n k acc.toNat bits x y)).countLease) ∧
      (w / 2 ^ 63 = 1 → ft = false → Traps i s .shapeInvalid (s.issue.word.setWidth 64))) ∧
    (let i : Instr := .mxDrain qp td blk cnt a bias act rq ft np
     let w := (comp.slots.getD 0 emptySlot).toNat
     let fmt : BitVec 4 := BitVec.ofNat 4 (if ft then e / 65536 else w / 2 ^ 44)
     let n := cnt.toNat + 1
     let foot : Foot := { reads := (if bias then [rangeAt x 1024] else []) ++ (if rq then [rangeAt (x + 1024) 8] else []), writes := [] }
     Allowed s i → np = 0 →
      (blk.toNat + n ≤ 32 → drainDst td n = true →
        ((bias = false ∧ act = false) ∨ ∀ j, j < n → s.ctx.blockInt (blk.toNat + j) = false) →
        (rq = false ∨ ((ft = true ∨ w / 2 ^ 63 = 0) ∧ ∃ ty, EType.ofCode fmt = some ty ∧ numericType ty = true)) →
        ((bias = false ∧ rq = false) ∨ x.toNat % 16 = 0) → lease → s.ctx.eng.cmds = [] →
        exec i s = .next (s.withCommand .mxa 0 0 foot
          (.drain td comp.trb (comp.pred qp) blk.toNat n x bias act rq fmt none)).countLease) ∧
      (32 < blk.toNat + n → Traps i s .shapeInvalid (s.issue.word.setWidth 64))) ∧
    (s0.ctx.eng.cmds = c :: cs → c.cls = .mxa →
      (∃ z ∈ s0.others, State.coreNo z.id / 4 = s0.hereCluster ∧ z.id.residency ≠ .saved ∧
        ∃ m ∈ z.eng.cmds, m.cls = .mxa ∧ m.finished = false ∧ m.lease < c.lease) → exec .mxaCommandRetire s0 = .next s0) ∧
    (s0.ctx.eng.cmds = c :: cs → c.cls = .mxa → s0.leaseBefore c = false → s0.mayStart c = true →
      let s := s0.applyScls c
      let r := s.reqOf c.strand 10
      let due (e : W32 × Option W32) : Prop := seqBelow c.seq e.1 = false
      (∀ e, e ∈ (s.cluster s0.hereCluster).scales ↔ e ∈ (s0.cluster s0.hereCluster).scales ∧
        ¬(e.pasid = (s0.reqOf .C 10).pasid ∧ ∃ n ∈ s0.ctx.eng.scls, due n ∧ (n.2 = none ∨ n.2 = some e.tid))) ∧
      (∀ n, n ∈ s.ctx.eng.scls ↔ n ∈ s0.ctx.eng.scls ∧ ¬due n) ∧
      (∀ z prof ca cb m n k block bits va vb, c.body = .mma z prof ca cb m n k block bits va vb →
        mmaRun r c.seq z prof ((EType.ofCode ca).getD .fp32) ((EType.ofCode cb).getD .fp32) m n k block bits va vb s = .ok (f, ev) u →
        exec .mxaCommandRetire s0 = .next (u.mxDone c.seq f ev)) ∧
      (∀ va, c.body = .act va → actRun r c.seq va s = .ok table u →
        exec .mxaCommandRetire s0 = .next ((u.modCtx (fun x => { x with comp := { x.comp with act := table } })).mxDone c.seq 0 none)) ∧
      (∀ reg v ix trb bits first count va p q g fmt, c.body = .drain (.tile reg v ix) trb bits first count va p q g fmt none →
        drainPar r c.seq p g va s = .ok par u →
        let o := State.drainOut u.ctx.comp par q ((EType.ofCode fmt).getD .fp32) bits first count
        exec .mxaCommandRetire s0 = .next ((u.drainTiles o trb reg.toNat count bits).mxDone c.seq o.flags o.event)) ∧
      (∀ sq trb bits first count va p q g fmt, c.body = .drain (.sq sq) trb bits first count va p q g fmt none →
        drainPar r c.seq p g va s = .ok par u →
        let o := State.drainOut u.ctx.comp par q ((EType.ofCode fmt).getD .fp32) bits first count
        let l := u.ctx.q.sq.getD 0 []
        l.length + o.lines.length ≤ 32 →
        exec .mxaCommandRetire s0 = .next ((u.modCtx (fun x => { x with q := { x.q with sq := x.q.sq.setIfInBounds 0 (l ++ o.lines) } })).mxDone c.seq o.flags o.event)) ∧
      u.mxDone c.seq f ev = ((u.orFlags f).recordEvent c.seq false ev).finish c.seq) ∧
    (let valid (m : Nat) : Prop := (u.ctx.csr.prov.getD (2 * m) 0).getLsbD 0 = true
     ∀ (e : ProvEvent) (near : Bool) (m : Nat),
      u.recordEvent c.seq near none = u ∧
      ((∀ k, k < 4 → valid k) → u.recordEvent c.seq near (some e) = u) ∧
      (m < 4 → ¬valid m → (∀ k, k < m → valid k) → e.row < 128 → e.col < 256 → e.event < 4 → e.opnd < 4 → e.kblk < 2 ^ 32 →
        let even := c.seq.toNat * 2 ^ 32 + e.row * 2 ^ 25 + e.col * 2 ^ 17 + e.event * 2 ^ 15 + e.opnd * 2 ^ 13 + e.fmt.toNat * 2 ^ 9 +
          (if near then 2 else 0) + 1
        u.recordEvent c.seq near (some e) = u.modCtx (fun x => { x with csr := { x.csr with
          prov := (x.csr.prov.setIfInBounds (2 * m) (BitVec.ofNat 64 even)).setIfInBounds (2 * m + 1) (BitVec.ofNat 64 e.kblk) } })))

/-- The numerics of matrix work under NP0 to NP5, and the stages of a drain. A B4 code is worth its entry of R65 times the scale of
its block, and NaN under E = 63. A command accumulates chunk by chunk from k = 0, so that a split at a multiple of the chunk changes
nothing. A chunk's products are exact; NaNs and infinities among them decide it first; else it is worth its one product (NP0), RN of
their sum (NP1, NP3), RN of the sum of the products truncated to 40 bits below the largest (NP2), or the root of the pairwise tree
(NP5), and is added with one more RN; NP4 adds exactly and clamps with SAT. An MMA reads its operands, changes the covered cells
whose predicate bit is set and no other, MMA.Z from +0, setting the type bits of their blocks for NP4 alone. A drain adds the bias,
applies the table, and requantises, in this order, gathering the flags; a row whose predicate bit is clear is a line of zeros. The
provenance event of a cell, of an MMA and of a drain is that of the least key among: an operand element that is a NaN or an infinity, at its
k; a NaN or an infinity that comes from the accumulation of numbers, or a NaN from infinities; a saturation under NP4; a drain stage
whose output is a NaN, an infinity or saturated. Which of these count as producing one is the model's reading (log 32), and so is that
NP2's truncation sets no NX (log 29). -/
def Obligations.MatrixNumerics : Prop :=
  (∀ (np : BitVec 8) (af bf : EType) (row col : Nat) (acc : W32) (as bs as' bs' : OperandRow),
    let f := FFmt.fp32
    let p := np.toNat
    let chunk := [1, 16, 32, 32, 64, 64].getD p 1
    let one := accumulate np af bf row col acc as bs
    let both := accumulate np af bf row col acc (as ++ as') (bs ++ bs')
    let next := accumulate np af bf row col one.acc as' bs'
    let pairs := (as.zip bs).map (fun z => (operandVal af z.1.1 z.1.2, operandVal bf z.2.1 z.2.2))
    let ps := pairs.map (fun z => z.1.mul z.2)
    let nv : Fl := if ∃ z ∈ pairs, z.1 ≠ .nan ∧ z.2 ≠ .nan ∧ z.1.mul z.2 = .nan then Fl.nv else 0
    let total (l : List FVal) : FVal := l.tail.foldl (fun x y => x.add .rne y) (l.headD FVal.zero)
    let expo (x : FVal) : Int := match x with | .num _ m e => e + Nat.log2 m | _ => 0
    let trunc (g : Int) (x : FVal) : FVal := match x with
      | .num n m e => if e < g then .num n (m / 2 ^ (g - e).toNat) g else x
      | _ => x
    let adds (v : FVal) (more : Fl) : Prop :=
      let old := f.decode acc.toNat
      let z := old.add .rne v
      one.acc = BitVec.ofNat 32 (z.round f .rne).1 ∧
      one.fl = nv ||| more ||| (z.round f .rne).2 ||| (if z = .nan ∧ old ≠ .nan ∧ v ≠ .nan then Fl.nv else 0)
    let specials : Prop := .nan ∈ ps ∨ .inf true ∈ ps ∨ .inf false ∈ ps
    let kdiv := if af = .b4 ∨ bf = .b4 then 32 else 16
    let odd (v : FVal) (event : Nat) : Prop := (v = .nan ∧ event = 1) ∨ (v.isInf = true ∧ event = 2)
    let ofOperand (x : ProvEvent) : Prop := ∃ k z, pairs[k]? = some z ∧ x.kblk = k / kdiv ∧
      ((x.opnd = 0 ∧ x.fmt = af.code ∧ odd z.1 x.event) ∨ (x.opnd = 1 ∧ x.fmt = bf.code ∧ odd z.2 x.event))
    let ofSum (x : ProvEvent) : Prop :=
      let old := f.decode acc.toNat
      let res := f.decode one.acc.toNat
      let oddPair : Prop := ∃ z ∈ pairs, ∃ n, odd z.1 n ∨ odd z.2 n
      x.kblk = 0 ∧ x.opnd = 2 ∧ x.fmt = EType.fp32.code ∧ odd res x.event ∧
      ((¬oddPair ∧ ∀ n, ¬odd old n) ∨ (res = .nan ∧ old ≠ .nan ∧ (oddPair ∨ old.isInf = true) ∧ ∀ z ∈ pairs, z.1 ≠ .nan ∧ z.2 ≠ .nan))
    p ≤ 5 → as.length = bs.length →
    (as.length % chunk = 0 → both.acc = next.acc ∧ both.fl = one.fl ||| next.fl ∧
      (as.length % kdiv = 0 → LeastEvent both.event (fun x => one.event = some x ∨
        ∃ y, next.event = some y ∧ x = { y with kblk := y.kblk + as.length / kdiv }))) ∧
    (as ≠ [] → as.length ≤ chunk →
      (p ≠ 4 → LeastEvent one.event (fun x => x.row = row ∧ x.col = col ∧ (ofOperand x ∨ ofSum x))) ∧
      (p = 4 → LeastEvent one.event (fun x => one.fl ≠ 0 ∧
        x = { kblk := 0, row, col, event := 3, opnd := 2, fmt := EType.i32.code })) ∧
      (p ≠ 4 →
        (.nan ∈ ps → adds .nan 0) ∧
        (.nan ∉ ps → .inf true ∈ ps → .inf false ∈ ps → adds .nan Fl.nv) ∧
        (∀ n, .nan ∉ ps → .inf n ∈ ps → .inf (!n) ∉ ps → adds (.inf n) 0) ∧
        (¬specials → p = 0 → adds (ps.headD FVal.zero) 0) ∧
        (¬specials → p = 1 ∨ p = 3 → adds (RN f false (total ps)).1 (RN f false (total ps)).2) ∧
        (¬specials → p = 2 →
          let some' := ps.filter (fun x => !x.isZero)
          (some' = [] → adds FVal.zero 0) ∧
          (∀ x ∈ some', (∀ y ∈ some', expo y ≤ expo x) →
            let v := RN f false (total (some'.map (trunc (expo x - 40))))
            adds v.1 v.2)) ∧
        (¬specials → p = 5 → ∃ v w, treeNode f ps 6 0 = some (v, w) ∧ adds v w)) ∧
      (p = 4 → let sum : Int := acc.toInt + ((as.zip bs).map (fun z => intOf af z.1.1 * intOf bf z.2.1)).sum
        one.acc = BitVec.ofInt 32 (if sum < -2 ^ 31 then -2 ^ 31 else if 2 ^ 31 - 1 < sum then 2 ^ 31 - 1 else sum) ∧
        one.fl = if sum < -2 ^ 31 ∨ 2 ^ 31 - 1 < sum then Fl.sat else 0))) ∧
  (∀ (t : EType) (raw scale : Nat) (bytes : List Byte) (k : Nat),
    let table : List (List Nat) := [[0, 8, 16, 24, 32, 40, 48, 56], [0, 4, 8, 12, 16, 24, 32, 48], [0, 1, 2, 4, 8, 16, 32, 64],
      [0, 8, 16, 24, 32, 64, 128, 256]]
    let kind := scale / 64
    let eighths := if kind = 0 ∧ 8 ≤ raw then 8 * (16 - raw) else (table.getD kind []).getD (raw % 8) 0
    let e : Int := (scale % 64 : Nat) - 35
    (t.isFloat = true → operandVal t raw scale = t.fmt.decode (raw % 2 ^ t.bits)) ∧
    (raw < 16 → scale < 256 →
      (scale % 64 = 63 → operandVal .b4 raw scale = .nan) ∧
      (scale % 64 ≠ 63 → ∃ m i, operandVal .b4 raw scale = .num (decide (8 ≤ raw)) m i ∧
        m * 2 ^ (i - min i e).toNat = eighths * 2 ^ (e - min i e).toNat)) ∧
    elemRaw .b4 bytes k = (bytes.getD (k / 2) 0).toNat / 16 ^ (k % 2) % 16 ∧
    (t ≠ .b4 → elemRaw t bytes k = natOfBytes ((bytes.drop (k * (t.bits / 8))).take (t.bits / 8)))) ∧
  (∀ (s u : State) (r : Req) (q : W32) (zero : Bool) (prof : BitVec 8) (af bf : EType) (m n k block : Nat) (qp : W16) (a b : W64)
    (fl : Fl) (ev : Option ProvEvent), mmaRun r q zero prof af bf m n k block qp a b s = .ok (fl, ev) u →
    16 * (block / 4) + m ≤ 128 → 64 * (block % 4) + n ≤ 256 →
    ∃ da db as bs s1 s2 s3 s4, readDesc r a af s = .ok da s1 ∧ readDesc r b bf s1 = .ok db s2 ∧
      readOperands r da af k m 0 s2 = .ok as s3 ∧ readOperands r db bf k n 0 s3 = .ok bs s4 ∧ u = s4.modCtx (fun c => { c with comp := u.ctx.comp }) ∧
      (let old (i j : Nat) : W32 := (s4.ctx.comp.acc.getD i (Vector.replicate 256 0)).getD j 0
       let on (i j : Nat) : Prop := 16 * (block / 4) ≤ i ∧ i < 16 * (block / 4) + m ∧ 64 * (block % 4) ≤ j ∧ j < 64 * (block % 4) + n ∧
         qp.getLsbD ((i - 16 * (block / 4)) / 8) = true
       let cell (i j : Nat) : CellRun := accumulate prof af bf i j (if zero then 0 else old i j) (as.getD (i - 16 * (block / 4)) [])
         (bs.getD (j - 64 * (block % 4)) [])
       (∀ i j, i < 128 → j < 256 → (on i j → (u.ctx.comp.acc.getD i (Vector.replicate 256 0)).getD j 0 = (cell i j).acc) ∧
         (¬on i j → (u.ctx.comp.acc.getD i (Vector.replicate 256 0)).getD j 0 = old i j)) ∧
       (∀ d, d < 32 →
         let hit : Prop := zero = true ∧ ∃ i j, on i j ∧ 4 * (i / 16) + j / 64 = d
         (hit → u.ctx.comp.accInt.getD d false = decide (prof = 4)) ∧
         (¬hit → u.ctx.comp.accInt.getD d false = s4.ctx.comp.accInt.getD d false)) ∧
       (∀ x, fl.getLsbD x = true ↔ ∃ i j, on i j ∧ (cell i j).fl.getLsbD x = true) ∧
       LeastEvent ev (fun x => ∃ i j, on i j ∧ (cell i j).event = some x) ∧
       { u.ctx.comp with acc := s4.ctx.comp.acc, accInt := s4.ctx.comp.accInt } = s4.ctx.comp)) ∧
  (∀ (c : Compute) (p : DrainPar) (act : Bool) (fmt : EType) (b r col : Nat) (l x scale zp : W32) (e : Int)
    (slope icept : Vector W32 256) (int : Bool) (bits : W16) (first count : Nat), r < 16 → col < 64 →
    let f := FFmt.fp32
    let i := 16 * (b / 4) + r
    let j := 64 * (b % 4) + col
    let made (z : FVal) (ops : List FVal) : W32 × Fl :=
      (BitVec.ofNat 32 (z.round f .rne).1, (z.round f .rne).2 ||| (if z = .nan ∧ FVal.nan ∉ ops then Fl.nv else 0))
    let x0 : W32 := (c.acc.getD i (Vector.replicate 256 0)).getD j 0
    let x1 : W32 × Fl := match p.bias with
      | none => (x0, 0)
      | some bs =>
        let o := f.decode x0.toNat
        let k := f.decode (natOfBytes ((bs.drop (4 * j)).take 4))
        made (o.add .rne k) [o, k]
    let x2 : W32 × Fl := if act then activate (c.act.map (fun t => (t.l, t.e, t.slope, t.icept))) x1.1 else (x1.1, 0)
    let x3 : W32 × Fl := match p.rq with | none => (x2.1, 0) | some z => requant (c.accInt.getD b false) fmt z.1 z.2 x2.1
    let o := drainCell c p act fmt b r col
    let y := activate (some (l, e, slope, icept)) x
    let v := f.decode x.toNat
    let lo := f.decode l.toNat
    let piece (k : Nat) : W32 × Fl :=
      let g := f.decode (slope.getD k 0).toNat
      let h := f.decode (icept.getD k 0).toNat
      made ((g.mul v).add .rne h) [g, v, h]
    let w : FVal := if int then .num (decide (x.toInt < 0)) x.toInt.natAbs 0 else v
    let sc := f.decode scale.toNat
    let z := w.mul sc
    let q := requant int fmt scale zp x
    let bot : Int := if fmt.signed then -(2 ^ (fmt.bits - 1) : Int) else 0
    let top : Int := if fmt.signed then 2 ^ (fmt.bits - 1) - 1 else 2 ^ fmt.bits - 1
    let whole (k : Int) (fl : Fl) : W32 × Fl := (BitVec.ofNat 32 (k % 2 ^ fmt.bits).toNat, fl)
    let tooBig : Bool := match z with | .num .. => (z.round fmt.fmt .rne).2 &&& Fl.of != 0 | _ => false
    let gives (there : Prop) (r : W32 × Fl) (t : EType) (x : ProvEvent) : Prop :=
      let v := if t.isInt then FVal.zero else elemVal t r.1.toNat
      there ∧ x = { kblk := 0, row := i, col := j, event := x.event, opnd := 3, fmt := t.code } ∧
      ((v = .nan ∧ x.event = 1) ∨ (v.isInf = true ∧ x.event = 2) ∨ (v ≠ .nan ∧ v.isInf = false ∧ r.2 &&& Fl.sat ≠ 0 ∧ x.event = 3))
    let lines := State.drainOut c p act fmt bits first count
    let shown (k : Nat) : Prop := k < 16 * count ∧ bits.getLsbD (k % 16) = true
    let cellAt (k n : Nat) : DrainCell := drainCell c p act fmt (first + k / 16) (k % 16) n
    (lines.lines.length = 16 * count ∧
      (∀ k n, k < 16 * count → n < 64 → (lines.lines.getD k Line.zero).poison = 0 ∧ (lines.lines.getD k Line.zero).data.getD n 0 =
        if bits.getLsbD (k % 16) then (cellAt k n).out else 0) ∧
      (∀ x, lines.flags.getLsbD x = true ↔ ∃ k n, shown k ∧ n < 64 ∧ (cellAt k n).fl.getLsbD x = true) ∧
      LeastEvent lines.event (fun x => ∃ k n, shown k ∧ n < 64 ∧ (cellAt k n).event = some x)) ∧
    LeastEvent o.event (fun x => gives (p.bias ≠ none) x1 .fp32 x ∨ gives (act = true) x2 .fp32 x ∨ gives (p.rq ≠ none) x3 fmt x) ∧
    (o.out = x3.1 ∧ o.fl = x1.2 ||| x2.2 ||| x3.2) ∧
    activate none x = (0x7FC00000, 0) ∧ (v = .nan → y = (0x7FC00000, 0)) ∧
    (v ≠ .nan → (Less v lo ∨ ∃ g, v.add .rne lo.neg = .num true 0 g) → y = piece 0) ∧ (v = .inf false → lo.isInf = false → lo ≠ .nan → y = piece 255) ∧
    (∀ m g k, v.add .rne lo.neg = .num false m g → k ≤ 255 → ratCmp m 1 g e (2 * k) ≠ .gt → (k = 255 ∨ ratCmp m 1 g e (2 * k + 2) = .gt) →
      y = piece k) ∧
    (fmt.isInt = true →
      (z = .nan → q = (0, Fl.nv)) ∧ (∀ n, z = .inf n → q = whole (if n then bot else top) Fl.sat) ∧
      (∀ n m g, z = .num n m g → ∃ d, Near .rne n (ratCmp m 1 g 0) d ∧
        let k : Int := (if n then -(d : Int) else d) + zp.toInt
        q = if k < bot then whole bot Fl.sat else if top < k then whole top Fl.sat
          else whole k (if ratCmp m 1 g 0 (2 * d) = .eq then 0 else Fl.nx))) ∧
    (fmt.isFloat = true →
      (z = .nan → q = (BitVec.ofNat 32 fmt.fmt.canonNaN, if w = .nan ∨ sc = .nan then 0 else Fl.nv)) ∧
      (∀ n, z = .inf n → q = if fmt = .e4m3 then (BitVec.ofNat 32 (fmt.fmt.maxBits n), Fl.sat) else (BitVec.ofNat 32 (fmt.fmt.infBits n), 0)) ∧
      (∀ n m g, z = .num n m g → q = if tooBig then (BitVec.ofNat 32 (fmt.fmt.maxBits n), Fl.sat ||| Fl.nx)
        else (BitVec.ofNat 32 (z.round fmt.fmt .rne).1, (z.round fmt.fmt .rne).2))))

/-- Barriers, where they may be issued: a generation that is complete gives way first. An arrive after the strand's last
generation has completed counts the strand or the item in, and the generation completes exactly when all four strands (core), or
all items of the gang in the instance that have not ended (wider), are in; a wait passes when the generation of the strand's
last arrive is complete, and blocks until then; BAR.AW arrives, and its wait half stands with the strand until BARRIER_RELEASE
finds the generation complete. That a generation advances at the next arrive, wait or release of its instance, before that is decided, is the
model's choice (log 57). ENG.WAIT on a class with nothing in flight, or for number 0, completes and changes nothing, and blocks while a command of
the class at or below the number is in flight; ENG.SEQ writes the number below the oldest command of the class, or the last
number issued when there is none; a class the part lacks raises Unit-Absent. ENG.LNCH reads its launch record and, where no
condition refuses it, adds the task and writes 0, otherwise writes the condition's status. -/
def Obligations.BarriersAndEngineControl : Prop :=
  (∀ (s : State) (sc : BarScope) (st : StrandId),
    let e := s.barScope sc
    let u := s.advanceBarrier e
    let k := s.strand
    let a := u.arrive k e
    let all : Prop := if e = .core
      then ∀ j, j ≠ k → (u.ctx.str j).arrived.getD 0 none = some u.ctx.barGen
      else ∀ c ∈ u.ctx :: u.others, u.sharesBarrier e c = true → c.id.residency ≠ .ended → c.id.item = u.ctx.id.item ∨
        c.id.item.toNat ∈ (u.findBarrier e).arrived
    let clear (r : State) (j : StrandId) : State := r.setArrive j e none
    (all → a.barGenOf e = u.barGenOf e + 1) ∧ (¬all → a.barGenOf e = u.barGenOf e) ∧
    (Allowed s (.barArrive sc) → (k ≠ .L ∨ s.ctx.loads = []) →
      (u.barWaits k e = false → exec (.barArrive sc) s = .next a) ∧
      (u.barWaits k e = true → Blocks (.barArrive sc) s .barrier)) ∧
    (Allowed s (.barWait sc) →
      (u.barWaits k e = false → exec (.barWait sc) s = .next (clear u k)) ∧
      (u.barWaits k e = true → Blocks (.barWait sc) s .barrier)) ∧
    (Allowed s (.barAw sc) → (k ≠ .L ∨ s.ctx.loads = []) →
      (u.barWaits k e = false → exec (.barAw sc) s = .next
        (if a.barWaits k e then a.modMe (fun p => { p with barWait := some sc }) else clear a k)) ∧
      (u.barWaits k e = true → Blocks (.barAw sc) s .barrier)) ∧
    ((s.ctx.str st).barWait = none → exec (.barrierRelease st) s = .next s) ∧
    ((s.ctx.str st).barWait = some sc →
      (u.barWaits st e = true → exec (.barrierRelease st) s = .next u) ∧
      (u.barWaits st e = false → exec (.barrierRelease st) s =
        .next ((clear u st).modCtx (fun c => c.modStr st (fun p => { p with barWait := none })))))) ∧
  (∀ (s u : State) (c : EngClass) (d a : Reg) (o : Cmd) (ws : List W64),
    let cmds := s.ctx.eng.cmds
    let last := s.ctx.eng.last
    let here : Prop := c = .ce ∨ c = .mxa ∨ s.part ≠ .sl3240m
    let n : W32 := (s.getX a).setWidth 32
    let below (q : W32) : W32 := if q = 1 then 0xFFFFFFFF else q - 1
    (Allowed s (.engWait c a) → here → ((∀ m ∈ cmds, m.cls ≠ c) ∨ n = 0) → exec (.engWait c a) s = .next s) ∧
    (Allowed s (.engWait c a) → here → n ≠ 0 → (last - n).toNat < 2 ^ 31 →
      (∃ m ∈ cmds, m.cls = c ∧ (n - m.seq).toNat < 2 ^ 31) → s.issue.snap = none → Blocks (.engWait c a) s .engine) ∧
    (Allowed s (.engWait c a) → here → (last - n).toNat < 2 ^ 31 → (∀ m ∈ cmds, m.cls = c → 2 ^ 31 ≤ (n - m.seq).toNat) →
      exec (.engWait c a) s = .next s) ∧
    (Allowed s (.engWait c a) → ¬here → Traps (.engWait c a) s .unitAbsent (s.issue.word.setWidth 64)) ∧
    (Allowed s (.engSeq d c) → here → (∀ m ∈ cmds, m.cls ≠ c) → exec (.engSeq d c) s = .next (s.setX d (last.setWidth 64))) ∧
    (Allowed s (.engSeq d c) → here → cmds.find? (fun m => m.cls == c) = some o → o.seq ≠ 0 →
      exec (.engSeq d c) s = .next (s.setX d ((if o.seq = 1 ∧ s.ctx.eng.wrapped = false then 0 else below o.seq).setWidth 64))) ∧
    (let w : Vector W64 16 := Vector.ofFn (fun i : Fin 16 => ws.getD i.val 0)
     let task : Task :=
       { id := u.nextTask, die := u.ctx.id.die, pasid := (u.reqOf .K 0).pasid, queue := none, lrec := w,
         gens := (List.range u.part.dies).map (fun x => (u.die x).gen), since := u.us, placed := 0, status := 0, cause := 0,
         item := 0, tpc := 0, dead := false, done := false, dumped := false }
     Allowed s (.engLnch d a) →
      ((s.getX a).toNat % 128 ≠ 0 → Traps (.engLnch d a) s .misaligned (s.getX a)) ∧
      ((s.getX a).toNat % 128 = 0 → loadWords 16 (s.getX a) s = .ok ws u →
        (u.launchStatus w = 0 → exec (.engLnch d a) s =
          .next ({ u with nextTask := u.nextTask + 1, tasks := u.tasks ++ [task] }.setX d 0)) ∧
        (u.launchStatus w ≠ 0 → exec (.engLnch d a) s = .next (u.setX d (u.launchStatus w))))))

/-- A page fault of a strand's access is recorded with its address and pc and with the hint record that governs the address, undoes what its
bank's strands wait for, and is an event posted to F (for this, log 77 is the model's choice); the core then issues its other bank where that
can issue, at once or, while F holds a live bypass value, when that has expired. A hint record governs the address when it is the first of the process's
records that breaks no rule of its layout, is valid and holds the address. The answer ends it: the bank issues again, and what firmware cannot resolve
raises Page-Fault on the strand, or for the fill of a slot Access-Violation with the slot given up. An engine command stalled on
a fault that cannot be resolved ends with Page-Fault to be raised (stated for copy and near-bank commands). A deadlock counter
that has reached its limit raises Queue-Deadlock, a watchdog count that has reached its limit Watchdog, on the control strand,
not deferred; below the limit nothing happens. That the hint record is looked up as the event is posted and kept with the context (log
86), and that TRAPPC of a Watchdog is the control strand's head, the member it is held at or its next bundle (log 26), is the model's
choice. -/
def Obligations.FaultEvents : Prop :=
  ∀ (s : State) (st : StrandId) (va : W64) (w : Bool) (f : FaultRec) (n : Nat) (c : Cmd),
    let idle (p : Strand) : Strand := { p with waitUntil := none, blocked := none }
    let mine : Prop := s.ctx.id.kind.isApp = true ∧ s.ctx.id.residency = .resident
    let limit := if s.hereCore.qdlimit = 0 then 0 else Max.max 1024 s.hereCore.qdlimit.toNat
    let head (pc : W64) : Prop := (s.ctx.k.held = none → pc = s.ctx.k.pc) ∧
      (∀ h m rest, s.ctx.k.held = some h → h.rest = m :: rest → pc = m.1)
    (let table := s.hintTable s.ctx.id.die (s.reqOf st 0).pasid
     let entry (pa i : Nat) : Bool × Option Hint :=
       let e (j : Nat) : W64 := readEntry s.mem (pa + 32 * i + 8 * j)
       State.hintOf s.part (e 0) (e 1) (e 2) (e 3) va.toNat
     let wakes (x : Ctx) : Ctx := if x.id.kind = .F ∧ State.coreNo x.id = s.here ∧ x.l.halted = false then { x with k := { x.k with halted := false } } else x
     ∃ t, exec (.pageFault st va w) s = .next t ∧
      (s.ctx.id.kind ≠ .F → t.ctx = { s.ctx with fault := some { strand := st, addr := va, pc := (s.ctx.str st).pc, slot := none },
                                                   l := idle s.ctx.l, c := idle s.ctx.c, s := idle s.ctx.s, k := idle s.ctx.k,
                                                   slotRun := none, hint := t.ctx.hint }) ∧
      t.ctx.fault = some { strand := st, addr := va, pc := (s.ctx.str st).pc, slot := none } ∧
      t.others = s.others.map wakes ∧ t.tasks = s.tasks ∧ t.cycle = s.cycle ∧
      (table = none → t.ctx.hint = none ∧ SameBytes s t) ∧
      (∀ cnt pa, table = some (cnt, pa) → (∀ i, i < cnt → (entry pa i).1 = false) → SameBytes s t ∧
        (∀ i h, i < cnt → (∀ j, j < i → (entry pa j).2 = none) → (entry pa i).2 = some h → t.ctx.hint = some h) ∧
        ((∀ i, i < cnt → (entry pa i).2 = none) → t.ctx.hint = none)) ∧
      (mine → s.hereCore.issuing = s.ctx.id.kind → ∀ k, s.otherReady = some k →
        (s.coreHeld s.here = false → t.hereCore.issuing = k) ∧
        (s.coreHeld s.here = true → t.hereCore.issuing = s.ctx.id.kind ∧ t.hereCore.next = some k)) ∧
      (¬mine ∨ s.otherReady = none → t.cores = s.cores ∧ t.clusters = s.clusters)) ∧
    (∀ p (w0 len w2 w3 : W64) (x : Nat) h, State.hintOf p w0 len w2 w3 x = (false, some h) ↔
      w0.toNat < 2 ^ 55 ∧ w0.toNat % 65536 = 0 ∧ w0.toNat ≤ x ∧ x < w0.toNat + len.toNat * 65536 ∧ w2.getLsbD 63 = true ∧
      w2.toNat % 2 ^ 63 < 512 ∧ w2.toNat / 32 % 8 = 0 ∧ w3.toNat < 2 ^ 32 ∧ w2.toNat % 32 < p.dies ∧ w3.toNat < 2 ^ p.dies ∧
      h = { mu := w2.getLsbD 8, home := BitVec.ofNat 5 w2.toNat, keep := BitVec.ofNat 32 w3.toNat }) ∧
    (s.ctx.fault = none → ∀ b, exec (.pageFaultAnswered b) s = .next s) ∧
    (s.ctx.fault = some f → ∃ t, exec (.pageFaultAnswered true) s = .next t ∧ t.ctx = { s.ctx with fault := none } ∧
      t.tasks = s.tasks ∧ SameBytes s t ∧ (mine → s.coreHeld s.here = false → t.hereCore.issuing = s.ctx.id.kind)) ∧
    (s.ctx.fault = some f → f.slot = none → ∃ t, exec (.pageFaultAnswered false) s = .next t ∧ t.ctx.fault = none ∧
      t.ctx.trap.cause = 0x05 ∧ t.ctx.trap.addr = f.addr ∧ t.ctx.trap.pc = f.pc ∧ t.ctx.trap.strand = f.strand ∧
      t.ctx.trap.defer = false ∧ SameBytes s t) ∧
    (s.ctx.fault = some f → f.slot = some n → ∃ t, exec (.pageFaultAnswered false) s = .next t ∧ t.ctx.fault = none ∧
      t.ctx.trap.cause = 0x06 ∧ t.ctx.trap.addr = f.addr ∧ t.ctx.trap.pc = f.pc ∧ t.ctx.trap.strand = .L ∧
      ((t.cluster s.hereCluster).slot n).valid = false) ∧
    (s.cmd c.seq = some c → c.stalled = some va → (c.cls = .ce ∨ c.cls = .nbu) →
      exec (.engineFaultDelivery c.seq) s = .next ((s.addCause c.seq .pageFault va).finish c.seq)) ∧
    (s.cmd c.seq = some c → c.stalled = none → exec (.engineFaultDelivery c.seq) s = .next s) ∧
    (limit ≠ 0 → limit ≤ s.ctx.deadlock → s.ctx.id.residency = .resident → ∃ t, exec .queueDeadlock s = .next t ∧
      t.ctx.trap.cause = 0x09 ∧ head t.ctx.trap.pc ∧ t.ctx.trap.strand = .K ∧ t.ctx.trap.defer = false ∧
      t.ctx.deadlock = 0 ∧ SameBytes s t) ∧
    ((limit = 0 ∨ s.ctx.deadlock < limit) → exec .queueDeadlock s = .next s) ∧
    (s.ctx.wdogLimit ≠ 0 → s.ctx.wdogLimit ≤ s.ctx.wdog → s.ctx.id.residency = .resident → ∃ t, exec .watchdog s = .next t ∧
      t.ctx.trap.cause = 0x10 ∧ head t.ctx.trap.pc ∧ t.ctx.trap.strand = .K ∧ t.ctx.trap.defer = false ∧
      (s.ctx.id.kind.isApp = true → t.ctx.id.residency = .ended) ∧ SameBytes s t) ∧
    ((s.ctx.wdogLimit = 0 ∨ s.ctx.wdog < s.ctx.wdogLimit) → exec .watchdog s = .next s)

/-- DBG.MARK and the record of a marked bundle append a record to the trace buffer where it is enabled: four words at the head, and the head moves
on by 32; where the buffer is full it begins again at 64 and counts a wrap, or, without WRAP, the record counts as dropped, as does one whose place
cannot be reached; while the header cannot be reached HDROP counts it. Otherwise DBG.MARK changes nothing and the sampling registers
take the bundle's record unless they hold one. The record says KILL exactly where the bundle was discarded, as what an item still holds
is when the item ends; of a bundle that is still held there is no record yet, and an event that says otherwise than the mark records nothing. Writes of TRCCTL and SAMPCTL set their fields, EN of TRCCTL only for 1 to 4,096 pages that are
pinned, writable and not RSH; when EN becomes 1 the header is initialised. That the room is looked for when a record is written, and that a sample stays in the
registers while EN is 0, is the model's choice (log 40). A write of MODE sets or clears the start-up mode, every slot expired when it
is set anew (a SETUP in force stays as it is: the model's choice, log 75), and a bypass slot expires in the fourth clk after its write. -/
def Obligations.SamplingTraceAndMode : Prop :=
  ∀ (s s1 s2 : State) (a : Reg) (imm : BitVec 10) (v : W64) (h : Target) (st : StrandId) (pc t0 : W64) (k : Bool)
    (d0 d1 d2 d3 d4 d5 : W32) (slot : BitVec 2) (b : Bypass),
    let z := s.ctx.csr.samp
    let tr := s.ctx.csr.trace
    let samp (r : State) (x : Sampling) : State := r.modCtx (fun c => { c with csr := { c.csr with samp := x } })
    let trace (r : State) (x : Trace) : State := r.modCtx (fun c => { c with csr := { c.csr with trace := x } })
    let marks : Prop := s.ctx.id.kind.isApp = true ∧ s.rd.csr.trace.en = true ∧ s.rd.csr.trace.mark = true
    let rec_ : List W64 := [s.cycle, BitVec.ofNat 64 (2 ^ 56 + s.strand.code * 2 ^ 48 + imm.toNat), s.issue.pc, s.getX a]
    let fields (en : Bool) : Trace :=
      { base := tr.base, pages := BitVec.ofNat 16 (v.toNat / 2 ^ 32), hdrop := BitVec.ofNat 16 (v.toNat / 2 ^ 16),
        wrap := v.getLsbD 3, samp := v.getLsbD 2, mark := v.getLsbD 1, en }
    let pages := v.toNat / 2 ^ 32 % 2 ^ 16
    let e : Instr := .sampleRecord k d0 d1 d2 d3 d4 d5
    let dur : Vector W32 6 := #v[d0, d1, d2, d3, d4, d5]
    let holds (h : Option Held) : Prop := ∃ b, h = some b ∧ b.start = pc
    let done : Prop := k = true ∨ ¬(holds (s.ctx.str st).held ∨ (st = .K ∧ holds s.ctx.trap.kHeld))
    let short (x : W32) : Nat := if x.toNat < 65536 then x.toNat else 65535
    let put (r : State) (x : Target) (ws : List W64) : State := r.writeT x (ws.flatMap (fun w => bytesOfNat 8 w.toNat))
    let adds (r : State) (ws : List W64) (t : State) : Prop :=
      (∀ s1, r.traceAt 0 false = (none, s1) → t = trace s1 { s1.ctx.csr.trace with
        hdrop := if s1.ctx.csr.trace.hdrop = 0xFFFF then 0xFFFF else s1.ctx.csr.trace.hdrop + 1 }) ∧
      (∀ h s1, r.traceAt 0 false = (some h, s1) →
        let word (i : Nat) : W64 := BitVec.ofNat 64 (natOfBytes (s1.readT (h.plus (8 * i)) 8).1.data)
        let full : Prop := tr.pages.toNat * 65536 < (word 1).toNat + 32
        let head := if full then 64 else (word 1).toNat
        (full → tr.wrap = false → t = put s1 (h.plus 24) [word 3 + 1]) ∧
        (¬full ∨ tr.wrap = true → ∀ s2, s1.traceAt head true = (none, s2) → t = put s2 (h.plus 24) [word 3 + 1]) ∧
        (¬full ∨ tr.wrap = true → ∀ g s2, s1.traceAt head true = (some g, s2) →
          t = put (put s2 g ws) (h.plus 8) [BitVec.ofNat 64 (head + 32), if full then word 2 + 1 else word 2]))
    (¬marks → exec (.dbgMark a imm) s = .next s) ∧
    (marks → ∃ t, exec (.dbgMark a imm) s = .next t ∧ adds s rec_ t) ∧
    (z.marked = some (st, pc, t0, k) → ¬done → exec e s = .next s) ∧
    (z.marked = some (st, pc, t0, !k) → exec e s = .next s) ∧
    (z.marked = some (st, pc, t0, k) → (s.ctx.killMark st pc).csr.samp = { z with marked := some (st, pc, t0, true) } ∧
      (∀ x a, x ≠ st ∨ a ≠ pc → s.ctx.killMark x a = s.ctx) ∧
      (holds (s.ctx.str st).held → s.ctx.ended.csr.samp = { z with marked := some (st, pc, t0, true) })) ∧
    (tr.en = true → tr.samp = true → z.marked = some (st, pc, t0, k) → done → ∃ t, exec e s = .next t ∧
      adds (samp s { z with marked := none }) [t0,
        BitVec.ofNat 64 (2 ^ 57 + st.code * 2 ^ 48 + short d0 * 2 ^ 32 + short d1 * 2 ^ 16 + short d2), pc,
        BitVec.ofNat 64 ((if k then 2 ^ 63 else 0) + short d3 * 2 ^ 32 + short d4 * 2 ^ 16 + short d5)] t) ∧
    (let seed := BitVec.ofNat 16 (v.toNat / 2 ^ 16)
     let started : Sampling :=
       { z with seed, per := BitVec.ofNat 4 (v.toNat / 2 ^ 8), smask := BitVec.ofNat 4 (v.toNat / 2 ^ 4), en := v.getLsbD 0,
                count := 0, lfsr := if seed = 0 then 1 else seed }
     exec (.sampctlWrite v) s = .next (samp s started)) ∧
    ((v.getLsbD 0 = false ∨ pages = 0 ∨ 4096 < pages) → exec (.trcctlWrite v) s = .next (trace s (fields false))) ∧
    (v.getLsbD 0 = true → 1 ≤ pages → pages ≤ 4096 →
      (s.tracePagesOk pages 0 = (false, s1) → exec (.trcctlWrite v) s =
        .next (trace s1 { fields false with base := s1.ctx.csr.trace.base })) ∧
      (s.tracePagesOk pages 0 = (true, s1) → tr.en = true → exec (.trcctlWrite v) s =
        .next (trace s1 { fields true with base := s1.ctx.csr.trace.base })) ∧
      (s.tracePagesOk pages 0 = (true, s1) → tr.en = false →
        (trace s1 { fields true with base := s1.ctx.csr.trace.base }).traceAt 0 true = (some h, s2) →
        exec (.trcctlWrite v) s = .next (put (put s2 h [0x0001000000000020, 64, 0, 0]) (h.plus 32) [0, 0, 0, 0]))) ∧
    (∀ n page, let at_ := locate s (s.reqOf s.strand 0) (BitVec.ofNat 64 ((tr.base.toNat + page) * 65536)) false
      (∀ g leaf, at_.1 = .at_ g leaf → (∀ c o, g ≠ .scratch c o) → leaf.getLsbD 63 = true → leaf.getLsbD 4 = true →
        leaf.toNat / 32 % 4 ≠ 1 → s.tracePagesOk (n + 1) page = at_.2.tracePagesOk n (page + 1)) ∧
      (∀ g leaf, at_.1 = .at_ g leaf → (leaf.getLsbD 63 = false ∨ leaf.getLsbD 4 = false ∨ leaf.toNat / 32 % 4 = 1) →
        s.tracePagesOk (n + 1) page = (false, at_.2))) ∧
    (let after : Sampling :=
       { z with marked := some (st, pc, s.cycle, false), count := 0,
                lfsr := if z.lfsr.getLsbD 0 then (z.lfsr >>> 1) ^^^ 0xB400 else z.lfsr >>> 1 }
     exec (.sampleMark st pc) s = .next (samp s after)) ∧
    (z.marked = none → exec e s = .next s) ∧
    (let shown : Sampling :=
       { z with marked := none, v := true, kill := k, strand := st, pc, t := t0, durations := dur }
     z.marked = some (st, pc, t0, k) → done → (tr.en = false ∨ tr.samp = false) →
      (z.v = true → exec e s = .next (samp s { z with marked := none })) ∧
      (z.v = false → exec e s = .next (samp s shown))) ∧
    (v.getLsbD 0 = true → s.ctx.setup = false → exec (.modeWrite v) s =
      .next ((s.modCtx (fun c => { c with setup := true, leaving := false })).modMe (fun p =>
        { p with bypass := p.bypass.map (fun b => { b with live := false }) }))) ∧
    (v.getLsbD 0 = true → s.ctx.setup = true → exec (.modeWrite v) s = .next s) ∧
    (v.getLsbD 0 = false → s.ctx.setup = true →
      exec (.modeWrite v) s = .next (s.modCtx (fun c => { c with setup := false, leaving := true }))) ∧
    (v.getLsbD 0 = false → s.ctx.setup = false → exec (.modeWrite v) s = .next s) ∧
    (let left : Bypass := if b.writtenAt + 3 < s.cycle.toNat then { b with live := false } else b
     (s.ctx.str s.strand).bypass[slot.toNat]? = some b →
      exec (.bypassExpiry slot) s = .next (s.modMe (fun p => { p with bypass := p.bypass.setIfInBounds slot.toNat left })))

/-- The near-bank units. A near-bank command that may issue, of a part that has the units and with a profile it accepts, is put
in flight under its number, which goes to xd; without the units Unit-Absent is raised, with another profile
Profile-Invalid. Its start checks give a layout code, with which it retires, or accept it on its pseudo-channels. A step of a
row command that stands first and is admitted does its row, once the adds that are pending on it are folded: RZERO zeros it, RCPY copies it,
directly or through a buffer in two steps, SAXPY writes the product and the sum of each element, rounded once; one that is not
admitted is held, and what waits at its pseudo-channels is served; it is released when the allowance admits it. A step of an MV reads a row
of each page whose turn it is; after the last it reads x and y and writes each output, the accumulation of its row of all pages, a poisoned one
as NaN or 0x8000_0000, gathering flags and the least provenance event of the sound ones (log 92: the model's choice). At each window-th
boundary a command is suspended where a
request arrived before this instant; then requests pass, one at a time, and it goes on when none waits. Services last 24 clk, and accesses that
one event makes on the whole are only counted among those that wait (log 89: the model's choice). A written row of DRAM
reads as written, and after the invalidation no copy of it is left in the L2. -/
def Obligations.NearBankUnits : Prop :=
  ∀ (s t t1 t2 t3 : State) (d a b c : Reg) (rows : BitVec 6) (d1 d2 : BitVec 6) (np : BitVec 8) (m : Cmd) (fn : NbFn) (va vb vc : W64)
    (n w k : Nat) (run r : NbRun) (x : List Range) (name : Nat × W32 × W32) (stack pch : Nat) (v : NbInval) (xb old : List (Byte × Bool)),
    let here : Prop := s.part ≠ .sl3240m
    let word : W64 := s.issue.word.setWidth 64
    let issues (i : Instr) (fn : NbFn) (y z : W64) (ok : Bool) : Prop :=
      (Allowed s i → here → ok = true → s.ctx.eng.cmds.length < 64 → (s.ctx.isDet = false ∨ s.ctx.eng.cmds = []) →
        let foot := nbFoot s fn (s.getX a) y z (rows.toNat + 1) s.ctx.isDet
        let win := if s.rd.csr.nbwin = 0 then 1 else Min.min 8 s.rd.csr.nbwin.toNat
        exec i s = .next ((s.withCommand .nbu d1 d2 foot (.nb fn (s.getX a) y z (rows.toNat + 1) np win none)).setX d
          (s.commandNumber.setWidth 64))) ∧
      (Allowed s i → ¬here → Traps i s .unitAbsent word) ∧
      (Allowed s i → here → ok = false → Traps i s .profileInvalid word)
    issues (.nbMv d a b c rows d1 d2 np) .mv (s.getX b) (s.getX c) (profileLegal np s.ctx.isDet) ∧
    issues (.nbSaxpy d a b c rows d1 d2 np) .saxpy (s.getX b) (s.getX c) (decide (np = 0)) ∧
    issues (.nbRcpy d a c rows d1 d2 np) .rcpy 0 (s.getX c) (decide (np = 0)) ∧
    issues (.nbRzero d a rows d1 d2 np) .rzero 0 0 (decide (np = 0)) ∧
    (s.cmd m.seq = some m → m.body = .nb fn va vb vc n np w none → m.started = false → m.finished = false →
      (∀ o ∈ s.ctx.eng.cmds, o.cls = .nbu → seqBelow o.seq m.seq = true → o.started = true ∨ o.finished = true) →
      s.mayStart m = true → s.edgeWaits m.seq m.foot = false →
      let checks := if fn = .mv then mvStart m va vb vc n np else rowStart m fn va vc n
      (checks s = .ok (.inl k) t → exec (.nbStart m.seq) s =
        .next ((t.modCmd m.seq (fun o => { o with code := BitVec.ofNat 4 k })).finish m.seq)) ∧
      (let foot : Foot := { m.foot with reads := m.foot.reads ++ x.filter (fun g => !m.foot.reads.contains g) }
       let r' := { run with banks := (nbKeys fn run).map t.bankId }
       checks s = .ok (.inr (run, x)) t → t.edgeWaits m.seq foot = false → exec (.nbStart m.seq) s =
        .next (((t.setRun m.seq r').modCmd m.seq (fun o => { o with started := true, stalled := none, foot })).joinPchs r'
          (t.nbName m.seq)))) ∧
    (s.cmd m.seq = some m → m.body = .nb fn va vb vc n np w (some r) →
      let goes : Prop := m.finished = false ∧ r.held = false ∧ s.standsFirst r (s.nbName m.seq) = true ∧ s.served r = true
      let s1 := s.countReads r.home (stepReads fn n r)
      (goes → r.suspended = false → s.admits r.home (stepReads fn n r) = true →
        (fn ≠ .mv →
          let y := rowWork fn vb s1 r
          let r' := { y.2 with mpc := y.2.mpc + 1 }
          exec (.nbRowStep m.seq) s = .next (if r'.row < n then nbBoundary w y.1 m.seq r' else nbFinish y.1 m.seq r')) ∧
        (fn = .mv →
          let y := mvRead n s1 r
          let r' := { y.2 with mpc := y.2.mpc + 1 }
          (r'.mpc < mvSteps r n → exec (.nbRowStep m.seq) s = .next (nbBoundary w y.1 m.seq r')) ∧
          (mvSteps r n ≤ r'.mpc → r.event = none → eReadPieces none r'.x y.1 = .ok xb t1 →
            (if r'.z then old = [] ∧ t2 = t1 else eReadPieces none r'.y t1 = .ok old t2) →
            let outs := mvOutputs np r' n (xb.map (·.1)) (old.map (·.1))
            let nan : W32 := if profileInt np ((EType.ofCode r'.xfmt).getD .i8) then 0x80000000 else 0x7FC00000
            let bad (j : Nat) : Bool := r'.bad.contains j || xb.any (·.2) || ((old.drop (4 * j)).take 4).any (·.2)
            let sound := ((List.range n).zip outs).filter (fun e => !bad e.1)
            eWritePieces (cleanBytes ((List.range n).flatMap (fun j =>
              bytesOfNat 4 (if bad j then nan else (outs.map (·.acc)).getD j 0).toNat))) 0 r'.y t2 = .ok none t3 →
            ∃ ev, LeastEvent ev (fun e => ∃ o ∈ sound, o.2.event = some e) ∧
              let r'' := { r' with flags := sound.foldl (fun f o => f ||| o.2.fl) r'.flags, event := ev }
              match (firstPoisoned r'.x xb).or (firstPoisoned r'.y old) with
              | none => exec (.nbRowStep m.seq) s = .next (nbFinish t3 m.seq r'')
              | some p => exec (.nbRowStep m.seq) s = .next (nbFinish (t3.noteEcc 2 (t2.lostT p.2) (sectorVa p.1)) m.seq
                  { r'' with poisoned := r'.poisoned.or (some (sectorVa p.1)) })))) ∧
      (goes → r.suspended = true → exec (.nbRowStep m.seq) s =
        .next (if s.requestsWait r then s else s.setRun m.seq { r with suspended := false, sinceCheck := 0 })) ∧
      (goes → r.suspended = false → s.admits r.home (stepReads fn n r) = false → exec (.nbRowStep m.seq) s =
        .next (((r.pchs.foldl (fun (u : State) p => u.serveAll r.home p) s).modPchs r (fun p => { p with allowance := true })).setRun
          m.seq { r with held := true })) ∧
      (r.held = true → s.admits r.home (stepReads fn n r) = true → exec (.nbAllowanceAdmit m.seq) s =
        .next ((s.modPchs r (fun p => { p with allowance := false })).setRun m.seq { r with held := false })) ∧
      ((r.held = false ∨ s.admits r.home (stepReads fn n r) = false) → exec (.nbAllowanceAdmit m.seq) s = .next s) ∧
      nbBoundary w s m.seq r = s.setRun m.seq (if r.sinceCheck + 1 < w then { r with sinceCheck := r.sinceCheck + 1 }
        else { r with sinceCheck := 0, suspended := s.requestsBefore r }) ∧
      (s.requestsBefore r = true ↔ ∃ p ∈ r.pchs, ∃ q ∈ (Cells.get Pch.reset (s.stack r.home).pchs p).requests, q.at_ < s.cycle.toNat)) ∧
    (let src := r.src.2 + 1024 * r.row
     let dst := r.dst.2 + 1024 * r.row
     let z (fn : NbFn) := rowWork fn vb s r
     let out (fn : NbFn) := (dramRow (z fn).1.mem dst).1
     let u := s.foldRow src
     (s.mem.adds = [] → u = s) ∧
     (dst % 32 = 0 →
      out .rzero = List.replicate 1024 0 ∧ (z .rzero).2.row = r.row + 1 ∧
      (r.buffer = none → inSubarray r src dst = true → out .rcpy = (dramRow u.mem src).1 ∧ (z .rcpy).2.row = r.row + 1) ∧
      (r.buffer = none → inSubarray r src dst = false → (z .rcpy).1.mem = u.mem ∧ (z .rcpy).2.row = r.row ∧
        (z .rcpy).2.buffer = some ((dramRow u.mem src).1, (dramRow u.mem src).2.isSome)) ∧
      (∀ b p, r.buffer = some (b, p) → b.length = 1024 →
        out .rcpy = b ∧ (z .rcpy).2.row = r.row + 1 ∧ (z .rcpy).2.buffer = none) ∧
      (∀ ty : EType, ty = .fp16 ∨ ty = .bf16 ∨ ty = .fp32 → r.efmt = ty.code →
        let y := u.foldRow dst
        let xs := dramRow y.mem src
        let ys := dramRow y.mem dst
        let val (k : Nat) : FVal := ((FFmt.fp32.decode (vb.toNat % 2 ^ 32)).mul (ty.fmt.decode (elemRaw ty xs.1 k))).add .rne
          (ty.fmt.decode (elemRaw ty ys.1 k))
        let nv (k : Nat) : Fl := if val k = .nan ∧ FFmt.fp32.decode (vb.toNat % 2 ^ 32) ≠ .nan ∧
          ty.fmt.decode (elemRaw ty xs.1 k) ≠ .nan ∧ ty.fmt.decode (elemRaw ty ys.1 k) ≠ .nan then Fl.nv else 0
        (z .saxpy).2.row = r.row + 1 ∧
        (∀ k, k < 8192 / ty.bits → elemRaw ty (out .saxpy) k = ((val k).round ty.fmt .rne).1) ∧
        (z .saxpy).2.flags = (List.range (8192 / ty.bits)).foldl (fun f k => f ||| ((val k).round ty.fmt .rne).2 ||| nv k) r.flags ∧
        ((dramRow (z .saxpy).1.mem dst).2.isSome = (xs.2.isSome || ys.2.isSome)))) ∧
     (s.mem.adds = [] → (mvRead n s r).2.got = r.got ++ (mvPages r n r.mpc).map (fun q =>
       (64 * q + r.mpc % n, (dramRow s.mem ((r.pages.getD q (0, 0)).2 + 1024 * (r.mpc % n))).1))) ∧
     (∀ xf ef j, r.xfmt = xf.code → r.efmt = ef.code → j < n →
       let e := if ef = .b4 then 1920 else 8192 / ef.bits
       let row (q : Nat) := gotRow r q j
       let xs : OperandRow := (List.range (r.pages.length * e)).map (fun k => (elemRaw xf (xb.map (·.1)) k, 0))
       let ws : OperandRow := (List.range r.pages.length).flatMap (fun q => (List.range e).map (fun k =>
         (elemRaw ef (row q) k, if ef = .b4 then ((row q).getD (960 + k / 32) 0).toNat else 0)))
       (mvOutputs np r n (xb.map (·.1)) (old.map (·.1)))[j]? = some (accumulate np xf ef j 0
         (if r.z then 0 else BitVec.ofNat 32 (natOfBytes (((old.map (·.1)).drop (4 * j)).take 4))) xs ws))) ∧
    (let p := Cells.get Pch.reset (s.stack stack).pchs pch
     let still := if s.cycle.toNat < p.servedAt + 24 then p.passed else []
     let suspended : Prop := ∃ c, (c = s.ctx ∨ c ∈ s.others) ∧ c.suspends name = true
     (p.accepted = [] → exec (.nbRequestService stack pch) s = .next s) ∧
     (p.accepted.head? = some name → ¬suspended → exec (.nbRequestService stack pch) s = .next s) ∧
     (∀ q rest, p.accepted.head? = some name → suspended → p.requests = q :: rest →
       let u (more : List Asker) := s.modPch stack pch (fun y => { y with requests := rest, servedAt := s.cycle.toNat, passed := still ++ more })
       (q.who = none → exec (.nbRequestService stack pch) s = .next (u [])) ∧
       (∀ o, q.who = some o → (∀ i, o ≠ .writeBack i) → exec (.nbRequestService stack pch) s = .next (u [o])) ∧
       (∀ i, q.who = some (.writeBack i) → exec (.nbRequestService stack pch) s = .next ((u []).dropSector i))) ∧
     (Cells.get Pch.reset ((s.serveAll stack pch).stack stack).pchs pch).requests = []) ∧
    (∀ (z : Mem) (key : Nat) (bs : List Byte) (p : Bool), key % 32 = 0 → bs.length = 1024 →
      dramRow (putDramRow z key bs p) key = (bs, if p then some 0 else none)) ∧
    (s.ctx.eng.invals = [v] → ∃ u, exec (.nbL2Invalidate v.seq) s = .next u ∧ u.ctx.eng.invals = [] ∧ u.mem.dram = s.mem.dram ∧
      (∀ key ∈ v.rows, key % 1024 = 0 → ∀ j, j < 32 → u.mem.held (key / 32 + j) = none))

/-- The graph search engine. GS.CFG with an aligned descriptor that can be read and a slot no query uses captures a well-formed
graph and answers 0, and answers 1 or 2 for one that is not or a slot above 3; GS.QRY on a configured slot with an accepted
profile puts the query in flight, on an empty slot it raises Shape-Invalid. A query starts by finding its result buffer and
reading its packet, advances by expansions and by distances that other stacks return, and, once it has a status and is the
oldest of its class, writes its results and its record and retires; a result buffer that is misaligned or may not be written is raised later at the
buffer's address. A distance is the sum of its exact terms: rounded term by term (NP0), by chunks of 64 in a pairwise tree (NP5), or once (NP4).
The search takes the entry vertices and then expands the least candidate, until none is left or the results are full and better (DONE), the
limit is passed (LIMIT), the visited set is full (OVERFLOW) or a vertex does not exist (BADVTX); returned distances are admitted in list order,
a key taking its place in the results and the candidates, and pushing out the greatest of full results. An access that fails, or a fault that cannot be resolved, ends the query with status FAULT and keeps what it has found;
consumed poison is recorded, and a link that is down is raised as well (log 60: the model's choice). -/
def Obligations.GraphSearch : Prop :=
  ∀ (s t u : State) (d a b : Reg) (slot : BitVec 2) (d1 d2 : BitVec 6) (np : BitVec 8) (ws : List W64) (g : GraphDesc) (m : Cmd)
    (va vb : W64) (x y : GsRun) (out : List (W64 × Nat × Target)) (k : Nat) (v dist : W32) (st : BitVec 4) (ids vs l : List W32)
    (bs qs : List Byte) (c key : GKey) (keys : List GKey),
    let here : Prop := s.part ≠ .sl3240m
    let i : Instr := .gsQry d a b slot d1 d2 np
    let cfg : Instr := .gsCfg (some d) a b
    let r := s.reqOf m.strand 9
    (Allowed s cfg → here → (s.getX a).toNat % 16 = 0 →
      (∀ c ∈ s.ctx.eng.cmds, ∀ g q p o n z, c.body = .gs g q p o n z → q.toNat ≠ (s.getX b).toNat % 4) →
      loadWords 66 (s.getX a) s = .ok ws u →
      (let kept (e : Engines) : Engines := { e with graphs := e.graphs.setIfInBounds (s.getX b).toNat (some g) }
       graphOf s.part ws = .inr g → (s.getX b).toNat < 4 →
        exec cfg s = .next ((u.modCtx (fun c => { c with eng := kept c.eng })).setX d 0)) ∧
      (graphOf s.part ws = .inl k → (s.getX b).toNat < 4 → exec cfg s = .next (u.setX d (BitVec.ofNat 64 k))) ∧
      (4 ≤ (s.getX b).toNat → exec cfg s = .next (u.setX d 1))) ∧
    (Allowed s i → here → s.ctx.eng.graphs.getD slot.toNat none = some g → gsProfile (some g) np = true →
      s.ctx.eng.cmds.length < 64 → (s.ctx.isDet = false ∨ s.ctx.eng.cmds = []) →
      exec i s = .next ((s.withCommand .gse d1 d2 (gsFoot g (s.getX a) (s.getX b)) (.gs g slot (s.getX a) (s.getX b) np none)).setX d
        (s.commandNumber.setWidth 64))) ∧
    (Allowed s i → here → s.ctx.eng.graphs.getD slot.toNat none = none → (np = 0 ∨ np = 4 ∨ np = 5) →
      Traps i s .shapeInvalid (s.issue.word.setWidth 64)) ∧
    (Allowed s i → ¬here → Traps i s .unitAbsent (s.issue.word.setWidth 64)) ∧
    (s.cmd m.seq = some m → m.body = .gs g slot va vb np none → m.finished = false → s.mayStart m = true →
      s.edgeWaits m.seq m.foot = false →
      (vb.toNat % 8 = 0 → ePlan r true vb (sectorPieces 19 vb 544) s = .ok out t →
        let t' := (t.setGs m.seq (gsFresh out)).modCmd m.seq (fun c => { c with started := true })
        gsPacket r g va (gsFresh out) t' = .ok y u → exec (.gsQueryStart m.seq) s = .next (u.setGs m.seq y)) ∧
      (∀ e, vb.toNat % 8 = 0 → ePlan r true vb (sectorPieces 19 vb 544) s = .error (.error .accessViolation k e) t →
        exec (.gsQueryStart m.seq) s = .next (((t.logEngine m k e).addCause m.seq .accessViolation vb).finish m.seq)) ∧
      (vb.toNat % 8 ≠ 0 → exec (.gsQueryStart m.seq) s = .next ((s.addCause m.seq .misaligned vb).finish m.seq))) ∧
    (s.cmd m.seq = some m → m.body = .gs g slot va vb np (some x) →
      (x.loaded = true → x.status = none → gsAdvance m.seq r s.part g np s.ctx.id.die x s = .ok y u →
        exec (.gsExpansion m.seq) s = .next (u.setGs m.seq y)) ∧
      (∀ c e, x.loaded = true → x.status = none → gsAdvance m.seq r s.part g np s.ctx.id.die x s = .error (.error c k e) u →
        exec (.gsExpansion m.seq) s = .next (State.gsFault (match c with
          | .poison => u.enginePoison r e
          | .linkDown => u.addCause m.seq .linkDown e
          | _ => u.logEngine m k e) m.seq)) ∧
      (∀ e, m.stalled = some e → m.cls = .gse → x.status = none → exec (.engineFaultDelivery m.seq) s = .next (s.gsFault m.seq)) ∧
      (let failed : CmdBody := .gs g slot va vb np (some { x with loaded := true, visiting := [], status := some 5 })
       (s.gsFault m.seq).cmd m.seq = some { m with stalled := none, body := failed }) ∧
      ((x.loaded = false ∨ x.status ≠ none) → exec (.gsExpansion m.seq) s = .next s) ∧
      (let got := x.visiting.map (fun o => if o.1 = v then (v, some dist) else o)
       x.visiting.find? (fun o => o.2.isNone && o.1.toNat / 2 ^ 27 != s.ctx.id.die) = some (v, none) →
        gsEval r s.part g np x.query v s = .ok dist u →
        exec (.gsRemoteDistance m.seq) s = .next (u.setGs m.seq { x with evaluated := x.evaluated + 1, visiting := got })) ∧
      (x.visiting = [] → exec (.gsRemoteDistance m.seq) s = .next s) ∧
      (s.ctx.eng.cmds.find? (fun c => c.cls == .gse) = some m →
        (x.status = none → exec (.gsQueryFinish m.seq) s = .next s) ∧
        (∀ p q, x.status = some st →
          eWritePieces (cleanBytes (gsBytes m.seq x st).1) 0 (clipPieces 0 (gsBytes m.seq x st).1.length 0 x.out) s = .ok p t →
          eWritePieces (cleanBytes (gsBytes m.seq x st).2) 0 (clipPieces 512 32 0 x.out) t = .ok q u →
          exec (.gsQueryFinish m.seq) s = .next (u.finish m.seq)))) ∧
    (let size := ((EType.ofCode g.vfmt).getD .i8).bits / 8
     let up (n : Nat) := (n + 63) / 64 * 64
     let tab := g.tables.getD (v.toNat / 2 ^ 27) { base := 0, count := 0 }
     let index := v.toNat % 2 ^ 27
     let f := FFmt.fp32
     let dot (term : Nat → FVal) (chunk : List FVal → FVal) (n : Nat) : FVal :=
       (List.range ((g.dim + n - 1) / n)).foldl (fun acc j =>
         f.decode ((acc.add .rne (chunk ((((List.range g.dim).map term).drop (n * j)).take n))).round f .rne).1) FVal.zero
     let gives (acc : FVal) : Prop :=
       let d := if g.inner then acc.neg else acc
       graphDist g np qs bs = if d.isZero then 0 else BitVec.ofNat 32 (d.round f .rne).1
     let isChunk (ts : List FVal) (z : FVal) : Prop :=
       (.nan ∈ ts ∨ (.inf true ∈ ts ∧ .inf false ∈ ts) → z = .nan) ∧
       (∀ n, .nan ∉ ts → .inf n ∈ ts → .inf (!n) ∉ ts → z = .inf n) ∧
       (.nan ∉ ts → .inf true ∉ ts → .inf false ∉ ts → ∃ w, treeNode f ts 6 0 = some (z, w))
     (g.record s.part v = if v.toNat / 2 ^ 27 < s.part.dies ∧ index < tab.count then
       some (tab.base + BitVec.ofNat 64 (index * (up (g.dim * size) + up (4 * g.deg)))) else none) ∧
     (g.record s.part v = some va → eReadClean r va (g.dim * size) s = .ok bs u →
       gsEval r s.part g np qs v s = .ok (graphDist g np qs bs) u) ∧
     (∀ ty : EType, ty = .fp16 ∨ ty = .bf16 ∨ ty = .e4m3 → g.vfmt = ty.code →
       let el (l : List Byte) (n : Nat) : FVal := ty.fmt.decode (elemRaw ty l n)
       let term (n : Nat) : FVal := if g.inner then (el qs n).mul (el bs n) else
         let e := (el qs n).add .rne (el bs n).neg
         e.mul e
       (np = 0 → gives (dot term (fun ts => ts.headD FVal.zero) 1)) ∧
       (∀ chunk, (∀ ts, ts ≠ [] → ts.length ≤ 64 → isChunk ts (chunk ts)) → np = 5 → gives (dot term chunk 64))) ∧
     (g.vfmt = 0 → np = 4 →
       let el (l : List Byte) (n : Nat) : Int := intOf .i8 (elemRaw .i8 l n)
       let sum := ((List.range g.dim).map (fun n => if g.inner then el qs n * el bs n else (el qs n - el bs n) * (el qs n - el bs n))).sum
       gives (f.decode ((FVal.ofInt sum).round f .rne).1))) ∧
    (let f := FFmt.fp32
     let a := f.decode c.dist.toNat
     let b := f.decode key.dist.toNat
     (c.before key = true ↔ (a ≠ .nan ∧ b = .nan) ∨ Less a b ∨ (¬Less a b ∧ ¬Less b a ∧ (a = .nan ↔ b = .nan) ∧ c.id.toNat < key.id.toNat)) ∧
     (∃ l1 l2, keys = l1 ++ l2 ∧ insertKey key keys = l1 ++ key :: l2 ∧ (∀ z ∈ l1, z.before key = true) ∧
       (∀ z, l2.head? = some z → z.before key = false)) ∧
     (x.res.length < x.ef → x.enterKey key = { x with res := insertKey key x.res, cand := insertKey key x.cand }) ∧
     (x.ef ≤ x.res.length → x.res = keys ++ [c] →
       x.enterKey key = if key.before c then { x with res := insertKey key keys, cand := insertKey key x.cand } else x)) ∧
    (let p := s.part
     let cap := 2 ^ x.vcap
     let next := gsNext m.seq r p g x s
     let home := x.visiting.filter (fun o => o.2.isNone && o.1.toNat / 2 ^ 27 == s.ctx.id.die)
     let returned := x.answer v dist
     let all := y.visiting.foldl (fun z o => z.enterKey { dist := o.2.getD 0, id := o.1 }) y
     gsDistances m.seq r p g np [] x s = .ok x s ∧
     (gsEval r p g np x.query v s = .ok dist u → gsDistances m.seq r p g np (v :: vs) x s =
       gsDistances m.seq r p g np vs returned (u.setGs m.seq returned)) ∧
     (gsDistances m.seq r p g np (home.map (·.1)) x s = .ok y t →
       ((∃ o ∈ y.visiting, o.2 = none) → gsAdvance m.seq r p g np s.ctx.id.die x s = .ok y t) ∧
       ((∀ o ∈ y.visiting, o.2 ≠ none) → gsAdvance m.seq r p g np s.ctx.id.die x s =
         gsNext m.seq r p g { all with visiting := [] } (t.setGs m.seq { all with visiting := [] }))) ∧
     (x.entries[x.taken]? = some v →
       (g.record p v = none → next = .ok { x with status := some 4 } s) ∧
       (g.record p v ≠ none → v ∈ x.visited → next = .ok { x with taken := x.taken + 1 } s) ∧
       (g.record p v ≠ none → v ∉ x.visited → x.visited.length = cap → next = .ok { x with status := some 3 } s) ∧
       (g.record p v ≠ none → v ∉ x.visited → x.visited.length ≠ cap →
         next = .ok { x with taken := x.taken + 1, visited := x.visited ++ [v], visiting := [(v, none)] } s)) ∧
     (x.entries[x.taken]? = none →
       (x.current = some c → next = gsExpand r p g x c s) ∧
       (x.current = none → x.cand = [] → next = .ok { x with status := some 1 } s) ∧
       (x.current = none → x.cand = c :: keys →
         let better : Prop := x.res.length = x.ef ∧ ∃ z, x.res.getLast? = some z ∧ z.before c = true
         let spent : Prop := x.maxExp ≠ 0 ∧ x.maxExp < x.expansions + 1
         let taken := { x with cand := keys, expansions := x.expansions + 1 }
         (better → next = .ok { x with cand := keys, status := some 1 } s) ∧
         (¬better → spent → next = .ok { taken with status := some 2 } s) ∧
         (¬better → ¬spent → next = gsExpand r p g { taken with current := some c } c (s.setGs m.seq { taken with current := some c })))) ∧
     (eReadClean r ((g.record p c.id).getD 0 + BitVec.ofNat 64 ((g.dim * g.size + 63) / 64 * 64)) (4 * g.deg) s = .ok bs u →
       let o := gsNeighbours p g cap ((List.range g.deg).map (fun n => BitVec.ofNat 32 (natOfBytes ((bs.drop (4 * n)).take 4)))) x.visited []
       gsExpand r p g x c s = .ok { x with current := none, visited := o.1, visiting := o.2.1.map (fun z => (z, none)), status := o.2.2 } u) ∧
     (let on := gsNeighbours p g cap (v :: ids) vs l
      gsNeighbours p g cap [] vs l = (vs, l, none) ∧
      (v = 0xFFFFFFFF → on = (vs, l, none)) ∧
      (v ≠ 0xFFFFFFFF → g.record p v = none → on = (vs, [], some 4)) ∧
      (v ≠ 0xFFFFFFFF → g.record p v ≠ none → v ∈ vs → on = gsNeighbours p g cap ids vs l) ∧
      (v ≠ 0xFFFFFFFF → g.record p v ≠ none → v ∉ vs → vs.length = cap → on = (vs, [], some 3)) ∧
      (v ≠ 0xFFFFFFFF → g.record p v ≠ none → v ∉ vs → vs.length ≠ cap → on = gsNeighbours p g cap ids (vs ++ [v]) (l ++ [v]))))

/-- The front end of a die. A notify is latched while the front end is gated; otherwise the walk to its control block drops it
(logged), holds it with every later one of its queue and wakes F of that die (log 77), or writes the tail, unless the tail is too
far on, and queues the reading of records. A record that is accepted becomes a task and the head moves on; one that is refused,
and one that cannot be read, counts there and stands as a task with status REFUSED, whose completion is due. Delivery and retry
perform the latched and held notifies in order, and the requests of ports that a notify held come in next. A tear-down ends every
item of the process, whichever die launched it, and marks the tasks CTX-DEAD, a refused one excepted; a core or cluster is touched for a resident item only. QCBINV
drops cached control blocks; a route table is installed where every entry is well formed; every plain register of die control
space reads back what was written to it, its reserved bits zero. -/
def Obligations.FrontEnd : Prop :=
  ∀ (s t u : State) (d : Nat) (v off : W64) (q : Nat) (pid queue : Nat) (bs : List Byte) (p : BitVec 20),
    let x := s.die d
    let tail := v.toNat % 2 ^ 32
    let sameQueue (h : W64) : Prop := h.toNat / 2 ^ 32 % 2 ^ 12 = v.toNat / 2 ^ 32 % 2 ^ 12 ∧ h.toNat / 2 ^ 44 = v.toNat / 2 ^ 44
    let log2 (r : State) (q : Nat) : Nat := bitsAt (r.word0 q) 1 6
    let reads (r : State) (pid queue : Nat) : State := { r with agenda := r.agenda ++ [.event (.readRecord d pid queue)] }
    (x.gated = true → exec (.notify d v) s = .next (s.setDie d { x with latches := x.latches ++ [v] })) ∧
    (x.gated = false → exec (.notify d v) s = .next (s.deliver d v)) ∧
    ((∃ h ∈ x.held, sameQueue h) → s.deliver d v = s.setDie d { x with held := x.held ++ [v] }) ∧
    ((∀ h ∈ x.held, ¬sameQueue h) →
      (s.findQcb d (v.toNat / 2 ^ 44) (v.toNat / 2 ^ 32 % 2 ^ 12) = (.drop, t) →
        s.deliver d v = t.logFront d 10 (State.regAddr d 0x40) (v.toNat / 2 ^ 44)) ∧
      (s.findQcb d (v.toNat / 2 ^ 44) (v.toNat / 2 ^ 32 % 2 ^ 12) = (.fault, t) →
        s.deliver d v = (t.setDie d { t.die d with held := (t.die d).held ++ [v] }).wakeAll
          (fun c => c.id.kind == .F && c.id.die == d)) ∧
      (s.findQcb d (v.toNat / 2 ^ 44) (v.toNat / 2 ^ 32 % 2 ^ 12) = (.at_ q, t) →
        t.qcbEnabled d (v.toNat / 2 ^ 44) q = (false, u) → s.deliver d v = u) ∧
      (s.findQcb d (v.toNat / 2 ^ 44) (v.toNat / 2 ^ 32 % 2 ^ 12) = (.at_ q, t) →
        t.qcbEnabled d (v.toNat / 2 ^ 44) q = (true, u) →
        let head := (u.word0 (q + 16)).toNat % 2 ^ 32
        let u1 := u.setWord0 (q + 8) (BitVec.ofNat 64 tail)
        ((tail + 2 ^ 32 - head) % 2 ^ 32 ≤ 2 ^ log2 u q → s.deliver d v =
          if tail = head then u1 else reads u1 (v.toNat / 2 ^ 44) (v.toNat / 2 ^ 32 % 2 ^ 12)) ∧
        (2 ^ log2 u q < (tail + 2 ^ 32 - head) % 2 ^ 32 → s.deliver d v =
          u.logFront d 10 (State.regAddr d 0x40) (v.toNat / 2 ^ 44)))) ∧
    (let given := x.latches.foldl (fun r w => r.deliver d w) (s.setDie d { x with gated := false, latches := [] })
     let come := (given.hostPorts.toList.flatMap (·.waiting)).map Agent.event
     let ports := given.hostPorts.map (fun p => { p with waiting := [] })
     exec (.notifyDelivery d) s = .next { given with agenda := come ++ given.agenda, hostPorts := ports }) ∧
    (exec (.notifyRetry d) s = .next (x.held.foldl (fun r w => r.deliver d w) (s.setDie d { x with held := [] }))) ∧
    (s.findQcb d pid queue = (.at_ q, t) → t.qcbEnabled d pid q = (true, u) →
      let head := (u.word0 (q + 16)).toNat % 2 ^ 32
      let tail := (u.word0 (q + 8)).toNat % 2 ^ 32
      let u1 := u.setWord0 (q + 16) (BitVec.ofNat 64 ((head + 1) % 2 ^ 32))
      let w : Vector W64 16 := Vector.ofFn (fun i : Fin 16 => (wordsOf bs).getD i.val 0)
      let more (r : State) : State := if (head + 1) % 2 ^ 32 = tail then r else reads r pid queue
      (head = tail → exec (.readRecord d pid queue) s = .next u) ∧
      let slot := bitsAt (u.word0 q) 7 41 * 128 + 128 * (head % 2 ^ log2 u q)
      let refuse (r : State) (head : Nat) (comp : W64) : State :=
        (r.setWord0 (q + 32) (BitVec.ofNat 64 (head * 256 + Min.min 255 (bitsAt (r.word0 (q + 32)) 0 8 + 1)))).addTask d
          (BitVec.ofNat 20 pid) (some (queue, q)) ((Vector.replicate 16 0).setIfInBounds 9 comp) true
      (head ≠ tail → u.readPhys d 4 slot = some bs →
        (lrecRefused u.part w = false →
          exec (.readRecord d pid queue) s = .next (more (u1.addTask d (BitVec.ofNat 20 pid) (some (queue, q)) w))) ∧
        (lrecRefused u.part w = true →
          exec (.readRecord d pid queue) s = .next (more (refuse u1 head (if w[9].toNat % 16 = 0 then w[9] else 0))))) ∧
      (head ≠ tail → u.readPhys d 4 slot = none →
        exec (.readRecord d pid queue) s = .next (more (refuse (u1.logFront d 5 (State.physAddr slot) pid) head 0)))) ∧
    (let own (a : Task) : Prop := a.pasid = p ∧ a.done = false
     let hit (c : Ctx) : Prop := c.id.kind.isApp = true ∧ ∃ a ∈ s.tasks, a.id = c.id.task ∧ own a
     ∃ r, exec (.teardown d p.toNat) s = .next r ∧ SameBytes s r ∧ (∀ e, e < s.part.dies → p ∈ (r.die e).tearing) ∧
      (∀ e ∈ (r.die d).qcbs, e.pasid ≠ p.toNat) ∧
      ((∀ c ∈ s.ctx :: s.others, hit c → c.id.residency = .saved ∨ c.id.residency = .ended) →
        r.cores = s.cores ∧ r.clusters = s.clusters) ∧
      (∀ c ∈ r.others, hit c → c.id.residency = .ended) ∧ r.others.length = s.others.length ∧
      (∀ a ∈ r.tasks, own a → a.dead = true) ∧ (∀ a ∈ s.tasks, ¬own a → a ∈ r.tasks) ∧
      (∀ a ∈ s.tasks, own a → ∃ b ∈ r.tasks, b.id = a.id ∧ own b ∧ b.status = if a.status = 3 then 3 else 2) ∧
      (s.ctx.id.kind.isApp = true → (∃ a ∈ s.tasks, a.id = s.ctx.id.task ∧ own a) → r.ctx.id.residency = .ended) ∧
      (s.ctx.id.residency ≠ .ended → r.ctx.id.residency = .ended → r.ctx.allHalted = true) ∧
      ((s.ctx.id.kind.isApp = false ∨ s.ctx.id.residency = .ended ∨ ∀ a ∈ s.tasks, a.id = s.ctx.id.task → ¬own a) → r.ctx = s.ctx)) ∧
    (let kept := x.qcbs.filter (fun e => !(e.pasid == v.toNat / 2 ^ 44 && e.queue == v.toNat / 2 ^ 32 % 2 ^ 12))
     exec (.qcbinv d v) s = .next (s.setDie d { x with qcbs := if v.getLsbD 0 then [] else kept })) ∧
    (let base := bitsAt v 12 36 * 4096
     let off : Die := { x with pend := BitVec.ofNat 64 base }
     let good : Prop := base / 2 ^ 44 = 0 ∧ hbmExists s.part base = true ∧
       ∀ k, k < 288 → State.routeOk s.part d k (s.word0 (base + 8 * k)) = true
     (good → exec (.routeInstall d v) s = .next (s.setDie d { off with tbase := BitVec.ofNat 64 base, gen := x.gen + 1 })) ∧
     (¬good → exec (.routeInstall d v) s = .next ((s.setDie d off).logFront d 5 (State.physAddr base) 0))) ∧
    (let back (mask : W64) : Prop := ∃ r, exec (.registerWrite d off v) s = .next r ∧ r.dieWord d off.toNat = some (v &&& mask) ∧
       r.mem = s.mem ∧ r.ctx = s.ctx ∧ r.clusters = s.clusters ∧ ∀ e, e ≠ d → r.die e = s.die e
     (off ∈ [(0x1000 : W64), 0x1008, 0x1010, 0x1018, 0x1100, 0x1108, 0x1110, 0x1118, 0x2000, 0x2008] →
       back 0xFFFFFFFFFFFFFFFF) ∧ (off = 0x100100 → back 0x80000000FFFF00FF) ∧ (off = 0x100108 → back 0xFFFF) ∧
     (off = 0 → back 0xFFFFFFFFFFFFFFE0) ∧ (off = 0x1200 → back 0xFFFFFFFF) ∧
     (∀ k, k < 256 → off.toNat = 0x10000 + 8 * k → back 0x800000000000FF1F) ∧
     (∀ k, k < 8 → off.toNat = 0x100040 + 8 * k → back 0xFFFFFFFFFFFFFFFF) ∧
     (∀ k, k < 448 → off.toNat = 0x100200 + 8 * k → back 0xFFFFFFFFFFFFFFFF))

/-- Clove's work. A sample sets each sensor it gives a reading of; a step of thermal control sets level 7 at or above CRIT,
counts up towards the next level at or above ALERT or over power, down towards the level below at or under ALERT less HYST, and
forgets both counts between. A boot image in its turn that is verified extends the measurement and records its version; a
refused one stops the boot and is reported. A die is ready when both images are verified, and until then only Clove issues. A write
of REQ while GO is set has no effect; one that sets GO clears DONE, shows the request busy and brings Clove's answer: its report,
its key, or status 2; GO is cleared then, and RSP holds DONE, the length and the status. What verifies, signs and identifies is the
model's constants without a value, and SHA-512 the function of that name (log 6); that a request after a boot failure is answered
with status 3 and no bytes is the model's choice (log 28), and so is that a write of REQ wakes Clove by an entry of the agenda (log 77). -/
def Obligations.BootMailboxAndThermal : Prop :=
  ∀ (s : State) (d stage : Nat) (temps : List W16) (power : Bool) (image : BootImage) (top : Int) (v : W64),
    let x := s.die d
    let h := x.thermal
    let m := x.mbox
    let b := x.boot
    let therm (t : Thermal) : State := s.setDie d { x with thermal := t }
    let cmd := m.req.toNat % 2 ^ 16
    let asked : Prop := m.req.getLsbD 63 = true ∧ b.failed = false
    let reqd : Mbox := { m with req := v &&& 0x800000000000FFFF }
    let begun : W64 := if b.failed then 3 else 1
    let comes : Instr := if v.toNat % 2 ^ 16 = 1 then .attest d else if v.toNat % 2 ^ 16 = 2 then .readIdentityKey d else .mboxBadCommand d
    let answered (status : Nat) (a : List Byte) (r : State) : Prop :=
      (r.die d).mbox.req = m.req &&& 0x7FFFFFFFFFFFFFFF ∧ (r.die d).mbox.answer.take a.length = a ∧
      (r.die d).mbox.rsp = BitVec.ofNat 64 (2 ^ 63 + a.length * 2 ^ 16 + status) ∧ (r.die d).mbox.nonce = m.nonce ∧
      r.mem = s.mem ∧ r.ctx = s.ctx ∧ r.clusters = s.clusters ∧ ∀ e, e ≠ d → r.die e = s.die e
    (∃ t, exec (.sensorSample d temps) s = .next (therm t) ∧ { t with sens := h.sens } = h ∧
      ∀ i, i < 16 → t.sens.getD i 0 = (match temps[i]? with
        | some v => if v = 0x8000 then h.sens.getD i 0 else v
        | none => h.sens.getD i 0)) ∧
    ((∀ i, i < 16 → (h.sens.getD i 0).toInt ≤ top) → (∃ i, i < 16 ∧ (h.sens.getD i 0).toInt = top) →
      let warm : Prop := h.alert.toInt ≤ top ∨ power = true
      let cool : Prop := top ≤ h.alert.toInt - h.hyst.toInt
      let e : Instr := .thermalStep d power
      (h.crit.toInt ≤ top → exec e s = .next (therm { h with level := 7, upCount := 0, downCount := 0 })) ∧
      (top < h.crit.toInt → warm →
        (h.upCount + 1 < h.up.toNat → exec e s = .next (therm { h with upCount := h.upCount + 1, downCount := 0 })) ∧
        (h.up.toNat ≤ h.upCount + 1 →
          exec e s = .next (therm { h with level := if h.level = 7 then 7 else h.level + 1, upCount := 0, downCount := 0 }))) ∧
      (top < h.crit.toInt → ¬warm → cool →
        (h.downCount + 1 < h.down.toNat → exec e s = .next (therm { h with upCount := 0, downCount := h.downCount + 1 })) ∧
        (h.down.toNat ≤ h.downCount + 1 →
          exec e s = .next (therm { h with level := if h.level = 0 then 0 else h.level - 1, upCount := 0, downCount := 0 }))) ∧
      (top < h.crit.toInt → ¬warm → ¬cool → exec e s = .next (therm { h with upCount := 0, downCount := 0 }))) ∧
    (b.ready = true ↔ b.failed = false ∧ b.stage = 2) ∧
    (b.failed = false → stage = b.stage + 1 → stage ≤ 2 →
      (∀ n, imageFault d image = some n → ∃ r, exec (.bootVerify d stage image) s = .next r ∧ (r.die d).boot = { b with failed := true } ∧
        (r.die d).mbox = { m with rsp := 3, bootErr := BitVec.ofNat 64 (n * 256 + stage) } ∧ r.mem = s.mem ∧ r.ctx = s.ctx) ∧
      (imageFault d image = none → ∃ r, exec (.bootVerify d stage image) s = .next r ∧ (r.die d).mbox = m ∧
        (r.die d).boot.stage = stage ∧ (r.die d).boot.failed = false ∧
        bytesOfNat 64 (r.die d).boot.meas.toNat = sha512 (bytesOfNat 64 b.meas.toNat ++ bytesOfNat 64 image.digest.toNat) ∧
        (stage = 1 → (r.die d).boot.cloveVersion = BitVec.ofNat 32 image.version) ∧
        (stage = 2 → (r.die d).boot.fVersion = BitVec.ofNat 32 image.version) ∧ r.mem = s.mem ∧ r.ctx = s.ctx)) ∧
    ((b.failed = true ∨ stage ≠ b.stage + 1 ∨ 2 < stage) → exec (.bootVerify d stage image) s = .next s) ∧
    (asked →
      (cmd = 1 → ∃ r, exec (.attest d) s = .next r ∧ answered 0 (s.attestReport d) r) ∧
      (cmd = 2 → ∃ r, exec (.readIdentityKey d) s = .next r ∧ answered 0 (State.identityPoint d) r) ∧
      (cmd ≠ 1 → cmd ≠ 2 → ∃ r, exec (.mboxBadCommand d) s = .next r ∧ answered 2 [] r)) ∧
    (m.req.getLsbD 63 = true → b.failed = true → ∃ i r, i ∈ [Instr.attest d, .readIdentityKey d, .mboxBadCommand d] ∧
      exec i s = .next r ∧ answered 3 [] r) ∧
    (m.req.getLsbD 63 = true → s.regWrite d 0x100000 v = s) ∧
    (m.req.getLsbD 63 = false → v.getLsbD 63 = false → s.regWrite d 0x100000 v = s.setDie d { x with mbox := reqd }) ∧
    (m.req.getLsbD 63 = false → v.getLsbD 63 = true →
      s.regWrite d 0x100000 v = { (s.setDie d { x with mbox := { reqd with rsp := (m.rsp &&& 0xFFFF0000) ||| begun } }).wake true d with
        agenda := s.agenda ++ [.event comes] }) ∧
    (s.ctx.id.kind ≠ .clove → (s.hereDie.boot.failed = true ∨ s.hereDie.boot.stage ≠ 2) → ∀ k, s.mayIssue k = false) ∧
    (8 - s.hereDie.thermal.level.toNat ≤ s.cycle.toNat % 8 → ∀ k, s.mayIssue k = false) ∧
    (m.req.getLsbD 63 = false → exec (.attest d) s = .next s ∧ exec (.readIdentityKey d) s = .next s ∧
      exec (.mboxBadCommand d) s = .next s)

/-- Tasks. The dispatcher takes its candidates by effective priority, among equals by the key after the last served, and for the same key in the
order of their tasks: the first that fits goes to the
lowest instance with room, whatever candidates before it wait for, and its items start with the entries, the argument, the vector and the watchdog
limit of the launch record and every other register zero. One that would fit once some gangs of lower priority have gone stops these, the
lowest first and no more than it takes; one for which room is about to come, or cannot be made, does not hold up the others. The dispatcher of a die
that is not ready does nothing. A pre-empted item whose loads and
started matrix commands are done is saved: it keeps everything but its waits and its residency, and its image is 320 KiB; while a
live bypass value of F holds its gang, the request stands, and into an area that does not exist nothing is saved (log 90: the model's choice). A task
completes when every gang is placed and every item has ended with nothing in flight: its record, then DONE. The dump of a terminated task marks it
dumped and changes no context; that its table lies at a physical address, with an entry of a doubleword for the area and one for its size, is the
model's choice (log 65), and so is what a table entry that does not exist gives (log 90). -/
def Obligations.Tasks : Prop :=
  ∀ (s u : State) (d task gang item now core qcb q : Nat) (kind : CtxKind) (st : StrandId) (r : Reg) (c : Cand) (before rest : List Cand)
    (p : List (Nat × Nat × CtxKind)) (t : Task) (a : Ctx) (area : W64) (give : Bool) (gs : List (Nat × Nat)) (eff : Nat) (cores : List Nat)
    (insts : List (List Nat)) (vs : List (Nat × Nat × Nat × Nat)),
    let id := s.ctx.id
    let n := startCtx t gang item now core kind
    let idle (x : Strand) : Strand := { x with waitUntil := none, blocked := none }
    let asks : Option Block := if s.ctx.c.blocked = some .lease then some .lease else none
    let halt : Ctx := { s.ctx with l := idle s.ctx.l, c := { idle s.ctx.c with blocked := asks }, s := idle s.ctx.s, k := idle s.ctx.k,
                                   slotRun := none, stopReq := false, replaying := false }
    let still : Bool := s.gangHeld id.task id.gang
    let base := area.toNat / 2 ^ 16 % 2 ^ 32 * 2 ^ 16
    let exists' : Bool := tableThere s.part base && tableThere s.part (base + 0x4FFFF)
    let busy (x : Ctx) : Prop := x.id.residency ≠ .ended ∨ x.eng.cmds ≠ [] ∨ x.eng.posted ≠ []
    let mine (x : Ctx) : Prop := x.id.kind.isApp = true ∧ x.id.task = task
    let waits : Prop := (∃ x ∈ s.ctx :: s.others, mine x ∧ busy x) ∨ (t.dead = false ∧ t.placed < s.gangCount t)
    let mark (v : State) : State := { v with tasks := v.tasks.map (fun x => if x.id = task then { x with done := true } else x) }
    let entry := (s.die d).dumpBase.toNat % 2 ^ 48 + 16 * t.pasid.toNat
    let fit (c : Cand) := (s.instances c.task).findSome? (s.placesIn c)
    let comes (c : Cand) : Bool := (s.instances c.task).any (s.roomWith c [])
    let victims (c : Cand) := s.chooseVictims c (s.instances c.task) [] (s.victimsIn c.eff (s.instances c.task).flatten)
    let passed (e : Cand) : Prop := fit e = none ∧ (comes e = true ∨ victims e = none)
    let named (l : List (Nat × Nat × Nat × Nat)) : List (Nat × Nat) := l.map (fun v => v.2.2)
    ((s.die d).boot.ready = false ∨ s.candidates d = [] → exec (.dispatch d) s = .next s) ∧
    (let wrapped (e : Cand) : Prop := keyLe e.task.key (s.die d).served = true
     let first (x y : Cand) : Prop := y.eff < x.eff ∨ (x.eff = y.eff ∧ (wrapped x → wrapped y) ∧ ((wrapped x ↔ wrapped y) →
       keyLe x.task.key y.task.key = true ∧ (x.task.key = y.task.key → x.task.id < y.task.id ∨ (x.task.id = y.task.id ∧ x.gang ≤ y.gang))))
     List.Pairwise first (s.candidates d)) ∧
    ((s.die d).boot.ready = true → s.candidates d = before ++ c :: rest → (∀ e ∈ before, passed e) →
      (fit c = some p →
        exec (.dispatch d) s = .next (s.settleGang d c p) ∧
        ((s.settleGang d c p).die d).served = c.task.key ∧ SameBytes s (s.settleGang d c p)) ∧
      (fit c = none → comes c = false → victims c = some gs →
        exec (.dispatch d) s = .next (gs.foldl (fun v g => v.stopGang g.1 g.2) s))) ∧
    ((∀ e ∈ s.candidates d, passed e) → exec (.dispatch d) s = .next s) ∧
    (List.Pairwise (fun x y => x.1 < y.1 ∨ (x.1 = y.1 ∧ y.2.1 ≤ x.2.1)) (s.victimsIn eff cores) ∧
     (∀ v ∈ s.victimsIn eff cores, v.1 < eff) ∧
     (s.chooseVictims c insts [] vs = some gs ↔ ∃ k, k ≤ vs.length ∧ gs = named (vs.take k) ∧ insts.any (s.roomWith c gs) = true ∧
       ∀ j, j < k → insts.any (s.roomWith c (named (vs.take j))) = false)) ∧
    ((n.str st).pc = (match st with | .L => t.lrec[0] | .C => t.lrec[1] | .S => t.lrec[2] | .K => t.lrec[3]) ∧
      (n.str st).x.getD r.toNat 0 = (if r = 1 then t.lrec[8] else 0) ∧ (n.str st).halted = false ∧
      n.trap = { TrapRegs.reset with vec := t.lrec[11] } ∧ n.csr = Csrs.reset ∧ n.comp = Compute.reset ∧ n.eng.seqno = 1 ∧
      n.wdogLimit = t.lrec[10].toNat % 2 ^ 32 * 65536 ∧ n.id.residency = .resident) ∧
    (id.kind.isApp = true → id.residency = .resident ∨ id.residency = .stopping → s.ctx.loads = [] →
      (∀ m ∈ s.ctx.eng.cmds, m.cls ≠ .mxa ∨ m.started = false) → still = false →
      (saveImage s.ctx give).length = 327680 ∧
      (exists' = true → ∃ v, exec (.preemption area) s = .next v ∧ v.ctx.id = { id with residency := .saved, area := area, since := s.us } ∧
        { v.ctx with id := id } = (if id.residency = .resident then halt else { s.ctx with replaying := false }) ∧
        v.others.length = s.others.length ∧ v.tasks = s.tasks ∧ v.dies = s.dies ∧ v.cycle = s.cycle) ∧
      (exists' = false → ∃ v, exec (.preemption area) s = .next v ∧ v.ctx.id = { id with residency := .stopping } ∧ v.tasks = s.tasks)) ∧
    (id.kind.isApp = true → id.residency = .resident → s.ctx.loads = [] → still = true →
      ∃ v, exec (.preemption area) s = .next v ∧ v.ctx = { s.ctx with stopReq := true } ∧ v.tasks = s.tasks ∧ v.dies = s.dies) ∧
    (id.kind.isApp = false ∨ id.residency = .saved ∨ id.residency = .ended → exec (.preemption area) s = .next s) ∧
    (s.tasks.find? (fun x => x.id == task) = none →
      exec (.taskComplete task give) s = .next s ∧ exec (.coreDump d task) s = .next s) ∧
    (s.tasks.find? (fun x => x.id == task) = some t →
      (t.done = true ∨ task = 0 ∨ waits → exec (.taskComplete task give) s = .next s) ∧
      (t.done = false → task ≠ 0 → ¬waits →
        let comp := s.storeComp t.die t.pasid t.lrec[9] (State.compBytes t.item t.cause t.status t.tpc) give
        (comp = none → exec (.taskComplete task give) s = .next s) ∧
        (comp = some u → t.queue = none → exec (.taskComplete task give) s = .next (mark u)) ∧
        (comp = some u → t.queue = some (q, qcb) → ∃ v, exec (.taskComplete task give) s = .next v ∧
          { v with tasks := [] } = { (mark u).bumpDone qcb with tasks := [] } ∧
          v.tasks.map (fun x => (x.id, x.done)) = (mark u).tasks.map (fun x => (x.id, x.done)))) ∧
      (t.status ≠ 1 ∨ t.dumped = true → exec (.coreDump d task) s = .next s) ∧
      (t.status = 1 → t.dumped = false → t.pasid.toNat < (s.die d).dumpCount.toNat →
        a ∈ s.ctx :: s.others → mine a → a.id.item = t.item → a.id.residency = .ended →
        (tableThere s.part entry = true → tableThere s.part (entry + 8) = true → 64 ≤ (s.word0 (entry + 8)).toNat →
          ∃ v, exec (.coreDump d task) s = .next v ∧ v.ctx = s.ctx ∧ v.others = s.others ∧ v.clusters = s.clusters ∧
            v.tasks = s.tasks.map (fun x => if x.id = task then { x with dumped := true } else x)) ∧
        (tableThere s.part entry = false ∨ tableThere s.part (entry + 8) = false →
          ∃ party, exec (.coreDump d task) s = .next (s.logViolation d 4 (State.physAddr entry) 0 party))))

/-- Requests that arrive on the links, from the host or a peer. Spaces 0 and 1 lead to the memory of their stack, space 1 and
die control space for the host alone; a request of one sector reads or writes its bytes there, and the read is answered with
them; a poisoned sector is answered with all-ones and poison status, a partial write of one is refused; an address that leads
nowhere is answered with an error and all-ones, and logged as KIND 4 under party 256 or 257. A host atomic answers the old
value. A port that is down, or a size or alignment no link carries, changes nothing (log 66); nor does a peer port the part does not
have. A request of a host port behind a notify that found every latch taken waits there, as that notify does, and so does one behind a request
that waits for its memory (log 89: the model's choice). A link that goes down
is down from then on, and the requests that wait at it are answered with errors. That KIND is the model's reading (log 36), and so
is the layout of an address that no leaf names (log 9). -/
def Obligations.Links : Prop :=
  ∀ (s : State) (host : Bool) (q : Nat) (addr : W64) (n d o : Nat) (bs : List Byte) (g : Target) (amo : HostAmo)
    (f : Nat → Option Nat) (m : Nat),
    let a := addr.toNat
    let side (r : State) : List Port := if host then r.hostPorts.toList else r.peerPorts.toList
    let waiting : List Instr := ((side s).getD q Port.reset).waiting
    let free : Bool := waiting.isEmpty
    let up : Bool := (if host then s.hostUp q else s.peerUp q) && free
    let full (r : Instr) : State := if host then s.holdAtPort q r else s.holdAtPeer q r
    let rd : Instr := if host then .hostRead q addr n else .peerAccess q addr n none
    let wr : Instr := if host then .hostWrite q addr bs else .peerAccess q addr bs.length (some bs)
    let port := if host then State.hostDie s.part q else q
    let answer (r : State) (x : LinkAnswer) : State := if host then r.answerHost q x else r.answerPeer q x
    let logged := s.logViolation port 4 (State.physAddr a) 0 (if host then 256 else 257)
    let ones (k : Nat) := List.replicate k (0xFF : Byte)
    let one (k : Nat) : Prop := k ≤ 8 ∨ (k ≤ 32 ∧ ∀ d o, g ≠ .regs d o)
    let b := bs.length
    let w := amoBytes amo.size
    let x := amo.operand.toNat % 2 ^ (8 * w)
    (a < 2 ^ 44 → s.linkTarget host addr n =
      if hbmExists s.part a then some (.hbm (dramKey false a) false 2 false) else none) ∧
    (2 ^ 44 ≤ a → a < 2 ^ 45 → s.linkTarget host addr n =
      if host ∧ hbmExists s.part (a - 2 ^ 44) then some (.hbm (dramKey false (a - 2 ^ 44)) false 2 true) else none) ∧
    ((2 ^ 45 ≤ a ∧ a < 2 ^ 47) ∨ 2 ^ 47 + 2 ^ 44 ≤ a ∨ (host = false ∧ 2 ^ 44 ≤ a) → s.linkTarget host addr n = none) ∧
    (a = 2 ^ 47 + d * 2 ^ 39 + o → d < s.part.dies → o < 2 ^ 39 → n = 8 → o % 8 = 0 → s.linkTarget true addr n =
      if (s.dieWord d o).isSome then some (.regs d o) else none) ∧
    (free = true → up = false ∨ linkShape addr n = false → exec rd s = .next s) ∧
    (free = true → up = false ∨ linkShape addr b = false → exec wr s = .next s) ∧
    (free = false → exec rd s = .next (full rd) ∧ exec wr s = .next (full wr)) ∧
    (host = true → free = false → hostAtomicFn amo ≠ none → exec (.hostAtomic q addr amo) s = .next (full (.hostAtomic q addr amo))) ∧
    (q < (side s).length → ((side (full rd)).getD q Port.reset).waiting = waiting ++ [rd]) ∧
    (host = true → up = true → linkShape addr b = true → b = 8 → s.linkTarget true addr 8 = some g → s.notifyHeld g = true →
      exec wr s = .next (full wr)) ∧
    (up = true → linkShape addr n = true →
      (s.linkTarget host addr n = none → exec rd s = .next (answer logged (.data (ones n) true false))) ∧
      (s.linkTarget host addr n = some g → one n →
        exec rd s = .next (answer (s.readT g n).2
          (if (s.readT g n).1.poison then .data (ones n) false true else .data (s.readT g n).1.data false false)))) ∧
    (up = true → linkShape addr b = true →
      (s.linkTarget host addr b = none → exec wr s = .next (answer logged (.done true))) ∧
      (s.linkTarget host addr b = some g → b ≤ 32 → (∀ d o, g ≠ .regs d o) →
        (s.poisonedT g = false ∨ b = 32 → exec wr s = .next (s.writeT g bs)) ∧
        (s.poisonedT g = true → b < 32 → exec wr s = .next (answer s (.done true)))) ∧
      (s.linkTarget host addr b = some (.regs d o) →
        (¬(b = 8 ∧ s.notifyHeld (.regs d o) = true) →
          exec wr s = .next (if hostWrites o b then s.regStore d o bs else answer logged (.done true))))) ∧
    (host = true → hostAtomicFn amo = some f → free = true → s.hostUp q = true → linkShape addr w = true →
      s.linkTarget true addr w = some g → (∀ d o, g ≠ .regs d o) → (s.readT g w).1.poison = false →
      exec (.hostAtomic q addr amo) s = .next (State.answerHost (match f (natOfBytes (s.readT g w).1.data) with
        | some v => (s.readT g w).2.writeT g (bytesOfNat w v)
        | none => (s.readT g w).2) q (.data (s.readT g w).1.data false false))) ∧
    (amo.op = 0 → hostAtomicFn amo = some f → f m = some ((m + x) % 2 ^ (8 * w))) ∧
    (amo.op = 8 → hostAtomicFn amo = some f → f m = some x) ∧
    (amo.op = 9 → hostAtomicFn amo = some f → f m = if m = amo.expected.toNat % 2 ^ (8 * w) then some x else none) ∧
    ((hostAtomicFn amo).isSome = decide (amo.op.toNat < 10 ∨ (amo.op.toNat < 12 ∧ amo.size = .w))) ∧
    (hostAtomicFn amo = none ∨ (host = true ∧ free = true ∧ (s.hostUp q = false ∨ linkShape addr w = false)) →
      exec (.hostAtomic q addr amo) s = .next s) ∧
    (∃ t, exec (.linkDown (if host then .host q else .peer q)) s = .next t ∧ SameBytes s t ∧ t.ctx = s.ctx ∧
      (if host then t.hostUp q else t.peerUp q) = false ∧
      (q < (if host then 4 else s.part.dies) → ((side t).getD q Port.reset).waiting = [] ∧
        ((side t).getD q Port.reset).answers.length = ((side s).getD q Port.reset).answers.length + waiting.length) ∧
      ∀ k, k ≠ q → t.hostUp k = s.hostUp k ∧ t.peerUp k = s.peerUp k) ∧
    (d < s.part.dies → (State.hopFrom s.part d o).isSome = true → ∃ t, exec (.linkDown (.fabric d o)) s = .next t ∧
      SameBytes s t ∧ t.ctx = s.ctx ∧ t.linkIsDown d o = true ∧ ∀ l ∈ s.downLinks, l ∈ t.downLinks)

/-- The health of the DRAM rows. An error in a row is logged, scored by 32 when it was corrected and by 64 when not, and puts a
corrected row on the hot list; a lasting fault, or a score of 128, remaps the row to a spare of its bank with its score back at
0, while there is one. An uncorrectable error poisons its sector and starts a hot row's clean scrubs anew. A clean scrub of a hot row lowers its score by one, and the
64th takes it off the list. The oldest stale stripe gets its parity. Retiring a channel loses its rows of stale stripes, which
are poisoned and marked lost, and leaves no stripe of its half stale. A pseudo-channel enters self-refresh only with no
command, no request waiting and none for SRIDLE. How a ring counts and drops its entries (log 10), the numbering of the rows and the
bound of a score (log 69), and what a retirement leaves of poisoned sectors and of the scrubber (log 81) are the model's. -/
def Obligations.DramHealth : Prop :=
  ∀ (s : State) (k row half channel pch i n key : Nat) (bad : Option Nat) (lasting : Bool) (e : Option (Option Nat)),
    let health (r : State) : RowHealth := Cells.get RowHealth.reset (r.stack k).rows row
    let spares (r : State) : Nat := Cells.get 0 (r.stack k).spares (s.bankId (rowKey k row))
    let h := health s
    let score := Nat.min 255 (h.score + if bad.isSome then 64 else 32)
    let out : Prop := lasting = true ∨ 128 ≤ score
    let ring := (s.die k).ering
    let logs : W64 := if lasting = true ∨ 128 ≤ score then 2 else 1
    let here : Prop := k < s.part.dies
    let x := s.stack k
    let put (y : Stack) : State := s.setStack k y
    let p := Cells.get Pch.reset x.pchs pch
    let idle : Prop := (s.die k).sridle.toNat ≤ s.ns - p.last
    (rowExists s.part k row = false → exec (.rowTest k row bad lasting) s = .next s ∧ exec (.rowScrub k row e lasting) s = .next s) ∧
    (rowExists s.part k row = true →
      (∃ t, exec (.rowTest k row bad lasting) s = .next t ∧ t.ctx = s.ctx ∧ t.others = s.others ∧ t.clusters = s.clusters ∧
        (¬out → (health t).score = score ∧ (health t).remaps = h.remaps ∧ spares t = spares s) ∧
        (out → spares s < 64 → (health t).score = 0 ∧ (health t).remaps = h.remaps + 1 ∧ spares t = spares s + 1) ∧
        (out → 64 ≤ spares s → (health t).score = (if lasting then h.score else score) ∧ (health t).remaps = h.remaps ∧
          spares t = spares s) ∧
        (bad = none → (health t).hot = true) ∧ (bad ≠ none → (health t).hot = h.hot) ∧ (health t).clean = 0 ∧
        (ring.size = 0 → (t.die k).ering = { ring with overflow := ring.overflow + logs } ∧
          (bad = none → t.mem = s.mem) ∧
          (bad = some i → t.mem = { s.mem with poison := Marks.add s.mem.poison (sectorOf (rowKey k row) + i % 32) })) ∧
        (ring.size ≠ 0 → (t.die k).ering.head = ring.head + logs)) ∧
      (exec (.rowScrub k row (some bad) lasting) s = exec (.rowTest k row bad lasting) (s.noteRequest (rowKey k row))) ∧
      (∃ t, exec (.rowScrub k row none lasting) s = .next t ∧ t.mem = s.mem ∧ t.ctx = s.ctx ∧ t.dies = s.dies ∧
        health t = (if h.hot = false then h
          else if h.clean + 1 = 64 then { h with score := h.score - 1, hot := false, clean := 0, entered := 0 }
          else { h with score := h.score - 1, clean := h.clean + 1 }))) ∧
    (here → exec (.stripeRefresh k) s = .next (put { x with stale := x.stale.tail })) ∧
    (¬here → exec (.stripeRefresh k) s = .next s) ∧
    (here → half < 2 → channel < 16 → x.retired.getD half none = none →
      ∃ t, exec (.channelRetire k half channel) s = .next t ∧ t.ctx = s.ctx ∧ t.clusters = s.clusters ∧
        t.stack k = { x with stale := x.stale.filter (fun n => n / 65536 / 32 != half),
                             retired := x.retired.setIfInBounds half (some channel) } ∧
        (ring.size = 0 → { t.mem with poison := s.mem.poison, lost := s.mem.lost } = s.mem ∧
          (n ∈ x.stale → n / 65536 / 32 = half → State.failedRow k n channel = some key → i < 32 →
            sectorOf key + i ∈ t.mem.poison ∧ sectorOf key + i ∈ t.mem.lost))) ∧
    (¬here ∨ 2 ≤ half ∨ 16 ≤ channel ∨ x.retired.getD half none ≠ none → exec (.channelRetire k half channel) s = .next s) ∧
    (here → pch < 64 → p.accepted = [] → p.requests = [] → idle →
      exec (.selfRefreshEntry k pch) s = .next (put { x with pchs := Cells.set Pch.reset x.pchs pch { p with selfRefresh := true } })) ∧
    (¬here ∨ 64 ≤ pch ∨ p.accepted ≠ [] ∨ p.requests ≠ [] ∨ ¬idle → exec (.selfRefreshEntry k pch) s = .next s)

/-- A clk counts CYCLE up by one, drops the read copies whose lease has run out and those past a cache's capacity, opens F's slots
again every 64 clk, and changes no byte unless an L2 slice is overfull. Of a context that is alone, without watchdog and deadlock
limits and with nothing held off, it lets the strands issue again, ends the waits whose last clk it was, and counts: a clk of an
issuing bank in the watchdog count and the tuning clk, a clk of total blockage with no pending event in the deadlock counter, which
returns to zero in every other, and a slot that F used, or held through a live bypass value, against SHARE. Which copies go from a
full cache is the model's choice (log 24). -/
def Obligations.ClockCounts : Prop :=
  ∀ (s : State) (m : Nat) (st : StrandId) (k : CopyIn),
    let c := s.ctx
    let now := s.cycle + 1
    let counts : Nat := if s.bankIssues then 1 else 0
    let used : Nat := if c.id.kind = .F ∧ (c.k.issued = true ∨ s.bypassLive c.k = true) then 1 else 0
    let old := s.mem.copies.filter (fun c => decide (now.toNat < c.expiry))
    ∃ t, exec .clk s = .next t ∧ t.cycle = now ∧ t.dies = s.dies ∧ t.part = s.part ∧ t.round = 0 ∧
      (old.length ≤ 512 → s.mem.l2.length ≤ 8192 → SameBytes s t ∧ t.hbms = s.hbms ∧ t.mem = { s.mem with copies := old }) ∧
      (∀ x ∈ t.mem.copies, x ∈ old) ∧
      (t.mem.copies.filter (fun x => x.cache == k && x.holder == m)).length ≤ State.copyRoom k ∧
      (now.toNat % 64 = 0 → (t.core m).fSlots = 0) ∧
      (s.others = [] → c.wdogLimit = 0 → s.hereCore.qdlimit = 0 → c.stopReq = false → (∀ e ∈ s.cores, e.2.next = none) →
        (∀ k, (c.str k).qstats = []) →
        t.others = [] ∧ t.ctx.id = c.id ∧ t.ctx.comp = c.comp ∧ t.ctx.q = c.q ∧ t.ctx.trap = c.trap ∧ t.ctx.eng = c.eng ∧
        t.ctx.loads = c.loads ∧ { t.ctx.csr with qhc := c.csr.qhc } = c.csr ∧
        t.ctx.str st = { c.str st with issued := false,
                                       waitUntil := (c.str st).waitUntil.filter (fun u => decide (s.cycle.toNat + 1 < u)) } ∧
        t.ctx.wdog = c.wdog + counts ∧ t.ctx.tsu = { c.tsu with clks := c.tsu.clks + BitVec.ofNat 64 counts } ∧
        t.ctx.deadlock = (if s.bankIssues && s.allStuck && !s.pendingEvent then c.deadlock + 1 else 0) ∧
        (now.toNat % 64 ≠ 0 → (t.core s.here).fSlots = (s.core s.here).fSlots + used))

/-- RESET leaves the machine of its part at `State.reset`, where the registers read as their field maps say. That memory outside the
package and the model's own schedule and counter stay, and what the number in RESET names, are the model's choices (log 68); so are
the value of each register the spec gives no reset value for (log 1) and a byte that no store precedes, zero (log 2). There the memories are in their canonical form. -/
def Obligations.ResetState : Prop :=
  ∀ (s : State) (n : Nat),
    (∃ t, exec (.reset n) s = .next t ∧ t.part = partOf n ∧ t.agenda = s.agenda ∧ t.free = s.free ∧
      t.mem = { Mem.reset with host := s.mem.host, peer := s.mem.peer, hostPoison := s.mem.hostPoison, peerPoison := s.mem.peerPoison } ∧
      { t with part := .sl3240, agenda := [], free := 0, mem := Mem.reset } = State.reset) ∧
    (∀ e ∈ ([(0x000, 0x1F1F03), (0x001, 0x1F40501), (0x004, 0), (0x010, 0), (0x011, 0), (0x012, 0), (0x021, 1), (0x030, 0),
        (0x031, 0), (0x032, 0), (0x034, 0), (0x038, 2), (0x039, 0), (0x03A, 0), (0x03B, 0), (0x03C, 0), (0x050, 0), (0x051, 0),
        (0x060, 0), (0x067, 0), (0x070, 0), (0x07F, 0), (0x080, 0x8F0), (0x081, 0), (0x082, 0), (0x083, 0), (0x089, 0),
        (0x08E, 0), (0x08F, 0), (0x100, 8), (0x101, 8), (0x102, 0x100000), (0x103, 0x64), (0x104, 0), (0x110, 0), (0x111, 0),
        (0x112, 0), (0x113, 0), (0x114, 0), (0x200, 0x8000), (0x20F, 0x8000), (0x210, 0x2F8), (0x211, 0x28), (0x212, 0x348),
        (0x213, 0), (0x214, 0x64000A)] : List (Nat × W64)), State.reset.csrRead e.1 = e.2) ∧
    Memory.wf State.reset = true

/-- Words the manual works out bit by bit stand for the instructions it gives them for, one of each family (a long word's second
word in the upper half); a word with a reserved bit set and one of an unassigned major opcode stand for none. -/
def Obligations.DecodeWords : Prop :=
  decodeTableWord 32 0x80531C00 = some (.add 5 6 7) ∧
  decodeTableWord 32 0x84427FF0 = some (.andi 4 4 (-16)) ∧
  decodeTableWord 32 0x94327FFE = some (.blt 3 4 (-2)) ∧
  decodeTableWord 32 0xA0283008 = some (.ldD 2 16 8) ∧
  decodeTableWord 32 0xA4539810 = some (.amoAdd 5 7 6 .d) ∧
  decodeTableWord 32 0xA6D14000 = some (.clWb .die 5) ∧
  decodeTableWord 32 0xAE801011 = some (.csrClr 0 4 0x011) ∧
  decodeTableWord 32 0xB552A420 = some (.tldG 2 20 21 1 1 .w1 false) ∧
  decodeTableWord 32 0xBB329680 = some (.cstq 6 10 11 true .w2) ∧
  decodeTableWord 32 0xBCC50003 = some (.lset false 5 3) ∧
  decodeTableWord 32 0xE6000410 = some (.barAw .cluster) ∧
  decodeTableWord 32 0xECF6B814 = some (.mxFmt 15 13 14) ∧
  decodeTableWord 64 0xC0C0000070000402 = some (.vadd { qp := 0, np := 0 } (.tile 4 .whole .zero) (.tile 5 .whole .zero)
    (.tile 6 .whole .zero)) ∧
  decodeTableWord 64 0x8060000072040101 = some (.vlogXor { qp := 0, np := 0 } (.tile 1 .whole .zero) (.tile 2 .whole .zero)
    (.tile 3 .whole .zero)) ∧
  decodeTableWord 64 0x8002000074020200 = some (.vrotr { qp := 0, np := 0 } (.tile 2 .whole .zero) (.tile 0 .whole .zero) 1) ∧
  decodeTableWord 64 0x8000000576000481 = some (.vredrAdd { qp := 0, np := 5 } (.tile 4 .col .zero) (.tile 2 .whole .zero)) ∧
  decodeTableWord 64 0x81000001780043A2 = some (.mma 0 4 7 8 2 false 1 0 1) ∧
  decodeTableWord 64 0xFC0000057A09214D = some (.nbMv 9 4 5 6 63 0 0 5) ∧
  decodeTableWord 64 0x800000057C0952D0 = some (.gsQry 9 10 11 1 0 0 5) ∧
  decodeTableWord 32 0x80531C01 = none ∧ decodeTableWord 32 0xC0000000 = none

/-- Decoding an encoded instruction gives it back: for every well-formed instruction that has words, with every operand and
either stop bit, the bytes of its words decode to it and leave the bytes behind it, and as a bundle of their own they have it as
their only member. -/
def Obligations.DecodeEncode : Prop :=
  ∀ (i : Instr) (c : Code) (stop : Bool) (rest : List Byte), i.wellFormed = true → encode i = some c →
    decodeBytes ((c.words stop).flatMap (fun w => wordBytes w.toNat) ++ rest) = some (i, rest) ∧
    (frame 64 8 0 ((c.words true).map (·.toNat))).members.map (·.instr) = [some i]

/-- A word that decodes has one meaning: whatever a member's words decode to is well formed, and the encoder gives exactly those
words for it, so no bit of a legal word is left unread. -/
def Obligations.EncodeDecode : Prop :=
  ∀ (w0 w1 : Nat) (i : Instr), w0 < 2 ^ 31 → w1 < 2 ^ 31 → decodeMember w0 w1 = some i →
    i.wellFormed = true ∧ encode i = some (if isLongWord w0 then .long (fld w0 25 6) (longBits w0 w1) else .short w0)

/-- A step runs the instruction that the bytes at the strand's program counter decode to. Where a strand whose turn it is may
issue and its next bundle is one well-formed instruction that is legal there, the step is that instruction executed with the
program counter moved past its words: closed as a bundle where it completes, the strand waiting at it where it blocks, held where it
waits after its issue, the exception at its address where it traps, discarded where it meets a fault, and undone until the answer
where it meets a page fault. One that is illegal, or that its strand may not issue, traps. A held bundle goes on where it stopped, from what it
read as it issued (log 41: the model's choice). A word with its stop bit is fetched from its four bytes in memory, and the instruction cache keeps
a copy (log 34: the model's choice). With an empty agenda the
next turns are scheduled; an event or input happens as it is named; and every step answers a next state. Where its accesses meet a pseudo-channel
that a near-bank command occupies, a fetch, a member or an event of a unit has no effect and waits there: as a whole (log 89: the model's choice).
That an agenda names who acts, with those inputs, is the model's choice (log 7), and so is that a strand's near-bank commands which nothing keeps
from starting start before it goes on (log 80), and that a bundle which a TPOST of a later strand has freed waits for the next clk where its effect
depends on the order of the strands in a clk (log 14). -/
def Obligations.StepRunsDecoded : Prop :=
  ∀ (s u v t w x y : State) (k : StrandId) (rest : List Agent) (i : Instr) (c : Code) (n : Nat) (g : Target) (leaf a : W64)
    (h : Held) (word' : W32) (inp : Input) (bad : Bool) (e : Stop) (owner : Nat × W32),
    let s0 := acceptNear exec k { s with agenda := rest, strand := k, issue := Issue.idle }
    let s1 := s0.leaveSetup
    let who := s1.strandAsker k
    let pc := (s1.ctx.str k).pc
    let ws := c.words true
    let word := ws.headD 0
    let size := 4 * ws.length
    let free (r : State) : Prop := r.pchsWith (·.asked) = []
    let served (r : State) (w : Asker) : State := { r with asker := none }.usePass w
    let u0 : State := { (served u who) with issue := Issue.idle }
    let start := (u0.ctx.str u0.strand).pc
    let b := u0.countBundle start
    let killed : State := { b.killMarked start with issue := Issue.idle }
    let r : State := { b.modMe (fun p => { p with pc := start + BitVec.ofNat 64 size, issued := true }) with
      issue := { Issue.idle with pc := start, word := word } }
    let turns : Prop := s.agenda = .strand k :: rest ∧ (s0.ctx.str k).held = none
    let goes : Prop := turns ∧ s0.mayIssue k = true ∧ (∀ d ∈ s0.ctx.eng.deferred, d.strand ≠ k)
    let fetch := fetchBundle 6 pc [] { s1.atMember pc 0 with asker := some who }
    let fetched : Prop := goes ∧ i.wellFormed = true ∧ encode i = some c ∧ fetch = .ok (ws.map (·.toNat)) u ∧ free u
    let endsWell : Prop := ∀ x : Bool, (x = true ↔ ∃ two e, i = .loopR two e) →
      State.loopEndBad (u0.ctx.str u0.strand) start.toNat start.toNat (start.toNat + size) true x = false
    let legal : Prop := (u0.atMember start word).illegal i = false ∧ u0.strandBad i = false ∧ endsWell
    let late : Prop := Instr.clkOrder i = true ∧ ∃ j, u0.strand.code < j.code ∧ (u0.ctx.str j).issued = true
    let resumed : State := { s0 with issue := { Issue.idle with pc := a, word := word', taken := h.taken, snap := some (s0.heldSnap h) } }
    let held (r : State) (x : Option Block) : State := { (r.modMe (fun p =>
      { p with held := some { h with taken := r.issue.taken }, blocked := x })) with issue := Issue.idle }
    let copied : State := match g with
      | .hbm key _ 0 false => (v.readT g 4).2.noteRead (some .icache) key
      | _ => (v.readT g 4).2
    let sent : State := { s with agenda := rest, issue := Issue.idle }
    let open' (p : Port) : Port := { p with waiting := [] }
    (let name := x.strandAsker x.strand
     exec i { x with asker := some name } = .next y →
      (free y → awaiting exec i x = .next (served y name)) ∧
      (¬free y → awaiting exec i x = .next (x.standIn name (y.pchsWith (·.asked))).awaitPch)) ∧
    (fetched → legal → ¬late → awaiting exec i r = .next t →
      (t.issue.ended = .completed → step s = .next t.closeBundle) ∧
      (∀ x, t.issue.ended = .blocked x → step s = .next (u0.modMe (fun p => { p with blocked := some x }))) ∧
      (∀ x, t.issue.ended = .waits x → step s = .next (t.hold u0 start [(start, word, i)] x)) ∧
      (∀ x y z, t.issue.ended = .trapped x y z → step s = .next ((b.killMarked start).trapAtIssue x y start z)) ∧
      (t.issue.ended = .faulted → step s = .next { t.killMarked start with issue := Issue.idle }) ∧
      (t.issue.ended = .replayed → awaiting exec i (killed.atMember start word) = .next w →
        step s = .next { (w.modMe (fun p => { p with pc := start })) with issue := Issue.idle })) ∧
    (fetched → legal → late → step s = .next u0) ∧
    (fetched → (bad = false ∧ (u0.atMember start word).illegal i = true) ∨
        (bad = true ∧ (u0.atMember start word).illegal i = false ∧ u0.strandBad i = true ∧ endsWell) →
      awaiting exec (.illegalInstruction bad word start) ((b.killMarked start).atMember start word) = .next t →
      step s = .next { t with issue := Issue.idle }) ∧
    (goes → (∃ l, fetch = .ok l u) ∨ fetch = .error e u → ¬free u →
      step s = .next { (s1.standIn who (u.pchsWith (·.asked))).awaitPch with issue := Issue.idle }) ∧
    (s.agenda = .strand k :: rest → (s0.ctx.str k).held = some h →
      (s0.mayGoOn k = false → step s = .next s0) ∧
      (s0.mayGoOn k = true → h.rest = [(a, word', i)] → awaiting exec i resumed = .next t →
        (t.issue.ended = .completed → step s = .next (t.modMe (fun p => { p with blocked := none })).closeBundle) ∧
        (∀ x, t.issue.ended = .blocked x → step s = .next { (s0.modMe (fun p => { p with blocked := some x })) with issue := Issue.idle }) ∧
        (∀ x, t.issue.ended = .waits x → step s = .next (held t (some x))) ∧
        (∀ x y z, t.issue.ended = .trapped x y z → step s = .next { ({ s0 with issue := { Issue.idle with taken := h.taken } }.killMarked
          h.start).trapAtIssue x y a z with issue := Issue.idle }) ∧
        (t.issue.ended = .faulted → step s = .next { t.killMarked h.start with issue := Issue.idle }))) ∧
    (a.toNat % 4 = 0 → (s.ctx.id.kind = .clove ∧ 2 ^ 63 ≤ a.toNat ∨ s.ctx.id.kind ≠ .clove ∧ bitsAt a 55 9 = 0) →
      findT s.strand 0 a false s = .ok (g, leaf) v → Open v g 4 → Sound v g 4 →
      (v.readT g 4).1.data = wordBytes n → n < 2 ^ 32 → bitAt n 31 = true → fetchBundle 6 a [] s = .ok [n] copied) ∧
    (turns → s0.mayIssue k = false → step s = .next s0) ∧
    (turns → s0.mayIssue k = true → (∃ d ∈ s0.ctx.eng.deferred, d.strand = k) → step s = exec .deferredTrap s0) ∧
    (s.agenda = [] → step s = .next { s with agenda := s.schedule, hostPorts := s.hostPorts.map open', peerPorts := s.peerPorts.map open' }) ∧
    (s.agenda = .event i :: rest → Instr.autonomous i = true →
      (Instr.asks i (State.ctxName s.ctx.id) = none → step s = exec i sent) ∧
      (Instr.asks i (State.ctxName s.ctx.id) = some owner → exec i { sent with asker := some (.event owner i) } = .next y →
        (free y → step s = .next (served y (.event owner i))) ∧
        (¬free y → step s = .next (State.holdRequest i (sent.standIn (.event owner i) (y.pchsWith (·.asked))))))) ∧
    (s.agenda = .event i :: rest → Instr.autonomous i = false → step s = .next { s with agenda := rest }) ∧
    (s.agenda = .input inp :: rest → step s = .next (State.input { s with agenda := rest } inp)) ∧
    ∃ w, step s = .next w

/-- The memories keep their canonical form: DRAM, the home L2, host and peer memory, the scratchpads and Clove's private memory
hold rising keys and no entry equal to what an unlisted address reads as, after every step from a state where they do. -/
def Obligations.StepKeepsMemoryWf : Prop :=
  ∀ s t : State, Memory.wf s = true → step s = .next t → Memory.wf t = true
end

