-- ==== Sys2Proof/Laws/Cells.lean ====
section
/-! SUPPORT. Laws of sparse tables: what a read gives after a write, and that every operation keeps the canonical form. -/

namespace Sys2Proof.Machine

variable {α : Type}

@[simp] theorem Cells.get_nil (d : α) (i : Nat) : Cells.get d [] i = d := rfl

theorem Cells.get_cons (d : α) (k : Nat) (v : α) (m : Cells α) (i : Nat) :
    Cells.get d ((k, v) :: m) i = if k = i then v else Cells.get d m i := rfl

section
variable [DecidableEq α] {d : α}

theorem Cells.wfFrom_cons (lo : Option Nat) (k : Nat) (v : α) (m : Cells α) :
    Cells.wfFrom d lo ((k, v) :: m) = true ↔ (∀ b, lo = some b → b < k) ∧ v ≠ d ∧ Cells.wfFrom d (some k) m = true := by
  cases lo <;> simp [Cells.wfFrom, and_assoc]

/-- A lower bound may be lowered, or dropped. -/
theorem Cells.wfFrom_weaken {lo lo' : Option Nat} {m : Cells α} (hb : ∀ b, lo' = some b → ∃ c, lo = some c ∧ b ≤ c)
    (h : Cells.wfFrom d lo m = true) : Cells.wfFrom d lo' m = true := by
  cases m with
  | nil => rfl
  | cons e m =>
    obtain ⟨k, v⟩ := e
    rw [Cells.wfFrom_cons] at h ⊢
    refine ⟨fun b hb' => ?_, h.2⟩
    obtain ⟨c, hc, hbc⟩ := hb b hb'
    exact Nat.lt_of_le_of_lt hbc (h.1 c hc)

/-- Below the bound of a canonical table nothing is listed. -/
theorem Cells.get_of_bound {b : Nat} {m : Cells α} (h : Cells.wfFrom d (some b) m = true) {i : Nat} (hi : i ≤ b) :
    Cells.get d m i = d := by
  induction m generalizing b with
  | nil => rfl
  | cons e m ih =>
    obtain ⟨k, v⟩ := e
    rw [Cells.wfFrom_cons] at h
    have hk := h.1 b rfl
    rw [Cells.get_cons, if_neg (by omega)]
    exact ih h.2.2 (by omega)

omit [DecidableEq α] in
theorem Cells.get_insert (m : Cells α) (i : Nat) (x : α) (j : Nat) :
    Cells.get d (Cells.insert m i x) j = if i = j then x else Cells.get d m j := by
  induction m with
  | nil => simp [Cells.insert, Cells.get]
  | cons e m ih =>
    obtain ⟨k, v⟩ := e
    unfold Cells.insert
    split
    · simp [Cells.get_cons]
    · split
      · next h1 => subst h1; simp only [Cells.get_cons]; split <;> simp_all
      · simp only [Cells.get_cons, ih]
        by_cases hk : k = j <;> by_cases hi : i = j <;> simp_all

omit [DecidableEq α] in
theorem Cells.get_erase (m : Cells α) (i j : Nat) :
    Cells.get d (Cells.erase m i) j = if i = j then d else Cells.get d m j := by
  induction m with
  | nil => simp [Cells.erase, Cells.get]
  | cons e m ih =>
    obtain ⟨k, v⟩ := e
    unfold Cells.erase
    split
    · next hk => subst hk; rw [ih]; by_cases hj : k = j <;> simp [Cells.get_cons, hj]
    · next hk =>
      simp only [Cells.get_cons, ih]
      by_cases hk : k = j <;> by_cases hi : i = j <;> simp_all

/-- A read after a write gives the value written, at every other key what it gave before. -/
theorem Cells.get_set (m : Cells α) (i : Nat) (x : α) (j : Nat) :
    Cells.get d (Cells.set d m i x) j = if i = j then x else Cells.get d m j := by
  unfold Cells.set
  split
  · next hx => subst hx; exact Cells.get_erase m i j
  · exact Cells.get_insert m i x j

theorem Cells.wfFrom_insert {lo : Option Nat} {m : Cells α} {i : Nat} {x : α} (h : Cells.wfFrom d lo m = true)
    (hx : x ≠ d) (hi : ∀ b, lo = some b → b < i) : Cells.wfFrom d lo (Cells.insert m i x) = true := by
  induction m generalizing lo with
  | nil => rw [Cells.insert, Cells.wfFrom_cons]; exact ⟨hi, hx, rfl⟩
  | cons e m ih =>
    obtain ⟨k, v⟩ := e
    rw [Cells.wfFrom_cons] at h
    unfold Cells.insert
    split
    · next hlt =>
      rw [Cells.wfFrom_cons, Cells.wfFrom_cons]
      exact ⟨hi, hx, fun b hb => by cases hb; exact hlt, h.2⟩
    · split
      · next heq => subst heq; rw [Cells.wfFrom_cons]; exact ⟨hi, hx, h.2.2⟩
      · next h1 h2 =>
        rw [Cells.wfFrom_cons]
        exact ⟨h.1, h.2.1, ih h.2.2 (fun b hb => by cases hb; omega)⟩

theorem Cells.wfFrom_erase {lo : Option Nat} {m : Cells α} (i : Nat) (h : Cells.wfFrom d lo m = true) :
    Cells.wfFrom d lo (Cells.erase m i) = true := by
  induction m generalizing lo with
  | nil => rfl
  | cons e m ih =>
    obtain ⟨k, v⟩ := e
    have h' := (Cells.wfFrom_cons _ _ _ _).1 h
    unfold Cells.erase
    split
    · refine Cells.wfFrom_weaken (fun b hb => ⟨k, rfl, ?_⟩) (ih h'.2.2)
      exact Nat.le_of_lt (h'.1 b hb)
    · rw [Cells.wfFrom_cons]; exact ⟨h'.1, h'.2.1, ih h'.2.2⟩

/-- A write keeps the canonical form. -/
theorem Cells.wf_set {m : Cells α} (i : Nat) (x : α) (h : Cells.wf d m = true) : Cells.wf d (Cells.set d m i x) = true := by
  unfold Cells.set
  split
  · exact Cells.wfFrom_erase i h
  · next hx => exact Cells.wfFrom_insert h hx (by simp)

theorem Cells.wf_erase {m : Cells α} (i : Nat) (h : Cells.wf d m = true) : Cells.wf d (Cells.erase m i) = true :=
  Cells.wfFrom_erase i h

/-- Two canonical tables that read the same everywhere are the same data. -/
theorem Cells.ext_of_wfFrom {lo : Option Nat} {m n : Cells α} (hm : Cells.wfFrom d lo m = true)
    (hn : Cells.wfFrom d lo n = true) (h : ∀ i, Cells.get d m i = Cells.get d n i) : m = n := by
  induction m generalizing n lo with
  | nil =>
    cases n with
    | nil => rfl
    | cons e n =>
      obtain ⟨k, v⟩ := e
      have := h k
      rw [Cells.wfFrom_cons] at hn
      simp [Cells.get_cons] at this
      exact absurd this.symm hn.2.1
  | cons e m ih =>
    obtain ⟨k, v⟩ := e
    rw [Cells.wfFrom_cons] at hm
    cases n with
    | nil =>
      have := h k
      simp [Cells.get_cons] at this
      exact absurd this hm.2.1
    | cons e' n =>
      obtain ⟨k', v'⟩ := e'
      rw [Cells.wfFrom_cons] at hn
      have hk : k = k' := by
        rcases Nat.lt_trichotomy k k' with hlt | heq | hgt
        · have := h k
          rw [Cells.get_cons, if_pos rfl, Cells.get_cons, if_neg (by omega), Cells.get_of_bound hn.2.2 (by omega)] at this
          exact absurd this hm.2.1
        · exact heq
        · have := h k'
          rw [Cells.get_cons, if_neg (by omega), Cells.get_of_bound hm.2.2 (by omega), Cells.get_cons, if_pos rfl] at this
          exact absurd this.symm hn.2.1
      subst hk
      have hv : v = v' := by simpa [Cells.get_cons] using h k
      subst hv
      congr 1
      refine ih hm.2.2 hn.2.2 (fun i => ?_)
      by_cases hi : k = i
      · subst hi; rw [Cells.get_of_bound hm.2.2 (Nat.le_refl _), Cells.get_of_bound hn.2.2 (Nat.le_refl _)]
      · simpa [Cells.get_cons, hi] using h i

/-- Equal memories are equal data. -/
theorem Cells.ext_of_wf {m n : Cells α} (hm : Cells.wf d m = true) (hn : Cells.wf d n = true)
    (h : ∀ i, Cells.get d m i = Cells.get d n i) : m = n := Cells.ext_of_wfFrom hm hn h

end

/-- A property of every listed value. -/
def Cells.AllVals (p : α → Prop) (m : Cells α) : Prop := ∀ e ∈ m, p e.2

theorem Cells.AllVals.get {p : α → Prop} {d : α} {m : Cells α} (h : Cells.AllVals p m) (hd : p d) (i : Nat) :
    p (Cells.get d m i) := by
  induction m with
  | nil => exact hd
  | cons e m ih =>
    obtain ⟨k, v⟩ := e
    rw [Cells.get_cons]
    split
    · exact h (k, v) (by simp)
    · exact ih (fun e he => h e (by simp [he]))

theorem Cells.AllVals.erase {p : α → Prop} {m : Cells α} (i : Nat) (h : Cells.AllVals p m) :
    Cells.AllVals p (Cells.erase m i) := by
  induction m with
  | nil => exact h
  | cons e m ih =>
    obtain ⟨k, v⟩ := e
    have hm : Cells.AllVals p m := fun e he => h e (by simp [he])
    unfold Cells.erase
    split
    · exact ih hm
    · intro e he
      rcases List.mem_cons.1 he with rfl | he
      · exact h (k, v) (by simp)
      · exact ih hm e he

theorem Cells.AllVals.insert {p : α → Prop} {m : Cells α} {i : Nat} {x : α} (h : Cells.AllVals p m) (hx : p x) :
    Cells.AllVals p (Cells.insert m i x) := by
  induction m with
  | nil => intro e he; simp [Cells.insert] at he; subst he; exact hx
  | cons e m ih =>
    obtain ⟨k, v⟩ := e
    have hm : Cells.AllVals p m := fun e he => h e (by simp [he])
    unfold Cells.insert
    split
    · intro e he
      rcases List.mem_cons.1 he with rfl | he
      · exact hx
      · exact h e he
    · split
      · intro e he
        rcases List.mem_cons.1 he with rfl | he
        · exact hx
        · exact hm e he
      · intro e he
        rcases List.mem_cons.1 he with rfl | he
        · exact h (k, v) (by simp)
        · exact ih hm e he

theorem Cells.AllVals.set [DecidableEq α] {p : α → Prop} {d : α} {m : Cells α} {i : Nat} {x : α} (h : Cells.AllVals p m)
    (hx : p x) : Cells.AllVals p (Cells.set d m i x) := by
  unfold Cells.set
  split
  · exact Cells.AllVals.erase i h
  · exact Cells.AllVals.insert h hx

end Sys2Proof.Machine
end

