-- ==== Sys2Proof/Laws/Memory.lean ====
section
/-! SUPPORT. Every operation on memory keeps the canonical form of its tables. -/

namespace Sys2Proof.Machine

variable {s : State} {m : Mem}

theorem Mem.wf_iff : m.wf = true ↔
    Cells.wf 0 m.dram = true ∧ Cells.wf none m.l2 = true ∧ Cells.wf 0 m.host = true ∧ Cells.wf 0 m.peer = true := by
  simp [Mem.wf, and_assoc]

theorem Memory.wf_iff : Memory.wf s = true ↔ s.mem.wf = true ∧ clustersWf s.clusters = true ∧ diesWf s.dies = true := by
  simp [Memory.wf, and_assoc]

theorem clustersWf_iff {c : Cells Cluster} : clustersWf c = true ↔
    Cells.wf Cluster.reset c = true ∧ Cells.AllVals (fun x => Cells.wf 0 x.mem = true) c := by
  simp [clustersWf, Cells.AllVals]

theorem diesWf_iff {c : Cells Die} : diesWf c = true ↔
    Cells.wf Die.reset c = true ∧ Cells.AllVals (fun x => Cells.wf 0 x.cloveMem = true) c := by
  simp [diesWf, Cells.AllVals]

/-- The memory at reset is in canonical form. -/
theorem State.reset_wf : Memory.wf State.reset = true := rfl

theorem wf_cellsPut {c : Cells Byte} (k : Nat) (bs : List Byte) (h : Cells.wf 0 c = true) :
    Cells.wf 0 (cellsPut c k bs) = true := by
  induction bs generalizing c k with
  | nil => exact h
  | cons b bs ih => exact ih _ (Cells.wf_set k b h)

theorem Mem.wf_dramBytes (k : Nat) (bs : List Byte) (h : m.wf = true) : (m.dramBytes k bs).wf = true := by
  induction bs generalizing m k with
  | nil => exact h
  | cons b bs ih =>
    refine ih _ ?_
    rw [Mem.wf_iff] at h ⊢
    exact ⟨Cells.wf_set k b h.1, h.2⟩

theorem Mem.wf_setPoison (i : Nat) (p l : Bool) (h : m.wf = true) : (m.setPoison i p l).wf = true := by
  unfold Mem.setPoison; split <;> exact h

theorem Mem.wf_dramPut (i : Nat) (x : Sector) (h : m.wf = true) : (m.dramPut i x).wf = true :=
  Mem.wf_setPoison _ _ _ (Mem.wf_dramBytes _ _ h)

theorem Mem.wf_hold (i : Nat) (x : Sector) (h : m.wf = true) : (m.hold i x).wf = true := by
  rw [Mem.wf_iff] at h ⊢
  exact ⟨h.1, Cells.wf_set (d := none) i (some x) h.2.1, h.2.2⟩

theorem Mem.wf_drop (i : Nat) (h : m.wf = true) : (m.drop i).wf = true := by
  rw [Mem.wf_iff] at h ⊢
  exact ⟨h.1, Cells.wf_erase _ h.2.1, h.2.2⟩

theorem Mem.wf_dropCopies (i : Nat) (h : m.wf = true) : (m.dropCopies i).wf = true := h

theorem Mem.wf_writeBack (i : Nat) (h : m.wf = true) : (m.writeBack i).wf = true := by
  unfold Mem.writeBack
  split
  · split
    · exact Mem.wf_hold _ _ (Mem.wf_dramPut _ _ h)
    · exact h
  · exact h

theorem Mem.wf_read0 (k n : Nat) (b a : Bool) (h : m.wf = true) : (m.read0 k n b a).2.wf = true := by
  unfold Mem.read0; dsimp only; split
  · exact Mem.wf_hold _ _ h
  · exact h

theorem Mem.wf_write0 (k : Nat) (bs : List Byte) (b a p : Bool) (h : m.wf = true) : (m.write0 k bs b a p).wf = true := by
  unfold Mem.write0
  dsimp only
  split
  · exact Mem.wf_hold _ _ (Mem.wf_dropCopies _ h)
  · have h1 : ((m.dropCopies (k / 128)).dramBytes k bs).wf = true := Mem.wf_dramBytes _ _ h
    split <;> split <;> first | exact Mem.wf_hold _ _ (Mem.wf_setPoison _ _ _ h1) | exact Mem.wf_setPoison _ _ _ h1 | exact Mem.wf_hold _ _ h1 | exact h1

theorem Mem.wf_write1 (k : Nat) (bs : List Byte) (p : Bool) (h : m.wf = true) : (m.write1 k bs p).wf = true := by
  unfold Mem.write1
  dsimp only
  split
  · exact Mem.wf_setPoison _ _ _ (Mem.wf_dramBytes _ _ h)
  · exact Mem.wf_dramBytes _ _ h

theorem wf_foldWord (w : Nat) (h : m.wf = true) : (foldWord m w).wf = true := by
  unfold foldWord
  split
  · exact h
  · exact Mem.wf_write0 _ _ _ _ _ h

/-- What each part of a fold keeps, the fold keeps. -/
theorem foldl_keeps {α β : Type} {P : β → Prop} {f : β → α → β} (hf : ∀ b a, P b → P (f b a)) (l : List α) {b : β} (h : P b) :
    P (l.foldl f b) := by
  induction l generalizing b with
  | nil => exact h
  | cons a l ih => exact ih (hf b a h)

theorem wf_foldAdds (k n : Nat) (h : m.wf = true) : (foldAdds m k n).wf = true := by
  unfold foldAdds
  split
  · exact h
  · exact foldl_keeps (P := fun m : Mem => m.wf = true) (fun _ _ h => wf_foldWord _ h) _ h

/-- The deferred adds of host and peer memory fold into memory that stays canonical. -/
theorem wf_foldCells (adds : List PendingAdd) (k n : Nat) {c : Cells Byte} (h : Cells.wf 0 c = true) :
    Cells.wf 0 (foldCells adds k n c) = true := by
  refine foldl_keeps (P := fun c : Cells Byte => Cells.wf 0 c = true) (fun c i h => ?_) _ h
  dsimp only
  split
  · exact h
  · exact wf_cellsPut _ _ h

theorem Mem.wf_foldHost (k n : Nat) (h : m.wf = true) : (m.foldHost k n).wf = true := by
  unfold Mem.foldHost; split
  · exact h
  · rw [Mem.wf_iff] at h ⊢; exact ⟨h.1, h.2.1, wf_foldCells _ _ _ h.2.2.1, h.2.2.2⟩

theorem Mem.wf_foldPeer (k n : Nat) (h : m.wf = true) : (m.foldPeer k n).wf = true := by
  unfold Mem.foldPeer; split
  · exact h
  · rw [Mem.wf_iff] at h ⊢; exact ⟨h.1, h.2.1, h.2.2.1, wf_foldCells _ _ _ h.2.2.2⟩

theorem wf_orEntry (pa b : Nat) (h : m.wf = true) : (orEntry m pa b).wf = true := by
  unfold orEntry
  dsimp only
  split
  · exact h
  · exact Mem.wf_write0 _ _ _ _ _ h

theorem wf_walk (p : Part) (r : Req) (w : Bool) (va n t : Nat) (h : m.wf = true) : (walk p r w va n t m).2.wf = true := by
  induction n generalizing m t with
  | zero => rw [walk]; exact h
  | succ n ih =>
    rw [walk]
    generalize t + 8 * (va / 2 ^ levelShift n % levelEntries n) = pa
    generalize readEntry m pa = e
    generalize bitsAt e 8 40 * 256 = next
    split
    · exact h
    · split
      · exact h
      · split
        · split
          · exact h
          · exact wf_orEntry _ _ h
        · exact ih _ (wf_orEntry _ _ h)

theorem wf_tlbFill (r : Req) (e : W64) (v n : Nat) (h : m.wf = true) : (tlbFill m r e v n).wf = true := h

/-- A state whose memory is canonical and whose other tables are those of a canonical state. -/
theorem Memory.wf_mem {t : State} (h : Memory.wf s = true) (hm : t.mem.wf = true) (hc : t.clusters = s.clusters)
    (hd : t.dies = s.dies) : Memory.wf t = true := by
  rw [Memory.wf_iff] at h ⊢; rw [hc, hd]; exact ⟨hm, h.2⟩

theorem State.mem_wf (h : Memory.wf s = true) : s.mem.wf = true := (Memory.wf_iff.1 h).1

theorem wf_walked (r : Req) (w : Bool) (x : Trans × Mem) (h : Memory.wf s = true) (hx : x.2.wf = true) :
    Memory.wf (walked s r w x).2 = true := by
  unfold walked
  split
  · exact Memory.wf_mem h (wf_tlbFill _ _ _ _ hx) rfl rfl
  · exact Memory.wf_mem h hx rfl rfl

/-- A request at a pseudo-channel changes the stacks' own tables alone. -/
theorem State.noteRequest_eq (k : Nat) : s.noteRequest k = { s with hbms := (s.noteRequest k).hbms } := rfl

theorem State.noteMiss_eq (k : Nat) (d : Bool) : s.noteMiss k d = { s with hbms := (s.noteMiss k d).hbms } := by
  unfold State.noteMiss; split
  · exact State.noteRequest_eq k
  · rfl

/-- The reads of a walk change the stacks' own tables alone. -/
theorem noteWalk_eq (r : Req) (va : Nat) (w : W64) : noteWalk s r va w = { s with hbms := (noteWalk s r va w).hbms } := by
  refine foldl_keeps (P := fun t : State => t = { s with hbms := t.hbms }) (fun t k h => ?_) _ rfl
  rw [State.noteMiss_eq, h]

theorem wf_noteWalk (r : Req) (va : Nat) (w : W64) (h : Memory.wf s = true) : Memory.wf (noteWalk s r va w) = true := by
  rw [noteWalk_eq]; exact h

theorem wf_walkRoot (r : Req) (va : Nat) (w : Bool) (e : W64) (h : Memory.wf s = true) : (walkRoot s r va w e).2.wf = true := by
  unfold walkRoot; split
  · exact wf_walk _ _ _ _ _ _ (State.mem_wf h)
  · exact State.mem_wf h

theorem wf_translate (r : Req) (va : Nat) (w : Bool) (h : Memory.wf s = true) : Memory.wf (translate s r va w).2 = true := by
  unfold translate
  split
  · exact h
  · split
    · exact h
    · exact wf_walked _ _ _ (wf_noteWalk _ _ _ h) (wf_walkRoot _ _ _ _ h)

theorem State.cluster_wf (h : Memory.wf s = true) (c : Nat) : Cells.wf 0 (s.cluster c).mem = true :=
  (clustersWf_iff.1 (Memory.wf_iff.1 h).2.1).2.get rfl c

theorem State.die_wf (h : Memory.wf s = true) (d : Nat) : Cells.wf 0 (s.die d).cloveMem = true :=
  (diesWf_iff.1 (Memory.wf_iff.1 h).2.2).2.get rfl d

theorem State.wf_setCluster (c : Nat) (x : Cluster) (h : Memory.wf s = true) (hx : Cells.wf 0 x.mem = true) :
    Memory.wf (s.setCluster c x) = true := by
  rw [Memory.wf_iff] at h ⊢
  exact ⟨h.1, clustersWf_iff.2 ⟨Cells.wf_set _ _ (clustersWf_iff.1 h.2.1).1, (clustersWf_iff.1 h.2.1).2.set hx⟩, h.2.2⟩

theorem State.wf_setDie (d : Nat) (x : Die) (h : Memory.wf s = true) (hx : Cells.wf 0 x.cloveMem = true) :
    Memory.wf (s.setDie d x) = true := by
  rw [Memory.wf_iff] at h ⊢
  exact ⟨h.1, h.2.1, diesWf_iff.2 ⟨Cells.wf_set _ _ (diesWf_iff.1 h.2.2).1, (diesWf_iff.1 h.2.2).2.set hx⟩⟩

theorem Cluster.put_mem (c : Cluster) (o : Nat) (bs : List Byte) (p : Bool) : (c.put o bs p).mem = cellsPut c.mem o bs := by
  unfold Cluster.put
  dsimp only
  repeat' split
  all_goals rfl

theorem Cluster.wf_put {c : Cluster} (o : Nat) (bs : List Byte) (p : Bool) (h : Cells.wf 0 c.mem = true) :
    Cells.wf 0 (c.put o bs p).mem = true := by
  rw [Cluster.put_mem]; exact wf_cellsPut o bs h

end Sys2Proof.Machine
end

