-- ==== Sys2Proof/Laws/Run.lean ====
section
/-! SUPPORT. How a meaning in the monad runs: each shared check and each access, under the conditions in which it passes. A
proof about an instruction chains these and unfolds no shared operation. -/

namespace Sys2Proof.Machine

variable {s t : State}

theorem run_ok {m : M Unit} {u : Unit} (h : m s = .ok u t) : run m s = .next t := by simp [run, h]

theorem run_error {m : M Unit} {w : Stop} (h : m s = .error w t) : run m s = .next (State.settle w s t) := by simp [run, h]

section
variable {ε α β : Type}

theorem bind_ok {m : EStateM ε State α} {k : α → EStateM ε State β} {a : α} (h : m s = .ok a t) : (m >>= k) s = k a t := by
  simp [bind, EStateM.bind, h]

theorem bind_error {m : EStateM ε State α} {k : α → EStateM ε State β} {e : ε} (h : m s = .error e t) :
    (m >>= k) s = .error e t := by
  simp [bind, EStateM.bind, h]

@[simp] theorem bind_get (k : State → EStateM ε State β) : (get >>= k) s = k s s := rfl
@[simp] theorem bind_modify (f : State → State) (k : PUnit → EStateM ε State β) :
    ((modify f : EStateM ε State PUnit) >>= k) s = k ⟨⟩ (f s) := rfl
@[simp] theorem bind_set (u : State) (k : PUnit → EStateM ε State β) :
    ((set u : EStateM ε State PUnit) >>= k) s = k ⟨⟩ u := rfl
@[simp] theorem bind_pure_run (a : α) (k : α → EStateM ε State β) : ((pure a : EStateM ε State α) >>= k) s = k a s := rfl
@[simp] theorem modify_run (f : State → State) : (modify f : EStateM ε State PUnit) s = .ok ⟨⟩ (f s) := rfl
@[simp] theorem pure_run (a : α) : (pure a : EStateM ε State α) s = .ok a s := rfl
@[simp] theorem throw_run (e : ε) : (throw e : EStateM ε State α) s = .error e s := rfl
@[simp] theorem bind_throw (e : ε) (k : α → EStateM ε State β) :
    ((throw e : EStateM ε State α) >>= k) s = .error e s := rfl

end

@[simp] theorem check_true (w : Stop) : check true w s = .ok () s := rfl
@[simp] theorem check_false (w : Stop) : check false w s = .error w s := rfl
@[simp] theorem bind_check_true {β : Type} (w : Stop) (k : Unit → M β) : (check true w >>= k) s = k () s := rfl
@[simp] theorem bind_check_false {β : Type} (w : Stop) (k : Unit → M β) : (check false w >>= k) s = .error w s := rfl
@[simp] theorem require_true (c : Cause) : require true c s = .ok () s := rfl
@[simp] theorem require_false (c : Cause) : require false c s = .error (.trap c (s.issue.word.setWidth 64)) s := rfl
@[simp] theorem bind_require_true {β : Type} (c : Cause) (k : Unit → M β) : (require true c >>= k) s = k () s := rfl
@[simp] theorem bind_require_false {β : Type} (c : Cause) (k : Unit → M β) :
    (require false c >>= k) s = .error (.trap c (s.issue.word.setWidth 64)) s := rfl
@[simp] theorem wx_run (r : Reg) (v : W64) (b : Bool) : wx r v b s = .ok () (s.setX r v b) := rfl
@[simp] theorem bind_wx {β : Type} (r : Reg) (v : W64) (b : Bool) (k : Unit → M β) : (wx r v b >>= k) s = k () (s.setX r v b) := rfl

/-- The first checks of an instruction pass where it is legal and its strand may issue it. -/
theorem enter_ok {i : Instr} (h1 : s.illegal i = false) (h2 : s.strandBad i = false) : enter i s = .ok () s := by
  simp [enter, h1, h2]

/-- An instruction that is not legal raises Illegal-Instruction with its word. -/
theorem enter_illegal {i : Instr} (h : s.illegal i = true) :
    enter i s = .error (.trap .illegalInstruction (s.issue.word.setWidth 64)) s := by
  simp [enter, h]

/-- A legal instruction on a strand that may not issue it raises Illegal-Strand with its word. -/
theorem enter_strand {i : Instr} (h1 : s.illegal i = false) (h2 : s.strandBad i = true) :
    enter i s = .error (.trap .illegalStrand (s.issue.word.setWidth 64)) s := by
  simp [enter, h1, h2]

/-- Only the load strand waits, and only for its own tile loads. -/
theorem tilesDone_ok (h : s.strand ≠ .L ∨ s.ctx.loads = []) : tilesDone s = .ok () s := by
  have h1 : (s.strand != .L || s.ctx.loads.isEmpty) = true := by rcases h with h | h <;> simp [h]
  simp only [tilesDone, bind_get, h1, check_true]

/-- An aligned address of the lower half passes; Clove's addresses need only be aligned. -/
theorem checkAddr_ok {a : W64} {n : Nat} (h1 : a.toNat % n = 0) (h2 : s.ctx.id.kind = .clove ∨ bitsAt a 55 9 = 0) :
    checkAddr a n s = .ok () s := by
  have h3 : (s.ctx.id.kind == .clove || bitsAt a 55 9 == 0) = true := by rcases h2 with h | h <;> simp [h]
  simp [checkAddr, h1, h3]

/-- A misaligned scalar address traps. -/
theorem checkAddr_misaligned {a : W64} {n : Nat} (h : a.toNat % n ≠ 0) :
    checkAddr a n s = .error (.trap .misaligned a) s := by
  have h1 : (a.toNat % n == 0) = false := by simp [h]
  simp only [checkAddr, bind_get, h1, bind_check_false]

theorem checkLink_ok {va : W64} {g : Target} (h : s.linkError g = none) : checkLink va g s = .ok () s := by
  simp [checkLink, h]

/-- An access that no fill keeps waiting goes on, and a read that no posted write of its strand keeps waiting. -/
theorem filled_ok {g : Target} {n : Nat} (h : s.fillPending g n = false) : filled g n s = .ok () s := by
  simp only [filled, bind_get, h, Bool.not_false, check_true]

theorem clearFor_ok {st : StrandId} {g : Target} {n : Nat} (h1 : s.postedOn st g n = false) (h2 : s.fillPending g n = false) :
    clearFor st g n s = .ok () s := by
  simp only [clearFor, bind_get, h1, Bool.not_false, bind_check_true, filled_ok h2]

/-- A read that is not held up, whose way is open and whose sector is sound, gives the bytes of its target. -/
theorem readM_ok {st : StrandId} {va : W64} {g : Target} {n : Nat} (h1 : s.postedOn st g n = false)
    (h2 : s.fillPending g n = false) (h3 : s.linkError g = none) (h5 : Sound s g n) :
    readM st va g n s = .ok (s.readT g n).1.data (s.afterRead g n) := by
  simp only [readM, readWith, bind_get, bind_ok (clearFor_ok h1 h2), bind_ok (checkLink_ok h3),
    bind_set, h5.1, h5.2, Bool.or_false, Bool.false_eq_true, ↓reduceIte, pure_run]
  rfl

/-- A write that is not posted is performed at once, where nothing holds it up and its way is open. -/
theorem writeM_ok {st : StrandId} {pc va : W64} {g : Target} {bs : List Byte} {p : Bool} (h0 : g.posted = false)
    (h2 : s.fillPending g bs.length = false) (h3 : s.linkError g = none)
    (h4 : s.poisonedT g = false ∨ bs.length = 32) :
    writeM st pc va g bs p s = .ok () (s.writeT g bs p) := by
  have h5 : (s.poisonedT g && bs.length != 32) = false := by rcases h4 with h | h <;> simp [h]
  simp only [writeM, bind_get, h0, Bool.false_eq_true, ↓reduceIte, bind_ok (filled_ok h2),
    bind_ok (checkLink_ok h3), h5, modify_run]

/-- A posted write joins the posted writes of the context. -/
theorem writeM_posted {st : StrandId} {pc va : W64} {g : Target} {bs : List Byte} {p : Bool} (h : g.posted = true) :
    writeM st pc va g bs p s = .ok () (s.modCtx (fun c => { c with eng := { c.eng with
      posted := c.eng.posted ++ [{ strand := st, pc, va, target := g, data := bs, poison := p, seq := c.eng.seqno }] } })) := by
  simp only [writeM, bind_get, h, ↓reduceIte, modify_run]

end Sys2Proof.Machine
end

