-- ==== Sys2Proof/Laws/Access.lean ====
section
/-! SUPPORT. Loads and atomics that reach their target and are not held up: the state each ends in. -/

namespace Sys2Proof.Machine

variable {s u : State}

/-- What a register reads as depends on the context, the strand, the bundle in flight and the clk. -/
theorem getX_congr (h1 : u.strand = s.strand) (h2 : u.issue = s.issue) (h3 : u.ctx = s.ctx) (h4 : u.cycle = s.cycle) (r : Reg) :
    u.getX r = s.getX r := by
  unfold State.getX State.bypassed State.bypassValue State.rdClk State.me State.rd
  rw [h1, h2, h3, h4]

theorem walked_frame (r : Req) (w : Bool) (x : Trans × Mem) : (walked s r w x).2 = { s with mem := (walked s r w x).2.mem } := by
  unfold walked
  split <;> rfl

/-- A translation leaves everything as it was but memory, with its tables' marks and the translation caches, and the requests that its
reads are. -/
theorem translate_frame (r : Req) (va : Nat) (w : Bool) :
    (translate s r va w).2 = { s with mem := (translate s r va w).2.mem, hbms := (translate s r va w).2.hbms } := by
  unfold translate
  split
  · rfl
  · split
    · rfl
    · rename_i e _
      rw [walked_frame, noteWalk_eq]

theorem locate_frame (r : Req) (va : W64) (w : Bool) :
    (locate s r va w).2 = { s with mem := (locate s r va w).2.mem, hbms := (locate s r va w).2.hbms } := by
  have h := translate_frame (s := s) r va.toNat w
  unfold locate
  split
  · rfl
  · split
    · rfl
    · revert h
      generalize translate s r va.toNat w = x
      intro h
      obtain ⟨t, s1⟩ := x
      cases t <;> exact h

theorem findAny_frame {st : StrandId} {tlb : Nat} {va : W64} {w : Bool} {g : Target} {leaf : W64}
    (h : findAny st tlb va w s = .ok (g, leaf) u) : u = { s with mem := u.mem, hbms := u.hbms } := by
  have h1 : (if s.ctx.id.kind = .clove then (locateClove s s.ctx.id.die va, s) else locate s (s.reqOf st tlb) va w).2 =
      { s with mem := (if s.ctx.id.kind = .clove then (locateClove s s.ctx.id.die va, s) else locate s (s.reqOf st tlb) va w).2.mem,
               hbms := (if s.ctx.id.kind = .clove then (locateClove s s.ctx.id.die va, s) else locate s (s.reqOf st tlb) va w).2.hbms } := by
    split
    · rfl
    · exact locate_frame _ _ _
  unfold findAny at h
  rw [bind_get] at h
  revert h1 h
  generalize (if s.ctx.id.kind = .clove then (locateClove s s.ctx.id.die va, s) else locate s (s.reqOf st tlb) va w) = x
  intro h h1
  obtain ⟨f, s1⟩ := x
  dsimp only at h h1
  rw [bind_set] at h
  cases f with
  | at_ t l => injection h with h2 h3; rw [← h3]; exact h1
  | pageFault => injection h
  | violation k => injection h

/-- An access that finds its target has left everything else as it was. -/
theorem findT_frame {st : StrandId} {tlb : Nat} {va : W64} {w : Bool} {g : Target} {leaf : W64}
    (h : findT st tlb va w s = .ok (g, leaf) u) : u = { s with mem := u.mem, hbms := u.hbms } := by
  unfold findT at h
  cases h1 : findAny st tlb va w s with
  | error e t => rw [bind_error h1] at h; injection h
  | ok x t =>
    obtain ⟨t0, l0⟩ := x
    rw [bind_ok h1] at h
    dsimp only at h
    rw [bind_get] at h
    have h2 := findAny_frame h1
    cases t0 with
    | regs d o =>
      dsimp only at h
      split at h
      · injection h with h3 h4; rw [← h4]; exact h2
      · injection h
    | _ => injection h with h3 h4; rw [← h4]; exact h2

/-- A scalar load that reaches its target and is not held up. -/
theorem loadM_ok {i : Instr} {d a : Reg} {off : BitVec 12} {n : Nat} {ext : Nat → W64} {g : Target} {leaf : W64}
    (hA : Allowed s i) (hr : Reaches s (s.getX a + sext64 off) n false g leaf u) (ho : Open u g n)
    (hp : Sound u g n) :
    run (loadM i d a off n ext) s = .next ((u.afterRead g n).setX d (ext (natOfBytes (u.readT g n).1.data))) := by
  obtain ⟨h1, h2, h3, h4⟩ := hr
  have hu : u.strand = s.strand := by rw [findT_frame h4]
  refine run_ok (u := ()) ?_
  unfold loadM
  rw [bind_ok (enter_ok hA.1 hA.2), bind_get]
  dsimp only
  rw [bind_ok (checkAddr_ok h1 h2), bind_ok (tilesDone_ok h3), bind_ok h4]
  dsimp only
  rw [← hu, bind_ok (readM_ok ho.1 ho.2.1 ho.2.2 hp)]
  rfl

/-- Registers read alike before and after the translation. -/
theorem Reaches.getX {va : W64} {n : Nat} {w : Bool} {g : Target} {leaf : W64} (h : Reaches s va n w g leaf u) (r : Reg) :
    u.getX r = s.getX r := by
  have h1 := findT_frame h.2.2.2
  exact getX_congr (by rw [h1]) (by rw [h1]) (by rw [h1]) (by rw [h1]) r

/-- What an atomic leaves at its place. -/
def State.swapped (u : State) (g : Target) (n : Nat) (new : Option Nat) : State :=
  match new with
  | some v => (u.readT g n).2.writeT g (bytesOfNat n v)
  | none => (u.readT g n).2

theorem swapM_ok {va : W64} {g : Target} {n : Nat} {f : Nat → Option Nat} (h0 : ∀ k o, g ≠ .regs k o) (ho : Open u g n)
    (hp : (u.readT g n).1.poison = false) :
    swapM va g n f u = .ok (natOfBytes (u.readT g n).1.data) (u.swapped g n (f (natOfBytes (u.readT g n).1.data))) := by
  obtain ⟨o1, o2, o3⟩ := ho
  unfold swapM State.swapped
  rw [bind_get]
  cases g with
  | regs k o => exact absurd rfl (h0 k o)
  | _ =>
    dsimp only
    simp only [bind_ok (clearFor_ok o1 o2), bind_ok (checkLink_ok o3), bind_set, hp, Bool.false_eq_true, ↓reduceIte]
    cases f (natOfBytes (u.readT _ n).1.data) <;> simp

theorem amoAddr_ok {i : Instr} {a : Reg} {n : Nat} {g : Target} {leaf : W64} (hA : Allowed s i)
    (hr : Reaches s (s.getX a) n true g leaf u) : amoAddr i a n s = .ok (s.getX a, g, leaf) u := by
  obtain ⟨h1, h2, h3, h4⟩ := hr
  unfold amoAddr
  rw [bind_ok (enter_ok hA.1 hA.2), bind_get]
  dsimp only
  rw [bind_ok (checkAddr_ok h1 h2), bind_ok (tilesDone_ok h3), bind_ok h4]
  rfl

/-- The old value as an integer atomic returns it. -/
def amoBack (z : AmoSize) (old : Nat) : W64 :=
  match z with
  | .w => sext64 (BitVec.ofNat 32 old)
  | .d => BitVec.ofNat 64 old

/-- An integer atomic that reaches its target and is not held up. -/
theorem amoM_ok {i : Instr} {d a b : Reg} {z : AmoSize} {f : Nat → Nat → Nat → Option Nat} {g : Target} {leaf : W64}
    (hA : Allowed s i) (hr : Reaches s (s.getX a) (amoBytes z) true g leaf u) (h0 : ∀ k o, g ≠ .regs k o)
    (ho : Open u g (amoBytes z)) (hp : (u.readT g (amoBytes z)).1.poison = false) :
    run (amoM i d a b z f) s = .next ((u.swapped g (amoBytes z)
      ((f (natOfBytes (u.readT g (amoBytes z)).1.data) ((s.getX b).toNat % 2 ^ (8 * amoBytes z))
        ((s.getX d).toNat % 2 ^ (8 * amoBytes z))).map (· % 2 ^ (8 * amoBytes z)))).setX d
      (amoBack z (natOfBytes (u.readT g (amoBytes z)).1.data))) := by
  refine run_ok (u := ()) ?_
  unfold amoM
  rw [bind_ok (amoAddr_ok hA hr)]
  dsimp only
  rw [bind_get, bind_ok (swapM_ok h0 ho hp)]
  simp only [hr.getX, wx_run]
  cases z <;> rfl

/-- A floating atomic on a page that defers no adds. -/
theorem faddM_ok {i : Instr} {d a b : Reg} {bf : Bool} {g : Target} {leaf : W64} (hA : Allowed s i)
    (hr : Reaches s (s.getX a) 4 true g leaf u) (h0 : ∀ k o, g ≠ .regs k o) (hl : bitsAt leaf 12 1 = 0) (ho : Open u g 4)
    (hp : (u.readT g 4).1.poison = false) :
    run (faddM i d a b bf) s = .next ((u.swapped g 4
      (some (faddWord bf (BitVec.ofNat 32 (natOfBytes (u.readT g 4).1.data)) ((s.getX b).setWidth 32)).toNat)).setX d
      (BitVec.ofNat 64 (natOfBytes (u.readT g 4).1.data))) := by
  refine run_ok (u := ()) ?_
  unfold faddM
  rw [bind_ok (amoAddr_ok hA hr)]
  dsimp only
  rw [bind_get]
  have h1 : (u.ctx.id.kind != .clove && !isScratch (s.getX a) && bitsAt leaf 12 1 == 1) = false := by rw [hl]; simp
  simp only [h1, hr.getX, Bool.false_and, Bool.false_eq_true, ↓reduceIte]
  unfold faddNow
  cases g with
  | regs k o => exact absurd rfl (h0 k o)
  | _ => rw [bind_ok (swapM_ok h0 ho hp)]; rfl

end Sys2Proof.Machine
end

