-- ==== Sys2Proof/Laws/State.lean ====
section
/-! SUPPORT. One lemma for each field under each update of the state: an update changes its own field and no other. -/

namespace Sys2Proof.Machine

variable (s : State)

/-! `State.modCtx` -/

@[simp] theorem State.modCtx_part (f : Ctx → Ctx) : (s.modCtx f).part = s.part := rfl
@[simp] theorem State.modCtx_cycle (f : Ctx → Ctx) : (s.modCtx f).cycle = s.cycle := rfl
@[simp] theorem State.modCtx_strand (f : Ctx → Ctx) : (s.modCtx f).strand = s.strand := rfl
@[simp] theorem State.modCtx_others (f : Ctx → Ctx) : (s.modCtx f).others = s.others := rfl
@[simp] theorem State.modCtx_cores (f : Ctx → Ctx) : (s.modCtx f).cores = s.cores := rfl
@[simp] theorem State.modCtx_clusters (f : Ctx → Ctx) : (s.modCtx f).clusters = s.clusters := rfl
@[simp] theorem State.modCtx_dies (f : Ctx → Ctx) : (s.modCtx f).dies = s.dies := rfl
@[simp] theorem State.modCtx_hbms (f : Ctx → Ctx) : (s.modCtx f).hbms = s.hbms := rfl
@[simp] theorem State.modCtx_mem (f : Ctx → Ctx) : (s.modCtx f).mem = s.mem := rfl
@[simp] theorem State.modCtx_hostPorts (f : Ctx → Ctx) : (s.modCtx f).hostPorts = s.hostPorts := rfl
@[simp] theorem State.modCtx_peerPorts (f : Ctx → Ctx) : (s.modCtx f).peerPorts = s.peerPorts := rfl
@[simp] theorem State.modCtx_downLinks (f : Ctx → Ctx) : (s.modCtx f).downLinks = s.downLinks := rfl
@[simp] theorem State.modCtx_tasks (f : Ctx → Ctx) : (s.modCtx f).tasks = s.tasks := rfl
@[simp] theorem State.modCtx_barriers (f : Ctx → Ctx) : (s.modCtx f).barriers = s.barriers := rfl
@[simp] theorem State.modCtx_nextTask (f : Ctx → Ctx) : (s.modCtx f).nextTask = s.nextTask := rfl
@[simp] theorem State.modCtx_agenda (f : Ctx → Ctx) : (s.modCtx f).agenda = s.agenda := rfl
@[simp] theorem State.modCtx_round (f : Ctx → Ctx) : (s.modCtx f).round = s.round := rfl
@[simp] theorem State.modCtx_issue (f : Ctx → Ctx) : (s.modCtx f).issue = s.issue := rfl
@[simp] theorem State.modCtx_asker (f : Ctx → Ctx) : (s.modCtx f).asker = s.asker := rfl
@[simp] theorem State.modCtx_free (f : Ctx → Ctx) : (s.modCtx f).free = s.free := rfl

/-! `State.modMe` -/

@[simp] theorem State.modMe_part (f : Strand → Strand) : (s.modMe f).part = s.part := rfl
@[simp] theorem State.modMe_cycle (f : Strand → Strand) : (s.modMe f).cycle = s.cycle := rfl
@[simp] theorem State.modMe_strand (f : Strand → Strand) : (s.modMe f).strand = s.strand := rfl
@[simp] theorem State.modMe_others (f : Strand → Strand) : (s.modMe f).others = s.others := rfl
@[simp] theorem State.modMe_cores (f : Strand → Strand) : (s.modMe f).cores = s.cores := rfl
@[simp] theorem State.modMe_clusters (f : Strand → Strand) : (s.modMe f).clusters = s.clusters := rfl
@[simp] theorem State.modMe_dies (f : Strand → Strand) : (s.modMe f).dies = s.dies := rfl
@[simp] theorem State.modMe_hbms (f : Strand → Strand) : (s.modMe f).hbms = s.hbms := rfl
@[simp] theorem State.modMe_mem (f : Strand → Strand) : (s.modMe f).mem = s.mem := rfl
@[simp] theorem State.modMe_hostPorts (f : Strand → Strand) : (s.modMe f).hostPorts = s.hostPorts := rfl
@[simp] theorem State.modMe_peerPorts (f : Strand → Strand) : (s.modMe f).peerPorts = s.peerPorts := rfl
@[simp] theorem State.modMe_downLinks (f : Strand → Strand) : (s.modMe f).downLinks = s.downLinks := rfl
@[simp] theorem State.modMe_tasks (f : Strand → Strand) : (s.modMe f).tasks = s.tasks := rfl
@[simp] theorem State.modMe_barriers (f : Strand → Strand) : (s.modMe f).barriers = s.barriers := rfl
@[simp] theorem State.modMe_nextTask (f : Strand → Strand) : (s.modMe f).nextTask = s.nextTask := rfl
@[simp] theorem State.modMe_agenda (f : Strand → Strand) : (s.modMe f).agenda = s.agenda := rfl
@[simp] theorem State.modMe_round (f : Strand → Strand) : (s.modMe f).round = s.round := rfl
@[simp] theorem State.modMe_issue (f : Strand → Strand) : (s.modMe f).issue = s.issue := rfl
@[simp] theorem State.modMe_asker (f : Strand → Strand) : (s.modMe f).asker = s.asker := rfl
@[simp] theorem State.modMe_free (f : Strand → Strand) : (s.modMe f).free = s.free := rfl

/-! `State.setCluster` -/

@[simp] theorem State.setCluster_part (c : Nat) (x : Cluster) : (s.setCluster c x).part = s.part := rfl
@[simp] theorem State.setCluster_cycle (c : Nat) (x : Cluster) : (s.setCluster c x).cycle = s.cycle := rfl
@[simp] theorem State.setCluster_strand (c : Nat) (x : Cluster) : (s.setCluster c x).strand = s.strand := rfl
@[simp] theorem State.setCluster_others (c : Nat) (x : Cluster) : (s.setCluster c x).others = s.others := rfl
@[simp] theorem State.setCluster_cores (c : Nat) (x : Cluster) : (s.setCluster c x).cores = s.cores := rfl
@[simp] theorem State.setCluster_dies (c : Nat) (x : Cluster) : (s.setCluster c x).dies = s.dies := rfl
@[simp] theorem State.setCluster_hbms (c : Nat) (x : Cluster) : (s.setCluster c x).hbms = s.hbms := rfl
@[simp] theorem State.setCluster_mem (c : Nat) (x : Cluster) : (s.setCluster c x).mem = s.mem := rfl
@[simp] theorem State.setCluster_hostPorts (c : Nat) (x : Cluster) : (s.setCluster c x).hostPorts = s.hostPorts := rfl
@[simp] theorem State.setCluster_peerPorts (c : Nat) (x : Cluster) : (s.setCluster c x).peerPorts = s.peerPorts := rfl
@[simp] theorem State.setCluster_downLinks (c : Nat) (x : Cluster) : (s.setCluster c x).downLinks = s.downLinks := rfl
@[simp] theorem State.setCluster_tasks (c : Nat) (x : Cluster) : (s.setCluster c x).tasks = s.tasks := rfl
@[simp] theorem State.setCluster_barriers (c : Nat) (x : Cluster) : (s.setCluster c x).barriers = s.barriers := rfl
@[simp] theorem State.setCluster_nextTask (c : Nat) (x : Cluster) : (s.setCluster c x).nextTask = s.nextTask := rfl
@[simp] theorem State.setCluster_agenda (c : Nat) (x : Cluster) : (s.setCluster c x).agenda = s.agenda := rfl
@[simp] theorem State.setCluster_round (c : Nat) (x : Cluster) : (s.setCluster c x).round = s.round := rfl
@[simp] theorem State.setCluster_issue (c : Nat) (x : Cluster) : (s.setCluster c x).issue = s.issue := rfl
@[simp] theorem State.setCluster_asker (c : Nat) (x : Cluster) : (s.setCluster c x).asker = s.asker := rfl
@[simp] theorem State.setCluster_free (c : Nat) (x : Cluster) : (s.setCluster c x).free = s.free := rfl
@[simp] theorem State.setCluster_ctx (c : Nat) (x : Cluster) : (s.setCluster c x).ctx = s.ctx := rfl

/-! `State.setCore` -/

@[simp] theorem State.setCore_part (n : Nat) (x : Core) : (s.setCore n x).part = s.part := rfl
@[simp] theorem State.setCore_cycle (n : Nat) (x : Core) : (s.setCore n x).cycle = s.cycle := rfl
@[simp] theorem State.setCore_strand (n : Nat) (x : Core) : (s.setCore n x).strand = s.strand := rfl
@[simp] theorem State.setCore_others (n : Nat) (x : Core) : (s.setCore n x).others = s.others := rfl
@[simp] theorem State.setCore_clusters (n : Nat) (x : Core) : (s.setCore n x).clusters = s.clusters := rfl
@[simp] theorem State.setCore_dies (n : Nat) (x : Core) : (s.setCore n x).dies = s.dies := rfl
@[simp] theorem State.setCore_hbms (n : Nat) (x : Core) : (s.setCore n x).hbms = s.hbms := rfl
@[simp] theorem State.setCore_mem (n : Nat) (x : Core) : (s.setCore n x).mem = s.mem := rfl
@[simp] theorem State.setCore_hostPorts (n : Nat) (x : Core) : (s.setCore n x).hostPorts = s.hostPorts := rfl
@[simp] theorem State.setCore_peerPorts (n : Nat) (x : Core) : (s.setCore n x).peerPorts = s.peerPorts := rfl
@[simp] theorem State.setCore_downLinks (n : Nat) (x : Core) : (s.setCore n x).downLinks = s.downLinks := rfl
@[simp] theorem State.setCore_tasks (n : Nat) (x : Core) : (s.setCore n x).tasks = s.tasks := rfl
@[simp] theorem State.setCore_barriers (n : Nat) (x : Core) : (s.setCore n x).barriers = s.barriers := rfl
@[simp] theorem State.setCore_nextTask (n : Nat) (x : Core) : (s.setCore n x).nextTask = s.nextTask := rfl
@[simp] theorem State.setCore_agenda (n : Nat) (x : Core) : (s.setCore n x).agenda = s.agenda := rfl
@[simp] theorem State.setCore_round (n : Nat) (x : Core) : (s.setCore n x).round = s.round := rfl
@[simp] theorem State.setCore_issue (n : Nat) (x : Core) : (s.setCore n x).issue = s.issue := rfl
@[simp] theorem State.setCore_asker (n : Nat) (x : Core) : (s.setCore n x).asker = s.asker := rfl
@[simp] theorem State.setCore_free (n : Nat) (x : Core) : (s.setCore n x).free = s.free := rfl
@[simp] theorem State.setCore_ctx (n : Nat) (x : Core) : (s.setCore n x).ctx = s.ctx := rfl

/-! `State.setDie` -/

@[simp] theorem State.setDie_part (d : Nat) (x : Die) : (s.setDie d x).part = s.part := rfl
@[simp] theorem State.setDie_cycle (d : Nat) (x : Die) : (s.setDie d x).cycle = s.cycle := rfl
@[simp] theorem State.setDie_strand (d : Nat) (x : Die) : (s.setDie d x).strand = s.strand := rfl
@[simp] theorem State.setDie_others (d : Nat) (x : Die) : (s.setDie d x).others = s.others := rfl
@[simp] theorem State.setDie_cores (d : Nat) (x : Die) : (s.setDie d x).cores = s.cores := rfl
@[simp] theorem State.setDie_clusters (d : Nat) (x : Die) : (s.setDie d x).clusters = s.clusters := rfl
@[simp] theorem State.setDie_hbms (d : Nat) (x : Die) : (s.setDie d x).hbms = s.hbms := rfl
@[simp] theorem State.setDie_mem (d : Nat) (x : Die) : (s.setDie d x).mem = s.mem := rfl
@[simp] theorem State.setDie_hostPorts (d : Nat) (x : Die) : (s.setDie d x).hostPorts = s.hostPorts := rfl
@[simp] theorem State.setDie_peerPorts (d : Nat) (x : Die) : (s.setDie d x).peerPorts = s.peerPorts := rfl
@[simp] theorem State.setDie_downLinks (d : Nat) (x : Die) : (s.setDie d x).downLinks = s.downLinks := rfl
@[simp] theorem State.setDie_tasks (d : Nat) (x : Die) : (s.setDie d x).tasks = s.tasks := rfl
@[simp] theorem State.setDie_barriers (d : Nat) (x : Die) : (s.setDie d x).barriers = s.barriers := rfl
@[simp] theorem State.setDie_nextTask (d : Nat) (x : Die) : (s.setDie d x).nextTask = s.nextTask := rfl
@[simp] theorem State.setDie_agenda (d : Nat) (x : Die) : (s.setDie d x).agenda = s.agenda := rfl
@[simp] theorem State.setDie_round (d : Nat) (x : Die) : (s.setDie d x).round = s.round := rfl
@[simp] theorem State.setDie_issue (d : Nat) (x : Die) : (s.setDie d x).issue = s.issue := rfl
@[simp] theorem State.setDie_asker (d : Nat) (x : Die) : (s.setDie d x).asker = s.asker := rfl
@[simp] theorem State.setDie_free (d : Nat) (x : Die) : (s.setDie d x).free = s.free := rfl
@[simp] theorem State.setDie_ctx (d : Nat) (x : Die) : (s.setDie d x).ctx = s.ctx := rfl

/-! `State.setStack` -/

@[simp] theorem State.setStack_part (k : Nat) (x : Stack) : (s.setStack k x).part = s.part := rfl
@[simp] theorem State.setStack_cycle (k : Nat) (x : Stack) : (s.setStack k x).cycle = s.cycle := rfl
@[simp] theorem State.setStack_strand (k : Nat) (x : Stack) : (s.setStack k x).strand = s.strand := rfl
@[simp] theorem State.setStack_others (k : Nat) (x : Stack) : (s.setStack k x).others = s.others := rfl
@[simp] theorem State.setStack_cores (k : Nat) (x : Stack) : (s.setStack k x).cores = s.cores := rfl
@[simp] theorem State.setStack_clusters (k : Nat) (x : Stack) : (s.setStack k x).clusters = s.clusters := rfl
@[simp] theorem State.setStack_dies (k : Nat) (x : Stack) : (s.setStack k x).dies = s.dies := rfl
@[simp] theorem State.setStack_mem (k : Nat) (x : Stack) : (s.setStack k x).mem = s.mem := rfl
@[simp] theorem State.setStack_hostPorts (k : Nat) (x : Stack) : (s.setStack k x).hostPorts = s.hostPorts := rfl
@[simp] theorem State.setStack_peerPorts (k : Nat) (x : Stack) : (s.setStack k x).peerPorts = s.peerPorts := rfl
@[simp] theorem State.setStack_downLinks (k : Nat) (x : Stack) : (s.setStack k x).downLinks = s.downLinks := rfl
@[simp] theorem State.setStack_tasks (k : Nat) (x : Stack) : (s.setStack k x).tasks = s.tasks := rfl
@[simp] theorem State.setStack_barriers (k : Nat) (x : Stack) : (s.setStack k x).barriers = s.barriers := rfl
@[simp] theorem State.setStack_nextTask (k : Nat) (x : Stack) : (s.setStack k x).nextTask = s.nextTask := rfl
@[simp] theorem State.setStack_agenda (k : Nat) (x : Stack) : (s.setStack k x).agenda = s.agenda := rfl
@[simp] theorem State.setStack_round (k : Nat) (x : Stack) : (s.setStack k x).round = s.round := rfl
@[simp] theorem State.setStack_issue (k : Nat) (x : Stack) : (s.setStack k x).issue = s.issue := rfl
@[simp] theorem State.setStack_asker (k : Nat) (x : Stack) : (s.setStack k x).asker = s.asker := rfl
@[simp] theorem State.setStack_free (k : Nat) (x : Stack) : (s.setStack k x).free = s.free := rfl
@[simp] theorem State.setStack_ctx (k : Nat) (x : Stack) : (s.setStack k x).ctx = s.ctx := rfl

/-! `State.noteTask` -/

@[simp] theorem State.noteTask_part (t : Nat) (st ca : BitVec 8) (it : W32) (pc : W64) : (s.noteTask t st ca it pc).part = s.part := rfl
@[simp] theorem State.noteTask_cycle (t : Nat) (st ca : BitVec 8) (it : W32) (pc : W64) : (s.noteTask t st ca it pc).cycle = s.cycle := rfl
@[simp] theorem State.noteTask_strand (t : Nat) (st ca : BitVec 8) (it : W32) (pc : W64) : (s.noteTask t st ca it pc).strand = s.strand := rfl
@[simp] theorem State.noteTask_others (t : Nat) (st ca : BitVec 8) (it : W32) (pc : W64) : (s.noteTask t st ca it pc).others = s.others := rfl
@[simp] theorem State.noteTask_cores (t : Nat) (st ca : BitVec 8) (it : W32) (pc : W64) : (s.noteTask t st ca it pc).cores = s.cores := rfl
@[simp] theorem State.noteTask_clusters (t : Nat) (st ca : BitVec 8) (it : W32) (pc : W64) : (s.noteTask t st ca it pc).clusters = s.clusters := rfl
@[simp] theorem State.noteTask_dies (t : Nat) (st ca : BitVec 8) (it : W32) (pc : W64) : (s.noteTask t st ca it pc).dies = s.dies := rfl
@[simp] theorem State.noteTask_hbms (t : Nat) (st ca : BitVec 8) (it : W32) (pc : W64) : (s.noteTask t st ca it pc).hbms = s.hbms := rfl
@[simp] theorem State.noteTask_mem (t : Nat) (st ca : BitVec 8) (it : W32) (pc : W64) : (s.noteTask t st ca it pc).mem = s.mem := rfl
@[simp] theorem State.noteTask_hostPorts (t : Nat) (st ca : BitVec 8) (it : W32) (pc : W64) : (s.noteTask t st ca it pc).hostPorts = s.hostPorts := rfl
@[simp] theorem State.noteTask_peerPorts (t : Nat) (st ca : BitVec 8) (it : W32) (pc : W64) : (s.noteTask t st ca it pc).peerPorts = s.peerPorts := rfl
@[simp] theorem State.noteTask_downLinks (t : Nat) (st ca : BitVec 8) (it : W32) (pc : W64) : (s.noteTask t st ca it pc).downLinks = s.downLinks := rfl
@[simp] theorem State.noteTask_barriers (t : Nat) (st ca : BitVec 8) (it : W32) (pc : W64) : (s.noteTask t st ca it pc).barriers = s.barriers := rfl
@[simp] theorem State.noteTask_nextTask (t : Nat) (st ca : BitVec 8) (it : W32) (pc : W64) : (s.noteTask t st ca it pc).nextTask = s.nextTask := rfl
@[simp] theorem State.noteTask_agenda (t : Nat) (st ca : BitVec 8) (it : W32) (pc : W64) : (s.noteTask t st ca it pc).agenda = s.agenda := rfl
@[simp] theorem State.noteTask_round (t : Nat) (st ca : BitVec 8) (it : W32) (pc : W64) : (s.noteTask t st ca it pc).round = s.round := rfl
@[simp] theorem State.noteTask_issue (t : Nat) (st ca : BitVec 8) (it : W32) (pc : W64) : (s.noteTask t st ca it pc).issue = s.issue := rfl
@[simp] theorem State.noteTask_asker (t : Nat) (st ca : BitVec 8) (it : W32) (pc : W64) : (s.noteTask t st ca it pc).asker = s.asker := rfl
@[simp] theorem State.noteTask_free (t : Nat) (st ca : BitVec 8) (it : W32) (pc : W64) : (s.noteTask t st ca it pc).free = s.free := rfl
@[simp] theorem State.noteTask_ctx (t : Nat) (st ca : BitVec 8) (it : W32) (pc : W64) : (s.noteTask t st ca it pc).ctx = s.ctx := rfl

/-! `State.orFlags` -/

@[simp] theorem State.orFlags_part (f : Fl) : (s.orFlags f).part = s.part := rfl
@[simp] theorem State.orFlags_cycle (f : Fl) : (s.orFlags f).cycle = s.cycle := rfl
@[simp] theorem State.orFlags_strand (f : Fl) : (s.orFlags f).strand = s.strand := rfl
@[simp] theorem State.orFlags_others (f : Fl) : (s.orFlags f).others = s.others := rfl
@[simp] theorem State.orFlags_cores (f : Fl) : (s.orFlags f).cores = s.cores := rfl
@[simp] theorem State.orFlags_clusters (f : Fl) : (s.orFlags f).clusters = s.clusters := rfl
@[simp] theorem State.orFlags_dies (f : Fl) : (s.orFlags f).dies = s.dies := rfl
@[simp] theorem State.orFlags_hbms (f : Fl) : (s.orFlags f).hbms = s.hbms := rfl
@[simp] theorem State.orFlags_mem (f : Fl) : (s.orFlags f).mem = s.mem := rfl
@[simp] theorem State.orFlags_hostPorts (f : Fl) : (s.orFlags f).hostPorts = s.hostPorts := rfl
@[simp] theorem State.orFlags_peerPorts (f : Fl) : (s.orFlags f).peerPorts = s.peerPorts := rfl
@[simp] theorem State.orFlags_downLinks (f : Fl) : (s.orFlags f).downLinks = s.downLinks := rfl
@[simp] theorem State.orFlags_tasks (f : Fl) : (s.orFlags f).tasks = s.tasks := rfl
@[simp] theorem State.orFlags_barriers (f : Fl) : (s.orFlags f).barriers = s.barriers := rfl
@[simp] theorem State.orFlags_nextTask (f : Fl) : (s.orFlags f).nextTask = s.nextTask := rfl
@[simp] theorem State.orFlags_agenda (f : Fl) : (s.orFlags f).agenda = s.agenda := rfl
@[simp] theorem State.orFlags_round (f : Fl) : (s.orFlags f).round = s.round := rfl
@[simp] theorem State.orFlags_issue (f : Fl) : (s.orFlags f).issue = s.issue := rfl
@[simp] theorem State.orFlags_asker (f : Fl) : (s.orFlags f).asker = s.asker := rfl
@[simp] theorem State.orFlags_free (f : Fl) : (s.orFlags f).free = s.free := rfl

/-! `State.jumpTo` -/

@[simp] theorem State.jumpTo_part (t : W64) : (s.jumpTo t).part = s.part := rfl
@[simp] theorem State.jumpTo_cycle (t : W64) : (s.jumpTo t).cycle = s.cycle := rfl
@[simp] theorem State.jumpTo_strand (t : W64) : (s.jumpTo t).strand = s.strand := rfl
@[simp] theorem State.jumpTo_others (t : W64) : (s.jumpTo t).others = s.others := rfl
@[simp] theorem State.jumpTo_cores (t : W64) : (s.jumpTo t).cores = s.cores := rfl
@[simp] theorem State.jumpTo_clusters (t : W64) : (s.jumpTo t).clusters = s.clusters := rfl
@[simp] theorem State.jumpTo_dies (t : W64) : (s.jumpTo t).dies = s.dies := rfl
@[simp] theorem State.jumpTo_hbms (t : W64) : (s.jumpTo t).hbms = s.hbms := rfl
@[simp] theorem State.jumpTo_mem (t : W64) : (s.jumpTo t).mem = s.mem := rfl
@[simp] theorem State.jumpTo_hostPorts (t : W64) : (s.jumpTo t).hostPorts = s.hostPorts := rfl
@[simp] theorem State.jumpTo_peerPorts (t : W64) : (s.jumpTo t).peerPorts = s.peerPorts := rfl
@[simp] theorem State.jumpTo_downLinks (t : W64) : (s.jumpTo t).downLinks = s.downLinks := rfl
@[simp] theorem State.jumpTo_tasks (t : W64) : (s.jumpTo t).tasks = s.tasks := rfl
@[simp] theorem State.jumpTo_barriers (t : W64) : (s.jumpTo t).barriers = s.barriers := rfl
@[simp] theorem State.jumpTo_nextTask (t : W64) : (s.jumpTo t).nextTask = s.nextTask := rfl
@[simp] theorem State.jumpTo_agenda (t : W64) : (s.jumpTo t).agenda = s.agenda := rfl
@[simp] theorem State.jumpTo_round (t : W64) : (s.jumpTo t).round = s.round := rfl
@[simp] theorem State.jumpTo_asker (t : W64) : (s.jumpTo t).asker = s.asker := rfl
@[simp] theorem State.jumpTo_free (t : W64) : (s.jumpTo t).free = s.free := rfl

/-! `State.haltAll` -/

@[simp] theorem State.haltAll_part  : s.haltAll.part = s.part := rfl
@[simp] theorem State.haltAll_cycle  : s.haltAll.cycle = s.cycle := rfl
@[simp] theorem State.haltAll_strand  : s.haltAll.strand = s.strand := rfl
@[simp] theorem State.haltAll_others  : s.haltAll.others = s.others := rfl
@[simp] theorem State.haltAll_cores  : s.haltAll.cores = s.cores := rfl
@[simp] theorem State.haltAll_clusters  : s.haltAll.clusters = s.clusters := rfl
@[simp] theorem State.haltAll_dies  : s.haltAll.dies = s.dies := rfl
@[simp] theorem State.haltAll_hbms  : s.haltAll.hbms = s.hbms := rfl
@[simp] theorem State.haltAll_mem  : s.haltAll.mem = s.mem := rfl
@[simp] theorem State.haltAll_hostPorts  : s.haltAll.hostPorts = s.hostPorts := rfl
@[simp] theorem State.haltAll_peerPorts  : s.haltAll.peerPorts = s.peerPorts := rfl
@[simp] theorem State.haltAll_downLinks  : s.haltAll.downLinks = s.downLinks := rfl
@[simp] theorem State.haltAll_tasks  : s.haltAll.tasks = s.tasks := rfl
@[simp] theorem State.haltAll_barriers  : s.haltAll.barriers = s.barriers := rfl
@[simp] theorem State.haltAll_nextTask  : s.haltAll.nextTask = s.nextTask := rfl
@[simp] theorem State.haltAll_agenda  : s.haltAll.agenda = s.agenda := rfl
@[simp] theorem State.haltAll_round  : s.haltAll.round = s.round := rfl
@[simp] theorem State.haltAll_issue  : s.haltAll.issue = s.issue := rfl
@[simp] theorem State.haltAll_asker  : s.haltAll.asker = s.asker := rfl
@[simp] theorem State.haltAll_free  : s.haltAll.free = s.free := rfl

/-! `State.completeWaits` -/

@[simp] theorem State.completeWaits_part  : s.completeWaits.part = s.part := rfl
@[simp] theorem State.completeWaits_cycle  : s.completeWaits.cycle = s.cycle := rfl
@[simp] theorem State.completeWaits_strand  : s.completeWaits.strand = s.strand := rfl
@[simp] theorem State.completeWaits_others  : s.completeWaits.others = s.others := rfl
@[simp] theorem State.completeWaits_cores  : s.completeWaits.cores = s.cores := rfl
@[simp] theorem State.completeWaits_clusters  : s.completeWaits.clusters = s.clusters := rfl
@[simp] theorem State.completeWaits_dies  : s.completeWaits.dies = s.dies := rfl
@[simp] theorem State.completeWaits_hbms  : s.completeWaits.hbms = s.hbms := rfl
@[simp] theorem State.completeWaits_mem  : s.completeWaits.mem = s.mem := rfl
@[simp] theorem State.completeWaits_hostPorts  : s.completeWaits.hostPorts = s.hostPorts := rfl
@[simp] theorem State.completeWaits_peerPorts  : s.completeWaits.peerPorts = s.peerPorts := rfl
@[simp] theorem State.completeWaits_downLinks  : s.completeWaits.downLinks = s.downLinks := rfl
@[simp] theorem State.completeWaits_tasks  : s.completeWaits.tasks = s.tasks := rfl
@[simp] theorem State.completeWaits_barriers  : s.completeWaits.barriers = s.barriers := rfl
@[simp] theorem State.completeWaits_nextTask  : s.completeWaits.nextTask = s.nextTask := rfl
@[simp] theorem State.completeWaits_agenda  : s.completeWaits.agenda = s.agenda := rfl
@[simp] theorem State.completeWaits_round  : s.completeWaits.round = s.round := rfl
@[simp] theorem State.completeWaits_issue  : s.completeWaits.issue = s.issue := rfl
@[simp] theorem State.completeWaits_asker  : s.completeWaits.asker = s.asker := rfl
@[simp] theorem State.completeWaits_free  : s.completeWaits.free = s.free := rfl

@[simp] theorem State.modCtx_ctx (f : Ctx → Ctx) : (s.modCtx f).ctx = f s.ctx := rfl
@[simp] theorem State.modMe_ctx (f : Strand → Strand) : (s.modMe f).ctx = s.ctx.modStr s.strand f := rfl
@[simp] theorem State.jumpTo_taken (t : W64) : (s.jumpTo t).issue.taken = true := rfl
@[simp] theorem State.setCluster_clusters (c : Nat) (x : Cluster) :
    (s.setCluster c x).clusters = Cells.set Cluster.reset s.clusters c x := rfl
@[simp] theorem State.setCore_cores (n : Nat) (x : Core) : (s.setCore n x).cores = Cells.set Core.reset s.cores n x := rfl
@[simp] theorem State.setDie_dies (d : Nat) (x : Die) : (s.setDie d x).dies = Cells.set Die.reset s.dies d x := rfl
@[simp] theorem State.setStack_hbms (k : Nat) (x : Stack) : (s.setStack k x).hbms = Cells.set Stack.reset s.hbms k x := rfl

variable (c : Ctx)

/-! Strands of a context -/

@[simp] theorem Ctx.str_L : c.str .L = c.l := rfl
@[simp] theorem Ctx.str_C : c.str .C = c.c := rfl
@[simp] theorem Ctx.str_S : c.str .S = c.s := rfl
@[simp] theorem Ctx.str_K : c.str .K = c.k := rfl
@[simp] theorem Ctx.str_setStr (k : StrandId) (x : Strand) : (c.setStr k x).str k = x := by cases k <;> rfl
theorem Ctx.str_setStr_ne {j k : StrandId} (h : j ≠ k) (x : Strand) : (c.setStr k x).str j = c.str j := by
  cases j <;> cases k <;> first | rfl | exact absurd rfl h
@[simp] theorem Ctx.setStr_id (k : StrandId) (x : Strand) : (c.setStr k x).id = c.id := by cases k <;> rfl
@[simp] theorem Ctx.setStr_comp (k : StrandId) (x : Strand) : (c.setStr k x).comp = c.comp := by cases k <;> rfl
@[simp] theorem Ctx.setStr_q (k : StrandId) (x : Strand) : (c.setStr k x).q = c.q := by cases k <;> rfl
@[simp] theorem Ctx.setStr_csr (k : StrandId) (x : Strand) : (c.setStr k x).csr = c.csr := by cases k <;> rfl
@[simp] theorem Ctx.setStr_trap (k : StrandId) (x : Strand) : (c.setStr k x).trap = c.trap := by cases k <;> rfl
@[simp] theorem Ctx.setStr_eng (k : StrandId) (x : Strand) : (c.setStr k x).eng = c.eng := by cases k <;> rfl
@[simp] theorem Ctx.setStr_tsu (k : StrandId) (x : Strand) : (c.setStr k x).tsu = c.tsu := by cases k <;> rfl
@[simp] theorem Ctx.setStr_loads (k : StrandId) (x : Strand) : (c.setStr k x).loads = c.loads := by cases k <;> rfl
@[simp] theorem Ctx.setStr_holds (k : StrandId) (x : Strand) : (c.setStr k x).holds = c.holds := by cases k <;> rfl
@[simp] theorem Ctx.setStr_window (k : StrandId) (x : Strand) : (c.setStr k x).window = c.window := by cases k <;> rfl
@[simp] theorem Ctx.setStr_deque (k : StrandId) (x : Strand) : (c.setStr k x).deque = c.deque := by cases k <;> rfl
@[simp] theorem Ctx.setStr_dequeAt (k : StrandId) (x : Strand) : (c.setStr k x).dequeAt = c.dequeAt := by cases k <;> rfl
@[simp] theorem Ctx.setStr_fault (k : StrandId) (x : Strand) : (c.setStr k x).fault = c.fault := by cases k <;> rfl
@[simp] theorem Ctx.setStr_sqAt (k : StrandId) (x : Strand) : (c.setStr k x).sqAt = c.sqAt := by cases k <;> rfl
@[simp] theorem Ctx.setStr_replaying (k : StrandId) (x : Strand) : (c.setStr k x).replaying = c.replaying := by cases k <;> rfl
@[simp] theorem Ctx.setStr_slotRun (k : StrandId) (x : Strand) : (c.setStr k x).slotRun = c.slotRun := by cases k <;> rfl
@[simp] theorem Ctx.setStr_cstq (k : StrandId) (x : Strand) : (c.setStr k x).cstq = c.cstq := by cases k <;> rfl
@[simp] theorem Ctx.setStr_tst (k : StrandId) (x : Strand) : (c.setStr k x).tst = c.tst := by cases k <;> rfl
@[simp] theorem Ctx.setStr_deadlock (k : StrandId) (x : Strand) : (c.setStr k x).deadlock = c.deadlock := by cases k <;> rfl
@[simp] theorem Ctx.setStr_wdog (k : StrandId) (x : Strand) : (c.setStr k x).wdog = c.wdog := by cases k <;> rfl
@[simp] theorem Ctx.setStr_wdogLimit (k : StrandId) (x : Strand) : (c.setStr k x).wdogLimit = c.wdogLimit := by cases k <;> rfl
@[simp] theorem Ctx.setStr_barGen (k : StrandId) (x : Strand) : (c.setStr k x).barGen = c.barGen := by cases k <;> rfl
@[simp] theorem Ctx.setStr_setup (k : StrandId) (x : Strand) : (c.setStr k x).setup = c.setup := by cases k <;> rfl
@[simp] theorem Ctx.setStr_leaving (k : StrandId) (x : Strand) : (c.setStr k x).leaving = c.leaving := by cases k <;> rfl
@[simp] theorem Ctx.setStr_stopReq (k : StrandId) (x : Strand) : (c.setStr k x).stopReq = c.stopReq := by cases k <;> rfl
@[simp] theorem Ctx.setStr_hint (k : StrandId) (x : Strand) : (c.setStr k x).hint = c.hint := by cases k <;> rfl
@[simp] theorem Ctx.modStr_id (k : StrandId) (f : Strand → Strand) : (c.modStr k f).id = c.id := by cases k <;> rfl
@[simp] theorem Ctx.modStr_comp (k : StrandId) (f : Strand → Strand) : (c.modStr k f).comp = c.comp := by cases k <;> rfl
@[simp] theorem Ctx.modStr_q (k : StrandId) (f : Strand → Strand) : (c.modStr k f).q = c.q := by cases k <;> rfl
@[simp] theorem Ctx.modStr_csr (k : StrandId) (f : Strand → Strand) : (c.modStr k f).csr = c.csr := by cases k <;> rfl
@[simp] theorem Ctx.modStr_trap (k : StrandId) (f : Strand → Strand) : (c.modStr k f).trap = c.trap := by cases k <;> rfl
@[simp] theorem Ctx.modStr_eng (k : StrandId) (f : Strand → Strand) : (c.modStr k f).eng = c.eng := by cases k <;> rfl
@[simp] theorem Ctx.modStr_tsu (k : StrandId) (f : Strand → Strand) : (c.modStr k f).tsu = c.tsu := by cases k <;> rfl
@[simp] theorem Ctx.modStr_loads (k : StrandId) (f : Strand → Strand) : (c.modStr k f).loads = c.loads := by cases k <;> rfl
@[simp] theorem Ctx.modStr_holds (k : StrandId) (f : Strand → Strand) : (c.modStr k f).holds = c.holds := by cases k <;> rfl
@[simp] theorem Ctx.modStr_window (k : StrandId) (f : Strand → Strand) : (c.modStr k f).window = c.window := by cases k <;> rfl
@[simp] theorem Ctx.modStr_deque (k : StrandId) (f : Strand → Strand) : (c.modStr k f).deque = c.deque := by cases k <;> rfl
@[simp] theorem Ctx.modStr_dequeAt (k : StrandId) (f : Strand → Strand) : (c.modStr k f).dequeAt = c.dequeAt := by cases k <;> rfl
@[simp] theorem Ctx.modStr_fault (k : StrandId) (f : Strand → Strand) : (c.modStr k f).fault = c.fault := by cases k <;> rfl
@[simp] theorem Ctx.modStr_sqAt (k : StrandId) (f : Strand → Strand) : (c.modStr k f).sqAt = c.sqAt := by cases k <;> rfl
@[simp] theorem Ctx.modStr_replaying (k : StrandId) (f : Strand → Strand) : (c.modStr k f).replaying = c.replaying := by cases k <;> rfl
@[simp] theorem Ctx.modStr_slotRun (k : StrandId) (f : Strand → Strand) : (c.modStr k f).slotRun = c.slotRun := by cases k <;> rfl
@[simp] theorem Ctx.modStr_cstq (k : StrandId) (f : Strand → Strand) : (c.modStr k f).cstq = c.cstq := by cases k <;> rfl
@[simp] theorem Ctx.modStr_tst (k : StrandId) (f : Strand → Strand) : (c.modStr k f).tst = c.tst := by cases k <;> rfl
@[simp] theorem Ctx.modStr_deadlock (k : StrandId) (f : Strand → Strand) : (c.modStr k f).deadlock = c.deadlock := by cases k <;> rfl
@[simp] theorem Ctx.modStr_wdog (k : StrandId) (f : Strand → Strand) : (c.modStr k f).wdog = c.wdog := by cases k <;> rfl
@[simp] theorem Ctx.modStr_wdogLimit (k : StrandId) (f : Strand → Strand) : (c.modStr k f).wdogLimit = c.wdogLimit := by cases k <;> rfl
@[simp] theorem Ctx.modStr_barGen (k : StrandId) (f : Strand → Strand) : (c.modStr k f).barGen = c.barGen := by cases k <;> rfl
@[simp] theorem Ctx.modStr_setup (k : StrandId) (f : Strand → Strand) : (c.modStr k f).setup = c.setup := by cases k <;> rfl
@[simp] theorem Ctx.modStr_leaving (k : StrandId) (f : Strand → Strand) : (c.modStr k f).leaving = c.leaving := by cases k <;> rfl
@[simp] theorem Ctx.modStr_stopReq (k : StrandId) (f : Strand → Strand) : (c.modStr k f).stopReq = c.stopReq := by cases k <;> rfl
@[simp] theorem Ctx.modStr_hint (k : StrandId) (f : Strand → Strand) : (c.modStr k f).hint = c.hint := by cases k <;> rfl
@[simp] theorem Ctx.str_modStr (k : StrandId) (f : Strand → Strand) : (c.modStr k f).str k = f (c.str k) := by cases k <;> rfl
theorem Ctx.str_modStr_ne {j k : StrandId} (h : j ≠ k) (f : Strand → Strand) : (c.modStr k f).str j = c.str j :=
  Ctx.str_setStr_ne c h _

/-! `State.setX`: a write of a scalar register changes at most the acting strand -/

@[simp] theorem State.setX_part (r : Reg) (v : W64) (t : Bool) : (s.setX r v t).part = s.part := by
  unfold State.setX; repeat' split
  all_goals rfl
@[simp] theorem State.setX_cycle (r : Reg) (v : W64) (t : Bool) : (s.setX r v t).cycle = s.cycle := by
  unfold State.setX; repeat' split
  all_goals rfl
@[simp] theorem State.setX_strand (r : Reg) (v : W64) (t : Bool) : (s.setX r v t).strand = s.strand := by
  unfold State.setX; repeat' split
  all_goals rfl
@[simp] theorem State.setX_others (r : Reg) (v : W64) (t : Bool) : (s.setX r v t).others = s.others := by
  unfold State.setX; repeat' split
  all_goals rfl
@[simp] theorem State.setX_cores (r : Reg) (v : W64) (t : Bool) : (s.setX r v t).cores = s.cores := by
  unfold State.setX; repeat' split
  all_goals rfl
@[simp] theorem State.setX_clusters (r : Reg) (v : W64) (t : Bool) : (s.setX r v t).clusters = s.clusters := by
  unfold State.setX; repeat' split
  all_goals rfl
@[simp] theorem State.setX_dies (r : Reg) (v : W64) (t : Bool) : (s.setX r v t).dies = s.dies := by
  unfold State.setX; repeat' split
  all_goals rfl
@[simp] theorem State.setX_hbms (r : Reg) (v : W64) (t : Bool) : (s.setX r v t).hbms = s.hbms := by
  unfold State.setX; repeat' split
  all_goals rfl
@[simp] theorem State.setX_mem (r : Reg) (v : W64) (t : Bool) : (s.setX r v t).mem = s.mem := by
  unfold State.setX; repeat' split
  all_goals rfl
@[simp] theorem State.setX_hostPorts (r : Reg) (v : W64) (t : Bool) : (s.setX r v t).hostPorts = s.hostPorts := by
  unfold State.setX; repeat' split
  all_goals rfl
@[simp] theorem State.setX_peerPorts (r : Reg) (v : W64) (t : Bool) : (s.setX r v t).peerPorts = s.peerPorts := by
  unfold State.setX; repeat' split
  all_goals rfl
@[simp] theorem State.setX_downLinks (r : Reg) (v : W64) (t : Bool) : (s.setX r v t).downLinks = s.downLinks := by
  unfold State.setX; repeat' split
  all_goals rfl
@[simp] theorem State.setX_tasks (r : Reg) (v : W64) (t : Bool) : (s.setX r v t).tasks = s.tasks := by
  unfold State.setX; repeat' split
  all_goals rfl
@[simp] theorem State.setX_barriers (r : Reg) (v : W64) (t : Bool) : (s.setX r v t).barriers = s.barriers := by
  unfold State.setX; repeat' split
  all_goals rfl
@[simp] theorem State.setX_nextTask (r : Reg) (v : W64) (t : Bool) : (s.setX r v t).nextTask = s.nextTask := by
  unfold State.setX; repeat' split
  all_goals rfl
@[simp] theorem State.setX_agenda (r : Reg) (v : W64) (t : Bool) : (s.setX r v t).agenda = s.agenda := by
  unfold State.setX; repeat' split
  all_goals rfl
@[simp] theorem State.setX_round (r : Reg) (v : W64) (t : Bool) : (s.setX r v t).round = s.round := by
  unfold State.setX; repeat' split
  all_goals rfl
@[simp] theorem State.setX_issue (r : Reg) (v : W64) (t : Bool) : (s.setX r v t).issue = s.issue := by
  unfold State.setX; repeat' split
  all_goals rfl
@[simp] theorem State.setX_asker (r : Reg) (v : W64) (t : Bool) : (s.setX r v t).asker = s.asker := by
  unfold State.setX; repeat' split
  all_goals rfl
@[simp] theorem State.setX_free (r : Reg) (v : W64) (t : Bool) : (s.setX r v t).free = s.free := by
  unfold State.setX; repeat' split
  all_goals rfl

end Sys2Proof.Machine
end

