-- ==== Sys2Proof/Laws/Bytes.lean ====
section
/-! SUPPORT. What a read of memory depends on: the memory itself, the scratchpads and the dies' registers and private
memories, and nothing else of the state. -/

namespace Sys2Proof.Machine

variable {s t : State}

@[simp] theorem State.noteRequest_mem (s : State) (k : Nat) : (s.noteRequest k).mem = s.mem := by
  rfl
@[simp] theorem State.noteRequest_clusters (s : State) (k : Nat) : (s.noteRequest k).clusters = s.clusters := by
  rfl
@[simp] theorem State.noteRequest_dies (s : State) (k : Nat) : (s.noteRequest k).dies = s.dies := by
  rfl
@[simp] theorem State.noteMiss_mem (s : State) (k : Nat) (d : Bool) : (s.noteMiss k d).mem = s.mem := by
  unfold State.noteMiss; split <;> simp
@[simp] theorem State.noteMiss_clusters (s : State) (k : Nat) (d : Bool) : (s.noteMiss k d).clusters = s.clusters := by
  unfold State.noteMiss; split <;> simp
@[simp] theorem State.noteMiss_dies (s : State) (k : Nat) (d : Bool) : (s.noteMiss k d).dies = s.dies := by
  unfold State.noteMiss; split <;> simp

/-- What a read of a target returns depends on memory, scratchpads and dies alone. -/
theorem readT_congr (hm : t.mem = s.mem) (hc : t.clusters = s.clusters) (hd : t.dies = s.dies) (g : Target) (n : Nat) :
    (t.readT g n).1 = (s.readT g n).1 := by
  have h1 : ∀ d, t.die d = s.die d := fun d => by unfold State.die; rw [hd]
  have h2 : ∀ c, t.cluster c = s.cluster c := fun c => by unfold State.cluster; rw [hc]
  cases g with
  | scratch c o => simp only [State.readT, h2]
  | hbm k b c d => simp only [State.readT, State.noteMiss_mem, hm]; split <;> rfl
  | host a => simp only [State.readT, hm]
  | peer d w a => simp only [State.readT, State.peerByte, hm, h1]
  | regs d o => simp only [State.readT, State.dieWord, h1]
  | priv d o => simp only [State.readT, h1]

/-- States that agree in memory, scratchpads and dies read alike. -/
theorem sameBytes_of (hm : t.mem = s.mem) (hc : t.clusters = s.clusters) (hd : t.dies = s.dies) : SameBytes s t :=
  fun g => by rw [readT_congr hm hc hd]

theorem SameBytes.rfl (s : State) : SameBytes s s := fun _ => Eq.refl _
theorem SameBytes.trans {a b c : State} (h1 : SameBytes a b) (h2 : SameBytes b c) : SameBytes a c := fun g => (h2 g).trans (h1 g)

end Sys2Proof.Machine
end

