-- ==== Sys2Proof/Laws/PerInstr.lean ====
section
/-! SUPPORT. The family EncodeFits, instruction by instruction: the encoder gives only words that exist. A short word has its
stop bit clear and a major opcode below 56; a long instruction has one of the long major opcodes and 56 field bits (11 R265,
R266). -/

namespace Sys2Proof

/-- A code whose numbers fit its words. -/
def Code.fits : Code → Prop
  | .short w => w < 2 ^ 31 ∧ fld w 25 6 < 56
  | .long maj v => 56 ≤ maj ∧ maj < 64 ∧ v < 2 ^ 56

theorem bit_lt (b : Bool) : bit b < 2 := by cases b <;> decide
theorem Scope.code_lt (x : Scope) : x.code < 8 := by cases x <;> decide
theorem BarScope.code_lt (x : BarScope) : x.code < 32 := by cases x <;> decide
theorem EngClass.code_lt (x : EngClass) : x.code < 32 := by cases x <;> decide
theorem TWidth.code_lt (x : TWidth) : x.code < 4 := by cases x <;> decide
theorem StSize.code_lt (x : StSize) : x.code < 8 := by cases x <;> decide
theorem AmoSize.code_lt (x : AmoSize) : x.code < 4 := by cases x <;> decide
theorem Cond.code_lt (x : Cond) : x.code < 512 := by cases x <;> decide
theorem SpecialFn.code_lt (x : SpecialFn) : x.code < 512 := by cases x <;> decide
theorem View.code_lt (x : View) : x.code < 4 := by cases x <;> decide
theorem IxSrc.code_lt (x : IxSrc) : x.code < 3 := by cases x <;> decide

theorem QName.code_lt (x : QName) : x.code < 32 := by
  cases x with
  | lq q | sq q | mq q | tf q => have := q.isLt; simp only [QName.code]; omega

theorem TSrc.code_lt (x : TSrc) : x.code < 512 := by
  cases x with
  | tile r v i => have := r.isLt; have := v.code_lt; have := i.code_lt; simp only [TSrc.code]; omega
  | lq q p | mq q p => have := q.isLt; have := bit_lt p; simp only [TSrc.code]; omega

theorem TDst.code_lt (x : TDst) : x.code < 512 := by
  cases x with
  | tile r v i => have := r.isLt; have := v.code_lt; have := i.code_lt; simp only [TDst.code]; omega
  | sq q => have := q.isLt; simp only [TDst.code]; omega

variable {c : Code} {maj body fn : Nat} {d a b e : Reg}

theorem mkShort_fits (h : maj < 56) (hb : body < 2 ^ 25) : (mkShort maj body).fits := by
  simp only [mkShort, Code.fits, fld]; omega

theorem rr_fits (h : fn < 64) : (rr d a b fn).fits := by
  have := d.isLt; have := a.isLt; have := b.isLt; exact mkShort_fits (by decide) (by omega)

theorem ri_fits (h : maj < 56) (hl : body < 2 ^ 15) : (ri maj d a body).fits := by
  have := d.isLt; have := a.isLt; exact mkShort_fits h (by omega)

theorem jf_fits {m : BitVec 20} (h : maj < 56) : (jf maj d m).fits := by
  have := d.isLt; have := m.isLt; exact mkShort_fits h (by omega)

theorem amoCode_fits {z : AmoSize} (h : fn < 16) : (amoCode d a b fn z).fits := by
  have := d.isLt; have := a.isLt; have := b.isLt; have := z.code_lt; exact mkShort_fits (by decide) (by omega)

theorem fenceCode_fits {sc : Scope} (h : fn < 8) : (fenceCode fn sc a).fits := by
  have := sc.code_lt; have := a.isLt; exact mkShort_fits (by decide) (by omega)

theorem sysCode_fits (h : fn < 32) (hl : body < 2 ^ 10) : (sysCode fn d a body).fits := by
  have := d.isLt; have := a.isLt; exact mkShort_fits (by decide) (by omega)

theorem qopCode_fits {q n : Nat} {pk : Bool} (h : fn < 8) (hq : q < 32) (hn : n < 2 ^ 11) : (qopCode fn a q pk n).fits := by
  have := a.isLt; have := bit_lt pk; exact mkShort_fits (by decide) (by omega)

theorem cxCode_fits {unit xb : Nat} {reply : Bool} (h : unit < 8) (hf : fn < 128) (hx : xb < 32) :
    (cxCode unit fn reply d a xb).fits := by
  have := d.isLt; have := a.isLt; have := bit_lt reply; exact mkShort_fits (by omega) (by omega)

theorem cxOpt_fits {unit xb : Nat} {o : Option Reg} (h : unit < 8) (hf : fn < 128) (hx : xb < 32) :
    (cxOpt unit fn o a xb).fits := cxCode_fits h hf hx

theorem tileCode_fits {h : TileHd} {td ta tb tc : Nat} (h1 : 56 ≤ maj ∧ maj < 64) (hf : fn < 256) (hd : td < 512)
    (ha : ta < 512) (hb : tb < 512) (hc : tc < 512) : (tileCode maj fn h td ta tb tc).fits := by
  have := h.qp.isLt; have := h.np.isLt; exact ⟨h1.1, h1.2, by omega⟩

theorem mmaCode_fits {qp : BitVec 4} {acc : BitVec 5} {slot : BitVec 2} {ft : Bool} {d1 d2 : BitVec 6} {np : BitVec 8}
    (h : fn < 16) : (mmaCode fn qp acc a b slot ft d1 d2 np).fits := by
  have := qp.isLt; have := acc.isLt; have := a.isLt; have := b.isLt; have := slot.isLt; have := bit_lt ft
  have := d1.isLt; have := d2.isLt; have := np.isLt
  exact ⟨by decide, by decide, by omega⟩

theorem nbCode_fits {rows d1 d2 : BitVec 6} {np : BitVec 8} (h : fn < 16) : (nbCode fn d a b e rows d1 d2 np).fits := by
  have := d.isLt; have := a.isLt; have := b.isLt; have := e.isLt; have := rows.isLt; have := d1.isLt; have := d2.isLt
  have := np.isLt
  exact ⟨by decide, by decide, by omega⟩

end Sys2Proof

namespace Sys2Proof.Laws.EncodeFits

/-- The words the encoder gives an instruction exist. -/
def Statement (i : Instr) : Prop := ∀ c, encode i = some c → c.fits

theorem of_eq {i : Instr} {c : Code} (h : encode i = some c) (f : c.fits) : Statement i := by
  intro x hx; rw [h] at hx; cases hx; exact f

theorem of_none {i : Instr} (h : encode i = none) : Statement i := by
  intro x hx; rw [h] at hx; cases hx

end Sys2Proof.Laws.EncodeFits

theorem Sys2Proof.Laws.EncodeFits.add (d : Reg) (a : Reg) (b : Reg) : Statement (.add d a b) :=
  of_eq rfl (rr_fits (by decide))
theorem Sys2Proof.Laws.EncodeFits.sub (d : Reg) (a : Reg) (b : Reg) : Statement (.sub d a b) :=
  of_eq rfl (rr_fits (by decide))
theorem Sys2Proof.Laws.EncodeFits.mul (d : Reg) (a : Reg) (b : Reg) : Statement (.mul d a b) :=
  of_eq rfl (rr_fits (by decide))
theorem Sys2Proof.Laws.EncodeFits.mulh (d : Reg) (a : Reg) (b : Reg) : Statement (.mulh d a b) :=
  of_eq rfl (rr_fits (by decide))
theorem Sys2Proof.Laws.EncodeFits.mulhu (d : Reg) (a : Reg) (b : Reg) : Statement (.mulhu d a b) :=
  of_eq rfl (rr_fits (by decide))
theorem Sys2Proof.Laws.EncodeFits.div (d : Reg) (a : Reg) (b : Reg) : Statement (.div d a b) :=
  of_eq rfl (rr_fits (by decide))
theorem Sys2Proof.Laws.EncodeFits.divu (d : Reg) (a : Reg) (b : Reg) : Statement (.divu d a b) :=
  of_eq rfl (rr_fits (by decide))
theorem Sys2Proof.Laws.EncodeFits.rem (d : Reg) (a : Reg) (b : Reg) : Statement (.rem d a b) :=
  of_eq rfl (rr_fits (by decide))
theorem Sys2Proof.Laws.EncodeFits.remu (d : Reg) (a : Reg) (b : Reg) : Statement (.remu d a b) :=
  of_eq rfl (rr_fits (by decide))
theorem Sys2Proof.Laws.EncodeFits.and (d : Reg) (a : Reg) (b : Reg) : Statement (.and d a b) :=
  of_eq rfl (rr_fits (by decide))
theorem Sys2Proof.Laws.EncodeFits.or (d : Reg) (a : Reg) (b : Reg) : Statement (.or d a b) :=
  of_eq rfl (rr_fits (by decide))
theorem Sys2Proof.Laws.EncodeFits.xor (d : Reg) (a : Reg) (b : Reg) : Statement (.xor d a b) :=
  of_eq rfl (rr_fits (by decide))
theorem Sys2Proof.Laws.EncodeFits.shl (d : Reg) (a : Reg) (b : Reg) : Statement (.shl d a b) :=
  of_eq rfl (rr_fits (by decide))
theorem Sys2Proof.Laws.EncodeFits.shr (d : Reg) (a : Reg) (b : Reg) : Statement (.shr d a b) :=
  of_eq rfl (rr_fits (by decide))
theorem Sys2Proof.Laws.EncodeFits.shra (d : Reg) (a : Reg) (b : Reg) : Statement (.shra d a b) :=
  of_eq rfl (rr_fits (by decide))
theorem Sys2Proof.Laws.EncodeFits.slt (d : Reg) (a : Reg) (b : Reg) : Statement (.slt d a b) :=
  of_eq rfl (rr_fits (by decide))
theorem Sys2Proof.Laws.EncodeFits.sltu (d : Reg) (a : Reg) (b : Reg) : Statement (.sltu d a b) :=
  of_eq rfl (rr_fits (by decide))
theorem Sys2Proof.Laws.EncodeFits.min (d : Reg) (a : Reg) (b : Reg) : Statement (.min d a b) :=
  of_eq rfl (rr_fits (by decide))
theorem Sys2Proof.Laws.EncodeFits.max (d : Reg) (a : Reg) (b : Reg) : Statement (.max d a b) :=
  of_eq rfl (rr_fits (by decide))
theorem Sys2Proof.Laws.EncodeFits.minu (d : Reg) (a : Reg) (b : Reg) : Statement (.minu d a b) :=
  of_eq rfl (rr_fits (by decide))
theorem Sys2Proof.Laws.EncodeFits.maxu (d : Reg) (a : Reg) (b : Reg) : Statement (.maxu d a b) :=
  of_eq rfl (rr_fits (by decide))
theorem Sys2Proof.Laws.EncodeFits.clz (d : Reg) (a : Reg) : Statement (.clz d a) :=
  of_eq rfl (rr_fits (by decide))
theorem Sys2Proof.Laws.EncodeFits.popc (d : Reg) (a : Reg) : Statement (.popc d a) :=
  of_eq rfl (rr_fits (by decide))
theorem Sys2Proof.Laws.EncodeFits.addi (d : Reg) (a : Reg) (m : BitVec 15) : Statement (.addi d a m) :=
  of_eq rfl (ri_fits (by decide) (by have := d.isLt; have := a.isLt; have := m.isLt; omega))
theorem Sys2Proof.Laws.EncodeFits.andi (d : Reg) (a : Reg) (m : BitVec 15) : Statement (.andi d a m) :=
  of_eq rfl (ri_fits (by decide) (by have := d.isLt; have := a.isLt; have := m.isLt; omega))
theorem Sys2Proof.Laws.EncodeFits.ori (d : Reg) (a : Reg) (m : BitVec 15) : Statement (.ori d a m) :=
  of_eq rfl (ri_fits (by decide) (by have := d.isLt; have := a.isLt; have := m.isLt; omega))
theorem Sys2Proof.Laws.EncodeFits.xori (d : Reg) (a : Reg) (m : BitVec 15) : Statement (.xori d a m) :=
  of_eq rfl (ri_fits (by decide) (by have := d.isLt; have := a.isLt; have := m.isLt; omega))
theorem Sys2Proof.Laws.EncodeFits.slti (d : Reg) (a : Reg) (m : BitVec 15) : Statement (.slti d a m) :=
  of_eq rfl (ri_fits (by decide) (by have := d.isLt; have := a.isLt; have := m.isLt; omega))
theorem Sys2Proof.Laws.EncodeFits.shli (d : Reg) (a : Reg) (n : BitVec 6) : Statement (.shli d a n) :=
  of_eq rfl (ri_fits (by decide) (by have := d.isLt; have := a.isLt; have := n.isLt; omega))
theorem Sys2Proof.Laws.EncodeFits.shri (d : Reg) (a : Reg) (n : BitVec 6) : Statement (.shri d a n) :=
  of_eq rfl (ri_fits (by decide) (by have := d.isLt; have := a.isLt; have := n.isLt; omega))
theorem Sys2Proof.Laws.EncodeFits.shrai (d : Reg) (a : Reg) (n : BitVec 6) : Statement (.shrai d a n) :=
  of_eq rfl (ri_fits (by decide) (by have := d.isLt; have := a.isLt; have := n.isLt; omega))
theorem Sys2Proof.Laws.EncodeFits.lih (d : Reg) (m : BitVec 20) : Statement (.lih d m) :=
  of_eq rfl (jf_fits (by decide))
theorem Sys2Proof.Laws.EncodeFits.beq (a : Reg) (b : Reg) (o : BitVec 15) : Statement (.beq a b o) :=
  of_eq rfl (ri_fits (by decide) (by have := a.isLt; have := b.isLt; have := o.isLt; omega))
theorem Sys2Proof.Laws.EncodeFits.bne (a : Reg) (b : Reg) (o : BitVec 15) : Statement (.bne a b o) :=
  of_eq rfl (ri_fits (by decide) (by have := a.isLt; have := b.isLt; have := o.isLt; omega))
theorem Sys2Proof.Laws.EncodeFits.blt (a : Reg) (b : Reg) (o : BitVec 15) : Statement (.blt a b o) :=
  of_eq rfl (ri_fits (by decide) (by have := a.isLt; have := b.isLt; have := o.isLt; omega))
theorem Sys2Proof.Laws.EncodeFits.bge (a : Reg) (b : Reg) (o : BitVec 15) : Statement (.bge a b o) :=
  of_eq rfl (ri_fits (by decide) (by have := a.isLt; have := b.isLt; have := o.isLt; omega))
theorem Sys2Proof.Laws.EncodeFits.bltu (a : Reg) (b : Reg) (o : BitVec 15) : Statement (.bltu a b o) :=
  of_eq rfl (ri_fits (by decide) (by have := a.isLt; have := b.isLt; have := o.isLt; omega))
theorem Sys2Proof.Laws.EncodeFits.bgeu (a : Reg) (b : Reg) (o : BitVec 15) : Statement (.bgeu a b o) :=
  of_eq rfl (ri_fits (by decide) (by have := a.isLt; have := b.isLt; have := o.isLt; omega))
theorem Sys2Proof.Laws.EncodeFits.jal (d : Reg) (m : BitVec 20) : Statement (.jal d m) :=
  of_eq rfl (jf_fits (by decide))
theorem Sys2Proof.Laws.EncodeFits.jalr (d : Reg) (a : Reg) (m : BitVec 15) : Statement (.jalr d a m) :=
  of_eq rfl (ri_fits (by decide) (by have := d.isLt; have := a.isLt; have := m.isLt; omega))
theorem Sys2Proof.Laws.EncodeFits.ldB (d : Reg) (a : Reg) (o : BitVec 12) : Statement (.ldB d a o) :=
  of_eq rfl (ri_fits (by decide) (by have := d.isLt; have := a.isLt; have := o.isLt; omega))
theorem Sys2Proof.Laws.EncodeFits.ldH (d : Reg) (a : Reg) (o : BitVec 12) : Statement (.ldH d a o) :=
  of_eq rfl (ri_fits (by decide) (by have := d.isLt; have := a.isLt; have := o.isLt; omega))
theorem Sys2Proof.Laws.EncodeFits.ldW (d : Reg) (a : Reg) (o : BitVec 12) : Statement (.ldW d a o) :=
  of_eq rfl (ri_fits (by decide) (by have := d.isLt; have := a.isLt; have := o.isLt; omega))
theorem Sys2Proof.Laws.EncodeFits.ldD (d : Reg) (a : Reg) (o : BitVec 12) : Statement (.ldD d a o) :=
  of_eq rfl (ri_fits (by decide) (by have := d.isLt; have := a.isLt; have := o.isLt; omega))
theorem Sys2Proof.Laws.EncodeFits.ldBz (d : Reg) (a : Reg) (o : BitVec 12) : Statement (.ldBz d a o) :=
  of_eq rfl (ri_fits (by decide) (by have := d.isLt; have := a.isLt; have := o.isLt; omega))
theorem Sys2Proof.Laws.EncodeFits.ldHz (d : Reg) (a : Reg) (o : BitVec 12) : Statement (.ldHz d a o) :=
  of_eq rfl (ri_fits (by decide) (by have := d.isLt; have := a.isLt; have := o.isLt; omega))
theorem Sys2Proof.Laws.EncodeFits.ldWz (d : Reg) (a : Reg) (o : BitVec 12) : Statement (.ldWz d a o) :=
  of_eq rfl (ri_fits (by decide) (by have := d.isLt; have := a.isLt; have := o.isLt; omega))
theorem Sys2Proof.Laws.EncodeFits.st (s : Reg) (a : Reg) (z : StSize) (o : BitVec 12) : Statement (.st s a z o) :=
  of_eq rfl (ri_fits (by decide) (by have := s.isLt; have := a.isLt; have := z.code_lt; have := o.isLt; omega))
theorem Sys2Proof.Laws.EncodeFits.amoAdd (d : Reg) (a : Reg) (b : Reg) (z : AmoSize) : Statement (.amoAdd d a b z) :=
  of_eq rfl (amoCode_fits (by decide))
theorem Sys2Proof.Laws.EncodeFits.amoMin (d : Reg) (a : Reg) (b : Reg) (z : AmoSize) : Statement (.amoMin d a b z) :=
  of_eq rfl (amoCode_fits (by decide))
theorem Sys2Proof.Laws.EncodeFits.amoMax (d : Reg) (a : Reg) (b : Reg) (z : AmoSize) : Statement (.amoMax d a b z) :=
  of_eq rfl (amoCode_fits (by decide))
theorem Sys2Proof.Laws.EncodeFits.amoMinu (d : Reg) (a : Reg) (b : Reg) (z : AmoSize) : Statement (.amoMinu d a b z) :=
  of_eq rfl (amoCode_fits (by decide))
theorem Sys2Proof.Laws.EncodeFits.amoMaxu (d : Reg) (a : Reg) (b : Reg) (z : AmoSize) : Statement (.amoMaxu d a b z) :=
  of_eq rfl (amoCode_fits (by decide))
theorem Sys2Proof.Laws.EncodeFits.amoAnd (d : Reg) (a : Reg) (b : Reg) (z : AmoSize) : Statement (.amoAnd d a b z) :=
  of_eq rfl (amoCode_fits (by decide))
theorem Sys2Proof.Laws.EncodeFits.amoOr (d : Reg) (a : Reg) (b : Reg) (z : AmoSize) : Statement (.amoOr d a b z) :=
  of_eq rfl (amoCode_fits (by decide))
theorem Sys2Proof.Laws.EncodeFits.amoXor (d : Reg) (a : Reg) (b : Reg) (z : AmoSize) : Statement (.amoXor d a b z) :=
  of_eq rfl (amoCode_fits (by decide))
theorem Sys2Proof.Laws.EncodeFits.amoSwap (d : Reg) (a : Reg) (b : Reg) (z : AmoSize) : Statement (.amoSwap d a b z) :=
  of_eq rfl (amoCode_fits (by decide))
theorem Sys2Proof.Laws.EncodeFits.amoCas (d : Reg) (a : Reg) (b : Reg) (z : AmoSize) : Statement (.amoCas d a b z) :=
  of_eq rfl (amoCode_fits (by decide))
theorem Sys2Proof.Laws.EncodeFits.amoFaddF32 (d : Reg) (a : Reg) (b : Reg) : Statement (.amoFaddF32 d a b) :=
  of_eq rfl (amoCode_fits (by decide))
theorem Sys2Proof.Laws.EncodeFits.amoFaddBf16 (d : Reg) (a : Reg) (b : Reg) : Statement (.amoFaddBf16 d a b) :=
  of_eq rfl (amoCode_fits (by decide))
theorem Sys2Proof.Laws.EncodeFits.fence (sc : Scope) : Statement (.fence sc) :=
  of_eq rfl (fenceCode_fits (by decide))
theorem Sys2Proof.Laws.EncodeFits.bfence (sc : Scope) : Statement (.bfence sc) :=
  of_eq rfl (fenceCode_fits (by decide))
theorem Sys2Proof.Laws.EncodeFits.clInv (sc : Scope) (a : Reg) : Statement (.clInv sc a) :=
  of_eq rfl (fenceCode_fits (by decide))
theorem Sys2Proof.Laws.EncodeFits.clWb (sc : Scope) (a : Reg) : Statement (.clWb sc a) :=
  of_eq rfl (fenceCode_fits (by decide))
theorem Sys2Proof.Laws.EncodeFits.clWbi (sc : Scope) (a : Reg) : Statement (.clWbi sc a) :=
  of_eq rfl (fenceCode_fits (by decide))
theorem Sys2Proof.Laws.EncodeFits.tlbInv (sc : Scope) (a : Reg) : Statement (.tlbInv sc a) :=
  of_eq rfl (fenceCode_fits (by decide))
theorem Sys2Proof.Laws.EncodeFits.loop (a : Reg) (e : BitVec 15) : Statement (.loop a e) :=
  of_eq rfl (mkShort_fits (by decide) (by have := a.isLt; have := e.isLt; omega))
theorem Sys2Proof.Laws.EncodeFits.loopRot (a : Reg) (e : BitVec 15) : Statement (.loopRot a e) :=
  of_eq rfl (mkShort_fits (by decide) (by have := a.isLt; have := e.isLt; omega))
theorem Sys2Proof.Laws.EncodeFits.loopR (two : Bool) (e : BitVec 3) : Statement (.loopR two e) :=
  of_eq rfl (mkShort_fits (by decide) (by have := bit_lt two; have := e.isLt; omega))
theorem Sys2Proof.Laws.EncodeFits.brkL : Statement .brkL :=
  of_eq rfl (mkShort_fits (by decide) (by decide))
theorem Sys2Proof.Laws.EncodeFits.trap (m : BitVec 10) : Statement (.trap m) :=
  of_eq rfl (sysCode_fits (by decide) (by have := m.isLt; omega))
theorem Sys2Proof.Laws.EncodeFits.rett : Statement .rett :=
  of_eq rfl (sysCode_fits (by decide) (by decide))
theorem Sys2Proof.Laws.EncodeFits.wait (m : BitVec 10) : Statement (.wait m) :=
  of_eq rfl (sysCode_fits (by decide) (by have := m.isLt; omega))
theorem Sys2Proof.Laws.EncodeFits.waitExpiry (st : StrandId) : Statement (.waitExpiry st) :=
  of_none rfl
theorem Sys2Proof.Laws.EncodeFits.halt : Statement .halt :=
  of_eq rfl (sysCode_fits (by decide) (by decide))
theorem Sys2Proof.Laws.EncodeFits.nop : Statement .nop :=
  of_eq rfl (sysCode_fits (by decide) (by decide))
theorem Sys2Proof.Laws.EncodeFits.csrRd (d : Reg) (m : BitVec 10) : Statement (.csrRd d m) :=
  of_eq rfl (sysCode_fits (by decide) (by have := d.isLt; have := m.isLt; omega))
theorem Sys2Proof.Laws.EncodeFits.csrWr (d : Reg) (a : Reg) (m : BitVec 10) : Statement (.csrWr d a m) :=
  of_eq rfl (sysCode_fits (by decide) (by have := d.isLt; have := a.isLt; have := m.isLt; omega))
theorem Sys2Proof.Laws.EncodeFits.csrSet (d : Reg) (a : Reg) (m : BitVec 10) : Statement (.csrSet d a m) :=
  of_eq rfl (sysCode_fits (by decide) (by have := d.isLt; have := a.isLt; have := m.isLt; omega))
theorem Sys2Proof.Laws.EncodeFits.csrClr (d : Reg) (a : Reg) (m : BitVec 10) : Statement (.csrClr d a m) :=
  of_eq rfl (sysCode_fits (by decide) (by have := d.isLt; have := a.isLt; have := m.isLt; omega))
theorem Sys2Proof.Laws.EncodeFits.knrd (d : Reg) (k : BitVec 4) : Statement (.knrd d k) :=
  of_eq rfl (sysCode_fits (by decide) (by have := d.isLt; have := k.isLt; omega))
theorem Sys2Proof.Laws.EncodeFits.dbgMark (a : Reg) (m : BitVec 10) : Statement (.dbgMark a m) :=
  of_eq rfl (sysCode_fits (by decide) (by have := a.isLt; have := m.isLt; omega))
theorem Sys2Proof.Laws.EncodeFits.qpush (q : BitVec 3) (x : Reg) : Statement (.qpush q x) :=
  of_eq rfl (qopCode_fits (by decide) (by have := q.isLt; have := x.isLt; omega) (by have := q.isLt; have := x.isLt; omega))
theorem Sys2Proof.Laws.EncodeFits.qpop (x : Reg) (q : BitVec 3) (pk : Bool) : Statement (.qpop x q pk) :=
  of_eq rfl (qopCode_fits (by decide) (by have := x.isLt; have := q.isLt; have := bit_lt pk; omega) (by have := x.isLt; have := q.isLt; have := bit_lt pk; omega))
theorem Sys2Proof.Laws.EncodeFits.tpost (q : BitVec 3) (n : BitVec 8) : Statement (.tpost q n) :=
  of_eq rfl (qopCode_fits (by decide) (by have := q.isLt; have := n.isLt; omega) (by have := q.isLt; have := n.isLt; omega))
theorem Sys2Proof.Laws.EncodeFits.twait (q : BitVec 3) (pk : Bool) (n : BitVec 8) : Statement (.twait q pk n) :=
  of_eq rfl (qopCode_fits (by decide) (by have := q.isLt; have := bit_lt pk; have := n.isLt; omega) (by have := q.isLt; have := bit_lt pk; have := n.isLt; omega))
theorem Sys2Proof.Laws.EncodeFits.qstat (x : Reg) (q : QName) : Statement (.qstat x q) :=
  of_eq rfl (qopCode_fits (by decide) (by have := x.isLt; have := q.code_lt; omega) (by have := x.isLt; have := q.code_lt; omega))
theorem Sys2Proof.Laws.EncodeFits.tld (q : BitVec 2) (a : Reg) (b : Reg) (rows : BitVec 5) (w : TWidth) (zp : Bool) : Statement (.tld q a b rows w zp) :=
  of_eq rfl (mkShort_fits (by decide) (by have := q.isLt; have := a.isLt; have := b.isLt; have := rows.isLt; have := w.code_lt; have := bit_lt zp; omega))
theorem Sys2Proof.Laws.EncodeFits.tldG (q : BitVec 2) (a : Reg) (b : Reg) (m : BitVec 3) (rows : BitVec 5) (w : TWidth) (zp : Bool) : Statement (.tldG q a b m rows w zp) :=
  of_eq rfl (mkShort_fits (by decide) (by have := q.isLt; have := a.isLt; have := b.isLt; have := m.isLt; have := rows.isLt; have := w.code_lt; have := bit_lt zp; omega))
theorem Sys2Proof.Laws.EncodeFits.tileLineArrival (q : BitVec 2) : Statement (.tileLineArrival q) :=
  of_none rfl
theorem Sys2Proof.Laws.EncodeFits.probe (d : Reg) (a : Reg) (o : BitVec 15) : Statement (.probe d a o) :=
  of_eq rfl (ri_fits (by decide) (by have := d.isLt; have := a.isLt; have := o.isLt; omega))
theorem Sys2Proof.Laws.EncodeFits.scwFill (cluster : Nat) (slot : Nat) : Statement (.scwFill cluster slot) :=
  of_none rfl
theorem Sys2Proof.Laws.EncodeFits.scwWriteback (cluster : Nat) (slot : Nat) : Statement (.scwWriteback cluster slot) :=
  of_none rfl
theorem Sys2Proof.Laws.EncodeFits.tst (q : BitVec 1) (a : Reg) (b : Reg) (rows : BitVec 5) (w : TWidth) : Statement (.tst q a b rows w) :=
  of_eq rfl (mkShort_fits (by decide) (by have := q.isLt; have := a.isLt; have := b.isLt; have := rows.isLt; have := w.code_lt; omega))
theorem Sys2Proof.Laws.EncodeFits.cstq (d : Reg) (a : Reg) (b : Reg) (pair : Bool) (w : TWidth) : Statement (.cstq d a b pair w) :=
  of_eq rfl (mkShort_fits (by decide) (by have := d.isLt; have := a.isLt; have := b.isLt; have := bit_lt pair; have := w.code_lt; omega))
theorem Sys2Proof.Laws.EncodeFits.pset (p : BitVec 4) (m : BitVec 16) : Statement (.pset p m) :=
  of_eq rfl (mkShort_fits (by decide) (by have := p.isLt; have := m.isLt; omega))
theorem Sys2Proof.Laws.EncodeFits.plogAnd (d : BitVec 4) (a : BitVec 4) (b : BitVec 4) : Statement (.plogAnd d a b) :=
  of_eq rfl (mkShort_fits (by decide) (by have := d.isLt; have := a.isLt; have := b.isLt; omega))
theorem Sys2Proof.Laws.EncodeFits.plogOr (d : BitVec 4) (a : BitVec 4) (b : BitVec 4) : Statement (.plogOr d a b) :=
  of_eq rfl (mkShort_fits (by decide) (by have := d.isLt; have := a.isLt; have := b.isLt; omega))
theorem Sys2Proof.Laws.EncodeFits.plogXor (d : BitVec 4) (a : BitVec 4) (b : BitVec 4) : Statement (.plogXor d a b) :=
  of_eq rfl (mkShort_fits (by decide) (by have := d.isLt; have := a.isLt; have := b.isLt; omega))
theorem Sys2Proof.Laws.EncodeFits.plogAndn (d : BitVec 4) (a : BitVec 4) (b : BitVec 4) : Statement (.plogAndn d a b) :=
  of_eq rfl (mkShort_fits (by decide) (by have := d.isLt; have := a.isLt; have := b.isLt; omega))
theorem Sys2Proof.Laws.EncodeFits.pmovToP (p : BitVec 4) (x : Reg) : Statement (.pmovToP p x) :=
  of_eq rfl (mkShort_fits (by decide) (by have := p.isLt; have := x.isLt; omega))
theorem Sys2Proof.Laws.EncodeFits.pmovFromP (p : BitVec 4) (x : Reg) : Statement (.pmovFromP p x) :=
  of_eq rfl (mkShort_fits (by decide) (by have := p.isLt; have := x.isLt; omega))
theorem Sys2Proof.Laws.EncodeFits.lset (lb : Bool) (a : Reg) (m : BitVec 6) : Statement (.lset lb a m) :=
  of_eq rfl (mkShort_fits (by decide) (by have := bit_lt lb; have := a.isLt; have := m.isLt; omega))
theorem Sys2Proof.Laws.EncodeFits.trbset (a : Reg) (m : BitVec 4) : Statement (.trbset a m) :=
  of_eq rfl (mkShort_fits (by decide) (by have := a.isLt; have := m.isLt; omega))
theorem Sys2Proof.Laws.EncodeFits.shape (d : Reg) (a : Reg) (slot : BitVec 2) : Statement (.shape d a slot) :=
  of_eq rfl (ri_fits (by decide) (by have := d.isLt; have := a.isLt; have := slot.isLt; omega))
theorem Sys2Proof.Laws.EncodeFits.ceCopy (d : Reg) (a : Reg) : Statement (.ceCopy d a) :=
  of_eq rfl (cxCode_fits (by decide) (by decide) (by decide))
theorem Sys2Proof.Laws.EncodeFits.ceFill (d : Reg) (a : Reg) : Statement (.ceFill d a) :=
  of_eq rfl (cxCode_fits (by decide) (by decide) (by decide))
theorem Sys2Proof.Laws.EncodeFits.ceGath (d : Reg) (a : Reg) : Statement (.ceGath d a) :=
  of_eq rfl (cxCode_fits (by decide) (by decide) (by decide))
theorem Sys2Proof.Laws.EncodeFits.ceStart (seq : W32) : Statement (.ceStart seq) :=
  of_none rfl
theorem Sys2Proof.Laws.EncodeFits.ceRow (seq : W32) : Statement (.ceRow seq) :=
  of_none rfl
theorem Sys2Proof.Laws.EncodeFits.tuneDecl (d : Option Reg) (a : Reg) (b : Reg) : Statement (.tuneDecl d a b) :=
  of_eq rfl (cxOpt_fits (by decide) (by decide) b.isLt)
theorem Sys2Proof.Laws.EncodeFits.tuneObj (d : Option Reg) (a : Reg) (b : Reg) : Statement (.tuneObj d a b) :=
  of_eq rfl (cxOpt_fits (by decide) (by decide) b.isLt)
theorem Sys2Proof.Laws.EncodeFits.tuneStep (d : Option Reg) (a : Reg) : Statement (.tuneStep d a) :=
  of_eq rfl (cxOpt_fits (by decide) (by decide) (by decide))
theorem Sys2Proof.Laws.EncodeFits.tuneFrz (d : Option Reg) : Statement (.tuneFrz d) :=
  of_eq rfl (cxOpt_fits (by decide) (by decide) (by decide))
theorem Sys2Proof.Laws.EncodeFits.tuneRsm (d : Option Reg) : Statement (.tuneRsm d) :=
  of_eq rfl (cxOpt_fits (by decide) (by decide) (by decide))
theorem Sys2Proof.Laws.EncodeFits.tuneSave (d : Option Reg) (a : Reg) : Statement (.tuneSave d a) :=
  of_eq rfl (cxOpt_fits (by decide) (by decide) (by decide))
theorem Sys2Proof.Laws.EncodeFits.tuneLoad (d : Option Reg) (a : Reg) : Statement (.tuneLoad d a) :=
  of_eq rfl (cxOpt_fits (by decide) (by decide) (by decide))
theorem Sys2Proof.Laws.EncodeFits.wdPush (d : Reg) (a : Reg) : Statement (.wdPush d a) :=
  of_eq rfl (cxCode_fits (by decide) (by decide) (by decide))
theorem Sys2Proof.Laws.EncodeFits.wdPop (d : Reg) : Statement (.wdPop d) :=
  of_eq rfl (cxCode_fits (by decide) (by decide) (by decide))
theorem Sys2Proof.Laws.EncodeFits.wdSteal (d : Reg) : Statement (.wdSteal d) :=
  of_eq rfl (cxCode_fits (by decide) (by decide) (by decide))
theorem Sys2Proof.Laws.EncodeFits.barArrive (sc : BarScope) : Statement (.barArrive sc) :=
  of_eq rfl (cxCode_fits (by decide) (by decide) sc.code_lt)
theorem Sys2Proof.Laws.EncodeFits.barWait (sc : BarScope) : Statement (.barWait sc) :=
  of_eq rfl (cxCode_fits (by decide) (by decide) sc.code_lt)
theorem Sys2Proof.Laws.EncodeFits.barAw (sc : BarScope) : Statement (.barAw sc) :=
  of_eq rfl (cxCode_fits (by decide) (by decide) sc.code_lt)
theorem Sys2Proof.Laws.EncodeFits.barrierRelease (st : StrandId) : Statement (.barrierRelease st) :=
  of_none rfl
theorem Sys2Proof.Laws.EncodeFits.slotSet (d : Option Reg) (a : Reg) : Statement (.slotSet d a) :=
  of_eq rfl (cxOpt_fits (by decide) (by decide) (by decide))
theorem Sys2Proof.Laws.EncodeFits.slotInv (d : Option Reg) (a : Reg) (all : Bool) : Statement (.slotInv d a all) :=
  of_eq rfl (cxOpt_fits (by decide) (by decide) (by have := bit_lt all; omega))
theorem Sys2Proof.Laws.EncodeFits.slotWb (d : Option Reg) (a : Reg) (all : Bool) : Statement (.slotWb d a all) :=
  of_eq rfl (cxOpt_fits (by decide) (by decide) (by have := bit_lt all; omega))
theorem Sys2Proof.Laws.EncodeFits.engWait (c : EngClass) (a : Reg) : Statement (.engWait c a) :=
  of_eq rfl (cxCode_fits (by decide) (by decide) c.code_lt)
theorem Sys2Proof.Laws.EncodeFits.engSeq (d : Reg) (c : EngClass) : Statement (.engSeq d c) :=
  of_eq rfl (cxCode_fits (by decide) (by decide) c.code_lt)
theorem Sys2Proof.Laws.EncodeFits.engLnch (d : Reg) (a : Reg) : Statement (.engLnch d a) :=
  of_eq rfl (cxCode_fits (by decide) (by decide) (by decide))
theorem Sys2Proof.Laws.EncodeFits.mxLease (d : Reg) : Statement (.mxLease d) :=
  of_eq rfl (cxCode_fits (by decide) (by decide) (by decide))
theorem Sys2Proof.Laws.EncodeFits.mxFree : Statement .mxFree :=
  of_eq rfl (cxCode_fits (by decide) (by decide) (by decide))
theorem Sys2Proof.Laws.EncodeFits.mxFmt (d : Reg) (a : Reg) (b : Reg) : Statement (.mxFmt d a b) :=
  of_eq rfl (cxCode_fits (by decide) (by decide) b.isLt)
theorem Sys2Proof.Laws.EncodeFits.mxScl (a : Reg) (all : Bool) : Statement (.mxScl a all) :=
  of_eq rfl (cxCode_fits (by decide) (by decide) (by have := bit_lt all; omega))
theorem Sys2Proof.Laws.EncodeFits.mxAct (d : Reg) (a : Reg) : Statement (.mxAct d a) :=
  of_eq rfl (cxCode_fits (by decide) (by decide) (by decide))
theorem Sys2Proof.Laws.EncodeFits.gsCfg (d : Option Reg) (a : Reg) (b : Reg) : Statement (.gsCfg d a b) :=
  of_eq rfl (cxOpt_fits (by decide) (by decide) b.isLt)
theorem Sys2Proof.Laws.EncodeFits.illegalInstruction (strandFault : Bool) (word : W32) (at_ : W64) : Statement (.illegalInstruction strandFault word at_) :=
  of_none rfl
theorem Sys2Proof.Laws.EncodeFits.vadd (h : TileHd) (td : TDst) (ta : TSrc) (tb : TSrc) : Statement (.vadd h td ta tb) :=
  of_eq rfl (tileCode_fits (by decide) (by decide) td.code_lt ta.code_lt tb.code_lt (by decide))
theorem Sys2Proof.Laws.EncodeFits.vsub (h : TileHd) (td : TDst) (ta : TSrc) (tb : TSrc) : Statement (.vsub h td ta tb) :=
  of_eq rfl (tileCode_fits (by decide) (by decide) td.code_lt ta.code_lt tb.code_lt (by decide))
theorem Sys2Proof.Laws.EncodeFits.vmul (h : TileHd) (td : TDst) (ta : TSrc) (tb : TSrc) : Statement (.vmul h td ta tb) :=
  of_eq rfl (tileCode_fits (by decide) (by decide) td.code_lt ta.code_lt tb.code_lt (by decide))
theorem Sys2Proof.Laws.EncodeFits.vfma (h : TileHd) (td : TDst) (ta : TSrc) (tb : TSrc) (tc : TSrc) : Statement (.vfma h td ta tb tc) :=
  of_eq rfl (tileCode_fits (by decide) (by decide) td.code_lt ta.code_lt tb.code_lt tc.code_lt)
theorem Sys2Proof.Laws.EncodeFits.vmin (h : TileHd) (td : TDst) (ta : TSrc) (tb : TSrc) : Statement (.vmin h td ta tb) :=
  of_eq rfl (tileCode_fits (by decide) (by decide) td.code_lt ta.code_lt tb.code_lt (by decide))
theorem Sys2Proof.Laws.EncodeFits.vmax (h : TileHd) (td : TDst) (ta : TSrc) (tb : TSrc) : Statement (.vmax h td ta tb) :=
  of_eq rfl (tileCode_fits (by decide) (by decide) td.code_lt ta.code_lt tb.code_lt (by decide))
theorem Sys2Proof.Laws.EncodeFits.vabs (h : TileHd) (td : TDst) (ta : TSrc) : Statement (.vabs h td ta) :=
  of_eq rfl (tileCode_fits (by decide) (by decide) td.code_lt ta.code_lt (by decide) (by decide))
theorem Sys2Proof.Laws.EncodeFits.vneg (h : TileHd) (td : TDst) (ta : TSrc) : Statement (.vneg h td ta) :=
  of_eq rfl (tileCode_fits (by decide) (by decide) td.code_lt ta.code_lt (by decide) (by decide))
theorem Sys2Proof.Laws.EncodeFits.vcmp (h : TileHd) (pd : BitVec 4) (ta : TSrc) (tb : TSrc) (c : Cond) : Statement (.vcmp h pd ta tb c) :=
  of_eq rfl (tileCode_fits (by decide) (by decide) (by have := pd.isLt; omega) ta.code_lt tb.code_lt c.code_lt)
theorem Sys2Proof.Laws.EncodeFits.vsel (h : TileHd) (td : TDst) (ta : TSrc) (tb : TSrc) (ps : BitVec 4) : Statement (.vsel h td ta tb ps) :=
  of_eq rfl (tileCode_fits (by decide) (by decide) td.code_lt ta.code_lt tb.code_lt (by have := ps.isLt; omega))
theorem Sys2Proof.Laws.EncodeFits.vaddx (h : TileHd) (td : TDst) (ta : TSrc) (tb : TSrc) : Statement (.vaddx h td ta tb) :=
  of_eq rfl (tileCode_fits (by decide) (by decide) td.code_lt ta.code_lt tb.code_lt (by decide))
theorem Sys2Proof.Laws.EncodeFits.vsubx (h : TileHd) (td : TDst) (ta : TSrc) (tb : TSrc) : Statement (.vsubx h td ta tb) :=
  of_eq rfl (tileCode_fits (by decide) (by decide) td.code_lt ta.code_lt tb.code_lt (by decide))
theorem Sys2Proof.Laws.EncodeFits.vmulx (h : TileHd) (td : TDst) (ta : TSrc) (tb : TSrc) : Statement (.vmulx h td ta tb) :=
  of_eq rfl (tileCode_fits (by decide) (by decide) td.code_lt ta.code_lt tb.code_lt (by decide))
theorem Sys2Proof.Laws.EncodeFits.dwadd (h : TileHd) (td : TDst) (ta : TSrc) (tb : TSrc) : Statement (.dwadd h td ta tb) :=
  of_eq rfl (tileCode_fits (by decide) (by decide) td.code_lt ta.code_lt tb.code_lt (by decide))
theorem Sys2Proof.Laws.EncodeFits.dwmul (h : TileHd) (td : TDst) (ta : TSrc) (tb : TSrc) : Statement (.dwmul h td ta tb) :=
  of_eq rfl (tileCode_fits (by decide) (by decide) td.code_lt ta.code_lt tb.code_lt (by decide))
theorem Sys2Proof.Laws.EncodeFits.dwfma (h : TileHd) (td : TDst) (ta : TSrc) (tb : TSrc) (tc : TSrc) : Statement (.dwfma h td ta tb tc) :=
  of_eq rfl (tileCode_fits (by decide) (by decide) td.code_lt ta.code_lt tb.code_lt tc.code_lt)
theorem Sys2Proof.Laws.EncodeFits.dwnorm (h : TileHd) (td : TDst) (ta : TSrc) : Statement (.dwnorm h td ta) :=
  of_eq rfl (tileCode_fits (by decide) (by decide) td.code_lt ta.code_lt (by decide) (by decide))
theorem Sys2Proof.Laws.EncodeFits.vaddSat (h : TileHd) (td : TDst) (ta : TSrc) (tb : TSrc) : Statement (.vaddSat h td ta tb) :=
  of_eq rfl (tileCode_fits (by decide) (by decide) td.code_lt ta.code_lt tb.code_lt (by decide))
theorem Sys2Proof.Laws.EncodeFits.vsubSat (h : TileHd) (td : TDst) (ta : TSrc) (tb : TSrc) : Statement (.vsubSat h td ta tb) :=
  of_eq rfl (tileCode_fits (by decide) (by decide) td.code_lt ta.code_lt tb.code_lt (by decide))
theorem Sys2Proof.Laws.EncodeFits.vmulSat (h : TileHd) (td : TDst) (ta : TSrc) (tb : TSrc) : Statement (.vmulSat h td ta tb) :=
  of_eq rfl (tileCode_fits (by decide) (by decide) td.code_lt ta.code_lt tb.code_lt (by decide))
theorem Sys2Proof.Laws.EncodeFits.vlogAnd (h : TileHd) (td : TDst) (ta : TSrc) (tb : TSrc) : Statement (.vlogAnd h td ta tb) :=
  of_eq rfl (tileCode_fits (by decide) (by decide) td.code_lt ta.code_lt tb.code_lt (by decide))
theorem Sys2Proof.Laws.EncodeFits.vlogOr (h : TileHd) (td : TDst) (ta : TSrc) (tb : TSrc) : Statement (.vlogOr h td ta tb) :=
  of_eq rfl (tileCode_fits (by decide) (by decide) td.code_lt ta.code_lt tb.code_lt (by decide))
theorem Sys2Proof.Laws.EncodeFits.vlogXor (h : TileHd) (td : TDst) (ta : TSrc) (tb : TSrc) : Statement (.vlogXor h td ta tb) :=
  of_eq rfl (tileCode_fits (by decide) (by decide) td.code_lt ta.code_lt tb.code_lt (by decide))
theorem Sys2Proof.Laws.EncodeFits.vlogAndn (h : TileHd) (td : TDst) (ta : TSrc) (tb : TSrc) : Statement (.vlogAndn h td ta tb) :=
  of_eq rfl (tileCode_fits (by decide) (by decide) td.code_lt ta.code_lt tb.code_lt (by decide))
theorem Sys2Proof.Laws.EncodeFits.vshShl (h : TileHd) (td : TDst) (ta : TSrc) (tb : TSrc) : Statement (.vshShl h td ta tb) :=
  of_eq rfl (tileCode_fits (by decide) (by decide) td.code_lt ta.code_lt tb.code_lt (by decide))
theorem Sys2Proof.Laws.EncodeFits.vshShr (h : TileHd) (td : TDst) (ta : TSrc) (tb : TSrc) : Statement (.vshShr h td ta tb) :=
  of_eq rfl (tileCode_fits (by decide) (by decide) td.code_lt ta.code_lt tb.code_lt (by decide))
theorem Sys2Proof.Laws.EncodeFits.vshShra (h : TileHd) (td : TDst) (ta : TSrc) (tb : TSrc) : Statement (.vshShra h td ta tb) :=
  of_eq rfl (tileCode_fits (by decide) (by decide) td.code_lt ta.code_lt tb.code_lt (by decide))
theorem Sys2Proof.Laws.EncodeFits.vmov (h : TileHd) (td : TDst) (ta : TSrc) : Statement (.vmov h td ta) :=
  of_eq rfl (tileCode_fits (by decide) (by decide) td.code_lt ta.code_lt (by decide) (by decide))
theorem Sys2Proof.Laws.EncodeFits.vrotr (h : TileHd) (td : TDst) (ta : TSrc) (amt : BitVec 9) : Statement (.vrotr h td ta amt) :=
  of_eq rfl (tileCode_fits (by decide) (by decide) td.code_lt ta.code_lt amt.isLt (by decide))
theorem Sys2Proof.Laws.EncodeFits.vrotc (h : TileHd) (td : TDst) (ta : TSrc) (amt : BitVec 9) : Statement (.vrotc h td ta amt) :=
  of_eq rfl (tileCode_fits (by decide) (by decide) td.code_lt ta.code_lt amt.isLt (by decide))
theorem Sys2Proof.Laws.EncodeFits.vbcr (h : TileHd) (td : TDst) (ta : TSrc) : Statement (.vbcr h td ta) :=
  of_eq rfl (tileCode_fits (by decide) (by decide) td.code_lt ta.code_lt (by decide) (by decide))
theorem Sys2Proof.Laws.EncodeFits.vbcc (h : TileHd) (td : TDst) (ta : TSrc) : Statement (.vbcc h td ta) :=
  of_eq rfl (tileCode_fits (by decide) (by decide) td.code_lt ta.code_lt (by decide) (by decide))
theorem Sys2Proof.Laws.EncodeFits.vsplat (h : TileHd) (td : TDst) (ta : TSrc) : Statement (.vsplat h td ta) :=
  of_eq rfl (tileCode_fits (by decide) (by decide) td.code_lt ta.code_lt (by decide) (by decide))
theorem Sys2Proof.Laws.EncodeFits.vext (h : TileHd) (td : TDst) (ta : TSrc) : Statement (.vext h td ta) :=
  of_eq rfl (tileCode_fits (by decide) (by decide) td.code_lt ta.code_lt (by decide) (by decide))
theorem Sys2Proof.Laws.EncodeFits.vins (h : TileHd) (td : TDst) (ta : TSrc) : Statement (.vins h td ta) :=
  of_eq rfl (tileCode_fits (by decide) (by decide) td.code_lt ta.code_lt (by decide) (by decide))
theorem Sys2Proof.Laws.EncodeFits.vredrAdd (h : TileHd) (td : TDst) (ta : TSrc) : Statement (.vredrAdd h td ta) :=
  of_eq rfl (tileCode_fits (by decide) (by decide) td.code_lt ta.code_lt (by decide) (by decide))
theorem Sys2Proof.Laws.EncodeFits.vredrMax (h : TileHd) (td : TDst) (ta : TSrc) : Statement (.vredrMax h td ta) :=
  of_eq rfl (tileCode_fits (by decide) (by decide) td.code_lt ta.code_lt (by decide) (by decide))
theorem Sys2Proof.Laws.EncodeFits.vredrMin (h : TileHd) (td : TDst) (ta : TSrc) : Statement (.vredrMin h td ta) :=
  of_eq rfl (tileCode_fits (by decide) (by decide) td.code_lt ta.code_lt (by decide) (by decide))
theorem Sys2Proof.Laws.EncodeFits.vredrCadd (h : TileHd) (td : TDst) (ta : TSrc) : Statement (.vredrCadd h td ta) :=
  of_eq rfl (tileCode_fits (by decide) (by decide) td.code_lt ta.code_lt (by decide) (by decide))
theorem Sys2Proof.Laws.EncodeFits.vredcAdd (h : TileHd) (td : TDst) (ta : TSrc) : Statement (.vredcAdd h td ta) :=
  of_eq rfl (tileCode_fits (by decide) (by decide) td.code_lt ta.code_lt (by decide) (by decide))
theorem Sys2Proof.Laws.EncodeFits.vredcMax (h : TileHd) (td : TDst) (ta : TSrc) : Statement (.vredcMax h td ta) :=
  of_eq rfl (tileCode_fits (by decide) (by decide) td.code_lt ta.code_lt (by decide) (by decide))
theorem Sys2Proof.Laws.EncodeFits.vredcMin (h : TileHd) (td : TDst) (ta : TSrc) : Statement (.vredcMin h td ta) :=
  of_eq rfl (tileCode_fits (by decide) (by decide) td.code_lt ta.code_lt (by decide) (by decide))
theorem Sys2Proof.Laws.EncodeFits.vredcCadd (h : TileHd) (td : TDst) (ta : TSrc) : Statement (.vredcCadd h td ta) :=
  of_eq rfl (tileCode_fits (by decide) (by decide) td.code_lt ta.code_lt (by decide) (by decide))
theorem Sys2Proof.Laws.EncodeFits.vsf (h : TileHd) (td : TDst) (ta : TSrc) (f : SpecialFn) : Statement (.vsf h td ta f) :=
  of_eq rfl (tileCode_fits (by decide) (by decide) td.code_lt ta.code_lt (by decide) f.code_lt)
theorem Sys2Proof.Laws.EncodeFits.vcvt (h : TileHd) (td : TDst) (ta : TSrc) (code : BitVec 4) : Statement (.vcvt h td ta code) :=
  of_eq rfl (tileCode_fits (by decide) (by decide) td.code_lt ta.code_lt (by decide) (by have := code.isLt; omega))
theorem Sys2Proof.Laws.EncodeFits.mma (qp : BitVec 4) (acc : BitVec 5) (a : Reg) (b : Reg) (slot : BitVec 2) (ft : Bool) (d1 : BitVec 6) (d2 : BitVec 6) (np : BitVec 8) : Statement (.mma qp acc a b slot ft d1 d2 np) :=
  of_eq rfl (mmaCode_fits (by decide))
theorem Sys2Proof.Laws.EncodeFits.mmaZ (qp : BitVec 4) (acc : BitVec 5) (a : Reg) (b : Reg) (slot : BitVec 2) (ft : Bool) (d1 : BitVec 6) (d2 : BitVec 6) (np : BitVec 8) : Statement (.mmaZ qp acc a b slot ft d1 d2 np) :=
  of_eq rfl (mmaCode_fits (by decide))
theorem Sys2Proof.Laws.EncodeFits.mxDrain (qp : BitVec 4) (td : TDst) (first : BitVec 5) (count : BitVec 6) (a : Reg) (bias : Bool) (act : Bool) (rq : Bool) (ft : Bool) (np : BitVec 8) : Statement (.mxDrain qp td first count a bias act rq ft np) :=
  of_eq rfl ⟨by decide, by decide, by have := qp.isLt; have := td.code_lt; have := first.isLt; have := count.isLt; have := a.isLt; have := bit_lt bias; have := bit_lt act; have := bit_lt rq; have := bit_lt ft; have := np.isLt; omega⟩
theorem Sys2Proof.Laws.EncodeFits.mxaCommandRetire : Statement .mxaCommandRetire :=
  of_none rfl
theorem Sys2Proof.Laws.EncodeFits.leaseGrant (cluster : Nat) : Statement (.leaseGrant cluster) :=
  of_none rfl
theorem Sys2Proof.Laws.EncodeFits.nbMv (d : Reg) (a : Reg) (b : Reg) (c : Reg) (rows : BitVec 6) (d1 : BitVec 6) (d2 : BitVec 6) (np : BitVec 8) : Statement (.nbMv d a b c rows d1 d2 np) :=
  of_eq rfl (nbCode_fits (by decide))
theorem Sys2Proof.Laws.EncodeFits.nbSaxpy (d : Reg) (a : Reg) (b : Reg) (c : Reg) (rows : BitVec 6) (d1 : BitVec 6) (d2 : BitVec 6) (np : BitVec 8) : Statement (.nbSaxpy d a b c rows d1 d2 np) :=
  of_eq rfl (nbCode_fits (by decide))
theorem Sys2Proof.Laws.EncodeFits.nbRcpy (d : Reg) (a : Reg) (c : Reg) (rows : BitVec 6) (d1 : BitVec 6) (d2 : BitVec 6) (np : BitVec 8) : Statement (.nbRcpy d a c rows d1 d2 np) :=
  of_eq rfl (nbCode_fits (by decide))
theorem Sys2Proof.Laws.EncodeFits.nbRzero (d : Reg) (a : Reg) (rows : BitVec 6) (d1 : BitVec 6) (d2 : BitVec 6) (np : BitVec 8) : Statement (.nbRzero d a rows d1 d2 np) :=
  of_eq rfl (nbCode_fits (by decide))
theorem Sys2Proof.Laws.EncodeFits.nbStart (seq : W32) : Statement (.nbStart seq) :=
  of_none rfl
theorem Sys2Proof.Laws.EncodeFits.nbRowStep (seq : W32) : Statement (.nbRowStep seq) :=
  of_none rfl
theorem Sys2Proof.Laws.EncodeFits.nbAllowanceAdmit (seq : W32) : Statement (.nbAllowanceAdmit seq) :=
  of_none rfl
theorem Sys2Proof.Laws.EncodeFits.nbRequestService (stack : Nat) (pch : Nat) : Statement (.nbRequestService stack pch) :=
  of_none rfl
theorem Sys2Proof.Laws.EncodeFits.nbL2Invalidate (seq : W32) : Statement (.nbL2Invalidate seq) :=
  of_none rfl
theorem Sys2Proof.Laws.EncodeFits.gsQry (d : Reg) (a : Reg) (b : Reg) (slot : BitVec 2) (d1 : BitVec 6) (d2 : BitVec 6) (np : BitVec 8) : Statement (.gsQry d a b slot d1 d2 np) :=
  of_eq rfl ⟨by decide, by decide, by have := d.isLt; have := a.isLt; have := b.isLt; have := slot.isLt; have := d1.isLt; have := d2.isLt; have := np.isLt; omega⟩
theorem Sys2Proof.Laws.EncodeFits.gsQueryStart (seq : W32) : Statement (.gsQueryStart seq) :=
  of_none rfl
theorem Sys2Proof.Laws.EncodeFits.gsExpansion (seq : W32) : Statement (.gsExpansion seq) :=
  of_none rfl
theorem Sys2Proof.Laws.EncodeFits.gsRemoteDistance (seq : W32) : Statement (.gsRemoteDistance seq) :=
  of_none rfl
theorem Sys2Proof.Laws.EncodeFits.gsQueryFinish (seq : W32) : Statement (.gsQueryFinish seq) :=
  of_none rfl
theorem Sys2Proof.Laws.EncodeFits.deferredTrap : Statement .deferredTrap :=
  of_none rfl
theorem Sys2Proof.Laws.EncodeFits.pageFault (st : StrandId) (addr : W64) (write : Bool) : Statement (.pageFault st addr write) :=
  of_none rfl
theorem Sys2Proof.Laws.EncodeFits.pageFaultAnswered (resolved : Bool) : Statement (.pageFaultAnswered resolved) :=
  of_none rfl
theorem Sys2Proof.Laws.EncodeFits.engineFaultDelivery (seq : W32) : Statement (.engineFaultDelivery seq) :=
  of_none rfl
theorem Sys2Proof.Laws.EncodeFits.postedWritePerform (n : Nat) : Statement (.postedWritePerform n) :=
  of_none rfl
theorem Sys2Proof.Laws.EncodeFits.cacheLeaseExpiry (copy : Nat) : Statement (.cacheLeaseExpiry copy) :=
  of_none rfl
theorem Sys2Proof.Laws.EncodeFits.tlbPrefetch (stream : Nat) (va : W64) : Statement (.tlbPrefetch stream va) :=
  of_none rfl
theorem Sys2Proof.Laws.EncodeFits.queueDeadlock : Statement .queueDeadlock :=
  of_none rfl
theorem Sys2Proof.Laws.EncodeFits.bypassExpiry (slot : BitVec 2) : Statement (.bypassExpiry slot) :=
  of_none rfl
theorem Sys2Proof.Laws.EncodeFits.modeWrite (value : W64) : Statement (.modeWrite value) :=
  of_none rfl
theorem Sys2Proof.Laws.EncodeFits.sampctlWrite (value : W64) : Statement (.sampctlWrite value) :=
  of_none rfl
theorem Sys2Proof.Laws.EncodeFits.trcctlWrite (value : W64) : Statement (.trcctlWrite value) :=
  of_none rfl
theorem Sys2Proof.Laws.EncodeFits.sampleMark (st : StrandId) (pc : W64) : Statement (.sampleMark st pc) :=
  of_none rfl
theorem Sys2Proof.Laws.EncodeFits.sampleRecord (killed : Bool) (fetch : W32) (decode : W32) (opwait : W32) (issue : W32) (exec : W32) (retire : W32) : Statement (.sampleRecord killed fetch decode opwait issue exec retire) :=
  of_none rfl
theorem Sys2Proof.Laws.EncodeFits.notify (die : Nat) (value : W64) : Statement (.notify die value) :=
  of_none rfl
theorem Sys2Proof.Laws.EncodeFits.notifyDelivery (die : Nat) : Statement (.notifyDelivery die) :=
  of_none rfl
theorem Sys2Proof.Laws.EncodeFits.notifyRetry (die : Nat) : Statement (.notifyRetry die) :=
  of_none rfl
theorem Sys2Proof.Laws.EncodeFits.readRecord (die : Nat) (pasid : Nat) (queue : Nat) : Statement (.readRecord die pasid queue) :=
  of_none rfl
theorem Sys2Proof.Laws.EncodeFits.dispatch (die : Nat) : Statement (.dispatch die) :=
  of_none rfl
theorem Sys2Proof.Laws.EncodeFits.preemption (area : W64) : Statement (.preemption area) :=
  of_none rfl
theorem Sys2Proof.Laws.EncodeFits.taskComplete (task : Nat) (giveUp : Bool) : Statement (.taskComplete task giveUp) :=
  of_none rfl
theorem Sys2Proof.Laws.EncodeFits.coreDump (die : Nat) (task : Nat) : Statement (.coreDump die task) :=
  of_none rfl
theorem Sys2Proof.Laws.EncodeFits.teardown (die : Nat) (pasid : Nat) : Statement (.teardown die pasid) :=
  of_none rfl
theorem Sys2Proof.Laws.EncodeFits.qcbinv (die : Nat) (value : W64) : Statement (.qcbinv die value) :=
  of_none rfl
theorem Sys2Proof.Laws.EncodeFits.routeInstall (die : Nat) (value : W64) : Statement (.routeInstall die value) :=
  of_none rfl
theorem Sys2Proof.Laws.EncodeFits.registerWrite (die : Nat) (off : W64) (value : W64) : Statement (.registerWrite die off value) :=
  of_none rfl
theorem Sys2Proof.Laws.EncodeFits.attest (die : Nat) : Statement (.attest die) :=
  of_none rfl
theorem Sys2Proof.Laws.EncodeFits.readIdentityKey (die : Nat) : Statement (.readIdentityKey die) :=
  of_none rfl
theorem Sys2Proof.Laws.EncodeFits.hostRead (port : Nat) (addr : W64) (size : Nat) : Statement (.hostRead port addr size) :=
  of_none rfl
theorem Sys2Proof.Laws.EncodeFits.hostWrite (port : Nat) (addr : W64) (data : List Byte) : Statement (.hostWrite port addr data) :=
  of_none rfl
theorem Sys2Proof.Laws.EncodeFits.hostAtomic (port : Nat) (addr : W64) (amo : HostAmo) : Statement (.hostAtomic port addr amo) :=
  of_none rfl
theorem Sys2Proof.Laws.EncodeFits.peerAccess (port : Nat) (addr : W64) (size : Nat) (write : Option (List Byte)) : Statement (.peerAccess port addr size write) :=
  of_none rfl
theorem Sys2Proof.Laws.EncodeFits.linkDown (link : LinkName) : Statement (.linkDown link) :=
  of_none rfl
theorem Sys2Proof.Laws.EncodeFits.sensorSample (die : Nat) (temps : List W16) : Statement (.sensorSample die temps) :=
  of_none rfl
theorem Sys2Proof.Laws.EncodeFits.thermalStep (die : Nat) (overPower : Bool) : Statement (.thermalStep die overPower) :=
  of_none rfl
theorem Sys2Proof.Laws.EncodeFits.rowTest (stack : Nat) (row : Nat) (bad : Option Nat) (lasting : Bool) : Statement (.rowTest stack row bad lasting) :=
  of_none rfl
theorem Sys2Proof.Laws.EncodeFits.rowScrub (stack : Nat) (row : Nat) (error : Option (Option Nat)) (lasting : Bool) : Statement (.rowScrub stack row error lasting) :=
  of_none rfl
theorem Sys2Proof.Laws.EncodeFits.stripeRefresh (stack : Nat) : Statement (.stripeRefresh stack) :=
  of_none rfl
theorem Sys2Proof.Laws.EncodeFits.channelRetire (stack : Nat) (half : Nat) (channel : Nat) : Statement (.channelRetire stack half channel) :=
  of_none rfl
theorem Sys2Proof.Laws.EncodeFits.selfRefreshEntry (stack : Nat) (pch : Nat) : Statement (.selfRefreshEntry stack pch) :=
  of_none rfl
theorem Sys2Proof.Laws.EncodeFits.reset (part : Nat) : Statement (.reset part) :=
  of_none rfl
theorem Sys2Proof.Laws.EncodeFits.bootVerify (die : Nat) (stage : Nat) (image : BootImage) : Statement (.bootVerify die stage image) :=
  of_none rfl
theorem Sys2Proof.Laws.EncodeFits.mboxBadCommand (die : Nat) : Statement (.mboxBadCommand die) :=
  of_none rfl
theorem Sys2Proof.Laws.EncodeFits.clk : Statement .clk :=
  of_none rfl
theorem Sys2Proof.Laws.EncodeFits.watchdog : Statement .watchdog :=
  of_none rfl
end

