-- ==== Sys2Proof/Laws/Places.lean ====
section
/-! SUPPORT. What stands at a place after a place of its table was written: the place itself, and every other one. -/

namespace Sys2Proof.Machine

variable (s : State)

@[simp] theorem State.die_setDie (d e : Nat) (x : Die) : (s.setDie d x).die e = if d = e then x else s.die e :=
  Cells.get_set ..
@[simp] theorem State.stack_setStack (d e : Nat) (x : Stack) : (s.setStack d x).stack e = if d = e then x else s.stack e :=
  Cells.get_set ..
@[simp] theorem State.core_setCore (d e : Nat) (x : Core) : (s.setCore d x).core e = if d = e then x else s.core e :=
  Cells.get_set ..
@[simp] theorem State.cluster_setCluster (d e : Nat) (x : Cluster) :
    (s.setCluster d x).cluster e = if d = e then x else s.cluster e := Cells.get_set ..

theorem State.die_congr {s t : State} (h : t.dies = s.dies) (d : Nat) : t.die d = s.die d := by simp only [State.die, h]
theorem State.stack_congr {s t : State} (h : t.hbms = s.hbms) (d : Nat) : t.stack d = s.stack d := by simp only [State.stack, h]
theorem State.core_congr {s t : State} (h : t.cores = s.cores) (d : Nat) : t.core d = s.core d := by simp only [State.core, h]
theorem State.cluster_congr {s t : State} (h : t.clusters = s.clusters) (d : Nat) : t.cluster d = s.cluster d := by
  simp only [State.cluster, h]

@[simp] theorem State.die_modCtx (f : Ctx → Ctx) (d : Nat) : (s.modCtx f).die d = s.die d := rfl
@[simp] theorem State.stack_modCtx (f : Ctx → Ctx) (d : Nat) : (s.modCtx f).stack d = s.stack d := rfl
@[simp] theorem State.core_modCtx (f : Ctx → Ctx) (d : Nat) : (s.modCtx f).core d = s.core d := rfl
@[simp] theorem State.cluster_modCtx (f : Ctx → Ctx) (d : Nat) : (s.modCtx f).cluster d = s.cluster d := rfl
@[simp] theorem State.die_setStack (k : Nat) (x : Stack) (d : Nat) : (s.setStack k x).die d = s.die d := rfl
@[simp] theorem State.stack_setDie (k : Nat) (x : Die) (d : Nat) : (s.setDie k x).stack d = s.stack d := rfl

end Sys2Proof.Machine
end

