-- ==== Sys2Proof/Laws/Tile.lean ====
section
/-! SUPPORT. Tile instructions: the checks of one that passes them, and the element-wise forms whose operands can be read
and written. -/

namespace Sys2Proof.Machine

variable {s u1 u2 u3 t : State} {i : Instr} {h : TileHd} {g : Grant}

/-- The checks of a tile instruction pass under a grant of a type and with views it accepts. -/
theorem startTile_ok {profile pairs views : Bool} {types : EType → Bool} (hs : Starts s i g) (h1 : profile = true)
    (h2 : pairs = true) (h3 : types g.ty = true) (h4 : views = true) :
    startTile i h profile pairs views types s = .ok (tileOpOf s h g) s := by
  unfold startTile
  rw [bind_ok (enter_ok hs.1.1 hs.1.2), h1, h2, bind_require_true, bind_require_true, bind_get, hs.2]
  simp only [h3, h4, Bool.and_self, bind_require_true, pure_run]
  rfl

/-- A destination that is no pair where one is needed. -/
theorem startTile_noPair {profile views : Bool} {types : EType → Bool} (hs : Allowed s i) (h1 : profile = true) :
    startTile i h profile false views types s = .error (.trap .illegalPair (s.issue.word.setWidth 64)) s := by
  unfold startTile
  rw [bind_ok (enter_ok hs.1 hs.2), h1, bind_require_true, bind_require_false]

/-- Views that do not combine. -/
theorem startTile_noFit {profile pairs : Bool} {types : EType → Bool} (hs : Starts s i g) (h1 : profile = true)
    (h2 : pairs = true) :
    startTile i h profile pairs false types s = .error (.trap .shapeInvalid (s.issue.word.setWidth 64)) s := by
  unfold startTile
  rw [bind_ok (enter_ok hs.1.1 hs.1.2), h1, h2, bind_require_true, bind_require_true, bind_get, hs.2]
  simp

theorem tile1_ok {td : TDst} {ta : TSrc} {types : EType → Bool} {f : ElemEnv → W32 → W32 × Fl} {x : Grid} (hs : Starts s i g)
    (hn : h.np = 0) (ht : types g.ty = true) (hf : fits td [ta] = true) (h1 : readSrc g.m ta s = .ok x u1)
    (h2 : putDst (tileOpOf s h g) td (fun r c => f (tileOpOf s h g).env (x r c)) u1 = .ok () t) :
    run (tile1 i h td ta types f) s = .next t := by
  refine run_ok (u := ()) ?_
  unfold tile1
  rw [bind_ok (startTile_ok hs (by simp [hn]) rfl ht hf)]
  exact (bind_ok h1).trans h2

theorem tile2_ok {td : TDst} {ta tb : TSrc} {types : EType → Bool} {f : ElemEnv → Nat → W32 → W32 → W32 × Fl} {x y : Grid}
    (hs : Starts s i g) (hn : h.np = 0) (ht : types g.ty = true) (hf : fits td [ta, tb] = true)
    (h1 : readSrc g.m ta s = .ok x u1) (h2 : readSrc g.m tb u1 = .ok y u2)
    (h3 : putDst (tileOpOf s h g) td (fun r c => f (tileOpOf s h g).env r (x r c) (y r c)) u2 = .ok () t) :
    run (tile2 i h td ta tb types f) s = .next t := by
  refine run_ok (u := ()) ?_
  unfold tile2
  rw [bind_ok (startTile_ok hs (by simp [hn]) rfl ht hf)]
  exact (bind_ok h1).trans ((bind_ok h2).trans h3)

theorem tile3_ok {td : TDst} {ta tb tc : TSrc} {types : EType → Bool} {f : ElemEnv → W32 → W32 → W32 → W32 × Fl} {x y z : Grid}
    (hs : Starts s i g) (hn : h.np = 0) (ht : types g.ty = true) (hf : fits td [ta, tb, tc] = true)
    (h1 : readSrc g.m ta s = .ok x u1) (h2 : readSrc g.m tb u1 = .ok y u2) (h3 : readSrc g.m tc u2 = .ok z u3)
    (h4 : putDst (tileOpOf s h g) td (fun r c => f (tileOpOf s h g).env (x r c) (y r c) (z r c)) u3 = .ok () t) :
    run (tile3 i h td ta tb tc types f) s = .next t := by
  refine run_ok (u := ()) ?_
  unfold tile3
  rw [bind_ok (startTile_ok hs (by simp [hn]) rfl ht hf)]
  exact (bind_ok h1).trans ((bind_ok h2).trans ((bind_ok h3).trans h4))

end Sys2Proof.Machine
end

