-- ==== Sys2Proof/Laws/TileMem.lean ====
section
/-! SUPPORT. Tile loads and stores: their address checks, the room in a queue, and the elements of a row of bytes. -/

namespace Sys2Proof.Machine

variable {s : State}

theorem checkRows_ok {a b : W64} {w : Nat} (h1 : a.toNat % w = 0) (h2 : b.toNat % w = 0) : checkRows a b w s = .ok () s := by
  unfold checkRows; simp [h1, h2]

theorem roomFor_ok {q : BitVec 2} {n : Nat} (h : (s.ctx.q.lq.getD q.toNat []).length + n ≤ 32) : roomFor q n s = .ok () s := by
  simp only [roomFor, bind_get, h, decide_true, check_true]

theorem roomFor_full {q : BitVec 2} {n : Nat} (h : ¬(s.ctx.q.lq.getD q.toNat []).length + n ≤ 32) :
    roomFor q n s = .error (.block (.lq q.toNat)) s := by
  simp only [roomFor, bind_get, h, decide_false, check_false]

/-- Changing one element of a vector is setting it, whatever the index. -/
theorem vecMod_eq {α : Type} {n : Nat} (v : Vector α n) (i : Nat) (f : α → α) (d : α) :
    vecMod v i f = v.setIfInBounds i (f (v.getD i d)) := by
  unfold vecMod
  by_cases h : i < n
  · simp [h, Vector.getD]
  · have h1 : v[i]? = none := by simp; omega
    rw [h1]
    apply Vector.ext
    intro j hj
    rw [Vector.getElem_setIfInBounds, if_neg (by omega)]

theorem natOfBytes_zeros {α : Type} (l : List α) : natOfBytes (l.map (fun _ => (0 : Byte))) = 0 := by
  induction l with
  | nil => rfl
  | cons a l ih => simp only [List.map_cons, natOfBytes, ih]; rfl

/-- The number of w bytes of a list from a place on, bytes beyond its end counting as zero. -/
theorem natOfBytes_window (l : List Byte) (k w : Nat) :
    natOfBytes ((List.range w).map (fun i => l.toArray.getD (k + i) 0)) = natOfBytes ((l.drop k).take w) := by
  induction w generalizing k with
  | zero => rw [List.take_zero]; rfl
  | succ w ih =>
    rw [List.range_succ_eq_map]
    simp only [List.map_cons, List.map_map, Function.comp_def]
    rcases h : l.drop k with _ | ⟨b, bs⟩
    · have hk : l.length ≤ k := by simpa using h
      have h0 : ∀ i, l.toArray.getD (k + i) 0 = (0 : Byte) := by intro i; simp [Array.getD]; omega
      simp only [h0, natOfBytes, natOfBytes_zeros]
      rfl
    · have hk : k < l.length := by
        have := congrArg List.length h; simp at this; omega
      have hb : l.toArray.getD (k + 0) 0 = b := by
        have := congrArg (fun x => x[0]?) h
        rw [List.getElem?_drop] at this
        simp only [Nat.add_zero, List.getElem?_cons_zero] at this
        simp [Array.getD, hk]
        exact (List.getElem?_eq_some_iff.mp this).2
      have ih2 := ih (k + 1)
      have hd : l.drop (k + 1) = bs := by rw [← List.drop_drop, h]; rfl
      rw [hd] at ih2
      simp only [List.take_succ_cons, natOfBytes]
      rw [hb, ← ih2]
      have e : (fun i => l.toArray.getD (k + (i + 1)) 0) = (fun i => l.toArray.getD (k + 1 + i) (0 : Byte)) := by
        funext i; congr 1; omega
      exact congrArg (fun z => b.toNat + 256 * natOfBytes (List.map z (List.range w))) e

end Sys2Proof.Machine
end

