-- ==== Sys2Proof/Laws/WfOps.lean ====
section
/-! SUPPORT. The shared operations keep the canonical form of memory: leases and banks, the end of an item, exceptions, the
rings, reads and writes of a target; and the rules by which a meaning in the monad keeps it. -/

namespace Sys2Proof.Machine

variable {s : State}

/-- The state in which a meaning ends, whether it completes or stops. -/
def endState {ε α : Type} : EStateM.Result ε State α → State
  | .ok _ t => t
  | .error _ t => t

/-- A meaning that keeps the canonical form of memory. -/
def Keeps {ε α : Type} (m : EStateM ε State α) : Prop := ∀ s, Memory.wf s = true → Memory.wf (endState (m s)) = true

section
variable {ε α β : Type}

theorem keeps_pure (a : α) : Keeps (pure a : EStateM ε State α) := fun _ h => h
theorem keeps_throw (e : ε) : Keeps (throw e : EStateM ε State α) := fun _ h => h
theorem keeps_modify {f : State → State} (hf : ∀ s, Memory.wf s = true → Memory.wf (f s) = true) :
    Keeps (modify f : EStateM ε State Unit) := fun s h => hf s h
theorem keeps_set {t : State} (ht : Memory.wf t = true) : Keeps (set t : EStateM ε State PUnit) := fun _ _ => ht

theorem keeps_bind {m : EStateM ε State α} {k : α → EStateM ε State β} (hm : Keeps m) (hk : ∀ a, Keeps (k a)) :
    Keeps (m >>= k) := by
  intro s h
  have h1 := hm s h
  simp only [bind, EStateM.bind]
  generalize m s = r at h1 ⊢
  cases r with
  | ok a t => exact hk a t h1
  | error e t => exact h1

/-- What follows a `get` may use that the state read is canonical. -/
theorem keeps_get {k : State → EStateM ε State β} (hk : ∀ s, Memory.wf s = true → Keeps (k s)) :
    Keeps (get >>= k) := fun s h => hk s h s h

theorem keeps_ite {c : Prop} [Decidable c] {a b : EStateM ε State α} (ha : Keeps a) (hb : Keeps b) :
    Keeps (if c then a else b) := by split <;> assumption

end

theorem keeps_check (c : Bool) (w : Stop) : Keeps (check c w) := keeps_ite (keeps_pure _) (keeps_throw _)
theorem keeps_raise {α : Type} (c : Cause) : Keeps (raise c : M α) :=
  keeps_bind (keeps_get fun _ _ => keeps_pure _) fun _ => keeps_throw _
theorem keeps_require (b : Bool) (c : Cause) : Keeps (require b c) := keeps_ite (keeps_pure _) (keeps_raise _)

namespace State

theorem wf_setX (r : Reg) (v : W64) (t : Bool) (h : Memory.wf s = true) : Memory.wf (s.setX r v t) = true := by
  unfold State.setX
  repeat' split
  all_goals exact h

theorem wf_inOther (n : Nat) {f : State → State} (hf : ∀ s, Memory.wf s = true → Memory.wf (f s) = true)
    (h : Memory.wf s = true) : Memory.wf (s.inOther n f) = true := by
  unfold State.inOther
  split
  · exact h
  · exact hf _ h

theorem wf_inCtx (p : Ctx → Bool) {f : State → State} (hf : ∀ s, Memory.wf s = true → Memory.wf (f s) = true)
    (h : Memory.wf s = true) : Memory.wf (s.inCtx p f) = true := by
  unfold State.inCtx
  split
  · exact hf _ h
  · split
    · exact wf_inOther _ hf h
    · exact h

theorem wf_lapseLease (n : Nat) (k : CtxKind) (h : Memory.wf s = true) : Memory.wf (s.lapseLease n k) = true := by
  unfold State.lapseLease
  dsimp only
  split
  · exact wf_setCluster _ _ h (cluster_wf h _)
  · exact h

theorem wf_issueFrom (n : Nat) (k : CtxKind) (h : Memory.wf s = true) : Memory.wf (s.issueFrom n k) = true := by
  unfold State.issueFrom
  dsimp only
  split
  · exact h
  · split
    · exact h
    · exact wf_lapseLease (s := s) _ _ h

theorem wf_switchBank (k : CtxKind) (h : Memory.wf s = true) : Memory.wf (s.switchBank k) = true := wf_issueFrom _ _ h

theorem wf_bankGone (n : Nat) (k : CtxKind) (h : Memory.wf s = true) : Memory.wf (s.bankGone n k) = true := by
  have h1 := wf_lapseLease n k h
  unfold State.bankGone
  dsimp only
  split
  · split
    · exact wf_issueFrom _ _ h1
    · exact h1
  · exact h1

theorem wf_recordDeferred (h : Memory.wf s = true) : Memory.wf s.recordDeferred = true := by
  unfold State.recordDeferred
  refine foldl_keeps (P := fun t : State => Memory.wf t = true) (fun t d h => ?_) _ h
  exact h

theorem wf_endItem (h : Memory.wf s = true) : Memory.wf s.endItem = true := by
  have h1 : Memory.wf (s.recordDeferred.modCtx Ctx.ended) = true := wf_recordDeferred h
  unfold State.endItem
  dsimp only
  split
  · split
    · exact h1
    · exact wf_bankGone _ _ h1
  · exact h

theorem wf_takeTrap (c : BitVec 8) (a pc : W64) (k : StrandId) (d : Bool) (h : Memory.wf s = true) :
    Memory.wf (s.takeTrap c a pc k d) = true := by
  unfold State.takeTrap
  dsimp only
  split
  · exact h
  · split
    · exact wf_endItem h
    · exact h

theorem wf_returnTrap (h : Memory.wf s = true) : Memory.wf s.returnTrap = true := by
  unfold State.returnTrap
  dsimp only
  split <;> exact h

theorem wf_raiseDeferred (d : DeferredCause) (h : Memory.wf s = true) : Memory.wf (s.raiseDeferred d) = true := by
  unfold State.raiseDeferred
  split
  · exact h
  · split
    · exact wf_takeTrap _ _ _ _ _ h
    · exact h

theorem wf_ringPut (r : RingReg) (e : List W64) (h : Memory.wf s = true) : Memory.wf (s.ringPut r e).2 = true := by
  unfold State.ringPut
  dsimp only
  split
  · exact h
  · refine Memory.wf_mem h ?_ rfl rfl
    dsimp only
    split
    · exact Mem.wf_write0 _ _ _ _ _ (mem_wf h)
    · exact mem_wf h

theorem wf_logViolation (d k : Nat) (a : W64) (p : BitVec 20) (q : Nat) (h : Memory.wf s = true) :
    Memory.wf (s.logViolation d k a p q) = true := by
  unfold State.logViolation
  have h1 := wf_ringPut (s.die d).vring [a, BitVec.ofNat 64 (p.toNat * 2 ^ 36 + q * 2 ^ 16 + d * 2 ^ 8 + k), s.cycle, 0] h
  exact wf_setDie _ _ h1 (die_wf h1 _)

theorem wf_logError (d k : Nat) (a : W64) (h : Memory.wf s = true) : Memory.wf (s.logError d k a) = true := by
  unfold State.logError
  have h1 := wf_ringPut (s.die d).ering [a, BitVec.ofNat 64 (d * 2 ^ 8 + k), s.cycle, 0] h
  exact wf_setDie _ _ h1 (die_wf h1 _)

theorem wf_hintFrom (die : Nat) (p : BitVec 20) (q va n pa : Nat) (h : Memory.wf s = true) :
    Memory.wf (s.hintFrom die p q va n pa).2 = true := by
  refine foldl_keeps (P := fun x : Option Hint × State => Memory.wf x.2 = true) (fun x i h => ?_) _ h
  split
  · exact h
  · unfold State.hintAt
    dsimp only
    split
    · exact wf_logViolation _ _ _ _ _ h
    · exact h

theorem wf_consultHints (die : Nat) (p : BitVec 20) (q va : Nat) (h : Memory.wf s = true) :
    Memory.wf (s.consultHints die p q va).2 = true := by
  unfold State.consultHints
  split
  · exact h
  · exact wf_hintFrom _ _ _ _ _ _ h

theorem wf_noteHint (k : StrandId) (va : W64) (h : Memory.wf s = true) : Memory.wf (s.noteHint k va) = true := by
  have h1 := wf_consultHints s.ctx.id.die (s.reqOf k 0).pasid (s.partyOf k) va.toNat h
  unfold State.noteHint
  generalize s.consultHints s.ctx.id.die (s.reqOf k 0).pasid (s.partyOf k) va.toNat = x at h1 ⊢
  exact h1

theorem wf_postFaultRec (f : FaultRec) (h : Memory.wf s = true) : Memory.wf (s.postFaultRec f) = true := by
  have h1 := wf_noteHint f.strand f.addr h
  revert h1
  unfold State.postFaultRec
  dsimp only
  generalize s.noteHint f.strand f.addr = u
  intro h1
  have h2 : Memory.wf (((u.modCtx (fun c => { c with fault := some f })).completeWaits).wake false s.here) = true := h1
  split
  · split
    · exact wf_switchBank _ h2
    · exact h2
  · exact h2

theorem wf_postFault (a : W64) (h : Memory.wf s = true) : Memory.wf (s.postFault a) = true := wf_postFaultRec _ h

theorem wf_trapAtIssue (c : BitVec 8) (a pc : W64) (k : Nat) (h : Memory.wf s = true) :
    Memory.wf (s.trapAtIssue c a pc k) = true := by
  unfold State.trapAtIssue
  refine wf_takeTrap _ _ _ _ _ ?_
  split
  · exact h
  · exact wf_logViolation _ _ _ _ _ h

theorem wf_settle (w : Stop) {t : State} (h : Memory.wf s = true) (ht : Memory.wf t = true) :
    Memory.wf (State.settle w s t) = true := by
  unfold State.settle
  split
  · exact h
  · exact wf_trapAtIssue (s := s.modMe _) _ _ _ _ h
  · exact wf_trapAtIssue (s := s.modMe _) _ _ _ _ h
  · exact wf_takeTrap _ _ _ _ _ ht
  · exact wf_postFault (s := t.modMe _) _ ht
  · exact ht

theorem wf_noteRequest (k : Nat) (h : Memory.wf s = true) : Memory.wf (s.noteRequest k) = true := h

theorem wf_noteMiss (k : Nat) (d : Bool) (h : Memory.wf s = true) : Memory.wf (s.noteMiss k d) = true := by
  unfold State.noteMiss
  split
  · exact wf_noteRequest _ h
  · exact h

theorem wf_noteWrite (k n c : Nat) (d : Bool) (h : Memory.wf s = true) : Memory.wf (s.noteWrite k n c d) = true := by
  unfold State.noteWrite
  split
  · exact wf_noteRequest _ h
  · exact h

theorem wf_readT (t : Target) (n : Nat) (h : Memory.wf s = true) : Memory.wf (s.readT t n).2 = true := by
  unfold State.readT
  cases t with
  | hbm k b c d =>
    have h1 := wf_noteMiss k d h
    dsimp only
    split
    · exact h1
    · exact Memory.wf_mem h1 (Mem.wf_read0 k n b _ (wf_foldAdds k n (mem_wf h1))) rfl rfl
  | host a => exact Memory.wf_mem h (Mem.wf_foldHost _ _ (mem_wf h)) rfl rfl
  | peer d w a => exact Memory.wf_mem h (Mem.wf_foldPeer _ _ (mem_wf h)) rfl rfl
  | _ => exact h

theorem wf_writeT (t : Target) (bs : List Byte) (p : Bool) (h : Memory.wf s = true) : Memory.wf (s.writeT t bs p) = true := by
  unfold State.writeT
  cases t with
  | scratch c o => exact wf_setCluster _ _ h (Cluster.wf_put _ _ _ (cluster_wf h _))
  | hbm k b c d =>
    have h1 := wf_noteWrite k bs.length c d h
    dsimp only
    split
    · exact Memory.wf_mem h1 (Mem.wf_write1 _ _ _ (mem_wf h1)) rfl rfl
    · exact Memory.wf_mem h1 (Mem.wf_write0 _ _ _ _ _ (wf_foldAdds _ _ (mem_wf h1))) rfl rfl
  | host a =>
    have hm := Mem.wf_iff.1 (Mem.wf_foldHost a bs.length (mem_wf h))
    exact Memory.wf_mem h (Mem.wf_iff.2 ⟨hm.1, hm.2.1, wf_cellsPut _ _ hm.2.2.1, hm.2.2.2⟩) rfl rfl
  | peer d w a =>
    dsimp only
    split
    · rename_i k _
      have hm := Mem.wf_iff.1 (Mem.wf_foldPeer k bs.length (mem_wf h))
      exact Memory.wf_mem h (Mem.wf_iff.2 ⟨hm.1, hm.2.1, hm.2.2.1, wf_cellsPut _ _ hm.2.2.2⟩) rfl rfl
    · exact h
  | regs d o => exact h
  | priv d o =>
    dsimp only
    split
    · exact h
    · exact wf_setDie _ _ h (wf_cellsPut _ _ (die_wf h _))

theorem wf_noteEcc (k : BitVec 2) (l : Bool) (a : W64) (h : Memory.wf s = true) : Memory.wf (s.noteEcc k l a) = true := h

theorem wf_leaveCopy (c : CopyIn) (n k : Nat) (h : Memory.wf s = true) : Memory.wf (s.leaveCopy c n k) = true := by
  unfold State.leaveCopy; split <;> exact h

theorem wf_leaveRdc (d k : Nat) (h : Memory.wf s = true) : Memory.wf (s.leaveRdc d k) = true := by
  unfold State.leaveRdc; split
  · exact wf_leaveCopy _ _ _ h
  · exact h

theorem wf_noteRead (c : Option CopyIn) (k : Nat) (h : Memory.wf s = true) : Memory.wf (s.noteRead c k) = true := by
  unfold State.noteRead
  refine wf_leaveRdc _ _ ?_
  split
  · exact wf_leaveCopy _ _ _ h
  · exact h
theorem wf_noteCopies (k : Nat) (h : Memory.wf s = true) : Memory.wf (s.noteCopies k) = true :=
  wf_noteRead _ _ h

end State

/-- A meaning that keeps the canonical form keeps it as the machine runs it. -/
theorem wf_run {m : M Unit} (hm : Keeps m) (h : Memory.wf s = true) : ∃ t, run m s = .next t ∧ Memory.wf t = true := by
  have h1 := hm s h
  unfold run
  generalize m s = r at h1 ⊢
  cases r with
  | ok a t => exact ⟨t, rfl, h1⟩
  | error e t => exact ⟨_, rfl, State.wf_settle e h h1⟩

theorem wf_locate (r : Req) (va : W64) (w : Bool) (h : Memory.wf s = true) : Memory.wf (locate s r va w).2 = true := by
  have h1 := wf_translate r va.toNat w h
  unfold locate
  split
  · exact h
  · split
    · exact h
    · generalize translate s r va.toNat w = x at h1 ⊢
      obtain ⟨t, s1⟩ := x
      cases t <;> exact h1

theorem keeps_violate {α : Type} (k : Nat) (a : W64) : Keeps (violate k a : M α) :=
  keeps_bind (keeps_modify fun _ h => State.wf_logViolation _ _ _ _ _ h) fun _ => keeps_throw _

theorem keeps_findAny (st : StrandId) (tlb : Nat) (va : W64) (w : Bool) : Keeps (findAny st tlb va w) := by
  refine keeps_get fun s h => ?_
  have h1 : Memory.wf (if s.ctx.id.kind = .clove then (locateClove s s.ctx.id.die va, s) else locate s (s.reqOf st tlb) va w).2 = true := by
    split
    · exact h
    · exact wf_locate _ _ _ h
  revert h1
  generalize (if s.ctx.id.kind = .clove then (locateClove s s.ctx.id.die va, s) else locate s (s.reqOf st tlb) va w) = x
  intro h1
  refine keeps_bind (keeps_set h1) fun _ => ?_
  obtain ⟨f, s1⟩ := x
  cases f with
  | at_ t leaf => exact keeps_pure _
  | pageFault => exact keeps_throw _
  | violation k => exact keeps_violate _ _

theorem keeps_findT (st : StrandId) (tlb : Nat) (va : W64) (w : Bool) : Keeps (findT st tlb va w) := by
  refine keeps_bind (keeps_findAny st tlb va w) fun x => keeps_get fun s _ => ?_
  obtain ⟨t, leaf⟩ := x
  cases t with
  | regs d o => exact keeps_ite (keeps_pure _) (keeps_violate _ _)
  | _ => exact keeps_pure _

theorem keeps_checkLink (va : W64) (t : Target) : Keeps (checkLink va t) := by
  refine keeps_get fun s h => ?_
  split
  · exact keeps_pure _
  · exact keeps_violate _ _
  · exact keeps_throw _

theorem keeps_filled (t : Target) (n : Nat) : Keeps (filled t n) := keeps_get fun _ _ => keeps_check _ _
theorem keeps_clearFor (st : StrandId) (t : Target) (n : Nat) : Keeps (clearFor st t n) :=
  keeps_get fun _ _ => keeps_bind (keeps_check _ _) fun _ => keeps_filled _ _

theorem keeps_readWith {note : State → Nat → State} (hn : ∀ s k, Memory.wf s = true → Memory.wf (note s k) = true) (st : StrandId)
    (va : W64) (t : Target) (n : Nat) : Keeps (readWith note st va t n) := by
  refine keeps_get fun s h => ?_
  refine keeps_bind (keeps_clearFor _ _ _) fun _ => keeps_bind (keeps_checkLink _ _) fun _ => ?_
  have h1 := State.wf_readT t n h
  revert h1
  generalize s.readT t n = x
  intro h1
  obtain ⟨g, s1⟩ := x
  refine keeps_bind (keeps_set ?_) fun _ => ?_
  · split
    · exact hn _ _ h1
    · exact h1
  · exact keeps_ite (keeps_bind (keeps_modify fun _ h => State.wf_noteEcc _ _ _ h) fun _ =>
      keeps_bind (keeps_throw _) fun _ => keeps_pure _) (keeps_pure _)

theorem keeps_readM (st : StrandId) (va : W64) (t : Target) (n : Nat) : Keeps (readM st va t n) :=
  keeps_readWith (fun _ _ => State.wf_noteCopies _) st va t n

theorem keeps_fetchM (st : StrandId) (va : W64) (t : Target) (n : Nat) : Keeps (fetchM st va t n) :=
  keeps_readWith (fun _ _ => State.wf_noteRead _ _) st va t n

theorem keeps_writeM (st : StrandId) (pc va : W64) (t : Target) (bs : List Byte) (p : Bool) : Keeps (writeM st pc va t bs p) := by
  refine keeps_get fun s h => ?_
  refine keeps_ite (keeps_modify fun _ h => h) ?_
  refine keeps_bind (keeps_filled _ _) fun _ => keeps_bind (keeps_checkLink _ _) fun _ => ?_
  exact keeps_ite (keeps_bind (keeps_modify fun _ h => State.wf_noteEcc _ _ _ h) fun _ =>
    keeps_bind (keeps_throw _) fun _ => keeps_modify fun _ h => State.wf_writeT _ _ _ h)
    (keeps_modify fun _ h => State.wf_writeT _ _ _ h)

theorem keeps_checkAddr (a : W64) (n : Nat) : Keeps (checkAddr a n) :=
  keeps_get fun _ _ => keeps_bind (keeps_check _ _) fun _ => keeps_check _ _

end Sys2Proof.Machine
end

