-- ==== Sys2Proof/Tests/Slice0.lean ====
section
/-! SUPPORT. The model's own tests: terms that well-formedness refuses, the words the manual works out, single steps with the
results the manual works out, and for every statement a state and operands that meet its hypotheses. -/

set_option Elab.async false

namespace Sys2Proof.Tests

open Sys2Proof.Machine

/-! ## Terms that are not well formed, one for each check -/

theorem test_no_tokens_refused : (Instr.tpost 0 0).wellFormed = false ∧ (Instr.twait 7 true 0).wellFormed = false ∧
    (Instr.tpost 0 255).wellFormed = true := by decide

theorem test_loop_without_body_refused : (Instr.loop 1 1).wellFormed = false ∧ (Instr.loopRot 1 0).wellFormed = false ∧
    (Instr.loop 1 2).wellFormed = true := by decide

theorem test_command_without_result_refused : (Instr.ceCopy 0 7).wellFormed = false ∧ (Instr.ceFill 0 7).wellFormed = false ∧
    (Instr.ceGath 0 7).wellFormed = false ∧ (Instr.engLnch 0 1).wellFormed = false ∧
    (Instr.nbMv 0 4 5 6 63 0 0 5).wellFormed = false ∧ (Instr.nbSaxpy 0 4 5 6 63 0 0 0).wellFormed = false ∧
    (Instr.nbRcpy 0 4 6 63 0 0 0).wellFormed = false ∧ (Instr.nbRzero 0 4 63 0 0 0).wellFormed = false ∧
    (Instr.gsQry 0 10 11 1 0 0 5).wellFormed = false := by decide

theorem test_table_and_profile_refused : (Instr.mma 0 4 7 8 2 true 1 0 1).wellFormed = false ∧
    (Instr.mmaZ 0 4 7 8 2 true 1 0 1).wellFormed = false ∧ (Instr.mma 0 4 7 8 2 true 1 0 0).wellFormed = true := by decide

theorem test_parameter_without_use_refused : (Instr.mxDrain 0 (.sq 0) 0 0 7 false true false false 0).wellFormed = false ∧
    (Instr.mxDrain 0 (.sq 0) 0 0 7 true true false false 0).wellFormed = true := by decide

/-! ## Words the manual works out (17 to 20) -/

theorem test_words_alu : decodeTableWord 32 0x80940150 = some (.clz 9 8) ∧ decodeTableWord 32 0x80531C50 = some (.div 5 6 7) ∧
    decodeTableWord 32 0x80531C80 = some (.remu 5 6 7) ∧ decodeTableWord 32 0x80531CC0 = some (.shl 5 6 7) ∧
    decodeTableWord 32 0x80531D40 = some (.maxu 5 6 7) ∧ decodeTableWord 32 0x80940160 = some (.popc 9 8) := by decide

theorem test_words_immediate : decodeTableWord 32 0x82800003 = some (.addi 8 0 3) ∧ decodeTableWord 32 0x86407FFF = some (.ori 4 0 (-1)) ∧
    decodeTableWord 32 0x8A537FFF = some (.slti 5 6 (-1)) ∧ decodeTableWord 32 0x8C32203F = some (.shrai 3 4 63) ∧
    decodeTableWord 32 0x8C739020 = some (.shri 7 7 32) ∧ decodeTableWord 32 0x8E6FFFFF = some (.lih 6 0xFFFFF) := by decide

theorem test_words_control : decodeTableWord 32 0x92C00003 = some (.bne 12 0 3) ∧ decodeTableWord 32 0x9C0FFFFD = some (.jal 0 (-3)) ∧
    decodeTableWord 32 0x9E128000 = some (.jalr 1 5 0) ∧ decodeTableWord 32 0xA8040003 = some (.loop 8 3) ∧
    decodeTableWord 32 0xAB400000 = some (.loopR true 2) ∧ decodeTableWord 32 0xAC000000 = some .brkL := by decide

theorem test_words_memory : decodeTableWord 32 0xA022E004 = some (.ldWz 2 5 4) ∧ decodeTableWord 32 0xA2A29000 = some (.st 10 5 .h 0) ∧
    decodeTableWord 32 0xA4049280 = some (.amoFaddF32 0 9 4) ∧ decodeTableWord 32 0xA4329240 = some (.amoCas 3 5 4 .w) := by decide

theorem test_words_fence : decodeTableWord 32 0xA6100000 = some (.fence .die) ∧ decodeTableWord 32 0xA6580000 = some (.bfence .package) ∧
    decodeTableWord 32 0xA6994000 = some (.clInv .package 5) ∧ decodeTableWord 32 0xA7194000 = some (.clWbi .package 5) ∧
    decodeTableWord 32 0xA7594000 = some (.tlbInv .package 5) := by decide

theorem test_words_system : decodeTableWord 32 0xAE100000 = some .rett ∧ decodeTableWord 32 0xAE300000 = some .halt ∧
    decodeTableWord 32 0xAE528000 = some (.csrRd 5 0x000) ∧ decodeTableWord 32 0xAE738011 = some (.csrSet 7 0 0x011) ∧
    decodeTableWord 32 0xAE968001 = some (.knrd 13 1) := by decide

theorem test_words_queue : decodeTableWord 32 0xB00E8000 = some (.qpush 0 7) ∧ decodeTableWord 32 0xB04CA000 = some (.qpop 6 2 false) ∧
    decodeTableWord 32 0xB0408800 = some (.qpop 0 0 true) ∧ decodeTableWord 32 0xB10A1000 = some (.qstat 5 (.lq 1)) ∧
    decodeTableWord 32 0xB0811001 = some (.tpost 1 1) ∧ decodeTableWord 32 0xB0C10001 = some (.twait 0 false 1) := by decide

theorem test_words_tile_memory : decodeTableWord 32 0xB2A80080 = some (.tld 1 10 0 0 .w4 false) ∧
    decodeTableWord 32 0xB2340060 = some (.tld 0 13 0 0 .w2 true) ∧ decodeTableWord 32 0xB6C58001 = some (.probe 12 11 1) ∧
    decodeTableWord 32 0xB85B0300 = some (.tst 0 11 12 1 .w4) := by decide

theorem test_words_predicate : decodeTableWord 32 0xBC0C00FF = some (.pset 3 0x00FF) ∧
    decodeTableWord 32 0xBC522700 = some (.plogAndn 4 8 9) ∧ decodeTableWord 32 0xBC8A5000 = some (.pmovFromP 2 5) ∧
    decodeTableWord 32 0xBCE00011 = some (.lset true 0 17) ∧ decodeTableWord 32 0xBD0E0002 = some (.trbset 7 2) ∧
    decodeTableWord 32 0xBE62A000 = some (.shape 6 5 1) := by decide

theorem test_words_units : decodeTableWord 32 0xE0938014 = some (.ceGath 9 7) ∧ decodeTableWord 32 0xE093800C = some (.ceFill 9 7) ∧
    decodeTableWord 32 0xE2652C04 = some (.tuneDecl (some 6) 10 11) ∧ decodeTableWord 32 0xE268002C = some (.tuneSave (some 6) 16) ∧
    decodeTableWord 32 0xE6000800 = some (.barArrive .die) ∧ decodeTableWord 32 0xE8750004 = some (.slotSet (some 7) 10) := by decide

theorem test_words_engines : decodeTableWord 32 0xE8328414 = some (.slotWb (some 3) 5 true) ∧
    decodeTableWord 32 0xE8028008 = some (.slotInv none 5 false) ∧ decodeTableWord 32 0xEA650014 = some (.engLnch 6 10) ∧
    decodeTableWord 32 0xEA048C00 = some (.engWait .gse 9) ∧ decodeTableWord 32 0xEA50040C = some (.engSeq 5 .mxa) ∧
    decodeTableWord 32 0xEC920024 = some (.mxAct 9 4) ∧ decodeTableWord 32 0xEE621404 = some (.gsCfg (some 6) 4 5) := by decide

/-- The head of a tile instruction with guard P0 and profile 0. -/
def plain : TileHd := { qp := 0, np := 0 }

theorem test_words_arith : decodeTableWord 64 0x9526000070046151 =
      some (.vmul { qp := 3, np := 0 } (.tile 1 .row .la) (.tile 2 .row .la) (.mq 1 false)) ∧
    decodeTableWord 64 0x80C0000070300202 = some (.dwadd plain (.tile 2 .whole .zero) (.tile 4 .whole .zero) (.tile 6 .whole .zero)) ∧
    decodeTableWord 64 0x8120000070200404 = some (.vaddx plain (.tile 4 .whole .zero) (.tile 8 .whole .zero) (.tile 9 .whole .zero)) ∧
    decodeTableWord 64 0xE0D0020070100302 = some (.vcmp plain 3 (.tile 5 .col .zero) (.tile 6 .col .zero) .lt) ∧
    decodeTableWord 64 0x8060400070120101 =
      some (.vsel plain (.tile 1 .whole .zero) (.tile 2 .whole .zero) (.tile 3 .whole .zero) 4) := by decide +kernel

theorem test_words_perm : decodeTableWord 64 0x9800000074060300 = some (.vbcr plain (.tile 3 .whole .zero) (.tile 0 .row .lb)) ∧
    decodeTableWord 64 0xF8000000740C0452 = some (.vext plain (.tile 4 .row .la) (.tile 5 .diag .lb)) ∧
    decodeTableWord 64 0x8000000074000030 = some (.vmov plain (.sq 0) (.tile 0 .whole .zero)) ∧
    decodeTableWord 64 0x8060000072140101 =
      some (.vshShra plain (.tile 1 .whole .zero) (.tile 2 .whole .zero) (.tile 3 .whole .zero)) := by decide +kernel

theorem test_words_redu : decodeTableWord 64 0xC000000076160644 = some (.vredcCadd plain (.tile 6 .row .zero) (.tile 9 .whole .zero)) ∧
    decodeTableWord 64 0x8000020076200101 = some (.vsf plain (.tile 1 .whole .zero) (.tile 2 .whole .zero) .rcp) := by decide +kernel

theorem test_words_matrix : decodeTableWord 64 0x8000000378200299 = some (.mmaZ 0 0 5 6 1 false 0 0 3) ∧
    decodeTableWord 64 0x83E0000078400300 = some (.mxDrain 0 (.sq 0) 0 0 7 true true false false 0) ∧
    decodeTableWord 64 0x9498000078404010 = some (.mxDrain 0 (.tile 4 .whole .zero) 2 1 9 false false true true 0) := by decide +kernel

theorem test_words_graph : decodeTableWord 64 0x800000007C0952D0 = some (.gsQry 9 10 11 1 0 0 0) := by decide +kernel

/-- Words with a bit set that has to be zero, of an unassigned code, or cut off, stand for nothing. -/
theorem test_words_refused : decodeTableWord 32 0xAC000001 = none ∧ decodeTableWord 32 0xA0287008 = none ∧
    decodeTableWord 32 0xA624C000 = none ∧ decodeTableWord 32 0xBE628001 = none ∧
    decodeTableWord 64 0xE0D0060070100302 = none := by decide +kernel

/-! ## Small states -/

/-- An item of process 1 and task 1, resident in bank A of core 0. -/
def who : Ident :=
  { kind := .A, die := 0, core := 0, pasid := 1, item := 0, pers := false, det := false, task := 1, gang := 0,
    residency := .resident, since := 0, area := 0 }

/-- A strand at the lowest scratchpad address with some registers set. -/
def strandWith (regs : List (Nat × W64)) : Strand :=
  { Strand.reset with pc := scratchBase, x := regs.foldl (fun v r => v.setIfInBounds r.1 r.2) Strand.reset.x }

/-- The machine after reset with that item, whose four strands hold the same registers, and one of them acting. -/
def on (k : StrandId) (regs : List (Nat × W64)) : State :=
  let p := strandWith regs
  { State.reset with ctx := { Ctx.fresh who with l := p, c := p, s := p, k := p }, strand := k,
                     issue := { Issue.idle with pc := scratchBase, word := 0x12345 } }

/-- A leaf of page 0x30_0000 that maps it to itself: valid, writable, accessed and dirty, coherent, in space 0. -/
def coherent : W64 := 0x30005F

/-- The page from 0x30_0000 on is translated by a leaf in every TLB of core 0. -/
def paged (s : State) (leaf : W64) : State :=
  { s with mem := { s.mem with tlb := (List.range 11).map (fun k => { core := 0, stream := k, pasid := 1, vpage := 0x30, pages := 1, leaf }) } }

/-- A doubleword of page 0x30_0000 in DRAM, or of the scratchpad of cluster 0. -/
def putD (s : State) (a v : Nat) : State := { s with mem := { s.mem with dram := cellsPut s.mem.dram a (bytesOfNat 8 v) } }
def putS (s : State) (o v : Nat) : State :=
  s.setCluster 0 { s.cluster 0 with mem := cellsPut (s.cluster 0).mem o (bytesOfNat 8 v) }

/-- What a register of the acting strand holds. -/
def reg (t : State) (r : Nat) : W64 := (t.ctx.str t.strand).x.getD r 0

/-- An answer is a next state with a property. -/
def next (o : Host.Outcome State Fault Refusal) (p : State → Bool) : Bool :=
  match o with
  | .next t => p t
  | _ => false

/-- One step of a machine in which a word has been placed. -/
def runs (s : State) (nbits w : Nat) (p : State → Bool) : Bool := next (step (s.withFetchWord nbits w)) p

/-! ## Single steps, with the results the manual works out (17 to 20) -/

theorem test_add : runs (on .K [(6, 0xFFFFFFFFFFFFFFFF), (7, 2)]) 32 0x80531C00 (fun t => reg t 5 == 1) = true := by decide +kernel
theorem test_sub : runs (on .K [(6, 0), (7, 1)]) 32 0x80531C10 (fun t => reg t 5 == 0xFFFFFFFFFFFFFFFF) = true := by decide +kernel
theorem test_clz : runs (on .K [(8, 0x10000)]) 32 0x80940150 (fun t => reg t 9 == 47) = true := by decide +kernel
theorem test_clz_zero : runs (on .K []) 32 0x80940150 (fun t => reg t 9 == 64) = true := by decide +kernel
theorem test_popc : runs (on .K [(8, 0xFF0F)]) 32 0x80940160 (fun t => reg t 9 == 12) = true := by decide +kernel
theorem test_div : runs (on .K [(6, -7), (7, 2)]) 32 0x80531C50 (fun t => reg t 5 == -3) = true := by decide +kernel
theorem test_divu : runs (on .K [(6, -7), (7, 2)]) 32 0x80531C60 (fun t => reg t 5 == 0x7FFFFFFFFFFFFFFC) = true := by decide +kernel
theorem test_divu_zero : runs (on .K [(6, -7)]) 32 0x80531C60 (fun t => reg t 5 == -1) = true := by decide +kernel
theorem test_rem : runs (on .K [(6, -7), (7, 2)]) 32 0x80531C70 (fun t => reg t 5 == -1) = true := by decide +kernel
theorem test_remu : runs (on .K [(6, -7), (7, 2)]) 32 0x80531C80 (fun t => reg t 5 == 1) = true := by decide +kernel
theorem test_mulh : runs (on .K [(6, -1), (7, 2)]) 32 0x80531C30 (fun t => reg t 5 == -1) = true := by decide +kernel
theorem test_mulhu : runs (on .K [(6, -1), (7, 2)]) 32 0x80531C40 (fun t => reg t 5 == 1) = true := by decide +kernel
theorem test_min : runs (on .K [(6, -1), (7, 5)]) 32 0x80531D10 (fun t => reg t 5 == -1) = true := by decide +kernel
theorem test_maxu : runs (on .K [(6, -1), (7, 5)]) 32 0x80531D40 (fun t => reg t 5 == -1) = true := by decide +kernel
theorem test_shl_width : runs (on .K [(6, 5), (7, 64)]) 32 0x80531CC0 (fun t => reg t 5 == 0) = true := by decide +kernel
theorem test_shrai : runs (on .K [(4, -16)]) 32 0x8C32203F (fun t => reg t 3 == -1) = true := by decide +kernel
theorem test_slti : runs (on .K [(6, -2)]) 32 0x8A537FFF (fun t => reg t 5 == 1) = true := by decide +kernel
theorem test_andi : runs (on .K [(4, 0xFFFF)]) 32 0x84427FF0 (fun t => reg t 4 == 0xFFF0) = true := by decide +kernel
theorem test_lih : runs (on .K []) 32 0x8E508668 (fun t => reg t 5 == 0x8668000) = true := by decide +kernel
theorem test_lih_sign : runs (on .K []) 32 0x8E6FFFFF (fun t => reg t 6 == 0xFFFFFFFFFFFFF000) = true := by decide +kernel

theorem test_blt_taken : runs (on .K [(3, -1), (4, 1)]) 32 0x94327FFE (fun t => t.ctx.k.pc == scratchBase - 8) = true := by decide +kernel
theorem test_bltu_not_taken : runs (on .K [(3, -1), (4, 1)]) 32 0x98327FFE (fun t => t.ctx.k.pc == scratchBase + 4) = true := by
  decide +kernel
theorem test_jalr_misaligned : runs (on .K [(1, 7), (5, 0x200102)]) 32 0x9E128000 (fun t => t.ctx.trap.cause == 0x0A &&
    t.ctx.trap.addr == 0x200102 && reg t 1 == 7 && t.ctx.id.residency == .ended) = true := by decide +kernel
theorem test_loop : runs (on .K [(8, 2)]) 32 0xA8040003 (fun t => t.ctx.k.loop0.active && t.ctx.k.loop0.cnt == 1 &&
    t.ctx.k.loop0.stop == scratchBase + 12) = true := by decide +kernel

theorem test_ldb : runs (putD (paged (on .K [(5, 0x300000)]) coherent) 0x300000 0x1122334455667788) 32 0xA0228000
    (fun t => reg t 2 == 0xFFFFFFFFFFFFFF88) = true := by decide +kernel
theorem test_ldw : runs (putD (paged (on .K [(5, 0x300000)]) coherent) 0x300000 0x1122334455667788) 32 0xA022A004
    (fun t => reg t 2 == 0x11223344) = true := by decide +kernel
theorem test_ldh_misaligned : runs (paged (on .K [(5, 0x300000)]) coherent) 32 0xA0229001
    (fun t => t.ctx.trap.cause == 0x0A && t.ctx.trap.addr == 0x300001) = true := by decide +kernel
theorem test_sth : runs (paged (on .K [(5, 0x300000), (10, 0x12343C00)]) coherent) 32 0xA2A29000
    (fun t => (t.readT (.hbm 0x300000 false 0 false) 4).1.data == [0x00, 0x3C, 0, 0]) = true := by decide +kernel
theorem test_cas : runs (putD (paged (on .K [(5, 0x300000), (3, 0xFFFFFFFFFFFFFFFE), (4, 7)]) coherent) 0x300000 0xFFFFFFFE) 32
    0xA4329240 (fun t => reg t 3 == 0xFFFFFFFFFFFFFFFE && (t.readT (.hbm 0x300000 false 0 false) 4).1.data == [7, 0, 0, 0]) = true := by
  decide +kernel
theorem test_fflags_clear : runs ((on .K [(4, 0x10)]).modCtx (fun c => { c with csr := { c.csr with fflags := 0x50 } })) 32 0xAE801011
    (fun t => t.ctx.csr.fflags == 0x40) = true := by decide +kernel
theorem test_halt : runs (on .K []) 32 0xAE300000 (fun t => t.ctx.k.halted && !t.ctx.l.halted) = true := by decide +kernel
theorem test_rett_illegal : runs (on .K []) 32 0xAE100000 (fun t => t.ctx.trap.cause == 0x01 && t.ctx.trap.addr == 0xAE100000) = true := by
  decide +kernel

theorem test_lset : runs (on .C [(5, 62)]) 32 0xBCC50003 (fun t => t.ctx.comp.la == 1) = true := by decide +kernel
theorem test_trbset : runs (on .C [(7, 15)]) 32 0xBD0E0002 (fun t => t.ctx.comp.trb == 1) = true := by decide +kernel
theorem test_plog : runs ((on .C []).modCtx (fun c => { c with comp :=
      { c.comp with preds := (c.comp.preds.setIfInBounds 8 0xFFFF).setIfInBounds 9 0x00F0 } })) 32 0xBC522700 (fun t => t.ctx.comp.preds.getD 4 0 == 0xFF0F) = true := by
  decide +kernel
theorem test_pset_p0 : runs (on .C []) 32 0xBC0000FF (fun t => t.ctx.comp.preds.getD 0 7 == 0) = true := by decide +kernel

/-- A shape slot's word: one type in every field, and M, N and K. -/
def shapeOf (ty m n k : Nat) : W64 := BitVec.ofNat 64 (ty * 0x111100000000 + (k - 1) * 2 ^ 16 + (n - 1) * 2 ^ 7 + (m - 1))

/-- A tile with some containers set. -/
def tileOf (l : List (Nat × Nat × W32)) : Tile :=
  Vector.ofFn (fun i : Fin 16 => Vector.ofFn (fun j : Fin 64 =>
    ((l.find? (fun e => e.1 == i.val && e.2.1 == j.val)).map (fun e => e.2.2)).getD 0))

/-- The compute strand under a grant in slot 0, with some tiles. -/
def tiles (g : W64) (l : List (Nat × Tile)) : State :=
  (on .C []).modCtx (fun c => { c with comp := { c.comp with
    slots := c.comp.slots.setIfInBounds 0 g, tiles := l.foldl (fun v e => v.setIfInBounds e.1 e.2) c.comp.tiles } })

/-- A container of a tile of the machine. -/
def cell (t : State) (r i j : Nat) : W32 := ((t.ctx.comp.tiles.getD r Tile.zero).getD i (Vector.replicate 64 0)).getD j 0

theorem test_vadd_i8 : runs (tiles (shapeOf 0 1 2 16) [(5, tileOf [(0, 1, 0x64)]), (6, tileOf [(0, 1, 0x64)])]) 64 0xC0C0000070000402
    (fun t => cell t 4 0 1 == 0xC8 && cell t 4 0 0 == 0) = true := by decide +kernel
theorem test_vadd_sat_i8 : runs (tiles (shapeOf 0 1 1 16) [(2, tileOf [(0, 0, 100)]), (3, tileOf [(0, 0, 100)])]) 64 0x8060000070400101
    (fun t => cell t 1 0 0 == 0x7F && t.ctx.csr.fflags == 0x40) = true := by decide +kernel
theorem test_vabs_i8 : runs (tiles (shapeOf 0 1 1 16) [(2, tileOf [(0, 0, 0x80)])]) 64 0x80000000700C0101
    (fun t => cell t 1 0 0 == 0x80) = true := by decide +kernel
theorem test_vmin_zero : runs (tiles (shapeOf 8 1 2 16) [(2, tileOf [(0, 0, 0x80000000), (0, 1, 0x3F800000)]), (3, tileOf [(0, 1, 0x7FC00001)])])
    64 0x8060000070080101 (fun t => cell t 1 0 0 == 0x80000000 && cell t 1 0 1 == 0x7FC00000) = true := by decide +kernel
theorem test_vsh_shra_i8 : runs (tiles (shapeOf 0 1 1 16) [(2, tileOf [(0, 0, 0x80400201)]), (3, tileOf [(0, 0, 0x08010701)])]) 64
    0x8060000072140101 (fun t => cell t 1 0 0 == 0xFF200000) = true := by decide +kernel
theorem test_dwadd : runs (tiles (shapeOf 8 1 1 16) [(4, tileOf [(0, 0, 0x3F800000)]), (5, tileOf [(0, 0, 0x30800000)]),
    (6, tileOf [(0, 0, 0xBF800000)]), (7, tileOf [(0, 0, 0x30000000)])]) 64 0x80C0000070300202
    (fun t => cell t 2 0 0 == 0x30C00000 && cell t 3 0 0 == 0 && t.ctx.csr.fflags == 0) = true := by decide +kernel
theorem test_vaddx_odd_traps : runs (tiles (shapeOf 8 1 1 16) []) 64 0x8120000070200505
    (fun t => t.ctx.trap.cause == 0x03) = true := by decide +kernel
theorem test_vcmp : runs (tiles (shapeOf 8 1 1 16) [(5, tileOf [(0, 0, 0x3F800000), (1, 0, 0x7FC00000), (2, 0, 0x80000000)]),
    (6, tileOf [(0, 0, 0x40000000), (1, 0, 0x40A00000)])]) 64 0xE0D0020070100302
    (fun t => t.ctx.comp.preds.getD 3 7 == 1) = true := by decide +kernel
theorem test_vsf_rcp : runs (tiles (shapeOf 8 1 1 16) [(2, tileOf [(0, 0, 0x40400000)])]) 64 0x8000020076200101
    (fun t => cell t 1 0 0 == 0x3EAAAAAB && t.ctx.csr.fflags == 0x10) = true := by decide +kernel
theorem test_vredc_cadd : runs (tiles (shapeOf 8 4 1 16) [(9, tileOf [(0, 0, 0x4B800000), (1, 0, 0x3F800000), (2, 0, 0x3F800000),
    (3, 0, 0xCB800000)])]) 64 0xC000000076160644
    (fun t => cell t 6 0 0 == 0x40000000 && cell t 7 0 0 == 0) = true := by decide +kernel
theorem test_vrotr : runs (tiles (shapeOf 4 1 64 16) [(0, tileOf [(0, 0, 70), (0, 63, 63), (0, 5, 5)])]) 64 0x8002000074020200
    (fun t => cell t 2 0 0 == 63 && cell t 2 0 1 == 70 && cell t 2 0 6 == 5) = true := by decide +kernel
theorem test_vext : runs ((tiles (shapeOf 4 1 1 16) [(5, tileOf [(0, 1, 7), (3, 4, 9)])]).modCtx (fun c =>
    { c with comp := { c.comp with la := 2, lb := 1 } })) 64 0xF8000000740C0452
    (fun t => cell t 4 2 0 == 7 && cell t 4 2 3 == 9) = true := by decide +kernel

/-- FP32 500.0 and -5 as I32, converted (20 R412). -/
theorem test_vcvt : next (exec (.vcvt plain (.tile 0 .whole .zero) (.tile 1 .whole .zero) 9) (tiles (shapeOf 8 1 1 16)
      [(1, tileOf [(0, 0, 0x43FA0000)])])) (fun t => cell t 0 0 0 == 0x7E && t.ctx.csr.fflags == 0x50) = true ∧
    next (exec (.vcvt plain (.tile 0 .whole .zero) (.tile 1 .whole .zero) 1) (tiles (shapeOf 4 1 1 16)
      [(1, tileOf [(0, 0, 0xFFFFFFFB)])])) (fun t => cell t 0 0 0 == 0 && t.ctx.csr.fflags == 0x40) = true := by decide +kernel

/-! ## Witnesses: for each statement, a state and operands that meet the hypotheses of its clauses -/

/-- A meaning comes to its end, and what it gives has a property. -/
def gives {α : Type} (m : M α) (s : State) (p : α → State → Bool) : Bool :=
  match m s with
  | .ok a t => p a t
  | .error .. => false

theorem gives_ok {α : Type} {m : M α} {s : State} {p : α → State → Bool} (h : gives m s p = true) :
    ∃ a t, m s = .ok a t ∧ p a t = true := by
  unfold gives at h
  split at h
  · exact ⟨_, _, by assumption, h⟩
  · contradiction

/-- The machine with the acting strand changed; with the acting context's identity changed. -/
def me (s : State) (f : Strand → Strand) : State := s.modMe f
def ident (s : State) (f : Ident → Ident) : State := s.modCtx (fun c => { c with id := f c.id })

/-- The machine with F of core 0, or Clove of die 0, acting. -/
def firmware (s : State) : State := ident s (fun i => { i with kind := .F, pasid := 0 })
def clove (s : State) : State := ident s (fun i => { i with kind := .clove, pasid := 0 })

/-- The machine with a register of the acting strand tainted. -/
def taints (s : State) (r : Nat) : State := me s (fun p => { p with taint := p.taint.setIfInBounds r true })

/-- A loop level that is open with a body of three words, which ends at the lowest scratchpad address plus four. -/
def openLevel (rotating : Bool) (cnt : W32) : LoopLevel :=
  { active := true, rotating, cnt, idx := 0, start := scratchBase - 8, stop := scratchBase + 4 }

/-- The same item standing at its loop body's end, with level 0 or level 1 (or, closed, none) open there. -/
def looping (k : StrandId) (one rotating : Bool) (cnt : W32) (pc : W64) : State :=
  me (on k []) (fun p => { p.setLevel one (openLevel rotating cnt) with pc })

theorem witness_ImmediateArithmetic : ∀ m ∈ [0x01, 0x02, 0x03, 0x04, 0x05, 0x07],
    fld (m * 2 ^ 25 + 0x427FF0) 25 6 ∈ [0x01, 0x02, 0x03, 0x04, 0x05, 0x07] := by decide

theorem witness_RegisterWrite : let s := on .K []
    let f := (firmware s).modCtx (fun c => { c with setup := true })
    let more : State := { f with issue := { f.issue with snap := some f.snapshot } }
    (31 : Reg) ≠ 0 ∧ s.bypassed 31 = false ∧ f.issue.snap = none ∧ f.bypassed 28 = true ∧ f.bypassed 31 = true ∧
    (f.cycle.toNat < BitVec.toNat (1 : W64) ∧ f.cycle.toNat < BitVec.toNat (3 : W64) ∧ BitVec.toNat (3 : W64) ≤ f.cycle.toNat + 3) ∧
    f.cycle.toNat + 3 < BitVec.toNat (4 : W64) ∧ more.issue.snap ≠ none ∧ more.bypassed 28 = true := by decide +kernel

theorem witness_ControlTransfers : let s := on .K [(3, -1), (4, 1), (5, 0x200102), (6, 0x80000000000000), (7, 0x7FFFFFFFFFFFFC)]
    let at_ (a : Reg) (off : BitVec 15) : Nat := (s.getX a + BitVec.ofInt 64 off.toInt).toNat
    (s.getX 3).toInt < (s.getX 4).toInt ∧ ¬(s.getX 3).toNat < (s.getX 4).toNat ∧ s.getX 0 = s.getX 0 ∧
    (at_ 5 2 % 4 = 0 ∧ at_ 5 2 < 2 ^ 55) ∧ (at_ 7 0 % 4 = 0 ∧ at_ 7 0 < 2 ^ 55) ∧ at_ 5 0 % 4 ≠ 0 ∧
    (at_ 6 0 % 4 = 0 ∧ 2 ^ 55 ≤ at_ 6 0) := by decide +kernel

theorem witness_LoopOpens : Allowed (on .K [(8, 1)]) (.loop 8 2) ∧ BitVec.setWidth 32 ((on .K [(8, 1)]).getX 8) ≠ 0 ∧
    Allowed (on .C [(8, 0xFFFFFFFF)]) (.loopRot 8 0x7FFF) ∧ BitVec.setWidth 32 ((on .C [(8, 0xFFFFFFFF)]).getX 8) ≠ 0 := by
  decide +kernel

theorem witness_LoopOpens_none : ∀ e ∈ [40, 8],
    let s := me (on .C [(8, 0x100000000)]) (fun p => { p with loop0 := { openLevel false 3 with stop := scratchBase + BitVec.ofNat 64 e } })
    BitVec.setWidth 32 (s.getX 8) = 0 ∧ (s.ctx.str s.strand).loop0.active = true ∧
    decide ((s.ctx.str s.strand).loop0.stop = s.issue.pc + BitVec.ofNat 64 (4 * 2)) = decide (e = 8) ∧
    Allowed s (.loop 8 2) ∧ Allowed s (.loopRot 8 2) := by decide +kernel

theorem witness_LoopBackEdge : ∀ one, [(0 : W32), 1, 0xFFFFFFFF].all (fun cnt =>
    let s := looping .K one false cnt (scratchBase + 4)
    let p := s.ctx.str s.strand
    let later := s.modCtx (fun c => { c with tsu := { c.tsu with epoch := 1 } })
    decide ((p.level one).active = true ∧ (p.level one).rotating = false ∧ (p.level one).stop = p.pc ∧
      (one = false → p.loop1.active = false ∨ p.loop1.stop ≠ p.pc) ∧
      (one = true → p.loop0.active = false ∨ p.loop0.stop ≠ p.pc) ∧
      (later.ctx.str .K).viewEpoch ≠ later.ctx.tsu.epoch ∧ later.strand = .K ∧ p.viewEpoch = s.ctx.tsu.epoch)) = true := by
  decide +kernel

theorem witness_LoopBackEdge_shared : [(0 : W32), 1].all (fun cnt =>
    let s := me (looping .C true false cnt (scratchBase + 4)) (fun p => { p with loop0 := openLevel false 5 })
    let p := s.ctx.str s.strand
    let later := s.modCtx (fun c => { c with tsu := { c.tsu with epoch := 1 } })
    decide ((p.loop1.active = true ∧ p.loop1.rotating = false ∧ p.loop1.stop = p.pc) ∧
      (p.loop0.active = true ∧ p.loop0.rotating = false ∧ p.loop0.stop = p.pc) ∧ p.loop1.cnt = cnt ∧
      (later.strand ≠ .K ∧ later.cycle = later.ctx.tsu.commitClk) ∧ { later with cycle := 1 }.cycle ≠ later.ctx.tsu.commitClk)) = true := by
  decide +kernel

theorem witness_LoopRotateAndBreak : ∀ one, [(0 : W32), 1].all (fun cnt =>
    let s := looping .C one true cnt scratchBase
    decide ((s.ctx.str s.strand).innermost = some one ∧ Allowed s (.loopR true 7) ∧ Allowed s (.loopR false 0) ∧ Allowed s .brkL ∧
      (one = false ∨ (s.ctx.str s.strand).loop0.active = false))) = true := by decide +kernel

theorem witness_WaitHaltNopKnob : let s := on .K []
    s.ctx.id.kind.isApp = true ∧ (firmware s).ctx.id.kind.isApp = false ∧ (1 : BitVec 10) ≠ 0 ∧
    (∃ k, k ≠ s.strand ∧ (s.ctx.str k).halted = false) ∧ ((me s (fun p => { p with waitUntil := some 0 })).ctx.str .K).waitUntil = some 0 ∧
    0 ≤ s.cycle.toNat ∧ ((me s (fun p => { p with waitUntil := some 1 })).ctx.str .K).waitUntil = some 1 ∧ s.cycle.toNat < 1 :=
  ⟨rfl, rfl, by decide, ⟨.L, by decide, rfl⟩, rfl, by decide, rfl, by decide⟩

theorem witness_WaitHaltNopKnob_last : ∀ k, k ≠ (on .K []).haltAll.strand → ((on .K []).haltAll.ctx.str k).halted = true := by
  intro k _; cases k <;> rfl

/-- The item with a handler, or in it after an exception of the load strand. -/
def handled (s : State) : State := s.modCtx (fun c => { c with trap := { c.trap with vec := 0x300100 } })
def inHandler (k : StrandId) (s : State) : State := s.modCtx (fun c =>
  { c with trap := { c.trap with vec := 0x300100, active := true, strand := k, cause := 0x0A, pc := scratchBase, rpc := scratchBase + 8 } })

theorem witness_ExceptionEntry : let s := handled (on .L [])
    s.ctx.trap.vec ≠ 0 ∧ s.ctx.trap.active = false ∧ (0x0F : BitVec 8) ≠ 0x10 ∧ s.ctx.id.kind.isApp = true ∧
    (on .L []).ctx.trap.vec = 0 ∧ (inHandler .L s).ctx.trap.active = true := by decide +kernel

theorem witness_ReturnFromException : let s := inHandler .L (on .K [])
    let load (pc : W64) : TileLoad := { q := 1, addr := 0x300000, stride := 256, rows := 1, width := .w4, zp := false, idx := none, pc, seq := 1 }
    let other := s.modCtx (fun c => { c with loads := [load (scratchBase + 16)] })
    let marker := s.modCtx (fun c => { c with loads := [load scratchBase], replaying := true })
    Allowed s .rett ∧ Allowed other .rett ∧ Allowed marker .rett ∧ s.ctx.trap.strand ≠ .K ∧ s.ctx.trap.defer = false ∧
    s.ctx.trap.cause ≠ 0x0E ∧ ¬(∃ l ∈ s.ctx.loads, l.pc = s.ctx.trap.pc) ∧ ¬(∃ l ∈ other.ctx.loads, l.pc = other.ctx.trap.pc) ∧
    (marker.ctx.trap.strand = .L ∧ ∃ l ∈ marker.ctx.loads, l.pc = marker.ctx.trap.pc) ∧
    (marker.ctx.replaying = true ∧ marker.ctx.loads ≠ []) ∧ (StrandId.C ≠ .K ∧ StrandId.C ≠ s.ctx.trap.strand) ∧
    (on .K []).ctx.id.kind ≠ .clove ∧ (on .K []).ctx.trap.active = false := by decide +kernel

/-- The item with causes that wait for its control strand. -/
def deferring (d : List DeferredCause) (s : State) : State := s.modCtx (fun c => { c with eng := { c.eng with deferred := d } })

/-- A cause to be raised, with the strands all halted or not, in a handler or not; and a view that a setting has replaced in this clk. -/
theorem witness_WaitHaltNopKnob_halted : let d : DeferredCause := { strand := .K, cause := 0x0A, pc := scratchBase, addr := 0x300001 }
    let s := on .C []
    let due := deferring [d] s.haltAll
    let old (k : StrandId) : State := me { s with strand := k } (fun p => { p with wasView := some (s.rdClk, Vector.replicate 16 7) })
    (s.haltAll.ctx.trap.active = false ∧ s.haltAll.ctx.eng.deferred = [] ∧ s.haltAll.ctx.allHalted = true ∧ s.ctx.allHalted = false) ∧
    (due.ctx.trap.active = false ∧ due.ctx.eng.deferred = d :: [] ∧ (due.ctx.str d.strand).halted = true) ∧
    ((deferring [d] s).ctx.str d.strand).halted = false ∧ (inHandler .L s).ctx.trap.active = true ∧
    ((∀ v, s.me.wasView ≠ some (s.rdClk, v)) ∧ (old .C).strand ≠ .K ∧ (old .C).me.wasView = some ((old .C).rdClk, Vector.replicate 16 7) ∧
      (old .K).strand = .K) := by
  refine ⟨by decide +kernel, by decide +kernel, by decide +kernel, by decide +kernel, fun v => ?_, by decide +kernel, by decide +kernel, by decide +kernel⟩
  exact fun h => nomatch h

theorem witness_SoftwareIllegalAndDeferredTraps : let d : DeferredCause := { strand := .K, cause := 0x0A, pc := scratchBase, addr := 0x300001 }
    let s := deferring [d] (on .K [])
    s.ctx.eng.deferred = [d] ∧ d.strand = s.strand := by decide +kernel

theorem witness_LegalityAndStrands : (on .K []).illegal .rett = true ∧ (on .K []).illegal .brkL = true ∧
    (clove (on .K [])).illegal (.vadd plain (.tile 1 .whole .zero) (.tile 2 .whole .zero) (.tile 3 .whole .zero)) = true ∧
    (inHandler .L (on .L [])).illegal .rett = false ∧ (inHandler .L (on .L [])).strandBad .rett = true ∧
    (on .C []).illegal (.ldD 1 2 0) = false ∧ (on .C []).strandBad (.ldD 1 2 0) = true ∧ (on .C []).ctx.id.kind.isApp = true := by
  decide +kernel

theorem witness_CsrInstructions : let s := on .L [(4, 0x10)]
    let d := taints (ident s (fun i => { i with det := true })) 4
    Allowed s (.csrRd 5 0x000) ∧ s.strand ≠ .C ∧ Allowed s (.csrWr 5 4 0x010) ∧ Allowed s (.csrSet 5 4 0x114) ∧
    Allowed s (.csrClr 5 4 0x012) ∧ (4 : Reg) ≠ 0 ∧ Allowed s (.csrSet 7 0 0x000) ∧ Allowed s (.csrClr 7 0 0x214) ∧ s.tainted 4 = false ∧
    (∀ n ∈ [(0x010 : BitVec 10), 0x012], ∀ i ∈ [Instr.csrWr 5 4 n, .csrSet 5 4 n, .csrClr 5 4 n], Allowed d i) ∧
    d.ctx.id.kind.isApp = true ∧ d.ctx.id.det = true ∧ d.tainted 4 = true := by decide +kernel

theorem witness_CsrStoreReadsBack : let s := { on .K [] with cycle := 1 }
    s.issue.snap = none ∧ s.cycle ≠ s.ctx.csr.raised.1 ∧ s.part ≠ .sl3240m := by decide +kernel

/-- The item with memory to reach: X5 names byte `o` of page 0x30_0000, X6 the lowest scratchpad address, X4 holds 7. -/
def reaching (k : StrandId) (leaf : W64) (o : Nat := 0) : State :=
  putS (putD (paged (on k [(4, 7), (5, BitVec.ofNat 64 (0x300000 + o)), (6, scratchBase)]) leaf) 0x300000 0x1122334455667788) 0 9

/-- Leaves of the same page: uncached, on a BANK page, read-shared, read-only, in space 1, of host memory, and with deferred adds. -/
def uncached : W64 := 0x30405F
def bankPage : W64 := 0x3000DF
def readShared : W64 := 0x30003F
def readOnly : W64 := 0x30004F
def direct : W64 := 0x10000030005F
def ofHost : W64 := 0x20000030005F
def detPage : W64 := 0x30105F

/-- The checks of a scalar access of n bytes at an address pass, and its translation gives a target with a property of the
state after it. -/
def reaches (s : State) (va : W64) (n : Nat) (w : Bool) (p : Target → W64 → State → Bool) : Bool :=
  decide (va.toNat % n = 0 ∧ (s.ctx.id.kind = .clove ∨ bitsAt va 55 9 = 0) ∧ (s.strand ≠ .L ∨ s.ctx.loads = [])) &&
  gives (findT s.strand 0 va w) s (fun a u => p a.1 a.2 u)

theorem reaches_ok {s : State} {va : W64} {n : Nat} {w : Bool} {p : Target → W64 → State → Bool} (h : reaches s va n w p = true) :
    ∃ g leaf u, Reaches s va n w g leaf u ∧ p g leaf u = true := by
  simp only [reaches, Bool.and_eq_true, decide_eq_true_eq] at h
  obtain ⟨⟨h1, h2, h3⟩, h4⟩ := h
  obtain ⟨⟨g, leaf⟩, u, h5, h6⟩ := gives_ok h4
  exact ⟨g, leaf, u, ⟨h1, h2, h3, h5⟩, h6⟩

theorem witness_LoadsReadTheirBytes : ∀ i ∈ [(Instr.ldB 2 5 0x007, 1, 7), (.ldBz 2 5 0xFFF, 1, -1), (.ldH 2 5 0x006, 2, 6), (.ldHz 0 5 0, 2, 0),
      (.ldW 2 5 0x004, 4, 4), (.ldWz 2 5 0, 4, 0), (.ldD 2 5 0x7F8, 8, 0x7F8)],
    let s := reaching .L coherent 8
    Allowed s i.1 ∧ reaches s (s.getX 5 + BitVec.ofInt 64 i.2.2) i.2.1 false (fun g _ u =>
      decide (Open u g i.2.1 ∧ Sound u g i.2.1)) = true := by decide +kernel

theorem witness_StoresWriteTheirBytes : ∀ z, [(coherent, 5, false), (uncached, 5, false), (bankPage, 5, false), (coherent, 6, false),
      (direct, 5, true), (ofHost, 5, true)].all (fun e =>
    let s := reaching .S e.1
    decide (Allowed s (.st 4 e.2.1 z 0)) && reaches s (s.getX e.2.1 + BitVec.ofInt 64 (BitVec.toInt (0 : BitVec 12)))
        (match z with | .b => 1 | .h => 2 | .w => 4 | .d => 8) true
      (fun g _ u => decide (g.posted = e.2.2 ∧ Open u g 8 ∧ u.poisonedT g = false))) = true := by
  intro z; cases z <;> decide +kernel

theorem witness_AtomicsReadModifyWrite : ∀ z, let s := reaching .K coherent
    let n := match z with | .w => 4 | .d => 8
    Allowed s (.amoMin 2 5 4 z) ∧ Allowed s (.amoCas 2 5 4 z) ∧ reaches s (s.getX 5) n true (fun g _ u =>
      decide (Open u g n ∧ (u.readT g n).1.poison = false ∧ natOfBytes (u.readT g n).1.data ≠ 0) &&
      (match g with | .regs .. => false | _ => true)) = true ∧
    reaches s (s.getX 6) n true (fun g _ u => decide (Open u g n ∧ natOfBytes (u.readT g n).1.data = 9)) = true := by
  intro z; cases z <;> decide +kernel

theorem witness_AtomicsReadModifyWrite_add : (let s := reaching .S coherent
    Allowed s (.amoFaddF32 2 5 4) ∧ Allowed s (.amoFaddBf16 2 5 4) ∧ reaches s (s.getX 5) 4 true (fun g leaf u =>
      decide (bitsAt leaf 12 1 = 0 ∧ Open u g 4 ∧ (u.readT g 4).1.poison = false) && (match g with | .regs .. => false | _ => true)) = true) ∧
    (let s := reaching .S detPage
     let d := { ident s (fun i => { i with det := true }) with
       mem := { s.mem with dram := cellsPut s.mem.dram 0 (bytesOfNat 8 (2 ^ 63)) } }
     let full := { d with mem := { d.mem with adds := List.replicate 4096 { key := 0, bank := false, item := 0, strand := 2, n := 0, value := 0, bf16 := false } } }
     let deferred (s : State) (p : Nat → Bool) : Bool := reaches s (s.getX 5) 4 true (fun g leaf u =>
       decide (bitsAt leaf 12 1 = 1 ∧ u.postedOn s.strand g 4 = false ∧ u.linkError g = none ∧ u.poisonedT g = false) &&
       (match g with | .hbm k bank _ false => p (slicePending u.mem bank k) | _ => false))
     Allowed d (.amoFaddF32 2 5 4) ∧ deferred d (fun n => decide (n < 4096)) = true ∧ d.ctx.id.det = true ∧ d.ctx.id.kind.isApp = true ∧
     (2 : Reg) ≠ 0 ∧ d.bypassed 2 = false ∧ deferred s (fun _ => true) = true ∧ s.ctx.id.det = false ∧ Allowed s (.amoFaddBf16 2 5 4) ∧
     deferred full (fun n => decide (4096 ≤ n)) = true) := by decide +kernel

theorem witness_MisalignedAccessesTrap : ∀ z, let s := reaching .K coherent 1
    (∀ i ∈ [Instr.ldH 2 5 0, .ldW 2 5 0, .ldD 2 5 0, .ldHz 2 5 0, .ldWz 2 5 0, .st 4 5 .h 0, .st 4 5 .w 0, .st 4 5 .d 0, .amoFaddF32 2 5 4,
        .amoFaddBf16 2 5 4, .amoAdd 2 5 4 z, .amoMin 2 5 4 z, .amoMax 2 5 4 z, .amoMinu 2 5 4 z, .amoMaxu 2 5 4 z, .amoAnd 2 5 4 z,
        .amoOr 2 5 4 z, .amoXor 2 5 4 z, .amoSwap 2 5 4 z, .amoCas 2 5 4 z], Allowed s i) ∧
    (s.getX 5).toNat % 2 ≠ 0 ∧ (s.getX 5).toNat % 4 ≠ 0 ∧ (s.getX 5).toNat % 8 ≠ 0 := by intro z; cases z <;> decide +kernel

theorem witness_AddressesLeadWhereTheSpecSays : 2 ^ 55 ≤ BitVec.toNat (0x80000000000000 : W64) ∧
    2 ^ 54 ≤ BitVec.toNat (0x40000000000000 : W64) ∧ BitVec.toNat (0x400000003FFFFF : W64) < 2 ^ 54 + 2 ^ 22 ∧
    BitVec.toNat (0x3FFFFFFFFFFFFF : W64) < 2 ^ 54 := by decide +kernel

/-- A table at 0x1000 whose entry for address 0 is given. -/
def entered (e : Nat) : Mem := { Mem.reset with dram := cellsPut [] (dramKey false 0x1000) (bytesOfNat 8 e) }

/-- The flaws of a leaf and of a table entry at a level of an SL3240's tables. -/
def leafFlaw (level : Nat) (e : W64) : Bool :=
  let b (lo n : Nat) : Nat := bitsAt e lo n
  level == 3 || b 59 4 != 0 || b 5 2 == 3 || b 13 2 == 3 || (level == 2 && b 16 15 != 0) || (level == 1 && b 16 5 != 0) ||
    (b 7 1 == 1 && (level != 0 || decide (b 8 4 ∉ [0, 1, 6, 7, 8, 9, 10, 11]))) || (b 5 2 == 0 && 2048 ≤ b 48 11)
def tableFlaw (level : Nat) (e : W64) : Bool :=
  let b (lo n : Nat) : Nat := bitsAt e lo n
  let next := b 8 40 * 256
  level == 0 || b 48 16 != 0 || b 3 5 != 0 || next % (8 * levelEntries (level - 1)) != 0 || next / 2 ^ 41 != 0 ||
    32 ≤ next / 2 ^ 36 || 0xF00000000 ≤ next % 2 ^ 36

theorem witness_AddressesLeadWhereTheSpecSays_walk :
    -- entries that are not valid, leaves and tables without a flaw, and each flaw
    (∀ e ∈ [0, 0x30005F, 0x2001], readEntry (entered e) (0x1000 + 8 * (0 / 2 ^ 16 % 32)) = BitVec.ofNat 64 e) ∧ bitsAt (0 : W64) 0 1 = 0 ∧
    (∀ x ∈ [(0, 0x30005F), (1, 0x20005F), (2, 0x8000005F), (0, 0x3000DF), (0, 0x07FF00000030001F)],
      bitsAt (BitVec.ofNat 64 x.2) 0 2 = 3 ∧ leafFlaw x.1 (BitVec.ofNat 64 x.2) = false) ∧
    (∀ x ∈ [(1, 0x2001), (2, 0x2001), (3, 0x8001), (1, 0x1FEFFFFFF01)], bitsAt (BitVec.ofNat 64 x.2) 0 2 = 1 ∧ tableFlaw x.1 (BitVec.ofNat 64 x.2) = false) ∧
    (∀ x ∈ [(3, 0x30005F), (0, 0x080000000030005F), (0, 0x30007F), (0, 0x30605F), (2, 0x30005F), (1, 0x31005F), (0, 0x3004DF), (1, 0x2000DF),
        (0, 0x080000000030001F)], bitsAt (BitVec.ofNat 64 x.2) 0 2 = 3 ∧ leafFlaw x.1 (BitVec.ofNat 64 x.2) = true) ∧
    (∀ x ∈ [(0, 0x2001), (1, 0x1000000002001), (1, 0x2009), (2, 0x101), (1, 0x20000002001), (1, 0xF00000001)],
      bitsAt (BitVec.ofNat 64 x.2) 0 2 = 1 ∧ tableFlaw x.1 (BitVec.ofNat 64 x.2) = true) ∧
    -- what stops an access at a leaf, in order
    bitsAt (0x30805F : W64) 15 1 = 1 ∧ bitsAt (0x30003F : W64) 5 2 = 1 ∧
    (bitsAt (0x100000030001F : W64) 5 2 = 0 ∧ bitsAt (0x100000030001F : W64) 48 11 ≠ 0) ∧ bitsAt (0x30004F : W64) 4 1 = 0 ∧
    (bitsAt (0x30005F : W64) 15 1 = 0 ∧ bitsAt (0x30005F : W64) 5 2 = 2 ∧ bitsAt (0x30005F : W64) 4 1 = 1) := by decide +kernel

/-- Die 0 with a valid peer window 0. -/
def peered (s : State) : State := s.setDie 0 { s.die 0 with peerwin := [(0, 0x8000000000000003)] }

/-- A deterministic item whose strand S reaches a page of a leaf, with routes for the flows to its die and to peer window 0. -/
def farAdd (leaf : W64) : State := let s := peered (reaching .S leaf)
  { ident s (fun i => { i with det := true }) with mem := { s.mem with dram := cellsPut (cellsPut s.mem.dram 0 (bytesOfNat 8 (2 ^ 63))) (dramKey false 256) (bytesOfNat 8 (2 ^ 63)) } }

/-- The same through a page of host memory and one of a peer window. -/
theorem witness_AtomicsReadModifyWrite_far : (let s := farAdd 0x20000030105F
    Allowed s (.amoFaddF32 2 5 4) ∧ s.ctx.id.det = true ∧ s.ctx.id.kind.isApp = true ∧ (2 : Reg) ≠ 0 ∧ s.bypassed 2 = false ∧
    reaches s (s.getX 5) 4 true (fun g l u => (match g with | .host _ => true | _ => false) &&
      decide (bitsAt l 12 1 = 1 ∧ u.postedOn s.strand g 4 = false ∧ u.linkError g = none ∧ u.poisonedT g = false)) = true) ∧
    (let s := farAdd 0x30000030105F
    Allowed s (.amoFaddF32 2 5 4) ∧ reaches s (s.getX 5) 4 true (fun g l u => (match g with | .peer e w o => (u.peerByte e w o).isSome | _ => false) &&
      decide (bitsAt l 12 1 = 1 ∧ u.postedOn s.strand g 4 = false ∧ u.linkError g = none ∧ u.poisonedT g = false)) = true) := by
  decide +kernel

theorem witness_WritesReadBackAndTouchNothingElse : let s := peered (on .K [])
    (s.mem.adds = [] ∧ s.mem.hostAdds = [] ∧ s.mem.peerAdds = []) ∧ 0x300000 % 32 + 32 ≤ 32 ∧ 0x30001F % 32 + 1 ≤ 32 ∧ (s.peerByte 0 0 5).isSome = true ∧ 0x10000 ≤ 0x10000 ∧
    0x300018 % 32 + 8 ≤ 32 ∧ 0x300017 < 0x300018 ∧ 0x300018 + 8 ≤ 0x300020 ∧
    s.peerByte 0 0 9 = some (3 * 2 ^ 36 + 9) ∧ (∀ p ∈ s.peerByte 0 0 1, p + 8 ≤ 3 * 2 ^ 36 + 9) := by decide +kernel

/-- A posted write of the acting strand to the lowest word of space 1. -/
def post (target : Target) (s : State) : State := s.modCtx (fun c => { c with eng := { c.eng with posted := c.eng.posted ++
  [{ strand := s.strand, pc := scratchBase, va := 0x300000, target, data := [1, 2, 3, 4], poison := false, seq := c.eng.seqno }] } })

/-- A copy command of a strand, not yet started, with the next number. -/
def copying (s : State) : State := s.withCommand .ce 0 0 { reads := [], writes := [] } (.ce .copy (Vector.replicate 4 0) 0)

theorem witness_FencesWaitAndComplete : let s := on .S []
    let w := post (.hbm 0x300000 false 2 true) s
    let v : NbInval := { seq := 3, rows := [], foot := ⟨[], []⟩ }
    let n := s.modCtx (fun c => { c with eng := { c.eng with invals := [v], seqno := 4 } })
    s.issue.snap = none ∧ s.strand ≠ .L ∧ Allowed s (.fence .core) ∧ Allowed s (.bfence .system) ∧ (∀ c ∈ s.ctx.eng.cmds, c.strand ≠ s.strand) ∧
    (∀ p ∈ s.ctx.eng.posted, p.strand = s.strand → Scope.system.code < p.target.fenceScope s.ctx.id.die) ∧
    (∀ p ∈ w.ctx.eng.posted, p.strand = w.strand → Scope.cluster.code < p.target.fenceScope w.ctx.id.die) ∧
    (∃ p ∈ w.ctx.eng.posted, p.strand = w.strand ∧ ¬Scope.die.code < p.target.fenceScope w.ctx.id.die) ∧
    (∃ c ∈ (copying s).ctx.eng.cmds, c.strand = s.strand) ∧ ({ s with part := .sl3240m } : State).part = .sl3240m ∧
    s.part ≠ .sl3240m ∧ (s.ctx.str s.strand).blocked = none ∧ (∀ v ∈ s.ctx.eng.invals, seqBelow v.seq s.ctx.eng.seqno = false) ∧
    (∃ v ∈ n.ctx.eng.invals, seqBelow v.seq n.ctx.eng.seqno = true) ∧
    ((me n (fun p => { p with blocked := some (.fence 3) })).ctx.str .S).blocked = some (.fence 3) ∧ seqBelow v.seq 3 = false := by
  decide +kernel

theorem witness_FencesWaitAndComplete_flush : let x : Sector := { data := Vector.replicate 32 1, dirty := true, poison := false, lost := false, bank := true }
    let m := (Mem.reset.hold 4 x).hold 5 { x with bank := false }
    Mem.wf m = true ∧ m.held 4 = some x ∧ x.bank = true ∧ x.dirty = true ∧ stackOf (32 * 4) = 0 ∧ ¬3 ≤ Scope.die.code ∧
    (m.held 5).map (·.bank) = some false ∧ m.held 6 = none := by decide +kernel

theorem witness_CacheLineMaintenance : ∀ x ∈ [(coherent, 0), (0x30205F, 1), (readShared, 0), (readOnly, 0), (uncached, 2)],
    let s := reaching .L x.1
    Allowed s (.clWb .package 5) ∧ Allowed s (.clWbi .die 5) ∧ Allowed s (.clInv .core 5) ∧ s.ctx.loads = [] ∧ bitsAt (s.getX 5) 55 9 = 0 ∧
    gives (findAny s.strand 0 (s.getX 5) false) s (fun a u => decide (u.mem.adds = [] ∧ a.2 = x.1) &&
      (match a.1 with | .hbm _ _ c false => decide (c = x.2) | _ => false)) = true ∧
    s.ctx.id.kind.isApp = true ∧ isScratch (s.getX 5) = false ∧ (bitsAt readShared 5 2 = 1 ∧ bitsAt readOnly 4 1 = 0) ∧
    (bitsAt coherent 5 2 ≠ 1 ∧ bitsAt coherent 4 1 = 1) := by decide +kernel

theorem witness_CacheLineMaintenance_regs : let s := paged (clove (on .K [(5, 0x80000000FFF8)])) coherent
    s.ctx.id.kind = .clove ∧ Allowed s (.clWb .package 5) ∧ Allowed s (.clWbi .package 5) ∧
    gives (findAny s.strand 0 (s.getX 5) false) s (fun a _ => match a.1 with | .regs .. => true | _ => false) = true := by decide +kernel

theorem witness_CacheLineMaintenance_discard : let m := Mem.reset.hold 7 { data := Vector.replicate 32 1, dirty := true, poison := false, lost := false, bank := false }
    7 / 4 = 128 / 128 ∧ 7 / 4 ≠ 256 / 128 ∧ 3 ≤ Scope.package.code ∧ (Scope.die.code = 2 ∧ stackOf 128 = 0) ∧ Scope.cluster.code < 2 ∧
    stackOf 128 ≠ 1 ∧ m.held 7 ≠ none := by decide +kernel

theorem witness_CacheLineMaintenance_bytes : let m := Mem.reset.hold 4 { data := Vector.replicate 32 1, dirty := true, poison := false, lost := false, bank := false }
    4 / 4 = 128 / 128 ∧ m.held 4 ≠ none ∧ (m.sector 4 false).dirty = true := by decide +kernel

theorem witness_TranslationMaintenance : let s := paged (on .K [(5, 0x300000)]) coherent
    let load (y : W64) : TileLoad := { q := 1, addr := 0x300000, stride := y, rows := 2, width := .w4, zp := false, idx := none, pc := scratchBase, seq := 1 }
    let t (y : W64) := s.modCtx (fun c => { c with loads := [load y] })
    let mine := s.modCtx (fun c => { c with eng := { c.eng with posted := [{ strand := .K, pc := 0, va := 0, target := .host 0, data := [], poison := false, seq := 1 }] } })
    let other (k : Nat) (p : BitVec 20) : State := { s with others := [{ mine.ctx with id := { who with core := k, pasid := p } }] }
    let busy (r : State) : Bool := r.others.any (fun c => coreWithin .core r.here (State.coreNo c.id) && c.id.pasid == r.ctx.id.pasid && !c.eng.posted.isEmpty)
    Allowed s (.tlbInv .core 5) ∧ s.issue.snap = none ∧ (s.others = [] ∧ s.ctx.eng.posted = [] ∧ s.ctx.eng.cmds = []) ∧
    (∃ p ∈ mine.ctx.eng.posted, p.strand = mine.strand) ∧ busy (other 0 1) = true ∧ busy (other 1 1) = false ∧ busy (other 0 2) = false ∧
    (∃ x ∈ (t 256).streamAt 2, 0 < x.2.toInt ∧ 0x310000 / 65536 = x.1.toNat / 65536 + 1) ∧
    (∃ x ∈ (t (-256)).streamAt 2, x.2.toInt < 0 ∧ 0x2F0000 / 65536 + 1 = x.1.toNat / 65536) ∧ BitVec.toNat (0x310000 : W64) < 2 ^ 54 ∧
    ¬(∃ x ∈ (t 0).streamAt 2, 0 < x.2.toInt ∨ x.2.toInt < 0) := by decide +kernel

theorem witness_PostedWritesPerform : let s := post (.hbm 0x300004 false 2 true) (post (.hbm 0x300000 false 2 true) (on .S []))
    let d := post (.host 8) (ident { on .S [] with hostPorts := Vector.replicate 4 { Port.reset with up := false } } (fun i => { i with det := true }))
    let bad := { s with mem := s.mem.setPoison (sectorOf 0x300000) true }
    let r := post (.regs 0 0x1000) (on .S [])
    let hole := post (.regs 0 0x3000) (on .S [])
    let full := (post (.regs 0 0x40) (on .S [])).setDie 0 { Die.reset with gated := true, latches := List.replicate 64 5 }
    s.ctx.eng.posted.length = 2 ∧ (∀ p ∈ s.ctx.eng.posted, s.notifyHeld p.target = false ∧ s.linkError p.target = none ∧ s.poisonedT p.target = false) ∧
    (∀ p ∈ s.ctx.eng.posted, ∀ q ∈ s.ctx.eng.posted, q.strand = p.strand ∧ q.target.group = p.target.group) ∧
    d.ctx.eng.posted.length = 1 ∧ (∀ p ∈ d.ctx.eng.posted, d.notifyHeld p.target = false ∧ d.linkError p.target = some (.linkDown, 0)) ∧
    (∃ p ∈ bad.ctx.eng.posted, bad.poisonedT p.target = true ∧ p.data.length ≠ 32 ∧ bad.linkError p.target = none) ∧
    (∀ p ∈ r.ctx.eng.posted, r.linkError p.target = none ∧ r.poisonedT p.target = false) ∧ (r.dieWord 0 (0x1000 / 8 * 8)).isSome = true ∧
    hole.dieWord 0 (0x3000 / 8 * 8) = none ∧ (∀ p ∈ full.ctx.eng.posted, full.notifyHeld p.target = true) := by decide +kernel

theorem witness_PostedWritesPerform_ports : let s := post (.host 8) { on .S [] with hostPorts := Vector.replicate 4 { Port.reset with up := false } }
    ∀ p ∈ s.ctx.eng.posted, s.notifyHeld p.target = false ∧ s.linkError p.target = some (.accessViolation, 4) := by decide +kernel

/-- The item with queue MQ2 and TF2 bound from the store to the control strand, and what they hold. -/
def queued (k : StrandId) (n : Nat) (tf : Nat) : State :=
  { (on k []).modCtx (fun c =>
      { c with q := { c.q with
          mqMap := c.q.mqMap.setIfInBounds 2 (some { producer := .S, consumer := .K }),
          tfMap := c.q.tfMap.setIfInBounds 2 (some { producer := .S, consumer := .K }),
          mq := c.q.mq.setIfInBounds 2 (List.replicate n { value := 5, taint := true, clk := 0 }),
          tf := c.q.tf.setIfInBounds 2 tf } }) with cycle := 1 }

theorem witness_QueueOperations : [(15, 16, 0, 255, 1), (0, 31, 254, 1, 255)].all (fun x =>
    let s := queued .S x.1 x.2.2.1
    let f := queued .S x.2.1 x.2.2.2.2
    decide (Allowed s (.qpush 2 0) ∧ (s.ctx.q.mq.getD 2 []).length < 16 ∧ 16 ≤ (f.ctx.q.mq.getD 2 []).length ∧ Allowed f (.qpush 2 0) ∧
      Allowed s (.tpost 2 1) ∧ s.ctx.q.tf.getD 2 0 + x.2.2.2.1 ≤ 255 ∧ 255 < f.ctx.q.tf.getD 2 0 + 255)) = true := by decide +kernel

theorem witness_QueueOperations_consumer : let s := queued .K 1 255
    let e := queued .K 0 254
    let now := { s with cycle := 0 }
    (∀ pk, Allowed s (.qpop 6 2 pk) ∧ Allowed e (.qpop 6 2 pk) ∧ Allowed now (.qpop 6 2 pk) ∧ Allowed s (.twait 2 pk 255) ∧ Allowed e (.twait 2 pk 255)) ∧
    s.ctx.q.mq.getD 2 [] = [{ value := 5, taint := true, clk := 0 }] ∧
    (0 : W64) ≠ s.cycle ∧ e.ctx.q.mq.getD 2 [] = [] ∧ (now.ctx.q.mq.getD 2 [] = s.ctx.q.mq.getD 2 [] ∧ (0 : W64) = now.cycle) ∧
    255 ≤ s.ctx.q.tf.getD 2 0 ∧ e.ctx.q.tf.getD 2 0 < 255 ∧
    (∀ nm ∈ [QName.lq 3, .sq 1, .mq 2, .tf 2], let q := me s (fun p => { p with qstats := [(31, nm)] })
      (q.ctx.str .K).qstats = [(31, nm)] ∧ (31 : Reg) ≠ 0 ∧ q.ctx.setup = false ∧ q.ctx.leaving = false) := by
  decide +kernel

theorem witness_PredicatesAndShapeGrants : let s := on .C [(7, 15)]
    Allowed s (.pset 0 0xFFFF) ∧ Allowed s (.plogAnd 15 0 8) ∧ Allowed s (.plogOr 1 2 3) ∧ Allowed s (.plogXor 1 2 3) ∧
    Allowed s (.plogAndn 4 8 9) ∧ Allowed s (.pmovToP 0 7) ∧ Allowed s (.pmovFromP 15 0) ∧ Allowed s (.lset false 7 63) ∧
    Allowed s (.lset true 7 0) ∧ Allowed s (.trbset 7 15) := by decide +kernel

/-- A request word as R149 lays it out. -/
def ask (a b d c m n k : Nat) : W64 :=
  BitVec.ofNat 64 ((d + 16 * a + 256 * b + 4096 * c) * 2 ^ 32 + (k - 1) * 2 ^ 16 + (n - 1) * 2 ^ 7 + (m - 1))

theorem witness_PredicatesAndShapeGrants_grant : ∀ x ∈ [(6, 128, 512, 65536), (6, 1, 1, 16), (11, 16, 64, 32)],
    let s := on .C [(5, ask x.1 x.1 8 8 x.2.1 x.2.2.1 x.2.2.2)]
    let b := if x.1 = 11 then 32 else 16
    Allowed s (.shape 6 5 0) ∧ Allowed s (.shape 6 5 3) ∧ s.ctx.id.det = false ∧ 1 ≤ x.2.1 ∧ x.2.1 ≤ 128 ∧ 1 ≤ x.2.2.1 ∧ x.2.2.1 ≤ 512 ∧
    1 ≤ x.2.2.2 ∧ x.2.2.2 ≤ 65536 ∧
    s.getX 5 = BitVec.ofNat 64 ((BitVec.toNat (8 : BitVec 4) + 16 * x.1 + 256 * x.1 + 4096 * BitVec.toNat (8 : BitVec 4)) * 2 ^ 32 +
      (x.2.2.2 - 1) * 2 ^ 16 + (x.2.2.1 - 1) * 2 ^ 7 + (x.2.1 - 1)) ∧
    ((EType.ofCode (BitVec.ofNat 4 x.1)).map (fun f => someAccepts f f)) = some true ∧ EType.ofCode 8 ≠ none ∧
    1 ≤ x.2.2.2 / b * b := by decide +kernel

theorem witness_PredicatesAndShapeGrants_knob : [(0x888800000000, 63, true), (emptySlot, 63, false), (0x888800000000, 62, false)].all (fun x =>
    let s := taints (ident (on .C [(5, ask 8 8 8 8 16 64 (x.2.1 + 1))]) (fun i => { i with det := true })) 5
    let t := s.modCtx (fun c => { c with comp := { c.comp with slots := c.comp.slots.setIfInBounds 1 x.1 } })
    let held := t.rd.comp.slots.getD 1 0x8000000000000000
    decide (Allowed t (.shape 6 5 1) ∧ t.ctx.id.det = true ∧ t.tainted 5 = true) &&
    decide (held.getLsbD 63 = false ∧ bitsAt held 32 16 = bitsAt (t.getX 5) 32 16 ∧ (bitsAt (t.getX 5) 16 16 + 1) % 64 = 0) == x.2.2) = true := by
  decide +kernel

theorem witness_PredicatesAndShapeGrants_refused : EType.ofCode 4 = some .i32 ∧ someAccepts .i32 .i32 = false ∧ 15 / 16 * 16 = 0 ∧ 31 / 32 * 32 = 0 ∧
    Allowed (on .C [(5, ask 4 4 4 4 16 64 15)]) (.shape 6 5 0) := by decide +kernel

/-- The same item beside another item of its task, with entries in their deques. -/
def thieves (own other : List (BitVec 63)) : State :=
  let s := on .K [(5, 7)]
  { s with ctx := { s.ctx with deque := own },
           others := [{ Ctx.fresh { who with core := 1, item := 1 } with deque := other }] }

theorem witness_WorkDeques : let s := { thieves [] [] with cycle := 1 }
    let late (n : Nat) : State := s.modCtx (fun c => { c with dequeAt := (1, n) })
    let far : State := { s with others := s.others.map (fun c => { c with dequeAt := (1, 1) }) }
    Allowed s (.wdPush 6 5) ∧ Allowed s (.wdPop 6) ∧ Allowed s (.wdSteal 6) ∧ (thieves (List.replicate 63 1) []).ctx.deque.length < 64 ∧
    64 ≤ (thieves (List.replicate 64 1) []).ctx.deque.length ∧ (thieves [3, 4] []).ctx.deque = 3 :: [4] ∧ s.ctx.deque = [] ∧
    s.stealFrom = none ∧ ((thieves [] [3, 4]).stealFrom.map (fun x => x.2)) = some 0 ∧
    ¬(s.ctx.dequeAt.1 = s.cycle ∧ s.here < s.ctx.dequeAt.2) ∧ ¬((late 0).ctx.dequeAt.1 = 1 ∧ (late 0).here < (late 0).ctx.dequeAt.2) ∧
    ((late 1).ctx.dequeAt.1 = (late 1).cycle ∧ (late 1).here < (late 1).ctx.dequeAt.2) ∧ Allowed (late 1) (.wdPush 6 5) ∧ Allowed (late 1) (.wdPop 6) ∧
    (∃ c ∈ far.others, far.examined c = true ∧ c.dequeAt.1 = far.cycle ∧ far.here < c.dequeAt.2) ∧ Allowed far (.wdSteal 6) := by decide +kernel

/-- An item with two entries as the one victim, and as one of two of which the other stands behind it; and a posted store of the pusher. -/
theorem witness_WorkDeques_victims : let s := { thieves [] [3, 4] with cycle := 1 }
    let two : State := { s with others := s.others ++ [{ s.ctx with id := { who with die := 1, item := 2 }, deque := [9] }] }
    let shares (s : State) (c : Ctx) : Bool := c.id.kind.isApp && c.id.task == s.ctx.id.task && c.id.gang == s.ctx.id.gang
    let core (c : Ctx) : Nat := 64 * c.id.die + c.id.core
    let p := post (.hbm 0x300000 false 2 true) (on .K [])
    (match s.others with | [c] => shares s c && decide (c.deque = [3] ++ [4]) | _ => false) = true ∧
    (∀ c ∈ s.others, s.examined c = true → ¬(c.dequeAt.1 = s.cycle ∧ s.here < c.dequeAt.2)) ∧ Allowed s (.wdSteal 6) ∧
    (match two.others with
      | [c, e] => shares two c && shares two e && decide (e.deque ≠ [] ∧ core two.ctx / 4 = core c / 4 ∧ core two.ctx / 4 ≠ core e / 4)
      | _ => false) = true ∧
    (∃ q, p.ctx.eng.posted = [q] ∧ q.strand = .K ∧ q.target.fenceScope p.ctx.id.die ≤ 3) ∧ s.ctx.eng.posted = [] := by
  refine ⟨by decide +kernel, by decide +kernel, by decide +kernel, by decide +kernel, ⟨_, rfl, by decide +kernel⟩, by decide +kernel⟩

/-- A line whose first container holds a value. -/
def lineOf (v : W32) : Line := { Line.zero with data := Line.zero.data.setIfInBounds 0 v }

/-- The compute strand under a grant, with lines in LQ1 and LQ2, SQ0 and SQ1, and entries in MQ1, whose consumer it is. -/
def fed (g : W64) (lq sq mq : Nat) : State :=
  { (tiles g []).modCtx (fun c =>
      { c with q := { c.q with
          lq := (c.q.lq.setIfInBounds 1 (List.replicate lq (.line (lineOf 5)))).setIfInBounds 2 (List.replicate lq (.line (lineOf 6))),
          sq := (c.q.sq.setIfInBounds 0 (List.replicate sq (lineOf 7))).setIfInBounds 1 (List.replicate sq (lineOf 8)),
          mq := c.q.mq.setIfInBounds 1 (List.replicate mq { value := 9, taint := false, clk := 0 }),
          mqMap := c.q.mqMap.setIfInBounds 1 (some { producer := .K, consumer := .C }) } }) with cycle := 1 }

def t0 : TSrc := .tile 0 .whole .zero
def d2 : TDst := .tile 2 .whole .zero

theorem witness_TileOperands : let s := fed (shapeOf 8 16 64 16) 16 16 1
    s.ctx.drains (some 31) = false ∧ s.ctx.drains none = false ∧
    s.ctx.q.lq.getD 1 [] = (List.replicate 16 (lineOf 5)).map LqEntry.line ++ [] ∧ (List.replicate 16 (lineOf 5)).length = 16 ∧
    s.ctx.q.mq.getD 1 [] = { value := 9, taint := false, clk := 0 } :: [] ∧ (0 : W64) ≠ s.cycle ∧
    (s.ctx.q.sq.getD 0 []).length + 16 ≤ 32 ∧ s.ctx.drains (some (physTile 15 31)) = false := by decide +kernel

/-- Under a grant a tile instruction may start, its type and views fit, its sources can be read, and its destination written. -/
def starts1 (i : Instr) (g : W64) (types : EType → Bool) (d : TDst) (a : TSrc) : Bool :=
  let s := fed g 16 0 1
  match grantOf g with
  | some x => decide (Starts s i x) && types x.ty && fits d [a] && gives (readSrc x.m a) s (fun y u =>
      gives (putDst (tileOpOf s plain x) d (fun r c => (y r c, 0))) u (fun _ _ => true))
  | none => false

def starts3 (i : Instr) (g : W64) (types : EType → Bool) (d : TDst) (a b c : TSrc) : Bool :=
  let s := fed g 16 0 1
  match grantOf g with
  | some x => decide (Starts s i x) && types x.ty && fits d [a, b, c] && gives (readSrc x.m a) s (fun y u =>
      gives (readSrc x.m b) u (fun z v => gives (readSrc x.m c) v (fun _ w =>
        gives (putDst (tileOpOf s plain x) d (fun r c => (y r c + z r c, 0))) w (fun _ _ => true))))
  | none => false

theorem witness_ElementWiseInstructions_one : plain.np = 0 ∧
    starts1 (.vabs plain (.sq 1) t0) (shapeOf 0 16 64 16) numericType (.sq 1) t0 = true ∧
    starts1 (.vneg plain (.tile 31 .diag .la) (.tile 31 .diag .la)) (shapeOf 6 1 1 16) numericType (.tile 31 .diag .la) (.tile 31 .diag .la) = true ∧
    starts1 (.vmov plain d2 (.lq 1 false)) (shapeOf 11 16 64 32) anyType d2 (.lq 1 false) = true ∧
    starts1 (.vsf plain d2 (.mq 1 true) .rcp) (shapeOf 7 2 2 16) wideFloat d2 (.mq 1 true) = true ∧
    starts1 (.vcvt plain d2 t0 10) (shapeOf 5 1 64 16) numericType d2 t0 = true ∧ EType.ofCode 10 = some .e5m2 ∧ EType.e5m2 ≠ .b4 := by
  decide +kernel

theorem witness_ElementWiseInstructions_two : ∀ i ∈ [Instr.vadd plain d2 t0 t0, .vmulSat plain d2 t0 t0, .vshShra plain d2 t0 t0,
      .vsel plain d2 t0 t0 15, .vlogAnd plain d2 t0 t0, .vmin plain d2 t0 t0, .vfma plain d2 t0 t0 t0],
    starts3 i (shapeOf 8 16 64 16) numericType d2 t0 t0 t0 = true := by decide +kernel

theorem witness_ElementWiseInstructions_queues :
    starts3 (.vfma plain (.sq 0) (.lq 1 false) (.lq 2 true) (.mq 1 false)) (shapeOf 3 16 64 16) numericType (.sq 0) (.lq 1 false) (.lq 2 true)
      (.mq 1 false) = true ∧
    starts3 (.vlogXor plain (.tile 16 .row .lb) (.tile 1 .row .zero) (.mq 1 true) ) (shapeOf 11 1 1 32) anyType (.tile 16 .row .lb)
      (.tile 1 .row .zero) (.mq 1 true) (.mq 1 true) = true ∧
    Starts (fed (shapeOf 8 1 1 16) 0 0 0) (.vadd plain (.tile 2 .row .la) t0 t0) ⟨1, 1, 16, .fp32, .fp32, .fp32, .fp32⟩ ∧
    fits (.tile 2 .row .la) [t0, t0] = false := by decide +kernel

theorem witness_ElementWiseInstructions_compare : let s := fed (shapeOf 8 16 64 16) 0 0 1
    let a : TSrc := .tile 5 .col .la
    Starts s (.vcmp plain 15 a a .ge) ⟨16, 64, 16, .fp32, .fp32, .fp32, .fp32⟩ ∧ numericType .fp32 = true ∧ TSrc.view a = some .col ∧
    Starts s (.vcmp plain 0 a (.mq 1 false) .eq) ⟨16, 64, 16, .fp32, .fp32, .fp32, .fp32⟩ ∧ TSrc.view (.mq 1 false) = none ∧
    gives (readSrc 16 a) s (fun _ u => gives (readSrc 16 a) u (fun _ _ => true) && gives (readSrc 16 (.mq 1 false)) u (fun _ _ => true)) = true := by
  decide +kernel

theorem witness_IntegerElements : (∀ t ∈ [EType.i8, .n8, .i16, .n16, .i32, .n32], t.isInt = true ∧ t ≠ .b4 ∧ 0 < 32 / t.bits) ∧
    EType.fp16 ≠ .b4 ∧ 1 < 32 / EType.fp16.bits ∧ 3 < 32 / EType.e4m3.bits ∧ ¬1 < 32 / EType.fp32.bits := by decide

/-- The formats of R61 and R62, with the patterns at the ends of their clauses: zero, the largest subnormal, the smallest normal, the
largest finite value, the infinity where there is one, and a NaN. -/
theorem witness_FloatRounding : let all : List (EType × Nat × Nat × Int × Nat × Option Nat × Nat) :=
      [(.fp32, 8, 23, 127, 0x7FC00000, some 0x7F800000, 0x7F7FFFFF), (.fp16, 5, 10, 15, 0x7E00, some 0x7C00, 0x7BFF),
       (.bf16, 8, 7, 127, 0x7FC0, some 0x7F80, 0x7F7F), (.e5m2, 5, 2, 15, 0x7E, some 0x7C, 0x7B), (.e4m3, 4, 3, 7, 0x7F, none, 0x7E)]
    (∀ r ∈ all, 2 * 2 ^ (r.2.1 + r.2.2.1) - 1 < 2 * 2 ^ (r.2.1 + r.2.2.1) ∧ r.2.2.2.2.1 < 2 ^ (r.2.1 + r.2.2.1)) ∧
    (EType.fp16, 5, 10, (15 : Int), 0x7E00, some 0x7C00, 0x7BFF) ∈ all ∧ (EType.e4m3, 4, 3, (7 : Int), 0x7F, none, 0x7E) ∈ all ∧
    0x03FF / 2 ^ 10 % 2 ^ 5 = 0 ∧ 0x7C00 / 2 ^ 10 % 2 ^ 5 = 2 ^ 5 - 1 ∧ 0x7C00 % 2 ^ 10 = 0 ∧ 0xFC01 % 2 ^ 10 ≠ 0 ∧
    0x7F / 2 ^ 3 % 2 ^ 4 = 2 ^ 4 - 1 ∧ 0x7F % 2 ^ 3 = 2 ^ 3 - 1 ∧ 0x7E % 2 ^ 3 ≠ 2 ^ 3 - 1 := by decide

/-- The elements that each clause of `FloatElements` speaks of. -/
theorem witness_FloatElements : let f := FFmt.fp32
    let v (x : Nat) : FVal := f.decode x
    (∀ t ∈ [EType.fp32, .fp16, .bf16, .e5m2, .e4m3], t.isFloat = true ∧ t ≠ .b4) ∧ (∀ t ∈ [EType.i8, .n8, .i16, .n16, .i32, .n32], t.isInt = true ∧ t ≠ .b4) ∧
    v 0x7FC00001 = .nan ∧ v 0x3F800000 ≠ .nan ∧ v 0xFF800000 = .inf true ∧ v 0x3F800000 = .num false 0x800000 (-23) ∧
    (v 0x3F800000).isInf = false ∧ (((v 0x43F00000).round EType.e4m3.fmt .rne).2 &&& Fl.of ≠ 0) ∧ (((v 0x43E00000).round EType.e4m3.fmt .rne).2 &&& Fl.of = 0) := by
  decide +kernel

/-- The same for a pair instruction of sources that are read as pairs. -/
def startsPair (i : Instr) (g : W64) (d : TDst) (srcs : List TSrc) : Bool :=
  let s := fed g 16 0 1
  match grantOf g with
  | some x => decide (Starts s i x) && fits d srcs && pairDst 0 d && srcs.all (pairSrc 0) &&
      gives (srcs.foldlM (fun _ a => do let _ ← readPair x.m a; pure ()) ()) s (fun _ u =>
        gives (putPair (tileOpOf s plain x) d (fun _ _ => ((1, 2), 0))) u (fun _ _ => true))
  | none => false

theorem witness_PairsAndReductions : let g := shapeOf 8 16 64 16
    startsPair (.vaddx plain d2 t0 t0) g d2 [] = true ∧ starts3 (.vmulx plain (.sq 0) t0 t0) (shapeOf 6 16 64 16) wideFloat (.sq 0) t0 t0 t0 = true ∧
    startsPair (.dwadd plain d2 t0 (.lq 2 false)) g d2 [t0] = true ∧ startsPair (.dwfma plain (.sq 0) t0 t0 (.mq 1 true)) g (.sq 0) [t0, t0, .mq 1 true] = true ∧
    startsPair (.dwnorm plain (.tile 30 .whole .zero) t0) g (.tile 30 .whole .zero) [t0] = true ∧
    Starts (fed g 0 0 0) (.vsubx plain (.tile 3 .whole .zero) t0 t0) ⟨16, 64, 16, .fp32, .fp32, .fp32, .fp32⟩ ∧
    pairDst 0 (.tile 3 .whole .zero) = false := by decide +kernel

theorem witness_PairsAndReductions_reduce : ∀ rows, let d : TDst := if rows then .tile 4 .col .zero else .tile 4 .row .la
    let h : TileHd := { qp := 15, np := 5 }
    let s := fed (shapeOf 8 16 64 16) 16 0 0
    let g : Grant := ⟨16, 64, 16, .fp32, .fp32, .fp32, .fp32⟩
    Starts s (if rows then .vredrAdd h d t0 else .vredcAdd h d t0) g ∧ Starts s (if rows then .vredrMax h d t0 else .vredcMax h d t0) g ∧
    h.np = 5 ∧ sumType .fp32 = true ∧ wideFloat .fp32 = true ∧ reduceViews d t0 rows = true ∧ reduceViews d (.lq 1 true) rows = true ∧
    pairDst s.rd.comp.trb d = true ∧ Starts s (if rows then .vredrCadd plain d t0 else .vredcCadd plain d t0) g ∧
    gives (readSrc 16 t0) s (fun y u => gives (putRegion (tileOpOf s h g) d (fun _ _ => true) (fun i j => (y i j, 0))) u (fun _ _ => true) &&
      gives (putPairRegion d (fun _ _ => true) (fun i j => ((y i j, 0), 0))) u (fun _ _ => true)) = true := by decide +kernel

/-- The values that each clause of `PairAndReductionValues` speaks of. -/
theorem witness_PairAndReductionValues : let f := EType.fp32.fmt
    let v (x : Nat) : FVal := f.decode x
    let one := v 0x3F800000
    let inf := v 0x7F800000
    (∀ t ∈ [EType.fp32, .fp16, .bf16], wideFloat t = true ∧ t ≠ .b4) ∧ EType.isInt .i8 = true ∧
    inf.add .rne inf.neg = .nan ∧ one.add .rne one ≠ .nan ∧ inf.isInf = true ∧ one.add .rne inf ≠ .nan ∧ one.isInf = false ∧
    (List.replicate 64 (0x3F800000 : W32) ≠ [] ∧ (List.replicate 64 (0x3F800000 : W32)).length ≤ 64) ∧
    (FVal.inf true ∈ [inf, inf.neg] ∧ FVal.inf false ∈ [inf, inf.neg]) ∧ (FVal.nan ∉ [one, inf] ∧ ¬(FVal.inf true ∈ [one, inf]) ∧ FVal.inf false ∈ [one, inf]) ∧
    (FVal.nan ∉ [one] ∧ FVal.inf true ∉ [one] ∧ FVal.inf false ∉ [one]) ∧
    v 0x7FC00001 = .nan ∧ v 0x7F800000 = .inf false ∧ v 0xFF800000 = .inf true ∧ v 0x80000000 = .num true 0 (-149) ∧
    v 0x00000001 = .num false (2 ^ 0) (-149) ∧ v 0x3F800000 = .num false (2 ^ 23) (-23) ∧ v 0xBFC00000 = .num true 0xC00000 (-23) ∧
    (1 : Int) * 2 ^ (- -23 : Int).toNat = 1 * 2 ^ 23 ∧ (2 : Nat) ≠ 0 := by decide +kernel

theorem witness_TilePermutations : let g := shapeOf 11 16 64 32
    let row : TSrc := .tile 0 .row .la
    starts1 (.vrotr plain d2 (.lq 1 false) 511) g anyType d2 (.lq 1 false) = true ∧ starts1 (.vrotc plain d2 t0 0) g anyType d2 t0 = true ∧
    starts1 (.vbcr plain d2 row) g anyType d2 row = true ∧ starts1 (.vbcc plain d2 (.tile 0 .col .lb)) g anyType d2 (.tile 0 .col .lb) = true ∧
    starts1 (.vsplat plain d2 (.mq 1 false)) g anyType d2 (.mq 1 false) = true ∧
    (let s := fed g 0 0 0
     let x : Grant := ⟨16, 64, 32, .b4, .b4, .b4, .b4⟩
     Starts s (.vext plain (.tile 4 .row .la) (.tile 5 .diag .lb)) x ∧ Starts s (.vins plain (.tile 4 .diag .la) row) x ∧
     gives (readSrc 16 (.tile 5 .diag .lb)) s (fun _ u =>
       gives (putRegion (tileOpOf s plain x) (.tile 4 .row .la) (fun _ _ => true) (fun _ _ => (0, 0))) u (fun _ _ => true)) = true) := by
  decide +kernel

/-- The load strand with some entries in LQ1, and MQ1 full of indices for it. -/
def loading (n : Nat) (regs : List (Nat × W64)) : State :=
  { (paged (on .L regs) coherent).modCtx (fun c =>
      { c with q := { c.q with
          lq := c.q.lq.setIfInBounds 1 (List.replicate n .reserved),
          mq := c.q.mq.setIfInBounds 1 (List.replicate 16 { value := 9, taint := false, clk := 0 }),
          mqMap := c.q.mqMap.setIfInBounds 1 (some { producer := .K, consumer := .L }) } }) with cycle := 1 }

theorem witness_TileLoads : let s := loading 0 [(10, 0x300000), (11, 256), (12, 0x300002), (13, 2)]
    let full := loading 1 [(10, 0x300000), (11, 256)]
    let just : State := { s with cycle := 0 }
    Allowed s (.tld 1 10 11 31 .w4 false) ∧ (s.getX 10).toNat % 4 = 0 ∧ (s.getX 11).toNat % 4 = 0 ∧
    (s.ctx.q.lq.getD 1 []).length + (BitVec.toNat (31 : BitVec 5) + 1) ≤ 32 ∧
    (¬(full.ctx.q.lq.getD 1 []).length + (BitVec.toNat (31 : BitVec 5) + 1) ≤ 32 ∧ Allowed full (.tld 1 10 11 31 .w4 false)) ∧
    (s.getX 12).toNat % 4 ≠ 0 ∧ (s.getX 13).toNat % 4 ≠ 0 ∧ Allowed s (.tld 1 12 13 31 .w4 false) ∧ Allowed s (.tldG 1 10 11 1 15 .w4 true) ∧
    (s.ctx.q.lq.getD 1 []).length + (BitVec.toNat (15 : BitVec 5) + 1) ≤ 32 ∧
    (let jam := loading 17 [(10, 0x300000), (11, 256)]
     ¬(jam.ctx.q.lq.getD 1 []).length + (BitVec.toNat (15 : BitVec 5) + 1) ≤ 32 ∧ Allowed jam (.tldG 1 10 11 1 15 .w4 true)) ∧
    s.ctx.q.mq.getD 1 [] = List.replicate 16 { value := 9, taint := false, clk := 0 } ++ [] ∧
    (∀ e ∈ s.ctx.q.mq.getD 1 [], e.clk ≠ s.cycle) ∧
    ((s.ctx.q.mq.getD 1 []).length < BitVec.toNat (16 : BitVec 5) + 1 ∧ Allowed s (.tldG 1 10 11 1 16 .w4 true)) ∧
    (∃ e ∈ (just.ctx.q.mq.getD 1 []).take 1, e.clk = just.cycle) ∧ Allowed just (.tldG 1 10 11 1 0 .w4 true) := by decide +kernel

/-- A tile load in flight. -/
def load1 (a : W64) (rows : Nat) (idx : Option (List W64)) : TileLoad :=
  { q := 1, addr := a, stride := 256, rows, width := .w4, zp := false, idx, pc := scratchBase, seq := 1 }

theorem witness_TileLoads_arrival : ∀ l ∈ [load1 0x300000 1 none, load1 (scratchBase + 8) 2 none, load1 0x300000 1 (some [3])],
    let s := (loading 2 []).modCtx (fun c => { c with loads := [l] })
    let va : W64 := match l.idx with | none => l.addr | some ix => l.addr + ix.headD 0 * l.stride
    let row (s : State) (va : W64) := readRow .L (1 + l.q) va l.zp (rowPieces va 256) { s with strand := .L, issue := { Issue.idle with pc := l.pc } }
    let sick := (loading 2 []).modCtx (fun c => { c with loads := [load1 0x80000000000000 1 none] })
    s.ctx.loads = l :: [] ∧ l.q = BitVec.toNat (1 : BitVec 2) ∧ s.ctx.id.residency ≠ .saved ∧ s.ctx.id.residency ≠ .ended ∧ s.ctx.marked = false ∧
    (match row s va with | .ok bs _ => decide (bs.length = 256) | _ => false) = true ∧
    (s.modCtx (fun c => { c with fault := some { strand := .L, addr := va, pc := scratchBase, slot := none } })).ctx.marked = true ∧
    sick.ctx.marked = false ∧ (match row sick 0x80000000000000 with | .error (.fault _ _) _ => true | _ => false) = true := by decide +kernel

/-- The store strand with lines in its queues, and X10 to X12 to name memory. -/
def storing (n : Nat) : State :=
  paged ((fed 0 0 n 0).modCtx (fun c =>
    { c with s := strandWith [(10, scratchBase), (11, 0x300000), (12, 256), (13, 0x300001), (14, scratchBase + 0x3FFF00)] })) coherent
  |> (fun s => { s with strand := .S })

theorem witness_TileStores : let s := storing 2
    Allowed s (.tst 0 11 12 1 .w4) ∧ (s.getX 11).toNat % 4 = 0 ∧ (s.getX 12).toNat % 4 = 0 ∧ s.ctx.tst = none ∧
    2 ≤ (s.ctx.q.sq.getD 0 []).length ∧ ((storing 1).ctx.q.sq.getD 0 []).length < 2 ∧ (s.getX 13).toNat % 2 ≠ 0 ∧
    gives (storeRows 0 (s.getX 11) (s.getX 12) 4 s.issue.pc 2 0) s (fun _ _ => true) = true := by decide +kernel

theorem witness_TileStores_row : let s := storing 1
    Allowed s (.tst 0 14 0 0 .w4) ∧ (s.getX 14).toNat % 4 = 0 ∧ s.ctx.tst = none ∧ s.ctx.id.kind ≠ .clove ∧
    s.ctx.q.sq.getD 0 [] = lineOf 7 :: [] ∧ (lineOf 7).poison = 0 ∧ (s.getX 14).toNat = 2 ^ 54 + 0x3FFF00 ∧ 0x3FFF00 + 64 * 4 ≤ 2 ^ 22 ∧
    s.fillPending (.scratch (s.here / 4) 0x3FFF00) (64 * 4) = false ∧
    (∀ k, k < 64 * 4 → s.poisonedT (.scratch (s.here / 4) (0x3FFF00 + k)) = false) := by decide +kernel

theorem witness_TileStores_compress : ∀ pair, let s := storing 1
    let k0 := if pair then 1 else 0
    let s := { s with mem := { s.mem with dram := cellsPut s.mem.dram 0x300000 (bytesOfNat 8 (2 ^ 32)) } }
    Allowed s (.cstq 6 11 10 pair .w2) ∧ (s.getX 11).toNat % 8 = 0 ∧ (s.getX 10).toNat % 2 = 0 ∧ s.ctx.cstq = none ∧
    (s.ctx.q.sq.getD 0 []).head? = some (lineOf 7) ∧ (s.ctx.q.sq.getD k0 []).head? = some (if pair then lineOf 8 else lineOf 7) ∧
    (lineOf 7).poison = 0 ∧
    gives (findT .S 5 (s.getX 11) true) s (fun a u => decide (Open u a.1 8 ∧ (u.readT a.1 8).1.poison = false ∧
        natOfBytes (u.readT a.1 8).1.data = 2 ^ 32) && (match a.1 with | .regs .. => false | _ => true) &&
      gives (cstqElements 6 pair (s.getX 10) 2 0 1 1 s.issue.pc 0 [7])
        ((u.readT a.1 8).2.writeT a.1 (bytesOfNat 8 (2 ^ 32 + 1))) (fun _ _ => true)) = true := by decide +kernel

theorem witness_TileStores_elements : let s := storing 1
    1 ≤ [(7 : W32), 8].length ∧ s.ctx.id.kind ≠ .clove ∧ (0x400000003FFFF0 : W64).toNat = 2 ^ 54 + 0x3FFFF0 ∧ 0x3FFFF0 + (1 + 1) * 8 ≤ 2 ^ 22 ∧ 1 ≤ 64 ∧
    s.fillPending (.scratch (s.here / 4) (0x3FFFF0 + 1 * 8)) (1 * 8) = false ∧
    (∀ m, m < 64 → s.poisonedT (.scratch (s.here / 4) m) = false) := by decide +kernel

/-- No sector of a scratchpad whose list of marks is empty carries one. -/
theorem witness_TileStores_sound : ∀ m, (storing 1).poisonedT (.scratch ((storing 1).here / 4) m) = false := fun _ => rfl

/-- The load strand whose cluster has a window of 32 slots of 1 KiB from 64 KiB on, owned by process 1; slots as given. -/
def windowed (k : StrandId) (v : W64) (slots : Cells Slot) : State :=
  let s := paged (on k [(11, v)]) coherent
  s.setCluster 0 { s.cluster 0 with base := 1, size := 0, count := 32, owner := 1, slots }

/-- A slot that holds a block of the page. -/
def slotOf (pending dirty : Bool) (victim : Option (BitVec 20 × Nat)) : Slot :=
  { valid := true, pasid := 1, block := 0x300000, pending, ref := true, dirty, victim, prober := (1, 0), pc := scratchBase }

/-- The clock hand takes a victim, or none is free. -/
def turned (s : State) : Option Nat :=
  (State.clockTurn (s.slotFree s.hereCluster) (2 * (s.cluster s.hereCluster).count.toNat) (s.cluster s.hereCluster)).map (fun x => x.1)

theorem witness_ScratchWindows_probe : let s := windowed .L 0x300020 [(31, slotOf false false none)]
    let m := windowed .L 0x300400 [(31, slotOf false false none)]
    let full := windowed .L 0x300400 ((List.range 32).map (fun n => (n, slotOf true false none)))
    let later := (s.setCluster 0 { s.cluster 0 with tagAt := (0, 1) })
    let before := (s.setCluster 0 { s.cluster 0 with tagAt := (0, 0) })
    let setting := s.modCtx (fun c => { c with k := { c.k with blocked := some .slotSet } })
    Allowed s (.probe 12 11 1) ∧ (s.getX 11).toNat < 2 ^ 54 ∧ (s.cluster s.hereCluster).count ≠ 0 ∧ (s.cluster s.hereCluster).owner = s.ctx.id.pasid ∧
    (s.tableTaken = false ∧ before.tableTaken = false ∧ m.tableTaken = false ∧ full.tableTaken = false) ∧
    (later.tableTaken = true ∧ Allowed later (.probe 12 11 1)) ∧ (setting.tableTaken = true ∧ Allowed setting (.probe 12 11 1)) ∧
    31 < (s.cluster s.hereCluster).count.toNat ∧
    (((s.cluster s.hereCluster).slot 31).valid = true ∧ ((s.cluster s.hereCluster).slot 31).pasid = s.ctx.id.pasid ∧
      ((s.cluster s.hereCluster).slot 31).block = (s.getX 11).toNat / 1024 * 1024) ∧
    (∀ n, n < 31 → ((s.cluster s.hereCluster).slot n).valid = false) ∧
    (∀ n, n < 32 → ¬((m.cluster m.hereCluster).slot n).block = (m.getX 11).toNat / 1024 * 1024) ∧ turned m = some 0 ∧ turned full = none ∧
    (∀ n, n < 32 → ¬((full.cluster full.hereCluster).slot n).block = (full.getX 11).toNat / 1024 * 1024) := by decide +kernel

theorem witness_ScratchWindows_violation : let s := on .L [(11, 0x40000000000000), (12, 0x400000003FFFFF), (13, 0x7FFFFFFFFFFFFF)]
    Allowed s (.probe 12 11 1) ∧ 2 ^ 54 ≤ (s.getX 11).toNat ∧ (s.getX 12).toNat < 2 ^ 54 + 2 ^ 22 ∧ (s.getX 13).toNat < 2 ^ 55 ∧
    (s.cluster s.hereCluster).count = 0 ∧ s.tableTaken = false := by decide +kernel

/-- The end of a transfer. -/
def done (x : BlockEnd × State) : Bool := x.1 == .done

theorem witness_ScratchWindows_fill : let s := windowed .L 0 [(0, slotOf true false none), (1, slotOf true true (some (1, 0x300400)))]
    let x := (s.cluster 0).slot 0
    let y := (s.cluster 0).slot 1
    x.pending = true ∧ x.victim = none ∧ done (s.blockIn (s.proberOf 0 x) (s.proberReq 0 x x.pasid) 0 0 x.block) = true ∧
    (match s.blockTargets (s.proberOf 0 x) (s.proberReq 0 x x.pasid) false ((s.cluster 0).slotBytes / 32) (BitVec.ofNat 64 x.block) with
      | (.inl ts, u) => decide (ts.length = 32 ∧ u.mem.adds = []) && ts.all (fun g => match g with | .hbm q _ _ _ => q % 32 == 0 | _ => false)
      | _ => false) = true ∧
    y.victim = some (1, 0x300400) ∧ done (s.blockOut (s.proberOf 0 y) (s.proberReq 0 y 1) 0 1 0x300400) = true := by
  decide +kernel

theorem witness_ScratchWindows_set : let s := windowed .K 0x3F0020 [(0, slotOf false true none)]
    let other := (windowed .K 0x400 []).modCtx (fun c => { c with id := { c.id with pasid := 2 } })
    let filling := windowed .K 0x3F0020 [(31, slotOf true false none)]
    let bad (v : W64) : Prop := v &&& 0x3F37FF ≠ v ∨ (0 < bitsAt v 0 11 ∧ bitsAt v 0 11 < 32) ∨ 1024 < bitsAt v 0 11 ∨
      2 ^ 22 < bitsAt v 16 6 * 65536 + bitsAt v 0 11 * (1024 * 2 ^ bitsAt v 12 2)
    Allowed s (.slotSet (some 7) 11) ∧ bad 31 ∧ bad 0x401 ∧ bad 0x800 ∧ bad 0x3F0041 ∧ ¬bad (s.getX 11) ∧ ¬bad 0 ∧ ¬bad 0x400 ∧
    (s.cluster s.hereCluster).count ≠ 0 ∧ (s.cluster s.hereCluster).owner = s.ctx.id.pasid ∧
    (other.cluster other.hereCluster).owner ≠ other.ctx.id.pasid ∧ Allowed other (.slotSet none 11) ∧
    (∀ m, m < 32 → ((s.cluster s.hereCluster).slot m).pending = false) ∧
    (31 < (filling.cluster filling.hereCluster).count.toNat ∧ ((filling.cluster filling.hereCluster).slot 31).pending = true ∧
      Allowed filling (.slotSet (some 7) 11)) ∧
    gives (eachSlot (cleanSlot s.hereCluster) (List.range 32)) (s.modCtx (fun x => { x with window := some s.hereCluster })) (fun _ _ => true) = true := by
  decide +kernel

theorem witness_ScratchWindows_inv : ∀ all, let s := windowed .K 0x300000 [(5, slotOf false true none)]
    let f := windowed .K 0x300000 [(5, slotOf true true none)]
    let g := windowed .K 0x300000 [(0, slotOf true true none)]
    affected s 11 all ≠ [] ∧ (∀ m ∈ affected s 11 all, ((s.cluster s.hereCluster).slot m).pending = false) ∧ s.ctx.slotRun = none ∧
    Allowed s (.slotInv none 11 all) ∧ Allowed s (.slotWb (some 0) 11 all) ∧ (affected f 11 false).head? = some 5 ∧ (affected g 11 true).head? = some 0 ∧
    ((f.cluster f.hereCluster).slot 5).pending = true ∧ ((g.cluster g.hereCluster).slot 0).pending = true ∧
    gives (wbSlots s.hereCluster (affected s 11 all) 0) (s.modCtx (fun x => { x with slotRun := none })) (fun n _ => n == 1) = true := by
  decide +kernel

theorem witness_ScratchWindows_clean : let s := windowed .K 0x300000 [(5, slotOf false true none)]
    let x := (s.cluster 0).slot 5
    x.pending = false ∧ (x.valid && x.dirty) = true ∧ gives (cleanSlot 0 5) s (fun _ _ => true) = true ∧
    done (s.blockOut s.ctx.id { (s.reqOf .K 0) with pasid := x.pasid } 0 5 x.block) = true ∧
    (let y := (s.cluster 0).slot 6; (y.valid && y.dirty) = false ∧ gives (cleanSlot 0 6) s (fun _ _ => true) = true) := by decide +kernel

/-- The item whose X7 names a copy card: two rows of 8 bytes from the scratchpad's start to page 0x30_0000. -/
def carded (k : StrandId) (a : W64) : State :=
  let s := paged (on k [(7, a)]) coherent
  putS (putS (putS (putS s 0x100 0x40000000000000) 0x108 0x300000) 0x110 0x0000000800000008) 0x118 0x0000000100000008

def cardWords : Vector W64 4 := #v[0x40000000000000, 0x300000, 0x0000000800000008, 0x0000000100000008]

/-- A command, where none is to be had. -/
def noCmd : Cmd :=
  { seq := 0, cls := .ce, strand := .S, pc := 0, d1 := 0, d2 := 0, foot := ⟨[], []⟩, started := false, stalled := none, body := .act 0,
    finished := false, causes := [], code := 0, desc := none, lease := 0, unread := false }

/-- A command of a class in flight, alone. -/
def flying (s : State) (cls : EngClass) (started : Bool) (body : CmdBody) : State :=
  let t := s.withCommand cls 0 0 { reads := [], writes := [] } body
  t.modCmd s.ctx.eng.seqno (fun m => { m with started })

theorem witness_CopyEngine : ∀ i ∈ [Instr.ceCopy 9 7, .ceFill 9 7, .ceGath 9 7],
    let s := carded .S 0x40000000000100
    let x := s.getX 7
    Allowed s i ∧ x.toNat % 32 = 0 ∧ s.ctx.eng.cmds.length < 64 ∧ s.strand ≠ .L ∧
    gives (loadWord x) s (fun w0 s1 => gives (loadWord (x + 8)) s1 (fun w1 s2 => gives (loadWord (x + 16)) s2 (fun w2 s3 =>
      gives (loadWord (x + 24)) s3 (fun w3 u => decide (#v[w0, w1, w2, w3] = cardWords ∧ u.ctx.isDet = false))))) = true ∧
    (ident s (fun i => { i with det := true })).ctx.eng.cmds = [] := by decide +kernel

theorem witness_CopyEngine_refused : let s := carded .S 0x40000000000108
    let full := (carded .S 0x40000000000100).modCtx (fun c =>
      { c with eng := { c.eng with cmds := List.replicate 64 ((copying s).ctx.eng.cmds.getD 0 noCmd) } })
    Allowed s (.ceCopy 9 7) ∧ (s.getX 7).toNat % 32 ≠ 0 ∧ Allowed full (.ceCopy 9 7) ∧ (full.getX 7).toNat % 32 = 0 ∧
    64 ≤ full.ctx.eng.cmds.length := by decide +kernel

/-- The one command of a class-0 test, and an engine's work that comes to an end. -/
def theCmd (s : State) : Cmd := s.ctx.eng.cmds.headD noCmd
def works {α : Type} (m : E α) (s : State) (p : α → State → Bool) : Bool :=
  match m s with
  | .ok a t => p a t
  | .error .. => false

theorem witness_CopyEngine_start : [(cardWords, 0), (cardWords.setIfInBounds 1 0x80000000000000, 1), (cardWords.setIfInBounds 3 0x100000000, 1),
      (cardWords.setIfInBounds 0 0x80000000000000, 2)].all (fun x =>
    let s := flying (carded .S 0x40000000000100) .ce false (.ce .copy x.1 0)
    let c := theCmd s
    decide (s.cmd c.seq = some c ∧ c.body = .ce .copy x.1 0 ∧ c.finished = false ∧ c.started = false ∧ s.mayStart c = true ∧
      (x.2 = 1 ↔ cardBad .copy x.1 = true)) &&
    (match ceIndices s c .copy x.1 with | .ok idx u => ceCheck u (s.ceReq c) .copy x.1 idx == .inl x.2 | _ => false)) = true := by decide +kernel

/-- A fill of one row of 8 bytes to an address, and whether its clauses of the checks hold for a code. -/
theorem witness_CopyEngine_checks : [(0x40000000000000, 8, 0), (0x400000003FFFF8, 8, 0), (0x400000003FFFF9, 8, 4), (0x7FFFFFFFFFFFF8, 9, 2)].all
    (fun (x : W64 × Nat × Nat) =>
      let w : Vector W64 4 := #v[7, x.1, 0, BitVec.ofNat 64 x.2.1]
      let g := cardOf w
      decide (bitsAt w[1] 55 9 = 0 ∧ bitsAt w[3] 48 2 = 0 ∧ g.conv = 0 ∧ g.len ≠ 0 ∧ g.sstride = 0) &&
      (if x.2.2 = 2 then decide (2 ^ 55 < g.dst.toNat + (g.rows - 1) * g.dstride + g.len)
        else isScratch g.dst && decide (g.dst.toNat + (g.rows - 1) * g.dstride + g.len ≤ 2 ^ 55) &&
          (decide (2 ^ 54 + 2 ^ 22 < g.dst.toNat + (g.rows - 1) * g.dstride + g.len) == (x.2.2 == 4)))) = true ∧
    (let w : Vector W64 4 := #v[0x300000, 0x300020, 0x400000003F0000, 0x4000000000000]
     let s := flying (carded .S 0) .ce false (.ce .copy w 0)
     let g := cardOf w
     (g.conv = 1 ∧ g.len = 0 ∧ bitsAt w[1] 55 9 = 0 ∧ bitsAt w[3] 48 2 = 0) ∧ g.dst.toNat % 1024 ≠ 0 ∧
     ceCheck s (s.ceReq (theCmd s)) .copy w [] ≠ .inl 2) := by decide +kernel

/-- A row of a copy command that is one step of its own: what it reads and writes meets no earlier command and is read and written. -/
def rowGoes (op : CeOp) (w : Vector W64 4) (m : Nat) (poisoned : Bool) : Bool :=
  let s0 := carded .S 0x40000000000100
  let s1 := if poisoned then s0.setCluster 0 { s0.cluster 0 with poison := [0] } else s0
  let s := flying s1 .ce true (.ce op w m)
  let c := theCmd s
  let g := cardOf w
  let r := s.ceReq c
  let at_ (a : W64) (n : Nat) : W64 := a + BitVec.ofNat 64 n
  let ok (a : W64) (n : Nat) (d : W64) (k : Nat) : Bool :=
    !s.edgeWaits c.seq { reads := [rangeAt a n], writes := [rangeAt d k] } &&
    works (eRead r a n) s (fun bs u => (bs.any (·.2) == poisoned) && works (eWrite r d (bs.take k)) u (fun p _ => p.isNone))
  decide (s.cmd c.seq = some c ∧ c.body = .ce op w m ∧ c.finished = false ∧ c.started = true ∧ (g.image op = false ∨ m + 1 = g.rows)) &&
  (match op with
   | .fill => !s.edgeWaits c.seq { reads := [], writes := [rangeAt (at_ g.dst (m * g.dstride)) g.len] } &&
      works (eWrite r (at_ g.dst (m * g.dstride)) ((List.range g.len).map (fun k => (BitVec.ofNat 8 (g.src.toNat / 2 ^ (8 * (k % 8))), false)))) s
        (fun p _ => p.isNone)
   | .gath =>
      ok (at_ g.aux (4 * m)) 4 (at_ g.dst (m * g.len)) 4 &&
      works (eRead r (at_ g.aux (4 * m)) 4) s (fun iw u =>
        let a := at_ g.src (natOfBytes (iw.map (·.1)) * g.len)
        isScratch a && !u.edgeWaits c.seq { reads := [rangeAt a g.len], writes := [] } &&
        works (eRead r a g.len) u (fun bs v => bs.all (fun b => !b.2) && works (eWrite r (at_ g.dst (m * g.len)) bs) v (fun p _ => p.isNone)))
   | .copy => match g.conv with
      | 1 => ok (at_ g.src (960 * m)) 960 (at_ g.dst (1024 * m)) 960 && ok (at_ g.aux (60 * m)) 60 (at_ g.dst (1024 * m)) 60
      | 2 => ok (at_ g.src (1024 * m)) 1020 (at_ g.dst (960 * m)) 960 && works (ePlan r true (at_ g.aux (60 * m)) (sectorPieces 4 (at_ g.aux (60 * m)) 60)) s (fun _ _ => true)
      | _ => ok (at_ g.src (m * g.sstride)) g.len (at_ g.dst (m * g.dstride)) g.len)

theorem witness_CopyEngine_row : (∀ m ∈ [0, 1], rowGoes .copy cardWords m false = true ∧ rowGoes .fill cardWords m false = true) ∧
    (rowGoes .copy #v[0x300000, 0x40000000001000, 0x0000010000000100, 0x0000000F00000100] 15 false = true ∧
      (cardOf #v[0x300000, 0x40000000001000, 0x0000010000000100, 0x0000000F00000100]).image .copy = true) ∧
    rowGoes .copy cardWords 0 true = true ∧ rowGoes .gath #v[0x40000000000000, 0x300000, 0x40000000001000, 0x0000000100000008] 1 false = true ∧
    rowGoes .copy #v[0x40000000000000, 0x300000, 0x40000000001000, 0x4000000000000] 0 false = true ∧
    rowGoes .copy #v[0x40000000000000, 0x300000, 0x40000000001000, 0x8000000000000] 0 false = true := by decide +kernel

theorem witness_CopyEngine_bytes : let s := carded .S 0
    (0x400000003FFFF8 : W64).toNat = 2 ^ 54 + 0x3FFFF8 ∧ 0x3FFFF8 + 8 ≤ 2 ^ 22 ∧ (s.ceReq (theCmd s)).core / 4 = 0 := by decide +kernel

/-- The same card's scratchpad has no fill pending and no mark. -/
theorem witness_CopyEngine_sound : (∀ z m, (carded .S 0).fillPending (.scratch 0 z) m = false) ∧
    ∀ z, (carded .S 0).poisonedT (.scratch 0 z) = false := ⟨fun _ _ => rfl, fun _ => rfl⟩

/-- The control strand with a search unit in a state. -/
def tuning (regs : List (Nat × W64)) (f : Tsu → Tsu) : State :=
  (paged (on .K regs) coherent).modCtx (fun c => { c with tsu := f c.tsu })

def oneKnob : List Knob := [{ num := 0, lo := -1, hi := 1 }]

theorem witness_Tuning_declare : let regs := [(10, 3), (11, 0x0000FF01), (12, 16), (13, 0x0001FFFF), (14, 0x01000000), (15, 0x80008000)]
    let s := tuning regs id
    let run := tuning regs (fun t => { t with phase := some .sweep, knobs := oneKnob })
    let froz := tuning regs (fun t => { t with phase := some .exploit, frozen := true, knobs := oneKnob })
    let k (y : W64) : Knob := { num := 3, lo := BitVec.ofNat 16 y.toNat, hi := BitVec.ofNat 16 (y.toNat / 65536) }
    Allowed s (.tuneDecl (some 6) 10 13) ∧ s.ctx.id.kind.isApp = true ∧ (s.ctx.tsu.phase.isSome && !s.ctx.tsu.frozen) = false ∧
    (run.ctx.tsu.phase.isSome && !run.ctx.tsu.frozen) = true ∧ (froz.ctx.tsu.phase.isSome && !froz.ctx.tsu.frozen) = false ∧
    froz.ctx.tsu.phase ≠ none ∧ 16 ≤ (s.getX 12).toNat ∧ (k (s.getX 11)).hi.toInt < (k 0x00001).lo.toInt ∧
    255 < (k (s.getX 14)).hi.toInt - (k (s.getX 14)).lo.toInt ∧
    ¬255 < (k (s.getX 13)).hi.toInt - (k (s.getX 13)).lo.toInt ∧ ¬(k (s.getX 15)).hi.toInt < (k (s.getX 15)).lo.toInt ∧
    ¬2 ^ 32 ≤ latticeSize (s.ctx.tsu.knobs.filter (fun o => o.num != 3) ++ [k (s.getX 13)]) ∧ s.ctx.tsu.phase = none := by decide +kernel

theorem witness_Tuning_objective : let s := tuning [(10, 0), (11, 241), (12, 2), (13, 65539), (14, 0x300000), (15, 0xFFFF0003), (16, 0x100000000)] id
    Allowed s (.tuneObj (some 6) 10 14) ∧ s.getX 10 = 0 ∧ s.getX 11 = BitVec.ofNat 64 (1 + 16 * BitVec.toNat (15 : BitVec 4)) ∧
    s.getX 12 = 2 ∧ (0 < 1 ∧ 65535 < 2 ^ 16 ∧ s.getX 13 = BitVec.ofNat 64 (3 + 65536 * 1) ∧ s.getX 15 = BitVec.ofNat 64 (3 + 65536 * 65535) ∧
      (s.getX 14).toNat % 8 = 0) ∧ 2 ^ 32 ≤ (s.getX 16).toNat := by decide +kernel

theorem witness_Tuning_step : let s := tuning [(9, 610)] (fun t => { t with knobs := oneKnob, objective := some .software })
    let run (o : Objective) : State := tuning [(9, 610)] (fun t => { t with phase := some .sweep, knobs := oneKnob, objective := some o,
                                                                            trial := some { kind := .sweep, point := 0, start := 0 } })
    let froz (b : Option (Nat × W64)) (f : Bool) : State := tuning [] (fun t => { t with phase := some .sweep, frozen := f, knobs := oneKnob, best := b })
    Allowed s (.tuneStep (some 6) 9) ∧ Allowed s (.tuneFrz (some 6)) ∧ Allowed s (.tuneRsm (some 6)) ∧ s.ctx.tsu.frozen = false ∧
    s.ctx.tsu.phase = none ∧ s.ctx.tsu.knobs ≠ [] ∧ s.ctx.tsu.objective ≠ none ∧ (tuning [] id).ctx.tsu.knobs = [] ∧
    (tuning [] (fun t => { t with knobs := oneKnob })).ctx.tsu.objective = none ∧ (run .software).ctx.tsu.phase ≠ none ∧
    (run .software).ctx.tsu.objective = some .software ∧ (run .clks).ctx.tsu.objective = some .clks ∧
    (froz none true).ctx.tsu.frozen = true ∧ (froz none false).ctx.tsu.best = none ∧ (froz (some (2, 5)) false).ctx.tsu.best = some (2, 5) := by
  decide +kernel

/-- The words of a saved block. -/
def savedBlock (t : Tsu) : List W64 := t.blockWords ++ [t.blockWords.foldl (fun x y => x ^^^ y) 0]

theorem witness_Tuning_save : let s := tuning [(16, 0x300000), (17, 0x300004)] (fun t => { t with knobs := oneKnob, objective := some .clks })
    Allowed s (.tuneSave (some 6) 16) ∧ (s.getX 16).toNat % 8 = 0 ∧ (s.getX 17).toNat % 8 ≠ 0 ∧
    gives (storeWords (s.getX 16) (savedBlock s.ctx.tsu)) s (fun _ u => decide (Allowed u (.tuneLoad (some 6) 16)) &&
      gives (loadWord (u.getX 16)) u (fun w0 v => decide (bitsAt w0 16 5 ≤ 16) &&
        gives (loadWords (6 + bitsAt w0 16 5) (u.getX 16 + 8)) v (fun ws _ =>
          (u.ctx.tsu.ofBlock (w0 :: ws)).isSome && (u.ctx.tsu.ofBlock ((w0 ^^^ 1) :: ws)).isNone))) = true := by decide +kernel

theorem witness_Tuning_measured : let run (o : Objective) : State := tuning [(9, 0)] (fun t => { t with
      phase := some .exploit, knobs := oneKnob, objective := some o, trial := some { kind := .probe, point := 0, start := 0 }, trials := 2 })
    Allowed (run (.qhc 3)) (.tuneStep (some 6) 9) ∧ (run (.qhc 3)).ctx.tsu.objective = some (.qhc 3) ∧
    2 ≤ (run (.replay 0x300000 2)).ctx.tsu.trials.toNat ∧ (run (.replay 0x300000 3)).ctx.tsu.trials.toNat < 3 ∧
    (run (.replay 0x300000 3)).ctx.tsu.frozen = false ∧ (run (.replay 0x300000 3)).ctx.tsu.phase ≠ none ∧
    gives (loadWord (0x300000 + 8 * (run (.replay 0x300000 3)).ctx.tsu.trials)) (run (.replay 0x300000 3)) (fun _ _ => true) = true := by decide +kernel

/-- Two knobs, the second of one value alone. -/
def twoKnobs : List Knob := oneKnob ++ [{ num := 2, lo := 5, hi := 5 }]

theorem witness_Tuning_search : let t (p : TuneTarget) (cur : Nat) (b : Option (Nat × W64)) (knobs : List Knob) : Tsu := { Tsu.reset with
      phase := some p, cursor := cur, ecnt := 2, best := b, knobs, trial := some { kind := .probe, point := 1, start := 0 } }
    let fits (t : Tsu) (p : Nat) : Bool := match t.bestValues[p / 2]?, t.knobs[p / 2]? with
      | some x, some k => let m : Int := if p % 2 = 0 then x.toInt - 1 else x.toInt + 1
        decide (k.lo.toInt ≤ m ∧ m ≤ k.hi.toInt)
      | _, _ => false
    -- the values 7 and 8 against a best point 2 of 8, and against none
    ((t .sweep 0 (some (2, 8)) twoKnobs).trial = some { kind := .probe, point := 1, start := 0 } ∧ BitVec.toNat (7 : W64) < BitVec.toNat (8 : W64) ∧
      1 < 2 ∧ ¬BitVec.toNat (9 : W64) < BitVec.toNat (8 : W64) ∧ (t .sweep 0 none twoKnobs).best = none) ∧
    -- the first and the last point of the sweep, and past it
    (0 < latticeSize twoKnobs ∧ (t .sweep 2 none twoKnobs).cursor < latticeSize twoKnobs ∧ ¬(t .sweep 3 none twoKnobs).cursor < latticeSize twoKnobs ∧
      (t .sweep 3 none twoKnobs).phase = some .sweep ∧ (t .exploit 3 none twoKnobs).phase ≠ some .sweep) ∧
    -- from the last value of the first knob the first place fits, from its lowest only the second, and a knob of one value has none
    (fits (t .exploit 3 (some (2, 8)) twoKnobs) 0 = true ∧ fits (t .exploit 3 (some (0, 8)) twoKnobs) 0 = false ∧
      fits (t .exploit 3 (some (0, 8)) twoKnobs) 1 = true ∧ (∀ p < 2, fits (t .exploit 3 (some (0, 8)) [{ num := 2, lo := 5, hi := 5 }]) p = false)) ∧
    ((∀ m ∈ oneKnob, m.lo.toInt ≤ m.hi.toInt) ∧ 2 < latticeSize oneKnob ∧ (∀ m ∈ oneKnob, m.num ≠ 2) ∧
      (t .sweep 0 none twoKnobs).knobs = oneKnob ++ [{ num := 2, lo := 5, hi := 5 }]) := by decide +kernel

/-- The compute strand holding its cluster's lease, under a grant of every slot. -/
def leased (g : W64) (issued : Nat) (regs : List (Nat × W64)) : State :=
  let s := paged (on .C regs) coherent
  (s.setCluster 0 { s.cluster 0 with holder := some (0, .A), issued }).modCtx (fun c => { c with comp := { c.comp with slots := Vector.replicate 4 g } })

/-- A context whose compute strand waits for the lease. -/
def waiting (s : State) : State := s.modCtx (fun c => { c with c := { c.c with blocked := some .lease } })

theorem witness_MatrixLeases : let s := leased emptySlot 7 [(4, 0x300000), (5, 0x300008), (6, 15), (7, 16), (8, 0x80166)]
    let w := waiting (on .C [])
    Allowed s (.mxLease 5) ∧ Allowed s .mxFree ∧ (s.cluster s.hereCluster).holder = some (s.here % 4, s.ctx.id.kind) ∧
    (w.cluster 0).holder = none ∧ (s.cluster 0).holder ≠ none ∧ w.wantsLease 0 w.ctx = true ∧ (on .C []).wantsLease 0 (on .C []).ctx = false ∧
    (on .C []).others = [] ∧ s.ctx.isDet = false ∧ Allowed s (.mxFmt 9 6 8) ∧ (s.getX 6).toNat < 16 ∧ 16 ≤ (s.getX 7).toNat ∧
    fmtEntryOk (s.getX 8) = true ∧ fmtEntryOk (s.getX 7) = false ∧ Allowed s (.mxScl 6 true) ∧ Allowed s (.mxAct 9 4) ∧ (s.getX 4).toNat % 16 = 0 ∧
    (s.getX 5).toNat % 16 ≠ 0 ∧ s.ctx.eng.cmds = [] ∧ (on .C []).hereCluster = 0 ∧
    ((on .C []).cluster 0).holder ≠ some ((on .C []).here % 4, (on .C []).ctx.id.kind) ∧ Allowed (on .C []) (.mxAct 9 4) := by decide +kernel

theorem witness_MatrixLeases_scales : let s := leased emptySlot 7 [(4, 7)]
    let f := flying s .mxa false (.act 0x300000)
    Allowed s (.mxScl 4 true) ∧ Allowed s (.mxScl 4 false) ∧ (∀ m ∈ s.ctx.eng.cmds, m.cls ≠ .mxa) ∧ Allowed f (.mxScl 4 true) ∧
    (∃ m ∈ f.ctx.eng.cmds, m.cls = .mxa) := by decide +kernel

/-- A lease that an earlier member of the bundle gave up, and one whose end lets it go with a request waiting. -/
theorem witness_MatrixLeases_gone : let l := leased emptySlot 0 [(4, 0x300000)]
    let s := ({ l with issue := { l.issue with snap := some l.snapshot } } : State).setCluster 0 { l.cluster 0 with holder := none }
    let w : State := { l with others := [(waiting (on .C [])).ctx].map (fun c => { c with id := { c.id with core := 1, item := 1 } }) }
    (s.cluster s.hereCluster).holder ≠ some (s.here % 4, s.ctx.id.kind) ∧ s.rdCluster.holder = some (s.here % 4, s.ctx.id.kind) ∧
    Allowed s (.mxLease 5) ∧ Allowed s .mxFree ∧ Allowed s (.mxAct 9 4) ∧ (s.getX 4).toNat % 16 = 0 ∧ s.ctx.eng.cmds = [] ∧
    l.issue.snap = none ∧ ¬(l.cluster 0).issued + 1 < 1 ∧ w.others.any (w.wantsLease 0) = true ∧ Allowed w (.mxAct 9 4) := by decide +kernel

/-- What MMA asks of its slot, formats, blocks, operands and lease, for a slot's word and no format table. -/
def mmaMay (s : State) (i : Instr) (acc : Nat) (w : W64) (np : BitVec 8) (a b : Reg) (zero : Bool) : Bool :=
  match EType.ofCode (BitVec.ofNat 4 (w.toNat / 2 ^ 36)), EType.ofCode (BitVec.ofNat 4 (w.toNat / 2 ^ 40)) with
  | some af, some bf =>
    let m := w.toNat % 128 + 1
    let n := w.toNat / 128 % 512 + 1
    decide (Allowed s i ∧ profileLegal np s.ctx.isDet = true ∧ w.toNat / 2 ^ 63 = 0 ∧ profileAccepts np s.ctx.isDet af bf = true ∧
      16 * (acc / 4) + m ≤ 128 ∧ 64 * (acc % 4) + n ≤ 256 ∧
      (zero = true ∨ ∀ j ∈ mmaBlocks acc m n 0xFFFF, s.ctx.blockInt j = profileInt np af) ∧ (s.getX a).toNat % 8 = 0 ∧ (s.getX b).toNat % 8 = 0 ∧
      (s.cluster s.hereCluster).holder = some (s.here % 4, s.ctx.id.kind) ∧ s.ctx.eng.cmds = [] ∧
      s.rd.comp.slots.getD 1 emptySlot = w)
  | _, _ => false

theorem witness_MatrixCommands_mma : let s := leased (shapeOf 6 128 256 16) 0 [(5, 0x300000), (6, 0x300020)]
    let one := leased (shapeOf 6 16 64 16) 0 [(5, 0x300000), (6, 0x300020)]
    mmaMay s (.mmaZ 0 0 5 6 1 false 0 0 1) 0 (shapeOf 6 128 256 16) 1 5 6 true = true ∧
    mmaMay one (.mma 0 31 5 6 1 false 0 0 1) 31 (shapeOf 6 16 64 16) 1 5 6 false = true ∧
    Allowed (on .C []) (.mma 0 31 5 6 1 false 0 0 1) ∧ profileLegal 1 (on .C []).ctx.isDet = true ∧
    ((on .C []).rd.comp.slots.getD 1 emptySlot).toNat / 2 ^ 63 = 1 := by decide +kernel

theorem witness_MatrixCommands_table : let s := (leased (shapeOf 8 16 64 16) 0 [(5, 0x300000), (6, 0x300020)]).modCtx (fun c =>
      { c with comp := { c.comp with fmt := c.comp.fmt.setIfInBounds 0 0x80166 } })
    let e := (s.rd.comp.fmt.getD (s.rd.c.loop0.idx.toNat % 16) 0).toNat
    Allowed s (.mma 0 0 5 6 1 true 0 0 0) ∧ profileLegal (BitVec.ofNat 8 (e / 256)) s.ctx.isDet = true ∧ EType.ofCode (BitVec.ofNat 4 e) = some .fp16 ∧
    EType.ofCode (BitVec.ofNat 4 (e / 16)) = some .fp16 ∧ profileAccepts (BitVec.ofNat 8 (e / 256)) s.ctx.isDet .fp16 .fp16 = true ∧
    (EType.fp16 ≠ .b4 ∧ EType.fp16 ≠ .b4) := by decide +kernel

theorem witness_MatrixCommands_drain : let s := leased (shapeOf 8 16 64 16) 0 [(9, 0x300000)]
    Allowed s (.mxDrain 0 (.tile 0 .whole .zero) 0 31 9 true true true false 0) ∧ 0 + (BitVec.toNat (31 : BitVec 6) + 1) ≤ 32 ∧
    drainDst (.tile 0 .whole .zero) 32 = true ∧ drainDst (.sq 0) 1 = true ∧ (∀ j, j < 32 → s.ctx.blockInt (0 + j) = false) ∧
    EType.ofCode (BitVec.ofNat 4 ((s.rd.comp.slots.getD 0 emptySlot).toNat / 2 ^ 44)) = some .fp32 ∧ numericType .fp32 = true ∧
    (s.rd.comp.slots.getD 0 emptySlot).toNat / 2 ^ 63 = 0 ∧ (s.getX 9).toNat % 16 = 0 ∧
    (s.cluster s.hereCluster).holder = some (s.here % 4, s.ctx.id.kind) ∧ s.ctx.eng.cmds = [] ∧
    32 < BitVec.toNat (31 : BitVec 5) + (BitVec.toNat (1 : BitVec 6) + 1) := by decide +kernel

/-- The one class-1 command of a context that may start, whose execution comes to its end. -/
def mayRun (s : State) : Bool := decide (s.ctx.eng.cmds = [theCmd s] ∧ (theCmd s).cls = .mxa ∧ s.mayStart (theCmd s) = true)

theorem witness_MatrixCommands_run : let s0 := putS (putS (leased (shapeOf 6 1 1 16) 1 []) 0 0x40000000000100) 0x40 0x40000000000100
    let a := flying s0 .mxa false (.mma true 1 6 6 1 1 16 0 0xFFFF scratchBase (scratchBase + 0x40))
    let b := flying s0 .mxa false (.act 0x300000)
    let c := flying s0 .mxa false (.drain (.tile 4 .whole .zero) 0 0xFFFF 0 1 0x300000 false false true 8 none)
    mayRun a = true ∧ works (mmaRun (a.reqOf (theCmd a).strand 10) (theCmd a).seq true 1 .fp16 .fp16 1 1 16 0 0xFFFF scratchBase (scratchBase + 0x40)) a
      (fun _ _ => true) = true ∧
    mayRun b = true ∧ works (actRun (b.reqOf (theCmd b).strand 10) (theCmd b).seq 0x300000) b (fun _ _ => true) = true ∧
    mayRun c = true ∧ works (drainPar (c.reqOf (theCmd c).strand 10) (theCmd c).seq false true 0x300000) c (fun _ _ => true) = true := by decide +kernel

theorem witness_MatrixCommands_order : let s := (flying (leased (shapeOf 6 1 1 16) 1 []) .mxa false (.act 0x300000)).modCmd 1 (fun m => { m with lease := 2 })
    let o : State := { s with others := [{ Ctx.fresh { who with core := 1, item := 1 } with
      eng := { Engines.reset with cmds := [{ theCmd s with lease := 1, strand := .C }] } }] }
    let noted := s.modCtx (fun c => { c with eng := { c.eng with scls := [(1, none), (2, some 7)] } })
    (s.ctx.eng.cmds = [theCmd s] ∧ (theCmd s).cls = .mxa ∧ s.leaseBefore (theCmd s) = false ∧ s.mayStart (theCmd s) = true) ∧
    o.ctx.eng.cmds = [theCmd s] ∧ (∃ z ∈ o.others, State.coreNo z.id / 4 = o.hereCluster ∧ z.id.residency ≠ .saved ∧
      ∃ m ∈ z.eng.cmds, m.cls = .mxa ∧ m.finished = false ∧ m.lease < (theCmd o).lease) ∧
    (seqBelow (theCmd noted).seq 1 = false ∧ seqBelow (theCmd noted).seq 2 = true ∧ noted.ctx.eng.scls = [(1, none), (2, some 7)]) ∧
    noted.mayStart (theCmd noted) = true := by decide +kernel

theorem witness_MatrixCommands_events : let full := (on .C []).modCtx (fun c => { c with csr := { c.csr with prov := Vector.replicate 8 1 } })
    let three := full.modCtx (fun c => { c with csr := { c.csr with prov := c.csr.prov.setIfInBounds 6 0 } })
    (∀ k, k < 4 → (full.ctx.csr.prov.getD (2 * k) 0).getLsbD 0 = true) ∧ (∀ k, k < 3 → (three.ctx.csr.prov.getD (2 * k) 0).getLsbD 0 = true) ∧
    ¬(three.ctx.csr.prov.getD (2 * 3) 0).getLsbD 0 = true ∧ ¬((on .C []).ctx.csr.prov.getD 0 0).getLsbD 0 = true ∧
    (let e : ProvEvent := { kblk := 2 ^ 32 - 1, row := 127, col := 255, event := 3, opnd := 3, fmt := 15 }
     e.row < 128 ∧ e.col < 256 ∧ e.event < 4 ∧ e.opnd < 4 ∧ e.kblk < 2 ^ 32) := by decide +kernel

/-- Operands of an MMA: elements with the scale byte of their block. -/
def opRow (l : List Nat) : OperandRow := l.map (fun v => (v, 0))

theorem witness_MatrixNumerics : let one := 0x3C00
    let inf := 0x7C00
    let val (l : List Nat) : List FVal := (l.zip l).map (fun z => (operandVal .fp16 z.1 0).mul (operandVal .fp16 z.2 0))
    (∀ p ∈ [0, 1, 2, 3, 4, 5], p ≤ 5 ∧ (opRow (List.replicate ([1, 16, 32, 32, 64, 64].getD p 1) one)).length % ([1, 16, 32, 32, 64, 64].getD p 1) = 0 ∧
      opRow [one] ≠ [] ∧ (opRow [one]).length ≤ [1, 16, 32, 32, 64, 64].getD p 1) ∧
    FVal.nan ∈ val [0x7E00] ∧ (FVal.inf false ∈ val [inf] ∧ FVal.inf true ∉ val [inf] ∧ FVal.nan ∉ val [inf]) ∧
    (FVal.nan ∉ val [one] ∧ FVal.inf true ∉ val [one] ∧ FVal.inf false ∉ val [one]) ∧
    (FVal.inf true ∈ [(operandVal .fp16 inf 0).mul (operandVal .fp16 0xBC00 0), (operandVal .fp16 inf 0).mul (operandVal .fp16 one 0)] ∧
      FVal.inf false ∈ [(operandVal .fp16 inf 0).mul (operandVal .fp16 0xBC00 0), (operandVal .fp16 inf 0).mul (operandVal .fp16 one 0)]) ∧
    (val [0]).filter (fun x => !x.isZero) = [] ∧ (val [one]).filter (fun x => !x.isZero) ≠ [] ∧
    ((opRow (List.replicate 16 one)).length % 16 = 0 ∧ (opRow (List.replicate 32 one)).length % 32 = 0) ∧
    (EType.fp16.isFloat = true ∧ 15 < 16 ∧ 255 < 256 ∧ 255 % 64 = 63 ∧ 0 % 64 ≠ 63) := by decide +kernel

theorem witness_MatrixNumerics_mma : let s0 := putS (putS (leased (shapeOf 6 1 1 16) 1 []) 0 0x40000000000100) 0x40 0x40000000000100
    let s := flying s0 .mxa false (.mma true 1 6 6 1 1 16 31 0xFFFF scratchBase (scratchBase + 0x40))
    16 * (31 / 4) + 16 ≤ 128 ∧ 64 * (31 % 4) + 64 ≤ 256 ∧
    works (mmaRun (s.reqOf (theCmd s).strand 10) (theCmd s).seq true 1 .fp16 .fp16 1 1 16 31 0xFFFF scratchBase (scratchBase + 0x40)) s
      (fun _ _ => true) = true := by decide +kernel

theorem witness_MatrixNumerics_drain : let v (b : Nat) : FVal := FFmt.fp32.decode b
    15 < 16 ∧ 63 < 64 ∧ v 0x7FC00000 = .nan ∧ (v 0x3F800000).add .rne (v 0x3F800000).neg = .num false 0 (-23) ∧
    (v 0x80000000).add .rne (v 0).neg = .num true 0 (-149) ∧ (v 0x7F800000 = .inf false ∧ (v 0).isInf = false ∧ v 0 ≠ .nan) ∧
    (∀ x ∈ [(1, 1), (0, 0), (255, 255), (300, 255)], ratCmp x.1 1 0 0 (2 * x.2) ≠ .gt ∧ (x.2 = 255 ∨ ratCmp x.1 1 0 0 (2 * x.2 + 2) = .gt)) ∧
    (EType.i8.isInt = true ∧ EType.n32.isInt = true ∧ EType.e4m3.isFloat = true ∧ EType.bf16.isFloat = true) ∧
    ((v 0x7F800000).mul (v 0) = .nan ∧ (v 0x7F800000).mul (v 0x3F800000) = .inf false) := by decide +kernel

theorem witness_MatrixNumerics_below : Less (FFmt.fp32.decode 0xBF800000) (FFmt.fp32.decode 0) := by
  show signedM true _ < signedM false _
  decide

/-- An item of task 1 beside another, with strand arrivals. -/
def gang (arrived : List StrandId) : State :=
  let s := on .K []
  { s with others := [Ctx.fresh { who with core := 1, item := 1 }],
           ctx := arrived.foldl (fun c k => c.modStr k (fun p => { p with arrived := p.arrived.setIfInBounds 0 (some 0) })) s.ctx }

theorem witness_BarriersAndEngineControl : let s := gang [.L, .C, .S]
    let w := gang [.K]
    let st := (gang []).modMe (fun p => { p with barWait := some .die })
    (∀ j ∈ [StrandId.L, .C, .S], ((s.advanceBarrier .core).ctx.str j).arrived.getD 0 none = some (s.advanceBarrier .core).ctx.barGen) ∧
    ¬(∀ j ∈ [StrandId.L, .C, .S], ((w.advanceBarrier .core).ctx.str j).arrived.getD 0 none = some (w.advanceBarrier .core).ctx.barGen) ∧
    Allowed s (.barArrive .core) ∧ Allowed s (.barWait .package) ∧ Allowed s (.barAw .die) ∧ s.strand ≠ .L ∧
    (s.advanceBarrier (s.barScope .core)).barWaits .K (s.barScope .core) = false ∧
    (w.advanceBarrier (w.barScope .core)).barWaits .K (w.barScope .core) = true ∧ (s.ctx.str .K).barWait = none ∧
    (st.ctx.str .K).barWait = some .die ∧ (st.advanceBarrier (st.barScope .die)).barWaits .K (st.barScope .die) = false := by decide +kernel

theorem witness_BarriersAndEngineControl_engines : let s := on .K [(9, 1), (10, 0x80000001), (11, 0x40000000000040), (12, 0x40000000000080)]
    let c := copying s
    c.issue.snap = none ∧ Allowed s (.engWait .gse 9) ∧ s.part ≠ .sl3240m ∧ (∀ m ∈ s.ctx.eng.cmds, m.cls ≠ .gse) ∧ BitVec.setWidth 32 (s.getX 0) = 0 ∧
    BitVec.setWidth 32 (c.getX 9) ≠ 0 ∧ (c.ctx.eng.last - BitVec.setWidth 32 (c.getX 9)).toNat < 2 ^ 31 ∧
    (∃ m ∈ c.ctx.eng.cmds, m.cls = .ce ∧ (BitVec.setWidth 32 (c.getX 9) - m.seq).toNat < 2 ^ 31) ∧ Allowed c (.engWait .ce 9) ∧
    (∀ m ∈ c.ctx.eng.cmds, m.cls = .mxa → 2 ^ 31 ≤ (BitVec.setWidth 32 (c.getX 9) - m.seq).toNat) ∧ Allowed c (.engSeq 5 .ce) ∧
    c.ctx.eng.cmds.find? (fun m => m.cls == .ce) = some (theCmd c) ∧ (theCmd c).seq ≠ 0 ∧ (theCmd c).seq = 1 ∧
    ({ s with part := .sl3240m } : State).part = .sl3240m ∧ Allowed { s with part := .sl3240m } (.engWait .nbu 9) ∧
    Allowed s (.engLnch 6 11) ∧ (s.getX 11).toNat % 128 ≠ 0 ∧ (s.getX 12).toNat % 128 = 0 ∧
    gives (loadWords 16 (s.getX 12)) s (fun ws u => u.launchStatus (Vector.ofFn (fun i : Fin 16 => ws.getD i.val 0)) != 0) = true := by
  decide +kernel

/-- The item with a fault that it awaits. -/
def faulted (s : State) (slot : Option Nat) : State :=
  s.modCtx (fun c => { c with fault := some { strand := .L, addr := 0x300000, pc := scratchBase, slot } })

/-- The same machine with F of core 0 beside the item, holding a bypass value that it has just written. -/
def withheld (s : State) : State :=
  let f := Ctx.fresh { who with kind := .F, pasid := 0, task := 0 }
  let b := f.k.bypass.setIfInBounds 0 { value := 5, live := true, writtenAt := s.cycle.toNat }
  { s with others := s.others ++ [{ f with k := { f.k with bypass := b } }] }

/-- The same machine with hint records of process 1, each of four words. -/
def hinted (s : State) (records : List (List Nat)) : State :=
  let ws : List (Nat × Nat) := (records.flatten.zipIdx).map (fun (e : Nat × Nat) => (0x5000 + 8 * e.2, e.1))
  (((0x1020, 0x2003) :: (0x1030, 0x5000) :: (0x1038, records.length) :: ws : List (Nat × Nat))).foldl (fun t e => t.setWord0 e.1 (BitVec.ofNat 64 e.2))
    (s.setDie 0 { s.die 0 with qt1base := 0x2000000001000 })

theorem witness_FaultEvents : let s := { on .K [] with others := [Ctx.fresh { who with kind := .B, item := 1 }] }
    let cmd := flying s .ce true (.ce .copy cardWords 0)
    let st := cmd.modCmd 1 (fun m => { m with stalled := some 0x300000 })
    let dl := s.modCtx (fun c => { c with deadlock := 0x100000, wdog := 65536, wdogLimit := 65536 })
    let ill := s.modCtx (fun c => { c with id := { c.id with residency := .saved } })
    (s.ctx.id.kind.isApp = true ∧ s.ctx.id.residency = .resident) ∧ s.hereCore.issuing = s.ctx.id.kind ∧ s.otherReady = some .B ∧
    s.ctx.id.kind ≠ .F ∧ s.coreHeld s.here = false ∧ (withheld s).coreHeld (withheld s).here = true ∧ (withheld s).otherReady = some .B ∧
    (on .K []).otherReady = none ∧ ¬(ill.ctx.id.kind.isApp = true ∧ ill.ctx.id.residency = .resident) ∧
    s.ctx.fault = none ∧ (faulted s none).ctx.fault.map (fun f => f.slot) = some none ∧
    (faulted s (some 31)).ctx.fault.map (fun f => f.slot) = some (some 31) ∧ st.cmd (theCmd st).seq = some (theCmd st) ∧
    (theCmd st).stalled = some 0x300000 ∧ (theCmd st).cls = .ce ∧ cmd.cmd (theCmd cmd).seq = some (theCmd cmd) ∧ (theCmd cmd).stalled = none ∧
    (dl.hereCore.qdlimit ≠ 0 ∧ Max.max 1024 dl.hereCore.qdlimit.toNat ≤ dl.ctx.deadlock) ∧ s.ctx.deadlock < 1024 ∧
    dl.ctx.wdogLimit ≠ 0 ∧ dl.ctx.wdogLimit ≤ dl.ctx.wdog ∧ dl.ctx.id.residency = .resident ∧ s.ctx.wdogLimit = 0 := by decide +kernel

theorem witness_FaultEvents_hints : let good := [0x300000, 1, 2 ^ 63, 1]
    let s := hinted (on .K []) [[0, 1, 0, 0], good]
    let none_ := hinted (on .K []) [[0, 1, 0, 0], [0x400000, 1, 2 ^ 63 + 31, 2 ^ 32 - 1]]
    let bad := hinted (on .K []) [[0, 1, 32, 0], good]
    let entry (s : State) (i : Nat) : Bool × Option Hint :=
      let e (j : Nat) : W64 := readEntry s.mem (0x5000 + 32 * i + 8 * j)
      State.hintOf s.part (e 0) (e 1) (e 2) (e 3) 0x300000
    (on .K []).hintTable 0 1 = none ∧ s.hintTable 0 1 = some (2, 0x5000) ∧ (s.reqOf .K 0).pasid = 1 ∧ s.ctx.id.die = 0 ∧
    (∀ i, i < 2 → (entry s i).1 = false) ∧ entry s 0 = (false, none) ∧ entry s 1 = (false, some { mu := false, home := 0, keep := 1 }) ∧
    (∀ i, i < 2 → (entry none_ i).1 = false ∧ (entry none_ i).2 = none) ∧ (entry bad 0).1 = true ∧
    State.hintOf .sl3240 0x300000 1 (0x800000000000011F) 0xFFFFFFFF 0x30FFFF = (false, some { mu := true, home := 31, keep := 0xFFFFFFFF }) ∧
    State.hintOf .sl3240 0x300000 1 (0x800000000000011F) 0xFFFFFFFF 0x310000 = (false, none) := by decide +kernel

/-- The item with a trace buffer of one page at 0x30_0000 whose first record's place is `head`. -/
def tracing (leaf : W64) (head : Nat) (f : Trace → Trace) : State :=
  putD ((paged (on .K [(4, 7)]) leaf).modCtx (fun c =>
    { c with csr := { c.csr with trace := f { c.csr.trace with base := 0x30, pages := 1, mark := true, en := true } } })) 0x300008 head

theorem witness_SamplingTraceAndMode : let s := tracing coherent 65504 id
    let bad := tracing 0 64 id
    let full (wrap : Bool) := tracing coherent 65505 (fun t => { t with wrap })
    let far := tracing coherent (2 ^ 62) id
    let word (h : Target) (u : State) : W64 := BitVec.ofNat 64 (natOfBytes (u.readT (h.plus 8) 8).1.data)
    let place (s : State) (p : Nat → State → Bool) : Bool := match s.traceAt 0 false with
      | (some h, u) => p (word h u).toNat u
      | _ => false
    (s.ctx.id.kind.isApp = true ∧ s.rd.csr.trace.en = true ∧ s.rd.csr.trace.mark = true) ∧ (on .K []).rd.csr.trace.en = false ∧
    (bad.traceAt 0 false).1 = none ∧ bad.rd.csr.trace.mark = true ∧
    place s (fun n u => decide (n + 32 ≤ 65536) && (u.traceAt n true).1.isSome) = true ∧
    (∀ w, place (full w) (fun n u => decide (65536 < n + 32) && (u.traceAt 64 true).1.isSome) = true) ∧
    place far (fun n _ => decide (65536 < n + 32)) = true ∧
    BitVec.getLsbD (0x100000000 : W64) 0 = false ∧ BitVec.getLsbD (0x100000001 : W64) 0 = true ∧ (1 ≤ 0x100000001 / 2 ^ 32 % 2 ^ 16) ∧
    0x100000000001 / 2 ^ 32 % 2 ^ 16 ≤ 4096 ∧ 4096 < 0x100100000001 / 2 ^ 32 % 2 ^ 16 ∧ (s.tracePagesOk 1 0).1 = false ∧
    (let t := tracing 0x800000000030005F 64 id
     let u := tracing 0x800000000030005F 64 (fun t => { t with en := false })
     (t.tracePagesOk 1 0).1 = true ∧ t.ctx.csr.trace.en = true ∧ (u.tracePagesOk 1 0).1 = true ∧ u.ctx.csr.trace.en = false ∧
     (((u.tracePagesOk 1 0).2.modCtx (fun c => { c with csr := { c.csr with trace := { c.csr.trace with en := true } } })).traceAt 0 true).1.isSome = true) := by
  decide +kernel

/-- The leaf of a trace buffer's page that is pinned and writable, and those that are not so or are read-shared. -/
theorem witness_SamplingTraceAndMode_page : [(0x800000000030005F, true), (0x30005F, false), (0x800000000030004F, false), (0x800000000030003F, false)].all
    (fun x => match locate (tracing (BitVec.ofNat 64 x.1) 64 id) ((tracing (BitVec.ofNat 64 x.1) 64 id).reqOf .K 0) 0x300000 false with
      | (.at_ g leaf, _) => (leaf.getLsbD 63 && leaf.getLsbD 4 && leaf.toNat / 32 % 4 != 1) == x.2 && (match g with | .scratch .. => false | _ => true)
      | _ => false) = true := by decide +kernel

theorem witness_SamplingTraceAndMode_sample : let s := on .K []
    let k := s.markBundle .L 0x300000
    let v := k.modCtx (fun c => { c with csr := { c.csr with samp := { c.csr.samp with v := true } } })
    let traced := (tracing coherent 64 (fun t => { t with samp := true })).markBundle .L 0x300000
    let mode (a b : Bool) : State := (firmware s).modCtx (fun c => { c with setup := a, leaving := b })
    s.ctx.csr.samp.marked = none ∧ k.ctx.csr.samp.marked = some (.L, 0x300000, 0, false) ∧ k.ctx.csr.trace.en = false ∧ k.ctx.csr.samp.v = false ∧
    v.ctx.csr.samp.v = true ∧ (traced.ctx.csr.trace.en = true ∧ traced.ctx.csr.trace.samp = true ∧ traced.ctx.csr.samp.marked = some (.L, 0x300000, 0, false)) ∧
    (traced.traceAt 0 false).1.isSome = true ∧
    (mode false false).ctx.setup = false ∧ (mode false true).ctx.setup = false ∧ (mode true false).ctx.setup = true ∧
    (BitVec.getLsbD (1 : W64) 0 = true ∧ BitVec.getLsbD (2 : W64) 0 = false) ∧
    (s.ctx.str s.strand).bypass[BitVec.toNat (3 : BitVec 2)]? = some { value := 0, live := false, writtenAt := 0 } := by decide +kernel

/-- A marked bundle whose rest is held does not end, unless the mark carries KILL. -/
theorem witness_SamplingTraceAndMode_held : let s := (on .L []).markBundle .L 0x300000
    let b : Held :=
      { start := 0x300000, next := 0x300010, rest := [], seq := 0, clk := 0, taken := false, x := s.ctx.l.x, taint := s.ctx.l.taint,
        bypass := s.ctx.l.bypass, comp := s.ctx.comp, csr := s.ctx.csr }
    let h := s.modCtx (fun c => { c with l := { c.l with held := some b } })
    let l := h.modCtx (fun c => c.killMark .L 0x300000)
    (h.ctx.csr.samp.marked = some (.L, 0x300000, 0, false) ∧ (h.ctx.str .L).held = some b ∧ b.start = 0x300000) ∧
    (s.ctx.str .L).held = none ∧ l.ctx.csr.samp.marked = some (.L, 0x300000, 0, true) := by decide +kernel

/-- The start checks of a near-bank command: 0 when it may run, otherwise its code; 99 when they do not end. -/
def nbCode (m : E (Sum Nat (NbRun × List Range))) (s : State) : Nat :=
  match m s with
  | .ok (.inl n) _ => n
  | .ok (.inr _) _ => 0
  | .error .. => 99

/-- A running near-bank command of row 0 of the stack of die 0. -/
def running (fn : NbFn) (f : NbRun → NbRun) : State :=
  let r := f { nbReady 0 8 6 false [(0x300000, 0x300000)] (0x300000, 0x300000) (0x300400, 0x300400) [] [] with banks := [0] }
  let s := flying (paged (on .S []) bankPage) .nbu true (.nb fn 0x300000 0 0x300400 2 0 1 (some r))
  s.joinPchs r (s.nbName (theCmd s).seq)

theorem witness_NearBankUnits : let s := on .S [(4, 0x300000), (5, 0x300400), (6, 0x300800)]
    let m : State := { s with part := .sl3240m }
    Allowed s (.nbMv 9 4 5 6 63 0 0 5) ∧ s.part ≠ .sl3240m ∧ profileLegal 5 s.ctx.isDet = true ∧ profileLegal 7 s.ctx.isDet = false ∧
    s.ctx.eng.cmds.length < 64 ∧ s.ctx.isDet = false ∧ Allowed s (.nbSaxpy 9 4 5 6 0 0 0 0) ∧ Allowed s (.nbRcpy 9 4 6 0 0 0 0) ∧
    Allowed s (.nbRzero 9 4 0 0 0 1) ∧ Allowed m (.nbMv 9 4 5 6 63 0 0 5) ∧ m.part = .sl3240m := by decide +kernel

theorem witness_NearBankUnits_start : [(NbFn.rzero, 0x300000, 0, 0x300000, 0), (.rcpy, 0x300000, 0, 0x300400, 0),
      (.rcpy, 0x300200, 0, 0x300400, 1), (.mv, 0x40000000000000, 0x1060000, 0x40000000000100, 0)].all (fun x =>
    let np : BitVec 8 := 0
    let s := flying (putS (putS (paged (on .S []) 0x3006DF) 0 0x300000) 8 0x40000000000200) .nbu false (.nb x.1 x.2.1 x.2.2.1 x.2.2.2.1 1 np 1 none)
    let c := theCmd s
    let checks := if x.1 = .mv then mvStart c x.2.1 x.2.2.1 x.2.2.2.1 1 np else rowStart c x.1 x.2.1 x.2.2.2.1 1
    decide (s.cmd c.seq = some c ∧ c.started = false ∧ c.finished = false ∧ s.ctx.eng.cmds = [c] ∧ s.mayStart c = true ∧
      s.edgeWaits c.seq c.foot = false) && nbCode checks s == x.2.2.2.2 &&
    (match checks s with
      | .ok (.inr (_, l)) t => !t.edgeWaits c.seq { c.foot with reads := c.foot.reads ++ l.filter (fun g => !c.foot.reads.contains g) }
      | _ => x.2.2.2.2 != 0)) = true := by
  decide +kernel

theorem witness_NearBankUnits_step : ∀ fn ∈ [NbFn.mv, .saxpy, .rcpy, .rzero], ∀ h ∈ [false, true], ∀ w ∈ [false, true],
    let s := running fn (fun r => { r with held := h, suspended := w })
    let c := theCmd s
    let busy := s.setStack 0 { s.stack 0 with reads := [(s.ns, 1000000)] }
    s.cmd c.seq = some c ∧ c.finished = false ∧
    (match c.body with
     | .nb _ _ _ _ n _ _ (some r) => r.suspended == w && r.held == h && s.standsFirst r (s.nbName c.seq) && s.served r &&
        s.admits r.home (stepReads fn n r) && (fn == .rzero || !busy.admits r.home (stepReads fn n r)) &&
        (fn != .mv || ((mvRead n (s.countReads r.home (stepReads fn n r)) r).2.mpc + 1 < mvSteps r n))
     | _ => false) = true := by decide +kernel

/-- The last step of an MV, its x sound or poisoned: x and y lie in the scratchpad. -/
theorem witness_NearBankUnits_last : [[], [0]].all (fun bad =>
    let s0 := running .mv (fun r => { r with mpc := 1, x := [(scratchBase, 32, .scratch 0 0)], y := [(scratchBase + 256, 8, .scratch 0 256)] })
    let s := s0.setCluster 0 { s0.cluster 0 with poison := bad }
    match (theCmd s).body with
    | .nb .mv _ _ _ n np _ (some r) =>
      let y := mvRead n (s.countReads r.home (stepReads .mv n r)) r
      let r' := { y.2 with mpc := y.2.mpc + 1 }
      decide (mvSteps r n ≤ r'.mpc ∧ r.event = none ∧ r'.z = false) &&
      works (eReadPieces none r'.x) y.1 (fun xb t1 => ((firstPoisoned r'.x xb).isSome == (bad != [])) && works (eReadPieces none r'.y) t1 (fun old t2 =>
        (firstPoisoned r'.y old).isNone &&
        works (eWritePieces (cleanBytes ((List.range n).flatMap (fun j => bytesOfNat 4
          (if bad = [] then ((mvOutputs np r' n (xb.map (·.1)) (old.map (·.1))).map CellRun.acc).getD j 0 else (0x7FC00000 : W32)).toNat))) 0 r'.y) t2
          (fun p _ => p.isNone)))
    | _ => false) = true := by decide +kernel

theorem witness_NearBankUnits_rows : ∀ b ∈ [none, some (List.replicate 1024 (7 : Byte), false)], ∀ d ∈ [0x300400, 2 ^ 33],
    let s := running .rcpy (fun r => { r with buffer := b, dst := (0x300400, d) })
    s.mem.adds = [] ∧
    (match (theCmd s).body with
     | .nb _ _ _ _ n _ _ (some r) => decide (r.buffer = b ∧ (r.dst.2 + 1024 * r.row) % 32 = 0 ∧ r.efmt = EType.fp32.code ∧ r.xfmt = EType.fp16.code ∧
          1 < n) && (inSubarray r (r.src.2 + 1024 * r.row) (r.dst.2 + 1024 * r.row) == decide (d = 0x300400))
     | _ => false) = true := by decide +kernel

theorem witness_NearBankUnits_service : let s := running .saxpy (fun r => { r with suspended := true })
    let awake := running .saxpy id
    let name := s.nbName (theCmd s).seq
    let head (s : State) (p : Nat) := (Cells.get Pch.reset (s.stack 0).pchs p).accepted.head?
    let asked (l : List (Option Asker)) : State := { s.modPch 0 0 (fun p => { p with requests := l.map (fun w => { at_ := 0, who := w }) }) with cycle := 1 }
    let run (s : State) (p : NbRun → Bool) : Bool := match (theCmd s).body with | .nb _ _ _ _ _ _ _ (some r) => p r | _ => false
    head s 0 = some name ∧ s.ctx.suspends name = true ∧ (Cells.get Pch.reset (s.stack 0).pchs 1).accepted = [] ∧
    head awake 0 = some name ∧ (awake.others = [] ∧ awake.ctx.suspends name = false) ∧
    run s (fun r => !s.requestsWait r && !s.requestsBefore r) = true ∧
    (∀ w ∈ [none, some (Asker.strand (1, 0) .L false), some (.writeBack 7)],
      (Cells.get Pch.reset ((asked [w, none]).stack 0).pchs 0).requests = { at_ := 0, who := w } :: [{ at_ := 0, who := none }] ∧
      head (asked [w, none]) 0 = some name ∧ (asked [w, none]).ctx.suspends name = true) ∧
    run (asked [none]) (fun r => (asked [none]).requestsWait r && (asked [none]).requestsBefore r && !{ asked [none] with cycle := 0 }.requestsBefore r) = true := by
  decide +kernel

theorem witness_NearBankUnits_invalidate : let v : NbInval := { seq := 3, rows := [0x300000], foot := ⟨[], []⟩ }
    let s := (on .S []).modCtx (fun c => { c with eng := { c.eng with invals := [v] } })
    s.ctx.eng.invals = [v] ∧ (0x300000 : Nat) % 32 = 0 ∧ (0x300000 : Nat) % 1024 = 0 ∧ (List.replicate 1024 (0 : Byte)).length = 1024 := by
  decide +kernel

/-- A graph of one vertex of eight FP16 elements and at most one neighbour, as a descriptor. -/
def graph : GraphDesc := { dim := 8, deg := 1, inner := true, vfmt := 6, tables := List.replicate 32 { base := 0, count := 0 } }
def graphWords (w0 : W64) : List W64 := w0 :: List.replicate 65 0

theorem witness_GraphSearch : let s := on .K [(4, scratchBase), (5, 3), (6, 4)]
    let q := s.modCtx (fun c => { c with eng := { c.eng with graphs := c.eng.graphs.setIfInBounds 1 (some graph) } })
    Allowed s (.gsCfg (some 6) 4 5) ∧ s.part ≠ .sl3240m ∧ (s.getX 4).toNat % 16 = 0 ∧ s.ctx.eng.cmds = [] ∧
    gives (loadWords 66 (s.getX 4)) s (fun ws _ => decide (ws = List.replicate 66 0)) = true ∧
    (match graphOf s.part (graphWords 0x700010106) with | .inr _ => true | .inl _ => false) = true ∧
    (match graphOf s.part (graphWords 0x700010008) with | .inl n => n == 1 | .inr _ => false) = true ∧
    (s.getX 5).toNat < 4 ∧ 4 ≤ (s.getX 6).toNat ∧
    Allowed q (.gsQry 9 10 11 1 0 0 5) ∧ q.ctx.eng.graphs.getD (BitVec.toNat (1 : BitVec 2)) none = some graph ∧
    gsProfile (some graph) 5 = true ∧ q.ctx.eng.cmds.length < 64 ∧ q.ctx.isDet = false ∧
    s.ctx.eng.graphs.getD (BitVec.toNat (1 : BitVec 2)) none = none ∧ Allowed { s with part := .sl3240m } (.gsQry 9 10 11 1 0 0 5) := by
  decide +kernel

/-- A query of that graph, with a packet in the scratchpad and its results at 0x30_0000 or off it. -/
def querying (vb : W64) (run : Option GsRun) : State :=
  flying (putS (putS (paged (on .S []) coherent) 0 0x4000010001) 8 0) .gse run.isSome (.gs graph 1 scratchBase vb 0 run)

theorem witness_GraphSearch_start : [(0x300000 : W64), 0x300004].all (fun vb =>
    let s := querying vb none
    let c := theCmd s
    let r := s.reqOf c.strand 9
    decide (s.cmd c.seq = some c ∧ c.finished = false ∧ s.mayStart c = true ∧ s.edgeWaits c.seq c.foot = false) &&
    (vb.toNat % 8 != 0 || works (ePlan r true vb (sectorPieces 19 vb 544)) s (fun out t =>
      works (gsPacket r graph scratchBase (gsFresh out)) ((t.setGs c.seq (gsFresh out)).modCmd c.seq (fun m => { m with started := true }))
        (fun y _ => decide (y.loaded = true ∧ y.status = none))))) = true := by decide +kernel

theorem witness_GraphSearch_run : let fresh : GsRun := gsFresh []
    let x : GsRun := { fresh with loaded := true, k := 1, ef := 1, vcap := 4, entries := [0] }
    let s := querying 0x300000 (some x)
    let r := s.reqOf .S 9
    let far : GsRun := { x with visiting := [(0x8000000, none)] }
    let ended : GsRun := { x with status := some 1 }
    let t := querying 0x300000 (some ended)
    s.cmd (theCmd s).seq = some (theCmd s) ∧ x.loaded = true ∧ x.status = none ∧
    works (gsAdvance (theCmd s).seq r s.part graph 0 s.ctx.id.die x) s (fun y _ => y.status == some 4) = true ∧
    fresh.loaded = false ∧ ended.status ≠ none ∧ x.visiting = [] ∧
    far.visiting.find? (fun o => o.2.isNone && o.1.toNat / 2 ^ 27 != s.ctx.id.die) = some (0x8000000, none) ∧
    works (gsEval r s.part graph 0 far.query 0x8000000) s (fun _ _ => true) = true ∧
    t.ctx.eng.cmds.find? (fun c => c.cls == .gse) = some (theCmd t) ∧
    works (do
      let _ ← eWritePieces (cleanBytes (gsBytes 1 ended 1).1) 0 (clipPieces 0 (gsBytes 1 ended 1).1.length 0 ended.out)
      eWritePieces (cleanBytes (gsBytes 1 ended 1).2) 0 (clipPieces 512 32 0 ended.out)) t (fun _ _ => true) = true := by decide +kernel

/-- A query whose entry vertex stands at an address that no access reaches, or on a page that cannot be resolved. -/
theorem witness_GraphSearch_fault : let g (base : W64) : GraphDesc := { graph with tables := { base, count := 1 } :: List.replicate 31 { base := 0, count := 0 } }
    let x : GsRun := { gsFresh [] with loaded := true, k := 1, ef := 1, vcap := 4, entries := [0], taken := 1, visiting := [(0, none)], visited := [0] }
    let s := querying 0x300000 (some x)
    let ends (t : State) (base : W64) (p : EngStop → Bool) : Bool := match gsAdvance 1 (t.reqOf .S 9) t.part (g base) 0 t.ctx.id.die x t with
      | .error e _ => p e
      | _ => false
    let st := s.modCmd 1 (fun m => { m with stalled := some 0x300000 })
    x.loaded = true ∧ x.status = none ∧
    ends s 0x80000000000000 (fun e => match e with | .error .accessViolation 11 _ => true | _ => false) = true ∧
    ends { s with mem := s.mem.setPoison (sectorOf 0x300000) true } 0x300000 (fun e => match e with | .error .poison _ _ => true | _ => false) = true ∧
    ends s 0x700000 (fun e => match e with | .pageFault _ => true | _ => false) = true ∧
    (theCmd st).stalled = some 0x300000 ∧ (theCmd st).cls = .gse ∧ st.cmd 1 = some (theCmd st) := by decide +kernel

/-- A description whose die-0 table stands at 0x300000 with two vertices. -/
def twoVertices : GraphDesc := { graph with tables := { base := 0x300000, count := 2 } :: List.replicate 31 { base := 0, count := 0 } }

theorem witness_GraphSearch_search : let key (d id : W32) : GKey := { dist := d, id }
    let x : GsRun := { gsFresh [] with loaded := true, k := 1, ef := 1, vcap := 0, entries := [0, 5], res := [key 0x40000000 1] }
    let s := querying 0x300000 (some x)
    let r := s.reqOf .S 9
    let g := twoVertices
    let at_ (v : W32) : Bool := (g.record s.part v).isSome
    -- a result list with room, and a full one against a nearer and a farther key
    (([] : List GKey).length < x.ef ∧ x.ef ≤ x.res.length ∧ x.res = [] ++ [key 0x40000000 1] ∧ (key 0x3F800000 7).before (key 0x40000000 1) = true ∧
      (key 0x40000000 2).before (key 0x40000000 1) = false) ∧
    -- distances of a vertex of the die and of one of another die
    works (gsEval r s.part g 0 x.query 0) s (fun _ _ => true) = true ∧
    works (gsDistances 1 r s.part g 0 [0] { x with visiting := [(0, none)] }) s (fun y _ => y.visiting.all (fun o => o.2.isSome)) = true ∧
    works (gsDistances 1 r s.part g 0 [] { x with visiting := [(0x8000000, none)] }) s (fun y _ => y.visiting.any (fun o => o.2.isNone)) = true ∧
    -- an entry vertex outside the tables, visited, with room and without
    (x.entries[1]? = some 5 ∧ at_ 5 = false ∧ x.entries[0]? = some 0 ∧ at_ 0 = true ∧ 0 ∈ [(0 : W32)] ∧ (0 : W32) ∉ [(1 : W32)] ∧ 1 = 2 ^ 0 ∧
      ([] : List W32).length ≠ 2 ^ 0 ∧ x.entries[2]? = none) ∧
    -- what ends the search, and what goes on
    (x.current = none ∧ x.cand = [] ∧ (x.res.length = x.ef ∧ x.res.getLast? = some (key 0x40000000 1) ∧
      (key 0x40000000 1).before (key 0x40400000 2) = true ∧ (key 0x40000000 1).before (key 0x3F800000 2) = false) ∧
      (1 ≠ 0 ∧ 1 < 1 + 1) ∧ ¬1 < 0 + 1 ∧ ({ x with current := some (key 0 0) } : GsRun).current = some (key 0 0)) ∧
    works (eReadClean r ((g.record s.part 0).getD 0 + BitVec.ofNat 64 ((g.dim * g.size + 63) / 64 * 64)) (4 * g.deg)) s (fun _ _ => true) = true ∧
    (at_ 1 = true ∧ (1 : W32) ≠ 0xFFFFFFFF ∧ at_ 2 = false ∧ (2 : W32) ≠ 0xFFFFFFFF) ∧
    (({ g with vfmt := 0 } : GraphDesc).vfmt = 0 ∧ g.vfmt = EType.fp16.code) := by decide +kernel

/-- A queue of process 1: its process entry, queue entry and control block, with the record at its head. -/
def fronted (qe qcb head tail : Nat) (rec4 : Nat) : State :=
  let s := (on .S []).setDie 0 { (on .S []).die 0 with qt1base := 0x2000000001000 }
  ([(0x1020, 0x2003), (0x2000, qe), (0x3000, qcb), (0x3008, tail), (0x3010, head), (0x4020, rec4)] : List (Nat × Nat)).foldl
    (fun t e => t.setWord0 e.1 (BitVec.ofNat 64 e.2)) s

/-- What the walk to queue 0 of process 1 gives: 0 drop, 1 fault, 2 a disabled and 3 an enabled control block. -/
def walked (s : State) : Nat :=
  match s.findQcb 0 1 0 with
  | (.drop, _) => 0
  | (.fault, _) => 1
  | (.at_ q, t) => if (t.qcbEnabled 0 1 q).1 then 3 else 2

theorem witness_FrontEnd : let s := fronted 0x3003 0x4009 0 1 1
    (s.die 0).gated = false ∧ walked (fronted 0 0x4009 0 1 1) = 0 ∧ walked (fronted 0x3001 0x4009 0 1 1) = 1 ∧ walked s = 3 ∧
    walked (fronted 0x3003 0x4008 0 1 1) = 2 ∧ ((1 + 2 ^ 32 - 0) % 2 ^ 32 ≤ 2 ^ 4) ∧ (2 ^ 4 < (17 + 2 ^ 32 - 0) % 2 ^ 32) ∧
    (match s.findQcb 0 1 0 with
      | (.at_ q, t) =>
        let u := (t.qcbEnabled 0 1 q).2
        decide ((u.word0 (q + 16)).toNat % 2 ^ 32 = 0 ∧ (u.word0 (q + 8)).toNat % 2 ^ 32 = 1) &&
          (u.readPhys 0 4 (bitsAt (u.word0 q) 7 41 * 128 + 128 * (0 % 2 ^ bitsAt (u.word0 q) 1 6))).isSome
      | _ => false) = true ∧
    lrecRefused s.part ((Vector.replicate 16 0).setIfInBounds 4 1) = false ∧ lrecRefused s.part (Vector.replicate 16 0) = true ∧
    (Vector.replicate 16 (0 : W64))[9] = 0 := by decide +kernel

theorem witness_FrontEnd_notify : let v : W64 := 0x100000000002
    let same (h : W64) : Bool := h.toNat / 2 ^ 32 % 2 ^ 12 == v.toNat / 2 ^ 32 % 2 ^ 12 && h.toNat / 2 ^ 44 == v.toNat / 2 ^ 44
    v.toNat / 2 ^ 44 = 1 ∧ v.toNat / 2 ^ 32 % 2 ^ 12 = 0 ∧ ({ Die.reset with gated := true } : Die).gated = true ∧ Die.reset.gated = false ∧
    [0x100000000005].any same = true ∧ [0x100100000005, 0x200000000005].any same = false ∧
    -- the first of two records, then the last
    (0 : Nat) ≠ 2 ∧ (0 + 1) % 2 ^ 32 ≠ 2 ∧ (0 + 1) % 2 ^ 32 = 1 := by decide +kernel

theorem witness_FrontEnd_walk : walked (fronted 0x3003 0x4009 0 2 1) = 3 := by decide +kernel

theorem witness_FrontEnd_refused : let s := fronted 0x3003 0x4009 0 1 0
    let far := fronted 0x3003 (32 * 2 ^ 36 + 9) 0 1 1
    let slot (s : State) : Option (List Byte) := match s.findQcb 0 1 0 with
      | (.at_ q, t) =>
        let u := (t.qcbEnabled 0 1 q).2
        if (t.qcbEnabled 0 1 q).1 && (u.word0 (q + 16)).toNat % 2 ^ 32 != (u.word0 (q + 8)).toNat % 2 ^ 32 then
          some ((u.readPhys 0 4 (bitsAt (u.word0 q) 7 41 * 128 + 128 * (0 % 2 ^ bitsAt (u.word0 q) 1 6))).getD []) else none
      | _ => none
    (match slot s with
     | some bs => lrecRefused s.part (Vector.ofFn (fun i : Fin 16 => (wordsOf bs).getD i.val 0))
     | none => false) = true ∧ slot far = some [] ∧ walked far = 3 := by decide +kernel

theorem witness_FrontEnd_routes : let s := on .S []
    (∀ k, k < 288 → State.routeOk s.part 0 k 0 = true) ∧ hbmExists s.part 0x1000 = true ∧ 0x1000 / 2 ^ 44 = 0 ∧ s.word0 0x1000 = 0 ∧
    hbmExists s.part (32 * 2 ^ 36) = false := by decide +kernel

theorem witness_FrontEnd_routes_bad : State.routeOk State.reset.part 0 1 (2 ^ 63) = false ∧ State.routeOk State.reset.part 0 0 (2 ^ 33) = false ∧
    (2 ^ 45 : Nat) / 2 ^ 44 ≠ 0 ∧ (2 ^ 12 - 1 : Nat) / 2 ^ 12 = 0 := by decide +kernel

theorem witness_FrontEnd_teardown : let a : Task := { id := 1, die := 0, pasid := 1, queue := none, lrec := Vector.replicate 16 0, gens := [], since := 0,
                                                       placed := 1, status := 0, cause := 0, item := 0, tpc := 0, dead := false, done := false, dumped := false }
    let s : State := { on .S [] with tasks := [a] }
    s.ctx.id.kind.isApp = true ∧ a ∈ s.tasks ∧ a.id = s.ctx.id.task ∧ (a.die = 0 ∧ a.pasid = 1 ∧ a.done = false) ∧
    (({ a with status := 3 } : Task).status = 3 ∧ a.status ≠ 3) ∧
    s.ctx.id.residency ≠ .ended ∧ ((on .S []).setDie 0 { Die.reset with latches := [5], held := [6] }).die 0 = { Die.reset with latches := [5], held := [6] } := by
  decide +kernel

theorem witness_FrontEnd_teardown_saved : let a : Task := { id := 1, die := 0, pasid := 1, queue := none, lrec := Vector.replicate 16 0, gens := [], since := 0,
                                                             placed := 1, status := 0, cause := 0, item := 0, tpc := 0, dead := false, done := false, dumped := false }
    let s : State := { ident (on .S []) (fun i => { i with residency := .saved }) with tasks := [a, { a with id := 2, pasid := 2 }] }
    let other : State := { s with tasks := [{ a with pasid := 2 }] }
    s.others = [] ∧ s.ctx.id.residency = .saved ∧ 0 < s.part.dies ∧ ¬((2 : BitVec 20) = 1 ∧ a.done = false) ∧
    (∀ x ∈ other.tasks, x.id = other.ctx.id.task → ¬(x.pasid = 1 ∧ x.done = false)) := by decide +kernel

/-- Die 0 with readings of one sensor, and limits. -/
def warmed (temp alert crit up down : W16) (ups downs : Nat) : State :=
  (on .S []).setDie 0 { Die.reset with thermal := { Thermal.reset with
    sens := (Vector.replicate 16 0x8000).setIfInBounds 3 temp, alert, crit, up, down, upCount := ups, downCount := downs } }

theorem witness_BootMailboxAndThermal : let h (s : State) := (s.die 0).thermal
    let top (s : State) (v : Int) : Bool := (List.range 16).all (fun i => decide (((h s).sens.getD i 0).toInt ≤ v)) && decide (((h s).sens.getD 3 0).toInt = v)
    let hot := warmed 900 800 900 10 100 0 0
    let warm := warmed 800 800 900 2 100 0 0
    let more := warmed 800 800 900 2 100 1 0
    let cool := warmed 760 800 900 2 2 0 0
    let cold := warmed 760 800 900 2 2 0 1
    let mid := warmed 799 800 900 2 2 1 1
    top hot 900 = true ∧ (h hot).crit.toInt ≤ 900 ∧ top warm 800 = true ∧ 800 < (h warm).crit.toInt ∧ (h warm).alert.toInt ≤ 800 ∧
    (h warm).upCount + 1 < (h warm).up.toNat ∧ (h more).up.toNat ≤ (h more).upCount + 1 ∧ top cool 760 = true ∧
    760 ≤ (h cool).alert.toInt - (h cool).hyst.toInt ∧ (h cool).downCount + 1 < (h cool).down.toNat ∧
    (h cold).down.toNat ≤ (h cold).downCount + 1 ∧ top mid 799 = true ∧ ¬((h mid).alert.toInt ≤ 799 ∨ false = true) ∧
    ¬799 ≤ (h mid).alert.toInt - (h mid).hyst.toInt ∧
    8 - ((on .S []).setDie 0 { Die.reset with thermal := { Thermal.reset with level := 7 } }).hereDie.thermal.level.toNat ≤ 1 % 8 := by decide +kernel

theorem witness_BootMailboxAndThermal_boot : let image (n : Nat) (ok : Bool) : BootImage := { body := [], digest := 0, version := n, signature := [], wellFormed := ok }
    let s (req : W64) : State := (on .S []).setDie 0 { Die.reset with mbox := { Mbox.reset with req } }
    ((s 0).die 0).boot.failed = false ∧ 1 = ((s 0).die 0).boot.stage + 1 ∧ imageFault 0 (image 0 false) = some 4 ∧ 3 ≠ ((s 0).die 0).boot.stage + 1 ∧
    (((s 0x8000000000000001).die 0).mbox.req.getLsbD 63 = true ∧ ((s 0x8000000000000001).die 0).mbox.req.toNat % 2 ^ 16 = 1) ∧
    ((s 0x8000000000000002).die 0).mbox.req.toNat % 2 ^ 16 = 2 ∧ ((s 0x8000000000000000).die 0).mbox.req.toNat % 2 ^ 16 = 0 ∧
    ((s 1).die 0).mbox.req.getLsbD 63 = false := by decide +kernel

theorem witness_BootMailboxAndThermal_ready :
    let s (b : Boot) (req : W64) : State := (on .S []).setDie 0 { Die.reset with boot := b, mbox := { Mbox.reset with req } }
    let r : Boot := { Boot.reset with stage := 2 }
    r.ready = true ∧ ({ r with failed := true } : Boot).ready = false ∧ ({ r with stage := 1 } : Boot).ready = false ∧
    (((s { r with failed := true } 0x8000000000000001).die 0).mbox.req.getLsbD 63 = true ∧ ({ r with failed := true } : Boot).failed = true) ∧
    BitVec.getLsbD (0x8000000000000001 : W64) 63 = true ∧ BitVec.getLsbD (1 : W64) 63 = false ∧
    ((s r 0).ctx.id.kind ≠ .clove ∧ (s { r with stage := 1 } 0).hereDie.boot.stage ≠ 2) ∧
    (2 = ({ r with stage := 1 } : Boot).stage + 1 ∧ 2 ≤ 2) ∧ (2 < 3 ∧ 3 = r.stage + 1) := by decide +kernel

/-- Task 1 with one gang of one item, and machines in which it runs. -/
def work (f : Task → Task) : Task :=
  f { id := 1, die := 0, pasid := 1, queue := none, lrec := (Vector.replicate 16 0).setIfInBounds 4 1, gens := [], since := 0, placed := 1,
      status := 0, cause := 0, item := 0, tpc := 0, dead := false, done := false, dumped := false }
def tasked (f : Task → Task) (r : Residency) : State := { ident (on .S []) (fun i => { i with residency := r }) with tasks := [work f] }

/-- The same machine with die 0 out of its boot. -/
def ready (s : State) : State := s.setDie 0 { s.die 0 with boot := { Boot.reset with stage := 2 } }

theorem witness_Tasks : let new := ready (tasked (fun t => { t with id := 2, placed := 0 }) .ended)
    new.candidates 0 ≠ [] ∧ (new.die 0).boot.ready = true ∧ ((on .S []).die 0).boot.ready = false ∧ (on .S []).candidates 0 = [] ∧
    (match new.candidates 0 with
     | c :: rest => ((new.instances c.task).findSome? (new.placesIn c)).isSome && rest.isEmpty
     | [] => false) = true ∧
    (let s := on .S []
     s.ctx.id.kind.isApp = true ∧ s.ctx.id.residency = .resident ∧ s.ctx.loads = [] ∧ s.ctx.eng.cmds = [] ∧ s.gangHeld s.ctx.id.task s.ctx.id.gang = false ∧
     (withheld s).gangHeld s.ctx.id.task s.ctx.id.gang = true ∧ (withheld s).ctx.id.residency = .resident) ∧
    (tasked id .stopping).ctx.id.residency = .stopping ∧ (tasked id .saved).ctx.id.residency = .saved ∧
    (∀ m ∈ (flying (on .S []) .mxa false (.act 0)).ctx.eng.cmds, m.cls ≠ .mxa ∨ m.started = false) ∧
    (firmware (on .S [])).ctx.id.kind.isApp = false ∧ (on .S []).tasks.find? (fun x => x.id == 1) = none := by decide +kernel

/-- A task that needs every core of die 0, where core 0 holds an item in either bank, and before it, if asked, one of the same queue
that no place can hold. -/
def crowded (r : Residency) (large : Bool) : State :=
  let whole : Task := { work id with id := 2, placed := 0, lrec := ((Vector.replicate 16 0).setIfInBounds 4 0x50100000040).setIfInBounds 12 1 }
  let s := tasked id r
  let s1 := { s with others := s.others ++ [Ctx.fresh { who with kind := .B, item := 1 }],
                     tasks := s.tasks ++ [whole] ++ (if large then [{ whole with id := 3, lrec := (Vector.replicate 16 0).setIfInBounds 4 1 }] else []) }
  ready s1

theorem witness_Tasks_candidates :
    let fit (s : State) (c : Cand) := (s.instances c.task).findSome? (s.placesIn c)
    let comes (s : State) (c : Cand) : Bool := (s.instances c.task).any (s.roomWith c [])
    let victims (s : State) (c : Cand) := s.chooseVictims c (s.instances c.task) [] (s.victimsIn c.eff (s.instances c.task).flatten)
    -- one that waits for a bank about to be free, so that all are passed or a later one fits
    (let s := crowded .stopping false
     (s.die 0).boot.ready = true ∧ (match s.candidates 0 with | [c] => (fit s c).isNone && comes s c | _ => false) = true) ∧
    (let s := crowded .stopping true
     (match s.candidates 0 with | [c, e] => (fit s c).isNone && comes s c && (fit s e).isSome | _ => false) = true) ∧
    -- one for which a gang stops
    (let s := crowded .resident false
     (match s.candidates 0 with | [c] => (fit s c).isNone && !comes s c && (victims s c) == some [(1, 0)] | _ => false) = true) := by decide +kernel

theorem witness_Tasks_areas : let p := State.reset.part
    let ok (a : W64) : Bool := let b := a.toNat / 2 ^ 16 % 2 ^ 32 * 2 ^ 16
      tableThere p b && tableThere p (b + 0x4FFFF)
    ok 0x10000 = true ∧ ok 0x1FF000000000 = false ∧ ok 0xEFFFC0000 = false := by decide +kernel

theorem witness_Tasks_complete : let s := tasked id .ended
    let t := work id
    s.tasks.find? (fun x => x.id == 1) = some t ∧ t.done = false ∧ t.queue = none ∧
    ¬((∃ x ∈ s.ctx :: s.others, (x.id.kind.isApp = true ∧ x.id.task = 1) ∧
        (x.id.residency ≠ .ended ∨ x.eng.cmds ≠ [] ∨ x.eng.posted ≠ [])) ∨ (t.dead = false ∧ t.placed < s.gangCount t)) ∧
    (s.storeComp t.die t.pasid t.lrec[9] (State.compBytes t.item t.cause t.status t.tpc) false).isSome = true ∧
    (s.storeComp t.die t.pasid 0x300000 (State.compBytes t.item t.cause t.status t.tpc) true).isSome = true ∧
    (on .S []).ctx.id.residency ≠ .ended ∧ t.status ≠ 1 := by decide +kernel

theorem witness_Tasks_dump : let t := work (fun t => { t with status := 1 })
    let dump (base : W64) : State := (tasked (fun t => { t with status := 1 }) .ended).setDie 0 { Die.reset with dumpBase := base, dumpCount := 2 }
    let s := (dump 0x5000).setWord0 0x5018 64
    let entry (s : State) : Nat := (s.die 0).dumpBase.toNat % 2 ^ 48 + 16 * t.pasid.toNat
    s.tasks.find? (fun x => x.id == 1) = some t ∧ t.status = 1 ∧ t.dumped = false ∧ t.pasid.toNat < (s.die 0).dumpCount.toNat ∧
    64 ≤ (s.word0 (entry s + 8)).toNat ∧ tableThere s.part (entry s) = true ∧ tableThere s.part (entry s + 8) = true ∧
    (s.ctx.id.kind.isApp = true ∧ s.ctx.id.task = 1) ∧ s.ctx.id.item = t.item ∧ s.ctx.id.residency = .ended ∧
    tableThere s.part (entry (dump 0xEFFFFFFF0)) = false := by decide +kernel

theorem witness_Links : let s := on .S []
    let amo (op : BitVec 4) (size : AmoSize) : HostAmo := { op, size, operand := 3, expected := 0 }
    let down := s.linkDown (.host 0)
    s.hostUp 3 = true ∧ s.peerUp 31 = true ∧ down.hostUp 0 = false ∧ linkShape 0x300100 256 = true ∧ linkShape 0x300004 8 = false ∧
    s.linkTarget true 0x300000 32 = some (.hbm 0x300000 false 2 false) ∧ hbmExists s.part 0x300000 = true ∧
    s.linkTarget true 0xFFFFFFFFFFFF 32 = none ∧ s.linkTarget false 0x100000300000 32 = none ∧
    s.linkTarget true 0x800000000040 8 = some (.regs 0 0x40) ∧ hostWrites 0x40 8 = true ∧ hostWrites 0x1000 8 = false ∧ linkShape 0x800000000040 8 = true ∧
    s.poisonedT (.hbm 0x300000 false 2 false) = false ∧
    ({ s with mem := s.mem.setPoison (sectorOf 0x300000) true } : State).poisonedT (.hbm 0x300000 false 2 false) = true ∧
    (hostAtomicFn (amo 0 .d)).isSome = true ∧ (hostAtomicFn (amo 8 .w)).isSome = true ∧ (hostAtomicFn (amo 9 .w)).isSome = true ∧
    hostAtomicFn (amo 12 .w) = none ∧ hostAtomicFn (amo 10 .d) = none ∧ (s.readT (.hbm 0x300000 false 2 false) 8).1.poison = false ∧
    0 < s.part.dies ∧ (State.hopFrom s.part 0 0).isSome = true ∧ (2 ^ 47 + 0 * 2 ^ 39 + 0x40 : Nat) = 0x800000000040 := by decide +kernel

theorem witness_Links_held : let s := on .S []
    let p (f : Port → Port) : State := { s with hostPorts := s.hostPorts.setIfInBounds 3 (f Port.reset) }
    let w := p (fun p => { p with waiting := [.hostRead 3 0x300000 8] })
    let v : State := { s with peerPorts := s.peerPorts.setIfInBounds 2 { Port.reset with waiting := [.peerAccess 2 0x300000 8 none] } }
    let small : State := { s with part := .sl3216 }
    let gated := s.setDie 0 { s.die 0 with gated := true, latches := List.replicate 64 5 }
    (v.peerPorts.toList.getD 2 Port.reset).waiting.isEmpty = false ∧ (s.peerPorts.toList.getD 2 Port.reset).waiting.isEmpty = true ∧
    2 < v.peerPorts.toList.length ∧ w.portHeld 3 = true ∧ s.portHeld 3 = false ∧ w.hostUp 3 = true ∧ small.peerUp 15 = true ∧ small.peerUp 16 = false ∧
    s.linkTarget true 0x800000000040 8 = some (.regs 0 0x40) ∧ gated.notifyHeld (.regs 0 0x40) = true ∧ s.notifyHeld (.regs 0 0x40) = false ∧
    ((gated.setDie 0 { gated.die 0 with latches := List.replicate 63 5 }).notifyHeld (.regs 0 0x40)) = false ∧
    (w.linkDown (.host 3)).hostUp 3 = false ∧ (w.hostPorts.toList.getD 3 Port.reset).waiting.length = 1 := by decide +kernel

theorem witness_DramHealth : let s := on .S []
    let scored (f : RowHealth → RowHealth) : State := s.modHealth 0 3072 f
    let health (r : State) : RowHealth := Cells.get RowHealth.reset (r.stack 0).rows 3072
    rowExists s.part 0 3072 = true ∧ rowExists s.part 32 0 = false ∧ rowExists s.part 0 (2 ^ 26) = false ∧ (s.die 0).ering.size = 0 ∧
    (s.setDie 0 { s.die 0 with ering := { base := 0x6000, size := 4, head := 0, overflow := 0 } } |>.die 0).ering.size ≠ 0 ∧
    ¬128 ≤ Nat.min 255 ((health s).score + 32) ∧ 128 ≤ Nat.min 255 ((health (scored (fun h => { h with score := 96 }))).score + 32) ∧
    Cells.get 0 (s.stack 0).spares (s.bankId (rowKey 0 3072)) < 64 ∧
    64 ≤ Cells.get 0 ((s.setStack 0 { s.stack 0 with spares := [(s.bankId (rowKey 0 3072), 64)] }).stack 0).spares (s.bankId (rowKey 0 3072)) ∧
    (health (scored (fun h => { h with hot := true, clean := 63 }))).clean + 1 = 64 ∧ (health s).hot = false := by decide +kernel

theorem witness_DramHealth_errors : let s := on .S []
    let h : RowHealth := { RowHealth.reset with score := 64 }
    let none_ := s.setStack 0 { s.stack 0 with spares := [(s.bankId (rowKey 0 3072), 64)] }
    (some 31 : Option Nat) ≠ none ∧ Nat.min 255 (h.score + 64) = 128 ∧ Nat.min 255 (63 + 64) = 127 ∧ Nat.min 255 (255 + 32) = 255 ∧
    Cells.get 0 (none_.stack 0).spares (none_.bankId (rowKey 0 3072)) = 64 ∧ (s.die 0).ering.size = 0 ∧
    ({ h with hot := true, clean := 62 } : RowHealth).clean + 1 ≠ 64 := by decide +kernel

theorem witness_DramHealth_retire : let s := on .S []
    let x := (s.setStack 0 { s.stack 0 with stale := [5] })
    0 < s.part.dies ∧ (s.stack 0).retired.getD 0 none = none ∧ (s.stack 0).retired.getD 1 none = none ∧ 5 ∈ (x.stack 0).stale ∧ 5 / 65536 / 32 = 0 ∧
    (State.failedRow 0 5 1).isSome = true ∧ (x.die 0).ering.size = 0 ∧ (Cells.get Pch.reset (s.stack 0).pchs 63).accepted = [] ∧
    (Cells.get Pch.reset (s.stack 0).pchs 63).requests = [] ∧ ¬32 < s.part.dies ∧
    (s.die 0).sridle.toNat ≤ ({ s with cycle := 17000 } : State).ns - (Cells.get Pch.reset (s.stack 0).pchs 63).last ∧
    ¬(s.die 0).sridle.toNat ≤ s.ns - (Cells.get Pch.reset (s.stack 0).pchs 63).last := by decide +kernel

theorem witness_ClockCounts : let s := on .S []
    let z : State := { s with cycle := 63 }
    let off := s.setCore 0 { s.hereCore with qdlimit := 0 }
    s.others = [] ∧ s.ctx.wdogLimit = 0 ∧ off.hereCore.qdlimit = 0 ∧ s.ctx.stopReq = false ∧ (∀ e ∈ off.cores, e.2.next = none) ∧
    (s.ctx.l.qstats = [] ∧ s.ctx.c.qstats = [] ∧ s.ctx.s.qstats = [] ∧ s.ctx.k.qstats = []) ∧
    (s.mem.copies.filter (fun c => decide ((s.cycle + 1).toNat < c.expiry))).length ≤ 512 ∧ s.mem.l2.length ≤ 8192 ∧
    (z.cycle + 1).toNat % 64 = 0 ∧ (s.cycle + 1).toNat % 64 ≠ 0 ∧ s.bankIssues = true ∧ (firmware s).bankIssues = false ∧
    (let f := firmware s
     f.ctx.id.kind = .F ∧ ({ f.ctx.k with issued := true } : Strand).issued = true ∧ f.bypassLive f.ctx.k = false ∧
     f.bypassLive { f.ctx.k with bypass := f.ctx.k.bypass.setIfInBounds 3 { value := 5, live := true, writtenAt := f.cycle.toNat } } = true) := by decide +kernel

theorem witness_DecodeEncode : ∀ i ∈ [Instr.add 5 6 7, .tldG 2 20 21 1 1 .w1 false, .vadd plain (.tile 4 .whole .zero) (.tile 5 .whole .zero) (.tile 6 .whole .zero),
      .mma 0 4 7 8 2 false 1 0 1, .nbMv 9 4 5 6 63 0 0 5], i.wellFormed = true ∧ (encode i).isSome = true := by decide +kernel

theorem witness_EncodeDecode : (decodeMember 0x00531C00 0).isSome = true ∧ (decodeMember 0x70000402 0x40C00000).isSome = true ∧
    0x00531C00 < 2 ^ 31 ∧ 0x70000402 < 2 ^ 31 ∧ 0x40C00000 < 2 ^ 31 := by decide +kernel

/-- A machine where the step stands once the turn of a strand has been taken. -/
def turned1 (k : StrandId) (s : State) : State := acceptNear exec k { s with agenda := [], strand := k, issue := Issue.idle }

/-- Whether the hypotheses of the clause for an instruction that is fetched alone hold, up to its execution, which ends in a way. -/
def fetched (k : StrandId) (s : State) (i : Instr) (illegal bad late : Bool) (p : IssueEnd → Bool) : Bool :=
  let s0 := turned1 k s
  let s1 := s0.leaveSetup
  let who := s1.strandAsker k
  match fetchBundle 6 (s1.ctx.str k).pc [] { s1.atMember (s1.ctx.str k).pc 0 with asker := some who } with
  | .ok ws u0 =>
    let u : State := { ({ u0 with asker := none }.usePass who) with issue := Issue.idle }
    let start := (u.ctx.str u.strand).pc
    let word : W32 := BitVec.ofNat 32 (ws.headD 0)
    let r : State := { (u.countBundle start).modMe (fun p => { p with pc := start + 4, issued := true }) with
      issue := { Issue.idle with pc := start, word } }
    let trap : Instr := .illegalInstruction bad word start
    decide ((s0.ctx.str k).held = none ∧ s0.mayIssue k = true ∧ s0.ctx.eng.deferred = [] ∧ u0.pchsWith (·.asked) = [] ∧
      i.wellFormed = true ∧ (encode i).map (fun (c : Code) => (c.words true).map (·.toNat)) = some ws ∧
      (u.atMember start word).illegal i = illegal ∧ u.strandBad i = bad ∧
      (late = true ↔ Instr.clkOrder i = true ∧ (u.ctx.str .K).issued = true ∧ u.strand.code < StrandId.K.code) ∧
      ∀ x, State.loopEndBad (u.ctx.str u.strand) start.toNat start.toNat (start.toNat + 4) true x = false) &&
    (if illegal || bad then next (awaiting exec trap (((u.countBundle start).killMarked start).atMember start word)) (fun _ => true)
      else if late then true
      else next (awaiting exec i r) (fun t => p t.issue.ended && (t.issue.ended != .replayed ||
        next (awaiting exec i (({ (u.countBundle start).killMarked start with issue := Issue.idle } : State).atMember start word)) (fun _ => true))))
  | .error .. => false

theorem witness_StepRunsDecoded : let s := paged (on .K [(6, 0x300000), (7, 0x700000)]) coherent
    let q := s.modCtx (fun c => { c with q := { c.q with mqMap := c.q.mqMap.setIfInBounds 2 (some { producer := .L, consumer := .K }) } })
    let at_ (s : State) (w : Nat) (i : Instr) := fetched .K (s.withFetchWord 32 w) i false false false
    at_ s 0x80531C00 (.add 5 6 7) (fun e => e == .completed) = true ∧
    at_ q 0xB04CA000 (.qpop 6 2 false) (fun e => match e with | .blocked _ => true | _ => false) = true ∧
    at_ (windowed .K 0x3F0020 [(31, slotOf true false none)]) 0xE8758004 (.slotSet (some 7) 11)
      (fun e => match e with | .waits _ => true | _ => false) = true ∧
    at_ (me s (fun p => { p with x := p.x.setIfInBounds 7 2 })) 0xE0938014 (.ceGath 9 7)
      (fun e => match e with | .trapped c _ _ => c == 0x0A | _ => false) = true ∧
    at_ { s with mem := s.mem.setPoison (sectorOf 0x300000) true } 0xA0533000 (.ldD 5 6 0) (fun e => e == .faulted) = true ∧
    at_ s 0xA053B000 (.ldD 5 7 0) (fun e => e == .replayed) = true := by decide +kernel

/-- A load strand that a TPOST of the control strand has freed in this clk, with a copy command. -/
theorem witness_StepRunsDecoded_late : let s := (on .L []).withFetchWord 32 0xE093800C
    fetched .L { s with ctx := { s.ctx with l := { s.ctx.l with blocked := some (.tf 0) }, k := { s.ctx.k with issued := true } }, agenda := [.strand .L] }
      (.ceFill 9 7) false false true (fun _ => true) = true := by decide +kernel

theorem witness_StepRunsDecoded_traps : let s := on .K []
    let traps (w : Nat) (i : Instr) (illegal : Bool) : Bool := fetched .K (s.withFetchWord 32 w) i illegal (!illegal) false (fun _ => true)
    traps 0xAE100000 .rett true = true ∧ traps 0xB6530007 (.probe 5 6 7) false = true := by decide +kernel

/-- Where near-bank commands occupy the pseudo-channels of stack 0, a fetch, a load and a host's read of its memory have to wait. -/
theorem witness_StepRunsDecoded_waits : let s0 := me ((paged (on .S [(5, 0x300000)]) coherent).withFetchWord 32 0xA2A29000) (fun p => { p with pc := 0x300000 })
    let s := (List.range 64).foldl (fun (t : State) p => t.modPch 0 p (fun y => { y with accepted := [(9, 0, 0)] })) s0
    let k := turned1 .S s
    let asks (t : State) : Bool := t.pchsWith (·.asked) != []
    let host : Instr := .hostRead 0 0x300000 8
    let sent : State := { s with agenda := [], issue := Issue.idle }
    (k.mayIssue .S = true ∧ (k.ctx.str .S).held = none ∧ k.ctx.eng.deferred = []) ∧
    (match fetchBundle 6 0x300000 [] { k.leaveSetup.atMember 0x300000 0 with asker := some (k.leaveSetup.strandAsker .S) } with
     | .ok _ u => asks u
     | .error _ u => asks u) = true ∧
    next (exec (.ldD 6 5 0) { s with asker := some (s.strandAsker s.strand) }) asks = true ∧
    next (exec (.add 6 5 5) { s with asker := some (s.strandAsker s.strand) }) (fun t => !asks t) = true ∧
    (Instr.asks host (State.ctxName s.ctx.id) = some (0, 0) ∧ Instr.autonomous host = true) ∧
    next (exec host { sent with asker := some (.event (0, 0) host) }) asks = true ∧
    next (exec host { s0 with asker := some (.event (0, 0) host) }) (fun t => !asks t) = true ∧
    (Instr.asks (.reset 0) (0, 0) = none ∧ Instr.autonomous .deferredTrap = false) := by decide +kernel

theorem witness_StepRunsDecoded_held : let s := on .K [(6, 0x300000), (7, 4), (8, 0x700000)]
    let p := paged s coherent
    let q := s.modCtx (fun c => { c with q := { c.q with mqMap := c.q.mqMap.setIfInBounds 2 (some { producer := .L, consumer := .K }) } })
    let a := scratchBase + 4
    let hold (s : State) (w : W32) (i : Instr) : Held :=
      { start := scratchBase, next := scratchBase + 8, rest := [(a, w, i)], seq := s.ctx.eng.seqno, clk := s.cycle, taken := false, x := s.ctx.k.x,
        taint := s.ctx.k.taint, bypass := s.ctx.k.bypass, comp := s.ctx.comp, csr := s.ctx.csr }
    let goes (s : State) (w : W32) (i : Instr) (e : IssueEnd → Bool) : Bool :=
      let h := hold s w i
      let u := turned1 .K (me s (fun p => { p with held := some h }))
      decide ((u.ctx.str .K).held = some h ∧ u.mayGoOn .K = true) &&
      next (awaiting exec i { u with issue := { Issue.idle with pc := a, word := w, taken := h.taken, snap := some (u.heldSnap h) } }) (fun t => e t.issue.ended)
    goes s 0x80531C00 (.add 5 6 7) (fun e => e == .completed) = true ∧
    goes q 0xB04CA000 (.qpop 6 2 false) (fun e => match e with | .blocked _ => true | _ => false) = true ∧
    goes (windowed .K 0x3F0020 [(31, slotOf true false none)]) 0xE8758004 (.slotSet (some 7) 11) (fun e => match e with | .waits _ => true | _ => false) = true ∧
    goes p 0xA053B000 (.ldD 5 7 0) (fun e => match e with | .trapped .. => true | _ => false) = true ∧
    goes { p with mem := p.mem.setPoison (sectorOf 0x300000) true } 0xA0533000 (.ldD 5 6 0) (fun e => e == .faulted) = true ∧
    (let u := turned1 .K (faulted (me s (fun p => { p with held := some (hold s 0x80531C00 (.add 5 6 7)) })) none)
     u.mayGoOn .K = false ∧ (u.ctx.str .K).held = some (hold s 0x80531C00 (.add 5 6 7))) := by decide +kernel

theorem witness_StepRunsDecoded_fetch : let s := (on .K []).withFetchWord 32 0x80531C00
    let d : DeferredCause := { strand := .K, cause := 0x0A, pc := scratchBase, addr := 0x300001 }
    let v := acceptNear exec .K { deferring [d] s with agenda := [], strand := .K, issue := Issue.idle }
    reaches s scratchBase 4 false (fun g _ v => decide (Open v g 4) && decide ((v.readT g 4).1.data = wordBytes 0x80531C00 ∧ (v.readT g 4).1.poison = false) &&
      bitAt 0x80531C00 31) = true ∧ scratchBase.toNat % 4 = 0 ∧ s.ctx.id.kind ≠ .clove ∧ bitsAt scratchBase 55 9 = 0 ∧
    (let c := clove s
     c.ctx.id.kind = .clove ∧ 2 ^ 63 ≤ (2 ^ 63 : W64).toNat) ∧
    (me s (fun p => { p with halted := true })).mayIssue .K = false ∧ Instr.autonomous (.reset 0) = true ∧
    (State.reset).agenda = [] ∧ s.agenda = [.strand .K] ∧
    (v.mayIssue .K = true ∧ (v.ctx.str .K).held = none ∧ d ∈ v.ctx.eng.deferred ∧ d.strand = .K) := by decide +kernel

theorem witness_StepKeepsMemoryWf : Memory.wf State.reset = true ∧ Memory.wf (paged (on .K [(5, 0x300000), (10, 0x12343C00)]) coherent) = true ∧
    runs (paged (on .K [(5, 0x300000), (10, 0x12343C00)]) coherent) 32 0xA2A29000 (fun t => Memory.wf t) = true := by decide +kernel

end Sys2Proof.Tests
end

section
/-! PROOF. O14: what a store into a CSR leaves (00 R13, 17 R329). A register's word is a sum of fields at disjoint places; each
field takes its bits of the value stored, so the whole word reads back under the union of the fields' masks. -/

namespace Sys2Proof.Machine

/-! Fields of a word -/

/-- The mask of the bits of a field: so many bits from a lowest one on. -/
def fieldMask (lo n : Nat) : W64 := BitVec.ofNat 64 ((2 ^ n - 1) * 2 ^ lo)

theorem getLsbD_fieldMask (lo n i : Nat) (hi : i < 64) :
    (fieldMask lo n).getLsbD i = (decide (lo ≤ i) && decide (i - lo < n)) := by
  simp only [fieldMask, BitVec.getLsbD_ofNat, hi, Nat.testBit_mul_two_pow, Nat.testBit_two_pow_sub_one, decide_true, Bool.true_and]

/-- What a store of v does to a part of a CSR's word with a mask of RW bits: before it the part had no bit outside the mask,
after it the part is v under the mask. -/
def TakesBits (mask v old new : W64) : Prop := old &&& mask = old ∧ new = v &&& mask

namespace TakesBits

variable {mask mask' v old new x y : W64} {a a' b b' : Nat}

/-- The RW bits take those of v, every other bit stays (00 R13). -/
theorem readsBack (h : TakesBits mask v old new) : new = (old &&& ~~~mask) ||| (v &&& mask) := by
  obtain ⟨hold, rfl⟩ := h
  rw [← hold, BitVec.and_assoc]
  simp

/-- A word within its mask and one within a disjoint mask add up without a carry. -/
theorem add_eq_or (hd : mask &&& mask' = 0#64) (hx : x &&& mask = x) (hy : y &&& mask' = y) : x + y = x ||| y := by
  refine BitVec.add_eq_or_of_and_eq_zero x y ?_
  calc x &&& y = (x &&& mask) &&& (y &&& mask') := by rw [hx, hy]
    _ = (x &&& y) &&& (mask &&& mask') := by ac_rfl
    _ = 0#64 := by simp [hd]

/-- Two fields at disjoint places are one field with both masks. -/
theorem add (h : TakesBits mask v (.ofNat 64 a) (.ofNat 64 a')) (h' : TakesBits mask' v (.ofNat 64 b) (.ofNat 64 b'))
    (hd : mask &&& mask' = 0#64) : TakesBits (mask ||| mask') v (.ofNat 64 (a + b)) (.ofNat 64 (a' + b')) := by
  obtain ⟨hold, hnew⟩ := h
  obtain ⟨hold', hnew'⟩ := h'
  have within (m : W64) : v &&& m &&& m = v &&& m := by rw [BitVec.and_assoc, BitVec.and_self]
  constructor
  · rw [BitVec.ofNat_add, add_eq_or hd hold hold', ← hold, ← hold']
    ext i hi
    simp
    grind
  · rw [BitVec.ofNat_add, hnew, hnew', add_eq_or hd (within mask) (within mask'), ← BitVec.and_or_distrib_left]

/-- A field of n bits from a lowest one on, written with the bits of v that stand there. -/
theorem field (lo : Nat) {n : Nat} (f : BitVec n) : TakesBits (fieldMask lo n) v (.ofNat 64 (f.toNat * 2 ^ lo))
    (.ofNat 64 ((BitVec.ofNat n (bitsAt v lo n)).toNat * 2 ^ lo)) := by
  constructor <;> refine BitVec.eq_of_getLsbD_eq fun i hi => ?_ <;>
    rw [BitVec.getLsbD_and, getLsbD_fieldMask lo n i hi, BitVec.getLsbD_ofNat, Nat.testBit_mul_two_pow,
      BitVec.testBit_toNat]
  · have : f.getLsbD (i - lo) = true → i - lo < n := BitVec.lt_of_getLsbD
    grind
  · rw [BitVec.getLsbD_ofNat, bitsAt, Nat.testBit_mod_two_pow, Nat.testBit_div_two_pow, BitVec.testBit_toNat]
    grind

/-- A field at the low end of a word. -/
theorem low {n : Nat} (f : BitVec n) :
    TakesBits (fieldMask 0 n) v (.ofNat 64 f.toNat) (.ofNat 64 (BitVec.ofNat n (bitsAt v 0 n)).toNat) := by
  simpa using field (v := v) 0 f

theorem ofNat_bitsAt_zero (v : W64) (n : Nat) : BitVec.ofNat n (bitsAt v 0 n) = v.setWidth n := by
  apply BitVec.eq_of_toNat_eq
  simp [bitsAt]

/-- A register of one field at the low end. -/
theorem lowWord {n : Nat} (f : BitVec n) :
    TakesBits (fieldMask 0 n) v (f.setWidth 64) ((BitVec.ofNat n (bitsAt v 0 n)).setWidth 64) := by
  simpa only [BitVec.ofNat_toNat] using low (v := v) f

/-- The same, where the store cuts v to the field's width. -/
theorem setWidth {n : Nat} (f : BitVec n) : TakesBits (fieldMask 0 n) v (f.setWidth 64) ((v.setWidth n).setWidth 64) := by
  rw [← ofNat_bitsAt_zero]
  exact lowWord f

/-- A register whose 64 bits are one field. -/
theorem whole : TakesBits (BitVec.allOnes 64) v old v :=
  ⟨BitVec.and_allOnes, BitVec.and_allOnes.symm⟩

/-- A flag as a field of one bit. -/
theorem flag (lo : Nat) (f : Bool) : TakesBits (fieldMask lo 1) v (.ofNat 64 (if f then 2 ^ lo else 0))
    (.ofNat 64 (if bitAt v.toNat lo then 2 ^ lo else 0)) := by
  have hbit : (if bitAt v.toNat lo then 2 ^ lo else 0) = (BitVec.ofNat 1 (bitsAt v lo 1)).toNat * 2 ^ lo := by
    rcases Nat.mod_two_eq_zero_or_one (v.toNat / 2 ^ lo) with h | h <;> simp [bitAt, bitsAt, h]
  rw [hbit]
  cases f with
  | false => simpa using field (v := v) lo 0#1
  | true => simpa using field (v := v) lo 1#1

/-- A register of one flag. -/
theorem flagAlone (f : Bool) : TakesBits 1 v (if f then 1 else 0) (if bitAt v.toNat 0 then 1 else 0) := by
  have h := flag (v := v) 0 f
  rwa [apply_ite (BitVec.ofNat 64), apply_ite (BitVec.ofNat 64)] at h

end TakesBits

/-! The words of the registers with several fields -/

/-- CEERR and NBERR (07 R182, 17 R326). -/
theorem ErrRec.word_takesBits (e : ErrRec) (v : W64) : TakesBits 0xFFFFFFFFFFFF000F v e.word (ErrRec.ofWord v).word :=
  ((TakesBits.field 32 e.seq).add (.field 16 e.count) rfl).add (.low e.code) rfl

/-- ECCLOG (10 R244). -/
theorem EccLog.word_takesBits (e : EccLog) (v : W64) : TakesBits 0xE07FFFFFFFFFFFE0 v e.word (EccLog.ofWord v).word :=
  ((TakesBits.field 62 e.kind).add (.flag 61 e.mult) rfl).add (.field 5 e.addr) rfl

/-! What a store does to the state -/

namespace State

variable {s t : State} {n : Nat} {v mask : W64}

/-! Where no bundle is in flight, what is read is the state itself. -/

theorem rd_eq_ctx (h : s.issue.snap = none) : s.rd = s.ctx := by rw [rd, h]
theorem rdCore_eq_hereCore (h : s.issue.snap = none) : s.rdCore = s.hereCore := by rw [rdCore, h]; rfl
theorem rdDie_eq_hereDie (h : s.issue.snap = none) : s.rdDie = s.hereDie := by rw [rdDie, h]; rfl

/-! A read of the core's or the die's registers after a change of them -/

theorem modCore_hereCore (f : Core → Core) : (s.modCore f).hereCore = f s.hereCore := by
  simp [hereCore, modCore, core, here, Cells.get_set]
theorem modThermal_hereDie (f : Thermal → Thermal) : (s.modThermal f).hereDie.thermal = f s.hereDie.thermal := by
  simp [hereDie, modThermal, die, Cells.get_set]

/-- What a store into a CSR leaves alone: the context but for its CSRs and trap registers, the memories and the bundle in flight. -/
structure CsrFrame (s t : State) : Prop where
  str : ∀ k, t.ctx.str k = s.ctx.str k
  comp : t.ctx.comp = s.ctx.comp
  q : t.ctx.q = s.ctx.q
  mem : t.mem = s.mem
  clusters : t.clusters = s.clusters
  issue : t.issue = s.issue

@[simp] theorem CsrFrame.refl (s : State) : CsrFrame s s := ⟨fun _ => rfl, rfl, rfl, rfl, rfl, rfl⟩

theorem ctx_str_csr (c : Ctx) (x : Csrs) (k : StrandId) : ({ c with csr := x } : Ctx).str k = c.str k := by cases k <;> rfl
theorem ctx_str_trap (c : Ctx) (x : TrapRegs) (k : StrandId) : ({ c with trap := x } : Ctx).str k = c.str k := by cases k <;> rfl

/-! What the updates that a store is made of leave alone -/

@[simp] theorem CsrFrame.modCsr (h : CsrFrame s t) (f : Csrs → Csrs) : CsrFrame s (t.modCsr f) :=
  { h with str := fun k => (ctx_str_csr _ _ k).trans (h.str k) }
@[simp] theorem CsrFrame.modTrap (h : CsrFrame s t) (f : TrapRegs → TrapRegs) : CsrFrame s (t.modTrap f) :=
  { h with str := fun k => (ctx_str_trap _ _ k).trans (h.str k) }
@[simp] theorem CsrFrame.modCore (h : CsrFrame s t) (f : Core → Core) : CsrFrame s (t.modCore f) := { h with }
@[simp] theorem CsrFrame.modThermal (h : CsrFrame s t) (f : Thermal → Thermal) : CsrFrame s (t.modThermal f) := { h with }
@[simp] theorem CsrFrame.ite {u : State} {p : Prop} [Decidable p] (ht : CsrFrame s t) (hu : CsrFrame s u) :
    CsrFrame s (if p then t else u) := by split <;> assumption
@[simp] theorem CsrFrame.noteNumerics (h : CsrFrame s t) : CsrFrame s t.noteNumerics := .ite h (h.modCsr _)
@[simp] theorem CsrFrame.writeSampctl (h : CsrFrame s t) (v : W64) : CsrFrame s (t.writeSampctl v) :=
  { h with str := fun k => (ctx_str_csr _ _ k).trans (h.str k) }

/-- Every store but those of MODE and TRCCTL, which do more than set fields, changes CSRs, trap registers, registers of the core
or thermal registers of the die, and nothing else. -/
theorem csrStore_frame (hmode : n ≠ 0x104) (htrc : n ≠ 0x08F) : CsrFrame s (s.csrStore n v) := by
  unfold csrStore
  split
  · simp
  split
  · simp
  split <;> simp_all

/-! Reading back -/

/-- A CSR whose RW fields are those of a mask reads, after a store, as they are in v and as it did elsewhere. -/
def ReadsBack (s : State) (v : W64) (n : Nat) (mask : W64) : Prop :=
  (s.csrStore n v).csrRead n = (s.csrRead n &&& ~~~mask) ||| (v &&& mask)

variable (h : s.issue.snap = none)
include h

/-- A store leaves no snapshot where there was none. -/
theorem csrStore_snap (hmode : n ≠ 0x104) (htrc : n ≠ 0x08F) : (s.csrStore n v).issue.snap = none := by
  rw [(csrStore_frame hmode htrc).issue, h]

/-- A CSR that is a word of the context. -/
theorem readsBack_ctx {word : Ctx → W64} (hread : ∀ t : State, t.csrRead n = word t.rd) (hn : n ≠ 0x104 ∧ n ≠ 0x08F)
    (hword : TakesBits mask v (word s.ctx) (word (s.csrStore n v).ctx)) : ReadsBack s v n mask := by
  rw [ReadsBack, hread, hread, rd_eq_ctx h, rd_eq_ctx (csrStore_snap h hn.1 hn.2)]
  exact hword.readsBack

/-- A CSR that is a word of the core's registers. -/
theorem readsBack_core {word : Core → W64} {f : Core → Core} (hread : ∀ t : State, t.csrRead n = word t.rdCore)
    (hstore : s.csrStore n v = s.modCore f) (hword : TakesBits mask v (word s.hereCore) (word (f s.hereCore))) :
    ReadsBack s v n mask := by
  rw [ReadsBack, hread, hread, hstore, rdCore_eq_hereCore h, rdCore_eq_hereCore (s := s.modCore f) h, modCore_hereCore]
  exact hword.readsBack

/-- A CSR that is a word of the die's thermal registers. -/
theorem readsBack_thermal {word : Thermal → W64} {f : Thermal → Thermal} (hread : ∀ t : State, t.csrRead n = word t.rdDie.thermal)
    (hstore : s.csrStore n v = s.modThermal f) (hword : TakesBits mask v (word s.hereDie.thermal) (word (f s.hereDie.thermal))) :
    ReadsBack s v n mask := by
  rw [ReadsBack, hread, hread, hstore, rdDie_eq_hereDie h, rdDie_eq_hereDie (s := s.modThermal f) h, modThermal_hereDie]
  exact hword.readsBack

/-- FRM (03 R68). -/
theorem frm_readsBack : ReadsBack s v 0x010 0x3 :=
  readsBack_ctx h (word := fun c => c.csr.frm.setWidth 64) (fun _ => rfl) (by decide) (.setWidth _)

/-- FFLAGS, in a clk in which no flag is raised (03 R71, R73). -/
theorem fflags_readsBack (hraised : s.cycle ≠ s.ctx.csr.raised.1) : ReadsBack s v 0x011 0x7F := by
  have hstore : (s.csrStore 0x011 v).ctx.csr.fflags = v.setWidth 7 := if_neg (Ne.symm hraised)
  refine readsBack_ctx h (word := fun c => c.csr.fflags.setWidth 64) (fun _ => rfl) (by decide) ?_
  rw [hstore]
  exact .setWidth _

/-- FTZ (03 R70). -/
theorem ftz_readsBack : ReadsBack s v 0x012 0x1 :=
  readsBack_ctx h (word := fun c => if c.csr.ftz then 1 else 0) (fun _ => rfl) (by decide) (.flagAlone _)

/-- SCSTAT (04 R100). -/
theorem scstat_readsBack : ReadsBack s v 0x031 0xFFFFFFFFFFFFFFFF :=
  readsBack_ctx h (word := fun c => .ofNat 64 (c.csr.miss.toNat * 2 ^ 32 + c.csr.hit.toNat)) (fun _ => rfl) (by decide)
    ((TakesBits.field 32 _).add (.low _) rfl)

/-- CEERR (17 R326). -/
theorem ceerr_readsBack : ReadsBack s v 0x034 0xFFFFFFFFFFFF000F :=
  readsBack_ctx h (word := fun c => c.csr.ceerr.word) (fun _ => rfl) (by decide) (ErrRec.word_takesBits _ v)

/-- NBWIN, on a part with near-bank units (07 R179). -/
theorem nbwin_readsBack (hpart : s.part ≠ .sl3240m) : ReadsBack s v 0x038 0xF := by
  have hread (t : State) (ht : t.part ≠ .sl3240m) : t.csrRead 0x038 = t.rd.csr.nbwin.setWidth 64 := if_neg ht
  have hstore : s.csrStore 0x038 v = s.modCsr (fun c => { c with nbwin := v.setWidth 4 }) := if_neg hpart
  rw [ReadsBack, hstore, hread s hpart, hread (s.modCsr _) hpart, rd_eq_ctx h, rd_eq_ctx (s := s.modCsr _) h]
  exact (TakesBits.setWidth _).readsBack

/-- NBMSEL (07 R180). -/
theorem nbmsel_readsBack : ReadsBack s v 0x039 0x7FFF :=
  readsBack_ctx h (word := fun c => c.csr.nbmsel.setWidth 64) (fun _ => rfl) (by decide) (.setWidth _)

/-- NBERR (07 R182). -/
theorem nberr_readsBack : ReadsBack s v 0x03C 0xFFFFFFFFFFFF000F :=
  readsBack_ctx h (word := fun c => c.csr.nberr.word) (fun _ => rfl) (by decide) (ErrRec.word_takesBits _ v)

/-- ECCZCNT (10 R243). -/
theorem ecczcnt_readsBack : ReadsBack s v 0x050 0xFFFFFFFF :=
  readsBack_ctx h (word := fun c => c.csr.ecczcnt.setWidth 64) (fun _ => rfl) (by decide) (.lowWord _)

/-- ECCLOG (10 R244). -/
theorem ecclog_readsBack : ReadsBack s v 0x051 0xE07FFFFFFFFFFFE0 :=
  readsBack_ctx h (word := fun c => c.csr.ecclog.word) (fun _ => rfl) (by decide) (EccLog.word_takesBits _ v)

/-- QHC0 (10 R246). -/
theorem qhc0_readsBack : ReadsBack s v 0x070 0xFFFFFFFFFFFFFFFF := by
  have hstore : (s.csrStore 0x070 v).ctx.csr.qhc.getD 0 0 = v :=
    show (s.ctx.csr.qhc.setIfInBounds 0 v).getD 0 0 = v by simp [Vector.getD]
  refine readsBack_ctx h (word := fun c => c.csr.qhc.getD 0 0) (fun _ => rfl) (by decide) ?_
  rw [hstore]
  exact .whole

/-- TRCBASE (10 R252). -/
theorem trcbase_readsBack : ReadsBack s v 0x08E 0x007FFFFFFFFF0000 :=
  readsBack_ctx h (word := fun c => .ofNat 64 (c.csr.trace.base.toNat * 2 ^ 16)) (fun _ => rfl) (by decide) (.field 16 _)

/-- TRAPPC (09 R225). -/
theorem trappc_readsBack : ReadsBack s v 0x112 0xFFFFFFFFFFFFFFFF :=
  readsBack_ctx h (word := fun c => c.trap.pc) (fun _ => rfl) (by decide) .whole

/-- TRAPVEC (09 R225). -/
theorem trapvec_readsBack : ReadsBack s v 0x113 0xFFFFFFFFFFFFFFFF :=
  readsBack_ctx h (word := fun c => c.trap.vec) (fun _ => rfl) (by decide) .whole

/-- TRAPRPC (09 R225). -/
theorem traprpc_readsBack : ReadsBack s v 0x114 0xFFFFFFFFFFFFFFFF :=
  readsBack_ctx h (word := fun c => c.trap.rpc) (fun _ => rfl) (by decide) .whole

/-- TLBSEL (19 R390). -/
theorem tlbsel_readsBack : ReadsBack s v 0x032 0x80000000000FFFFF := by
  refine readsBack_core h (word := fun c => .ofNat 64 ((if c.tlbAll then 2 ^ 63 else 0) + c.tlbPasid.toNat))
    (f := fun c => { c with tlbAll := bitAt v.toNat 63, tlbPasid := v.setWidth 20 }) (fun _ => rfl) rfl ?_
  rw [← TakesBits.ofNat_bitsAt_zero]
  exact (TakesBits.flag 63 _).add (.low _) rfl

/-- FWSHARE (09 R224). -/
theorem fwshare_readsBack : ReadsBack s v 0x100 0x7F :=
  readsBack_core h (word := fun c => c.fwshare.setWidth 64) (f := fun c => { c with fwshare := v.setWidth 7 })
    (fun _ => rfl) rfl (.setWidth _)

/-- LEASELIM (06 R153). -/
theorem leaselim_readsBack : ReadsBack s v 0x101 0x7F :=
  readsBack_core h (word := fun c => c.leaselim.setWidth 64) (f := fun c => { c with leaselim := v.setWidth 7 })
    (fun _ => rfl) rfl (.setWidth _)

/-- QDLIMIT (02 R54). -/
theorem qdlimit_readsBack : ReadsBack s v 0x102 0xFFFFFFFF :=
  readsBack_core h (word := fun c => c.qdlimit.setWidth 64) (f := fun c => { c with qdlimit := v.setWidth 32 })
    (fun _ => rfl) rfl (.setWidth _)

/-- AGEQ (09 R221). -/
theorem ageq_readsBack : ReadsBack s v 0x103 0xFFFF :=
  readsBack_core h (word := fun c => c.ageq.setWidth 64) (f := fun c => { c with ageq := v.setWidth 16 })
    (fun _ => rfl) rfl (.setWidth _)

/-- THALERT (10 R260). -/
theorem thalert_readsBack : ReadsBack s v 0x210 0xFFFF :=
  readsBack_thermal h (word := fun t => t.alert.setWidth 64) (f := fun t => { t with alert := v.setWidth 16 })
    (fun _ => rfl) rfl (.setWidth _)

/-- THHYST (10 R260). -/
theorem thhyst_readsBack : ReadsBack s v 0x211 0xFFFF :=
  readsBack_thermal h (word := fun t => t.hyst.setWidth 64) (f := fun t => { t with hyst := v.setWidth 16 })
    (fun _ => rfl) rfl (.setWidth _)

/-- THCRIT (10 R260). -/
theorem thcrit_readsBack : ReadsBack s v 0x212 0xFFFF :=
  readsBack_thermal h (word := fun t => t.crit.setWidth 64) (f := fun t => { t with crit := v.setWidth 16 })
    (fun _ => rfl) rfl (.setWidth _)

/-- THSTEP (10 R260). -/
theorem thstep_readsBack : ReadsBack s v 0x214 0xFFFFFFFF :=
  readsBack_thermal h (word := fun t => .ofNat 64 (t.down.toNat * 2 ^ 16 + t.up.toNat))
    (f := fun t => { t with down := .ofNat 16 (bitsAt v 16 16), up := .ofNat 16 (bitsAt v 0 16) }) (fun _ => rfl) rfl
    ((TakesBits.field 16 _).add (.low _) rfl)

end State

end Sys2Proof.Machine

open Sys2Proof.Machine State in
/-- Settles O14: register by register, each by the fields of its word; what a store leaves alone by `csrStore_frame`. -/
theorem csrStoreReadsBack : Obligations.CsrStoreReadsBack := by
  intro s v h hraised
  refine ⟨frm_readsBack h, fflags_readsBack h hraised, ftz_readsBack h, scstat_readsBack h, ceerr_readsBack h, nbwin_readsBack h,
    nbmsel_readsBack h, nberr_readsBack h, ecczcnt_readsBack h, ecclog_readsBack h, qhc0_readsBack h, trcbase_readsBack h,
    fwshare_readsBack h, leaselim_readsBack h, qdlimit_readsBack h, ageq_readsBack h, tlbsel_readsBack h, trappc_readsBack h,
    trapvec_readsBack h, traprpc_readsBack h, thalert_readsBack h, thhyst_readsBack h, thcrit_readsBack h, thstep_readsBack h,
    fun n hn => ?_⟩
  have hmode : n ≠ 0x104 := by rintro rfl; revert hn; decide
  have htrc : n ≠ 0x08F := by rintro rfl; revert hn; decide
  obtain ⟨hstr, hcomp, hq, hmem, hclusters, -⟩ := csrStore_frame (s := s) (v := v) hmode htrc
  exact ⟨fun k => by simp [hstr], hcomp, hq, hmem, hclusters⟩
end

section
/-! PROOF. O55: what RESET leaves (01 R23, 00 R2). -/

open Sys2Proof.Machine

/-- Settles O55: what RESET keeps are the fields that `execReset` names and every other one is that of `State.reset`; the registers are
read there one by one, and `State.reset_wf` gives the canonical form. -/
theorem resetState : Obligations.ResetState := by
  intro s n
  refine ⟨⟨_, rfl, ?kept⟩, ?registers, State.reset_wf⟩
  case kept => exact ⟨rfl, rfl, rfl, rfl, rfl⟩
  case registers => decide +kernel

end

section
/-! PROOF. O54: what the end of a clk does (01 R23; 02 R53, R58; 05 R122; 09 R217, R223; 10 R245). Three frames carry what its parts
leave alone: `ClkFrame` what the counting leaves, `BankFrame` what exceptions and bank switches leave, `FitFrame` what the caches
leave as they are fitted. -/

namespace Sys2Proof.Machine

/-! Reads of memory do not depend on the read copies -/

/-- A memory that differs from another in its read copies alone. -/
def Mem.ButCopies (m m' : Mem) : Prop := m' = { m with copies := m'.copies }

namespace Mem

variable {m m' : Mem}

theorem butCopies_of {l : List Copy} (h : m' = { m with copies := l }) : m.ButCopies m' := by rw [h]; rfl

theorem butCopies_adds (h : m.ButCopies m') : m'.adds = m.adds := by rw [h]

theorem butCopies_foldWord (h : m.ButCopies m') (w : Nat) : (foldWord m w).ButCopies (foldWord m' w) := by
  rw [h]
  unfold foldWord
  rw [show addsOf { m with copies := m'.copies } w = addsOf m w from rfl]
  split <;> rfl

theorem butCopies_foldl {α : Type} {f : Mem → α → Mem} (hf : ∀ m m' a, m.ButCopies m' → (f m a).ButCopies (f m' a))
    (l : List α) (h : m.ButCopies m') : (l.foldl f m).ButCopies (l.foldl f m') := by
  induction l generalizing m m' with
  | nil => exact h
  | cons a l ih => exact ih (hf m m' a h)

theorem butCopies_foldAdds (h : m.ButCopies m') (k n : Nat) : (foldAdds m k n).ButCopies (foldAdds m' k n) := by
  unfold foldAdds
  rw [butCopies_adds h]
  split
  · exact h
  · exact butCopies_foldl (f := fun m i => foldWord m (4 * (k / 4 + i))) (fun _ _ _ h => butCopies_foldWord h _) _ h

theorem butCopies_read0 (h : m.ButCopies m') (k n : Nat) (b a : Bool) : (m'.read0 k n b a).1 = (m.read0 k n b a).1 := by
  rw [h]; rfl

theorem butCopies_read1 (h : m.ButCopies m') (k n : Nat) : m'.read1 k n = m.read1 k n := by
  rw [h]; rfl

theorem butCopies_foldHost (h : m.ButCopies m') (k n : Nat) : (m'.foldHost k n).host = (m.foldHost k n).host := by
  rw [h]; unfold foldHost; split <;> rfl

theorem butCopies_foldPeer (h : m.ButCopies m') (k n : Nat) : (m'.foldPeer k n).peer = (m.foldPeer k n).peer := by
  rw [h]; unfold foldPeer; split <;> rfl

/-! What leaves the read copies alone -/

theorem dramBytes_copies (k : Nat) (bs : List Byte) : (m.dramBytes k bs).copies = m.copies := by
  induction bs generalizing m k with
  | nil => rfl
  | cons b bs ih => exact ih _

theorem setPoison_copies (i : Nat) (p l : Bool) : (m.setPoison i p l).copies = m.copies := by
  unfold setPoison; split <;> rfl

theorem writeBack_copies (i : Nat) : (m.writeBack i).copies = m.copies := by
  unfold writeBack
  split
  · split
    · exact (setPoison_copies ..).trans (dramBytes_copies ..)
    · rfl
  · rfl

end Mem

namespace State

variable {s t u : State}

/-- A change of the read copies, of what clusters hold beside their scratchpads, and of anything but memory and dies changes no
byte. -/
theorem sameBytes_of_butCopies (hm : s.mem.ButCopies t.mem) (hc : ∀ c, (t.cluster c).mem = (s.cluster c).mem)
    (hd : t.dies = s.dies) : SameBytes s t := by
  intro g
  have hdie (d : Nat) : t.die d = s.die d := die_congr hd d
  cases g with
  | scratch c o => simp only [readT, hc]
  | hbm k b c direct =>
    simp only [readT, noteMiss_mem]
    split
    · rw [Mem.butCopies_read1 hm]
    · exact congrArg Got.data (Mem.butCopies_read0 (Mem.butCopies_foldAdds hm k 1) k 1 b (decide (c < 2)))
  | host a => simp only [readT, Mem.butCopies_foldHost hm]
  | peer d w a => simp only [readT, peerByte, hdie, Mem.butCopies_foldPeer hm]
  | regs d o => simp only [readT, dieWord, hdie]
  | priv d o => simp only [readT, hdie]

/-! The frames of contexts: what exceptions, bank switches and the counting of a clk leave alone -/

/-- What the end of a clk leaves alone until the caches are fitted: CYCLE, the part, dies, stacks, memory and every scratchpad. -/
structure ClkFrame (s t : State) : Prop where
  part : t.part = s.part
  cycle : t.cycle = s.cycle
  dies : t.dies = s.dies
  hbms : t.hbms = s.hbms
  mem : t.mem = s.mem
  round : t.round = s.round
  scratch : ∀ c, (t.cluster c).mem = (s.cluster c).mem

/-- What exceptions and bank switches leave alone: the same, and the counts of F's slots. -/
structure BankFrame (s t : State) : Prop extends ClkFrame s t where
  fSlots : ∀ n, (t.core n).fSlots = (s.core n).fSlots

theorem ClkFrame.refl (s : State) : ClkFrame s s := ⟨rfl, rfl, rfl, rfl, rfl, rfl, fun _ => rfl⟩
theorem BankFrame.refl (s : State) : BankFrame s s := { ClkFrame.refl s with fSlots := fun _ => rfl }

theorem ClkFrame.trans (h : ClkFrame s t) (h' : ClkFrame t u) : ClkFrame s u :=
  ⟨h'.part.trans h.part, h'.cycle.trans h.cycle, h'.dies.trans h.dies, h'.hbms.trans h.hbms, h'.mem.trans h.mem,
    h'.round.trans h.round, fun c => (h'.scratch c).trans (h.scratch c)⟩
theorem BankFrame.trans (h : BankFrame s t) (h' : BankFrame t u) : BankFrame s u :=
  { h.toClkFrame.trans h'.toClkFrame with fSlots := fun n => (h'.fSlots n).trans (h.fSlots n) }

/-- Contexts, who acts, tasks, the member that is issued and the counter of open values lie outside the frame. -/
theorem BankFrame.outside (s : State) (c : Ctx) (l : List Ctx) (k : StrandId) (ts : List Task) (i : Issue) (n : Nat) :
    BankFrame s { s with ctx := c, others := l, strand := k, tasks := ts, issue := i, free := n } :=
  ⟨⟨rfl, rfl, rfl, rfl, rfl, rfl, fun _ => rfl⟩, fun _ => rfl⟩

theorem outside_contexts (s : State) (c : Ctx) (l : List Ctx) : BankFrame s { s with ctx := c, others := l } := .outside ..

theorem setCore_clkFrame (n : Nat) (x : Core) : ClkFrame s (s.setCore n x) := { ClkFrame.refl s with }

theorem setCore_bankFrame {n : Nat} {x : Core} (h : x.fSlots = (s.core n).fSlots) : BankFrame s (s.setCore n x) where
  toClkFrame := setCore_clkFrame n x
  fSlots m := by
    rw [core_setCore]
    split
    · next hm => rw [h, hm]
    · rfl

/-- What another context does keeps a frame that does not tell contexts apart. -/
theorem inOther_keeps {R : State → State → Prop} (htrans : ∀ {a b c}, R a b → R b c → R a c)
    (hctx : ∀ (a : State) c l, R a { a with ctx := c, others := l }) {f : State → State} (hf : ∀ a, R a (f a)) (n : Nat) :
    R s (s.inOther n f) := by
  unfold inOther
  split
  · exact hctx s s.ctx s.others
  · exact htrans (hctx _ _ _) (htrans (hf _) (hctx _ _ _))

theorem inCtx_bankFrame (p : Ctx → Bool) {f : State → State} (hf : ∀ a, BankFrame a (f a)) : BankFrame s (s.inCtx p f) := by
  unfold inCtx
  split
  · exact hf s
  · split
    · exact inOther_keeps (R := BankFrame) BankFrame.trans outside_contexts hf _
    · exact .refl s

theorem everyCtx_clkFrame {f : State → State} (hf : ∀ a, ClkFrame a (f a)) : ClkFrame s (s.everyCtx f) :=
  foldl_keeps (P := ClkFrame s) (fun _ n h => h.trans
    (inOther_keeps (R := ClkFrame) ClkFrame.trans (fun a c l => (outside_contexts a c l).toClkFrame) hf n)) _ (hf s)

theorem foldl_bankFrame {α : Type} {f : State → α → State} (hf : ∀ a x, BankFrame a (f a x)) (l : List α) :
    BankFrame s (l.foldl f s) :=
  foldl_keeps (P := BankFrame s) (fun a x h => h.trans (hf a x)) l (.refl s)

theorem lapseLease_bankFrame (n : Nat) (k : CtxKind) : BankFrame s (s.lapseLease n k) := by
  unfold lapseLease
  dsimp only
  split
  · refine { BankFrame.refl s with scratch := fun c => ?_ }
    rw [cluster_setCluster]
    split
    · next h => rw [← h]
    · rfl
  · exact .refl s

theorem issueFrom_bankFrame (n : Nat) (k : CtxKind) : BankFrame s (s.issueFrom n k) := by
  unfold issueFrom
  dsimp only
  split
  · exact setCore_bankFrame rfl
  · split
    · exact setCore_bankFrame rfl
    · exact (lapseLease_bankFrame n _).trans (setCore_bankFrame rfl)

theorem bankGone_bankFrame (n : Nat) (k : CtxKind) : BankFrame s (s.bankGone n k) := by
  unfold bankGone
  dsimp only
  split
  · split
    · exact (lapseLease_bankFrame n k).trans (issueFrom_bankFrame ..)
    · exact lapseLease_bankFrame n k
  · exact lapseLease_bankFrame n k

theorem noteTask_bankFrame (i : Nat) (a c : BitVec 8) (w : W32) (pc : W64) : BankFrame s (s.noteTask i a c w pc) := .outside ..

theorem recordDeferred_bankFrame : BankFrame s s.recordDeferred := foldl_bankFrame (fun _ _ => noteTask_bankFrame ..) _

theorem modCtx_bankFrame (f : Ctx → Ctx) : BankFrame s (s.modCtx f) := .outside ..

theorem completeWaits_bankFrame : BankFrame s s.completeWaits := .outside ..

theorem endItem_bankFrame : BankFrame s s.endItem := by
  have h : BankFrame s (s.recordDeferred.modCtx Ctx.ended) := recordDeferred_bankFrame.trans (modCtx_bankFrame _)
  unfold endItem
  dsimp only
  split
  · split
    · exact h
    · exact h.trans (bankGone_bankFrame ..)
  · exact .refl s

theorem takeTrap_bankFrame (c : BitVec 8) (a pc : W64) (k : StrandId) (d : Bool) : BankFrame s (s.takeTrap c a pc k d) := by
  unfold takeTrap
  dsimp only
  split
  · exact .outside ..
  · split
    · refine .trans ?_ endItem_bankFrame
      exact .outside ..
    · exact .outside ..

theorem headTrap_bankFrame (c : Cause) : BankFrame s (s.headTrap c) :=
  BankFrame.trans (.outside s s.ctx s.others s.strand s.tasks s.issue (s.free + 2)) (takeTrap_bankFrame ..)

theorem deadlockTrap_bankFrame : BankFrame s s.deadlockTrap := by
  unfold deadlockTrap
  dsimp only
  split
  · exact (modCtx_bankFrame _).trans (headTrap_bankFrame _)
  · exact .refl s

theorem watchdogTrap_bankFrame : BankFrame s s.watchdogTrap := by
  unfold watchdogTrap
  split
  · exact headTrap_bankFrame _
  · exact .refl s

theorem setX_bankFrame (r : Reg) (v : W64) (t : Bool) : BankFrame s (s.setX r v t) := by
  unfold setX
  split
  · exact .refl s
  · split <;> exact .outside ..

theorem writeQstats_bankFrame (k : StrandId) : BankFrame s (s.writeQstats k) := by
  have h : BankFrame s ((s.ctx.str k).qstats.foldl (fun (t : State) p => t.setX p.1 (BitVec.ofNat 64 (s.ctx.q.occupancy p.2)))
      { s with strand := k, issue := Issue.idle }) :=
    BankFrame.trans (.outside ..) (foldl_bankFrame (fun _ _ => setX_bankFrame ..) _)
  exact h.trans (.outside ..)

theorem tickCtx_clkFrame : ClkFrame s s.tickCtx := by
  have hq : BankFrame s ((((s.writeQstats .L).writeQstats .C).writeQstats .S).writeQstats .K) :=
    (((writeQstats_bankFrame .L).trans (writeQstats_bankFrame .C)).trans (writeQstats_bankFrame .S)).trans (writeQstats_bankFrame .K)
  exact (((hq.trans (modCtx_bankFrame _)).trans deadlockTrap_bankFrame).trans watchdogTrap_bankFrame).toClkFrame

/-- What a clk counts in the acting context: the first half of `tallyCtx`. -/
def counted (s : State) : State := if s.bankIssues then s.countClk else s.modCtx (fun c => { c with deadlock := 0 })

theorem tallyCtx_eq_counted : s.tallyCtx =
    if s.counted.ctx.id.kind = .F ∧ (s.counted.ctx.k.issued ∨ s.counted.bypassLive s.counted.ctx.k) then
      s.counted.setCore s.counted.here { s.counted.hereCore with fSlots := s.counted.hereCore.fSlots + 1 }
    else s.counted := rfl

theorem counted_clkFrame : ClkFrame s s.counted := by
  unfold counted
  split
  · exact BankFrame.toClkFrame (.outside ..)
  · exact (modCtx_bankFrame _).toClkFrame

theorem tallyCtx_clkFrame : ClkFrame s s.tallyCtx := by
  rw [tallyCtx_eq_counted]
  split
  · exact counted_clkFrame.trans (setCore_clkFrame ..)
  · exact counted_clkFrame

theorem stopItem_bankFrame : BankFrame s s.stopItem := by
  unfold stopItem
  dsimp only
  split
  · exact (completeWaits_bankFrame.trans (modCtx_bankFrame _)).trans (bankGone_bankFrame ..)
  · exact .refl s

theorem stopGang_bankFrame (task gang : Nat) : BankFrame s (s.stopGang task gang) := by
  unfold stopGang
  dsimp only
  refine foldl_bankFrame (fun a c => inCtx_bankFrame _ fun b => ?_) _
  split
  · exact modCtx_bankFrame _
  · exact stopItem_bankFrame

theorem takeBank_bankFrame (n : Nat) (k : CtxKind) : BankFrame s (s.takeBank n k) := by
  unfold takeBank
  dsimp only
  refine .trans ?_ (issueFrom_bankFrame n k)
  split
  · exact .refl s
  · exact inCtx_bankFrame _ fun _ => completeWaits_bankFrame

theorem releaseHolds_bankFrame : BankFrame s s.releaseHolds := by
  unfold releaseHolds
  dsimp only
  refine .trans (foldl_bankFrame (fun a g => ?_) _) (foldl_bankFrame (fun a e => ?_) _)
  · split
    · exact .refl a
    · exact stopGang_bankFrame ..
  · split
    · split
      · exact .refl a
      · exact takeBank_bankFrame ..
    · exact .refl a

/-! Fitting the caches -/

/-- A machine differs from another in what the caches hold alone: in the stacks, in memory and in the counter of open values. -/
def CachesDiffer (s t : State) : Prop := t = { s with hbms := t.hbms, mem := t.mem, free := t.free }

namespace CachesDiffer

theorem cycle (h : CachesDiffer s t) : t.cycle = s.cycle := by rw [h]
theorem dies (h : CachesDiffer s t) : t.dies = s.dies := by rw [h]
theorem part (h : CachesDiffer s t) : t.part = s.part := by rw [h]
theorem round (h : CachesDiffer s t) : t.round = s.round := by rw [h]
theorem cores (h : CachesDiffer s t) : t.cores = s.cores := by rw [h]
theorem others (h : CachesDiffer s t) : t.others = s.others := by rw [h]
theorem ctx (h : CachesDiffer s t) : t.ctx = s.ctx := by rw [h]
theorem trans (h : CachesDiffer s t) (h' : CachesDiffer t u) : CachesDiffer s u := by rw [CachesDiffer, h', h]

end CachesDiffer

/-- What an eviction leaves alone: everything but stacks, memory and the counter of open values, and the read copies. -/
structure FitFrame (s t : State) : Prop where
  rest : CachesDiffer s t
  copies : t.mem.copies = s.mem.copies

theorem FitFrame.refl (s : State) : FitFrame s s := ⟨rfl, rfl⟩
theorem FitFrame.trans (h : FitFrame s t) (h' : FitFrame t u) : FitFrame s u := ⟨h.rest.trans h'.rest, h'.copies.trans h.copies⟩

theorem dropSector_fitFrame (n : Nat) : FitFrame s (s.dropSector n) := by
  unfold dropSector
  split
  · exact .refl s
  · exact ⟨rfl, Mem.writeBack_copies n⟩

theorem modPch_fitFrame (k p : Nat) (f : Pch → Pch) : FitFrame s (s.modPch k p f) := ⟨rfl, rfl⟩

theorem standIn_fitFrame (w : Asker) (l : List (Nat × Nat)) : FitFrame s (s.standIn w l) :=
  foldl_keeps (P := FitFrame s) (fun _ q h => h.trans (modPch_fitFrame q.1 q.2 _)) l (.refl s)

theorem evict_fitFrame (n : Nat) : FitFrame s (s.evict n) := by
  unfold evict
  dsimp only
  split
  · exact .refl s
  · split
    · exact dropSector_fitFrame n
    · split
      · exact standIn_fitFrame ..
      · have h : FitFrame s (s.noteRequest (32 * n)) := ⟨rfl, rfl⟩
        exact h.trans (dropSector_fitFrame n)

theorem fitL2_fitFrame (n : Nat) : FitFrame s (fitL2 n s) := by
  induction n generalizing s with
  | zero => exact .refl s
  | succ n ih =>
    unfold fitL2
    split
    · exact .refl s
    · have h : FitFrame s { s with free := s.free + 1 } := ⟨rfl, rfl⟩
      exact (h.trans (evict_fitFrame _)).trans ih

/-- The copies that a cache holds. -/
def copiesIn (l : List Copy) (k : CopyIn) (m : Nat) : List Copy := l.filter (fun x => x.cache == k && x.holder == m)

theorem fitCopies_sublist (l : List Copy) : (fitCopies l).Sublist l := by
  induction l with
  | nil => exact .slnil
  | cons c l ih =>
    unfold fitCopies
    split
    · exact ih.cons_cons c
    · exact ih.cons c

theorem fitCopies_fits (l : List Copy) (k : CopyIn) (m : Nat) : (copiesIn (fitCopies l) k m).length ≤ copyRoom k := by
  induction l with
  | nil => exact Nat.zero_le _
  | cons c l ih =>
    unfold fitCopies
    split
    · next hroom =>
      unfold copiesIn
      rw [List.filter_cons]
      split
      · next hin =>
        simp only [Bool.and_eq_true, beq_iff_eq] at hin
        rw [hin.1, hin.2] at hroom
        exact Nat.lt_of_le_of_lt (((fitCopies_sublist l).filter _).length_le) hroom
      · exact ih
    · exact ih

theorem room_of_few {l : List Copy} (h : l.length ≤ 512) (k : CopyIn) (m : Nat) : (copiesIn l k m).length ≤ copyRoom k := by
  refine (List.length_filter_le _ l).trans (h.trans ?_)
  cases k <;> decide

/-- The machine with the oldest copies gone where a cache may hold too many: the first half of `fitCaches`. -/
def trimCopies (s : State) : State :=
  if s.mem.copies.length ≤ 512 then s else { s with mem := { s.mem with copies := fitCopies s.mem.copies } }

theorem fitCaches_eq : s.fitCaches =
    if s.trimCopies.mem.l2.length ≤ 8192 then s.trimCopies else fitL2 s.trimCopies.mem.l2.length s.trimCopies :=
  rfl

theorem trimCopies_rest : CachesDiffer s s.trimCopies := by
  unfold trimCopies; split <;> rfl

theorem fitCaches_fitFrame : FitFrame s.trimCopies s.fitCaches := by
  rw [fitCaches_eq]
  split
  · exact .refl _
  · exact fitL2_fitFrame _

theorem fitCaches_rest : CachesDiffer s s.fitCaches := trimCopies_rest.trans fitCaches_fitFrame.rest

theorem fitCaches_fits (k : CopyIn) (m : Nat) : (copiesIn s.fitCaches.mem.copies k m).length ≤ copyRoom k := by
  rw [fitCaches_fitFrame.copies]
  unfold trimCopies
  split
  · next h => exact room_of_few h k m
  · exact fitCopies_fits _ k m

theorem fitCaches_copies_subset : s.fitCaches.mem.copies ⊆ s.mem.copies := by
  rw [fitCaches_fitFrame.copies]
  unfold trimCopies
  split
  · exact List.Subset.refl _
  · exact (fitCopies_sublist _).subset

theorem fitCaches_eq_self (hc : s.mem.copies.length ≤ 512) (hl : s.mem.l2.length ≤ 8192) : s.fitCaches = s := by
  have ht : s.trimCopies = s := if_pos hc
  rw [fitCaches_eq, ht, if_pos hl]

end State
end Sys2Proof.Machine
end

section
/-! PROOF. O54, continued: what the end of a clk does to a context that is alone, and the statement. -/

namespace Sys2Proof.Machine

/-- Reading a key that is not listed. -/
theorem Cells.get_of_not_mem {α : Type} {d : α} {m : Cells α} {n : Nat} (h : n ∉ m.map (·.1)) : Cells.get d m n = d := by
  induction m with
  | nil => rfl
  | cons e m ih =>
    rw [List.map_cons, List.mem_cons, not_or] at h
    rw [Cells.get_cons, if_neg (Ne.symm h.1), ih h.2]

/-- The slots of the F of a listed core are open again. -/
def openSlots (m : Cells Core) (e : Nat × Core) : Cells Core := Cells.set Core.reset m e.1 { e.2 with fSlots := 0 }

/-- The registers of the cores at the start of a window of 64 clk (09 R223). -/
def freshSlots (c : Cells Core) : Cells Core := c.foldl openSlots c

theorem freshSlots_fSlots (c : Cells Core) (n : Nat) : (Cells.get Core.reset (freshSlots c) n).fSlots = 0 := by
  suffices h : ∀ l m : Cells Core, (n ∉ l.map (·.1) → (Cells.get Core.reset m n).fSlots = 0) →
      (Cells.get Core.reset (l.foldl openSlots m) n).fSlots = 0 from
    h c c fun hn => by rw [Cells.get_of_not_mem hn]; rfl
  intro l
  induction l with
  | nil => exact fun m hm => hm (by simp)
  | cons e l ih =>
    refine fun m hm => ih _ fun hl => ?_
    rw [openSlots, Cells.get_set]
    split
    · rfl
    · next hne => exact hm (by simp [hl, Ne.symm hne])

theorem freshSlots_next {c : Cells Core} (h : Cells.AllVals (fun x => x.next = none) c) :
    Cells.AllVals (fun x : Core => x.next = none) (freshSlots c) := by
  suffices hl : ∀ l m : Cells Core, Cells.AllVals (fun x => x.next = none) l → Cells.AllVals (fun x => x.next = none) m →
      Cells.AllVals (fun x : Core => x.next = none) (l.foldl openSlots m) from hl c c h h
  intro l
  induction l with
  | nil => exact fun m _ hm => hm
  | cons e l ih =>
    exact fun m hl hm => ih _ (fun x hx => hl x (List.mem_cons_of_mem _ hx)) (hm.set (hl e List.mem_cons_self))

/-- A context after a clk has been counted: one of an issuing bank n times, with the deadlock counter at d (02 R53; 08 R198; 09 R217; 10
R245). -/
def Ctx.tallied (c : Ctx) (qhc : Vector W64 16) (n d : Nat) : Ctx :=
  { c with csr := { c.csr with qhc }, tsu := { c.tsu with clks := c.tsu.clks + BitVec.ofNat 64 n }, wdog := c.wdog + n, deadlock := d }

/-- A context at the end of a clk whose number is n: `freshStrand` for every strand. -/
def Ctx.freshened (c : Ctx) (n : Nat) : Ctx :=
  { c with l := State.freshStrand n c.l, c := State.freshStrand n c.c, s := State.freshStrand n c.s, k := State.freshStrand n c.k,
           sqAt := if c.tst.isSome then c.sqAt else Vector.replicate 2 none }

theorem Ctx.str_freshened (c : Ctx) (n : Nat) (k : StrandId) : (c.freshened n).str k = State.freshStrand n (c.str k) := by
  cases k <;> rfl

theorem Ctx.str_tallied (c : Ctx) (q : Vector W64 16) (n d : Nat) (k : StrandId) : (c.tallied q n d).str k = c.str k := by
  cases k <;> rfl

theorem Ctx.setStr_self (c : Ctx) (k : StrandId) : c.setStr k (c.str k) = c := by cases k <;> rfl

namespace State

variable {s : State}

/-! Counting -/

/-- A clk in which the bank issues counts once. -/
def clkCount (s : State) : Nat := if s.bankIssues then 1 else 0

/-- The deadlock counter after a clk (02 R53). -/
def deadlockAfter (s : State) : Nat := if s.bankIssues && s.allStuck && !s.pendingEvent then s.ctx.deadlock + 1 else 0

/-- F uses a slot, or holds one through a live bypass value (02 R58). -/
abbrev UsesSlot (s : State) : Prop := s.ctx.id.kind = .F ∧ (s.ctx.k.issued = true ∨ s.bypassLive s.ctx.k = true)

theorem counted_eq (s : State) : ∃ q, s.counted = s.modCtx (fun c => c.tallied q s.clkCount s.deadlockAfter) := by
  cases hb : s.bankIssues with
  | true =>
    refine ⟨s.countClk.ctx.csr.qhc, ?_⟩
    simp only [counted, clkCount, deadlockAfter, hb, if_true, Bool.true_and]
    rfl
  | false =>
    have hctx : s.ctx.tallied s.ctx.csr.qhc 0 0 = { s.ctx with deadlock := 0 } := by simp [Ctx.tallied]
    refine ⟨s.ctx.csr.qhc, ?_⟩
    simp only [counted, clkCount, deadlockAfter, hb, Bool.false_eq_true, if_false, Bool.false_and]
    exact congrArg (fun c => { s with ctx := c }) hctx.symm

/-! The end of the clk where no QSTAT waits and no limit is set -/

theorem writeQstats_eq_self {k : StrandId} (h : (s.ctx.str k).qstats = []) : s.writeQstats k = s := by
  have hstr : ({ s.ctx.str k with qstats := [] } : Strand) = s.ctx.str k := by rw [← h]
  have hctx : s.ctx.modStr k (fun p => { p with qstats := [] }) = s.ctx := by
    rw [Ctx.modStr, hstr, Ctx.setStr_self]
  unfold writeQstats
  rw [h]
  show { s with ctx := s.ctx.modStr k (fun p => { p with qstats := [] }) } = s
  rw [hctx]

theorem deadlockTrap_eq_self (h : s.hereCore.qdlimit = 0) : s.deadlockTrap = s := by
  simp [deadlockTrap, deadlockLimit, h]

theorem watchdogTrap_eq_self (h : s.ctx.wdogLimit = 0) : s.watchdogTrap = s := by
  simp [watchdogTrap, h]

theorem tickCtx_eq (hq : ∀ k, (s.ctx.str k).qstats = []) (hd : s.hereCore.qdlimit = 0) (hw : s.ctx.wdogLimit = 0) :
    s.tickCtx = s.modCtx (fun c => c.freshened (s.cycle.toNat + 1)) := by
  have hd' : (s.modCtx (fun c => c.freshened (s.cycle.toNat + 1))).hereCore.qdlimit = 0 := hd
  have hw' : (s.modCtx (fun c => c.freshened (s.cycle.toNat + 1))).ctx.wdogLimit = 0 := hw
  unfold tickCtx
  rw [writeQstats_eq_self (hq .L), writeQstats_eq_self (hq .C), writeQstats_eq_self (hq .S), writeQstats_eq_self (hq .K)]
  show (s.modCtx (fun c => c.freshened (s.cycle.toNat + 1))).deadlockTrap.watchdogTrap = _
  rw [deadlockTrap_eq_self hd', watchdogTrap_eq_self hw']

theorem everyCtx_alone (h : s.others = []) (f : State → State) : s.everyCtx f = f s := by
  rw [everyCtx, h]; rfl

theorem releaseHolds_eq_self (ho : s.others = []) (hs : s.ctx.stopReq = false) (hn : Cells.AllVals (fun x => x.next = none) s.cores) :
    s.releaseHolds = s := by
  have hcores : ∀ l : Cells Core, Cells.AllVals (fun x => x.next = none) l →
      l.foldl (fun (t : State) e => match e.2.next with
        | some k => if t.coreHeld e.1 then t else t.takeBank e.1 k
        | none => t) s = s := by
    intro l hl
    induction l with
    | nil => rfl
    | cons e l ih =>
      rw [List.foldl_cons, hl e List.mem_cons_self]
      exact ih fun x hx => hl x (List.mem_cons_of_mem _ hx)
  have hgangs : (s.allCtxs.filter (·.id.kind.isApp)).filter (·.stopReq) = [] := by
    simp [allCtxs, ho, hs]
  unfold releaseHolds
  dsimp only
  rw [hgangs]
  exact hcores _ hn

/-! A clk as a whole -/

/-- The next clk begins: its number, the leases that have run out, and F's slots. -/
def openClk (s : State) (n : W64) : State :=
  { s with cycle := n, round := 0, cores := if n.toNat % 64 = 0 then freshSlots s.cores else s.cores,
           mem := { s.mem with copies := s.mem.copies.filter (fun c => decide (n.toNat < c.expiry)) } }

theorem openClk_mem (s : State) (n : W64) :
    (s.openClk n).mem = { s.mem with copies := s.mem.copies.filter (fun c => decide (n.toNat < c.expiry)) } := rfl

/-- The machine at the end of a clk, before its caches are fitted. -/
def clkEnd (s : State) : State := (((s.everyCtx tallyCtx).everyCtx tickCtx).openClk (s.cycle + 1)).releaseHolds

theorem tick_eq (s : State) : s.tick = s.clkEnd.fitCaches := rfl

/-- The copies whose lease outlasts the clk. -/
def leasedCopies (s : State) : List Copy := s.mem.copies.filter (fun c => decide ((s.cycle + 1).toNat < c.expiry))

theorem everyCtx_clkEnd : ClkFrame s ((s.everyCtx tallyCtx).everyCtx tickCtx) :=
  (everyCtx_clkFrame fun _ => tallyCtx_clkFrame).trans (everyCtx_clkFrame fun _ => tickCtx_clkFrame)

/-- Before the caches are fitted, a clk has put in the next clk's number, the first turn and the leased copies, and left alone the rest of
the frame. -/
theorem clkEnd_clkFrame :
    ClkFrame { s with cycle := s.cycle + 1, round := 0, mem := { s.mem with copies := s.leasedCopies } } s.clkEnd := by
  have h : ClkFrame s ((s.everyCtx tallyCtx).everyCtx tickCtx) := everyCtx_clkEnd
  refine ClkFrame.trans ?_ releaseHolds_bankFrame.toClkFrame
  refine ⟨h.part, rfl, h.dies, h.hbms, ?_, rfl, h.scratch⟩
  rw [openClk_mem, h.mem]
  rfl

theorem clkEnd_fSlots (h : (s.cycle + 1).toNat % 64 = 0) (n : Nat) : (s.clkEnd.core n).fSlots = 0 := by
  refine (releaseHolds_bankFrame.fSlots n).trans ?_
  show (Cells.get Core.reset (if (s.cycle + 1).toNat % 64 = 0 then _ else _) n).fSlots = 0
  rw [if_pos h]
  exact freshSlots_fSlots _ n

/-! A context that is alone, without limits and with nothing held off -/

/-- The context is alone, the watchdog and the deadlock counter have no limit, no pre-emption and no bank switch is held off, and no QSTAT
waits. -/
structure Alone (s : State) : Prop where
  others : s.others = []
  wdogLimit : s.ctx.wdogLimit = 0
  qdlimit : s.hereCore.qdlimit = 0
  stopReq : s.ctx.stopReq = false
  next : Cells.AllVals (fun x : Core => x.next = none) s.cores
  qstats : ∀ k, (s.ctx.str k).qstats = []

/-- The context of a machine that is alone, at the end of a clk, for what QHC then counts. -/
def clkCtx (s : State) (q : Vector W64 16) : Ctx := (s.ctx.tallied q s.clkCount s.deadlockAfter).freshened (s.cycle.toNat + 1)

/-- F's slots of the acting context's core with the one counted that it used in the clk (09 R223). -/
def clkCores (s : State) : Cells Core :=
  if s.UsesSlot then Cells.set Core.reset s.cores s.here { s.hereCore with fSlots := s.hereCore.fSlots + 1 } else s.cores

theorem clkCores_get (s : State) (n : Nat) : ∃ f, Cells.get Core.reset s.clkCores n = { s.core n with fSlots := f } := by
  unfold clkCores
  split
  · rw [Cells.get_set]
    split
    · next h => exact ⟨_, by rw [← h]; rfl⟩
    · exact ⟨_, rfl⟩
  · exact ⟨_, rfl⟩

theorem clkCores_fSlots (s : State) :
    (Cells.get Core.reset s.clkCores s.here).fSlots = (s.core s.here).fSlots + if s.UsesSlot then 1 else 0 := by
  unfold clkCores
  split
  · rw [Cells.get_set, if_pos rfl]; rfl
  · rfl

theorem clkCores_next (h : Cells.AllVals (fun x : Core => x.next = none) s.cores) :
    Cells.AllVals (fun x : Core => x.next = none) s.clkCores := by
  unfold clkCores
  split
  · exact h.set (h.get (d := Core.reset) rfl s.here)
  · exact h

/-- The machine with the clk counted in its acting context and core. -/
def clkCounted (s : State) (q : Vector W64 16) : State :=
  { s with ctx := s.ctx.tallied q s.clkCount s.deadlockAfter, cores := s.clkCores }

theorem tallyCtx_eq_clkCounted (s : State) : ∃ q, s.tallyCtx = s.clkCounted q := by
  obtain ⟨q, hq⟩ := counted_eq s
  refine ⟨q, ?_⟩
  rw [tallyCtx_eq_counted, hq, clkCounted, clkCores]
  change (if s.UsesSlot then (s.modCtx _).setCore s.here _ else s.modCtx _) = _
  split <;> rfl

theorem tickCtx_clkCounted (h : s.Alone) (q : Vector W64 16) :
    (s.clkCounted q).tickCtx = { s with ctx := s.clkCtx q, cores := s.clkCores } := by
  have hqstats (k : StrandId) : ((s.clkCounted q).ctx.str k).qstats = [] := by
    rw [clkCounted, Ctx.str_tallied]; exact h.qstats k
  have hqdlimit : (s.clkCounted q).hereCore.qdlimit = 0 := by
    obtain ⟨f, hf⟩ := clkCores_get s s.here
    exact (congrArg Core.qdlimit hf).trans h.qdlimit
  exact tickCtx_eq hqstats hqdlimit h.wdogLimit

/-- Of a context that is alone, a clk counts and lets the strands issue again; an exception, a pre-emption or a bank switch does not
come. -/
theorem clkEnd_alone (h : s.Alone) :
    ∃ q, s.clkEnd = ({ s with ctx := s.clkCtx q, cores := s.clkCores } : State).openClk (s.cycle + 1) := by
  obtain ⟨q, hq⟩ := tallyCtx_eq_clkCounted s
  refine ⟨q, ?_⟩
  unfold clkEnd
  rw [everyCtx_alone h.others, hq, everyCtx_alone (s := s.clkCounted q) h.others, tickCtx_clkCounted h]
  refine releaseHolds_eq_self h.others h.stopReq ?_
  show Cells.AllVals _ (if (s.cycle + 1).toNat % 64 = 0 then freshSlots s.clkCores else s.clkCores)
  split
  · exact freshSlots_next (clkCores_next h.next)
  · exact clkCores_next h.next

/-! What a clk leaves, once the caches are fitted -/

theorem tick_rest (s : State) : CachesDiffer s.clkEnd s.tick := fitCaches_rest

theorem tick_cycle (s : State) : s.tick.cycle = s.cycle + 1 := (tick_rest s).cycle.trans clkEnd_clkFrame.cycle
theorem tick_dies (s : State) : s.tick.dies = s.dies := (tick_rest s).dies.trans clkEnd_clkFrame.dies
theorem tick_part (s : State) : s.tick.part = s.part := (tick_rest s).part.trans clkEnd_clkFrame.part
theorem tick_round (s : State) : s.tick.round = 0 := (tick_rest s).round.trans clkEnd_clkFrame.round
theorem tick_core (s : State) (n : Nat) : s.tick.core n = s.clkEnd.core n := core_congr (tick_rest s).cores n

theorem clkEnd_copies : s.clkEnd.mem.copies = s.leasedCopies := congrArg Mem.copies clkEnd_clkFrame.mem

theorem tick_copies_subset : s.tick.mem.copies ⊆ s.leasedCopies := by
  rw [tick_eq, ← clkEnd_copies]
  exact fitCaches_copies_subset

/-- Where neither the read copies nor the home L2 can be too many, a clk changes no byte of memory, and drops the copies whose lease
has run out. -/
theorem tick_mem (hc : s.leasedCopies.length ≤ 512) (hl : s.mem.l2.length ≤ 8192) :
    SameBytes s s.tick ∧ s.tick.hbms = s.hbms ∧ s.tick.mem = { s.mem with copies := s.leasedCopies } := by
  have hend : ClkFrame _ s.clkEnd := clkEnd_clkFrame
  have hcopies : s.clkEnd.mem.copies.length ≤ 512 := clkEnd_copies.symm ▸ hc
  have hl2 : s.clkEnd.mem.l2.length ≤ 8192 := hend.mem.symm ▸ hl
  rw [tick_eq, fitCaches_eq_self hcopies hl2]
  exact ⟨sameBytes_of_butCopies (Mem.butCopies_of hend.mem) hend.scratch hend.dies, hend.hbms, hend.mem⟩

theorem tick_fits (s : State) (k : CopyIn) (m : Nat) : (copiesIn s.tick.mem.copies k m).length ≤ copyRoom k := by
  rw [tick_eq]
  exact fitCaches_fits k m

theorem tick_window (h : (s.cycle + 1).toNat % 64 = 0) (n : Nat) : (s.tick.core n).fSlots = 0 := by
  rw [tick_core, clkEnd_fSlots h]

theorem tick_alone (h : s.Alone) : s.tick.others = [] ∧ ∃ q, s.tick.ctx = s.clkCtx q := by
  obtain ⟨q, hq⟩ := clkEnd_alone h
  have hothers : s.clkEnd.others = [] := by rw [hq]; exact h.others
  have hctx : s.clkEnd.ctx = s.clkCtx q := by rw [hq]; rfl
  exact ⟨(tick_rest s).others.trans hothers, q, (tick_rest s).ctx.trans hctx⟩

theorem tick_alone_fSlots (h : s.Alone) (hw : (s.cycle + 1).toNat % 64 ≠ 0) :
    (s.tick.core s.here).fSlots = (s.core s.here).fSlots + if s.UsesSlot then 1 else 0 := by
  obtain ⟨q, hq⟩ := clkEnd_alone h
  have hcores : s.clkEnd.cores = s.clkCores := by rw [hq]; exact if_neg hw
  rw [tick_core, core, hcores, clkCores_fSlots]

theorem clkCtx_str (q : Vector W64 16) (k : StrandId) : (s.clkCtx q).str k = freshStrand (s.cycle.toNat + 1) (s.ctx.str k) := by
  rw [clkCtx, Ctx.str_freshened, Ctx.str_tallied]

end State
end Sys2Proof.Machine

open Sys2Proof.Machine State in
/-- Settles O54: a clk is `clkEnd`, whose frame is `clkEnd_clkFrame`, and then the caches are fitted; what it counts of a context that is
alone is `clkCtx`. -/
theorem clockCounts : Obligations.ClockCounts := by
  intro s m st k
  refine ⟨s.tick, rfl, tick_cycle s, tick_dies s, tick_part s, tick_round s, tick_mem, fun x hx => tick_copies_subset hx,
    tick_fits s k m, fun hw => tick_window hw m, ?alone⟩
  case alone =>
    intro hothers hwdog hqdlimit hstop hnext hqstats
    have halone : s.Alone := ⟨hothers, hwdog, hqdlimit, hstop, hnext, hqstats⟩
    have hslots := tick_alone_fSlots halone
    obtain ⟨hothers', q, hctx⟩ := tick_alone halone
    generalize s.tick = t at hothers' hctx hslots
    rw [hctx]
    exact ⟨hothers', rfl, rfl, rfl, rfl, rfl, rfl, rfl, clkCtx_str q st, rfl, rfl, rfl, hslots⟩
end

section
/-! PROOF. O44: barriers and their generations (02 R50, R51; 17 R315, R316), ENG.WAIT and ENG.SEQ (18 R341, R342), ENG.LNCH (18 R340).
An arrive counts the strand or the item in and then lets the barrier advance, so what it does to the generation is what
`advanceBarrier` does where all have arrived, and where not. -/

namespace Sys2Proof.Machine

variable {s t : State} {i : Instr}

/-! How a stop reads in the words of the statements -/

theorem blocks_of_error {m : M Unit} {b : Block} (hi : exec i s = run m s) (h : m s = .error (.block b) t) : Blocks i s b := by
  rw [Blocks, hi, run_error h]; rfl

theorem traps_of_error {m : M Unit} {c : Cause} {a : W64} (hi : exec i s = run m s) (h : m s = .error (.trap c a) t) :
    Traps i s c a := by
  rw [Traps, hi, run_error h]; rfl

namespace State

/-! The records of barriers -/

variable {st : StrandId} {e : BarScope} {b : Barrier}

theorem isBarrier_findBarrier : s.isBarrier e (s.findBarrier e) = true := by
  unfold findBarrier
  cases h : s.barriers.find? (s.isBarrier e) with
  | some b => exact List.find?_some h
  | none => simp [isBarrier]

theorem findBarrier_setBarrier (h : s.isBarrier e b = true) : (s.setBarrier e b).findBarrier e = b := by
  have hb : (s.setBarrier e b).isBarrier e b = true := h
  have hfind : (s.setBarrier e b).barriers.find? ((s.setBarrier e b).isBarrier e) = some b := List.find?_cons_of_pos hb
  rw [findBarrier, hfind, Option.getD_some]

/-- A record stays the acting item's, whatever generation it has and whoever is in. -/
theorem isBarrier_progress (n : Nat) (l : List Nat) :
    s.isBarrier e { s.findBarrier e with gen := n, arrived := l } = true := isBarrier_findBarrier

@[simp] theorem setArrive_id (g : Option Nat) : (s.setArrive st e g).ctx.id = s.ctx.id := Ctx.modStr_id ..

@[simp] theorem setArrive_hereLevel (g : Option Nat) : (s.setArrive st e g).hereLevel = s.hereLevel := by
  unfold hereLevel hereTask
  rw [setArrive_id]
  rfl

theorem isBarrier_setArrive (g : Option Nat) : (s.setArrive st e g).isBarrier = s.isBarrier := by
  funext e b
  simp only [isBarrier, setArrive_id, setArrive_hereLevel]

theorem sharesBarrier_setArrive (g : Option Nat) : (s.setArrive st e g).sharesBarrier = s.sharesBarrier := by
  funext e c
  simp only [sharesBarrier, setArrive_id, setArrive_hereLevel]

theorem findBarrier_setArrive (g : Option Nat) : (s.setArrive st e g).findBarrier e = s.findBarrier e := by
  simp only [findBarrier, isBarrier_setArrive, setArrive_id, setArrive_hereLevel]
  rfl

/-! The advance of a generation -/

/-- Every participant has arrived: all four strands of a core, or every item of the gang that takes part and has not
ended (02 R51). -/
def AllArrived (s : State) (e : BarScope) : Prop :=
  if e = .core then ∀ k, (s.ctx.str k).arrived.getD 0 none = some s.ctx.barGen
  else ∀ c ∈ s.ctx :: s.others, s.sharesBarrier e c = true → c.id.residency ≠ .ended → c.id.item.toNat ∈ (s.findBarrier e).arrived

theorem allArrived_core : s.AllArrived .core ↔ ∀ k, (s.ctx.str k).arrived.getD 0 none = some s.ctx.barGen := by
  rw [AllArrived, if_pos rfl]

theorem allArrived_wide (he : e ≠ .core) : s.AllArrived e ↔ ∀ c ∈ s.ctx :: s.others, s.sharesBarrier e c = true →
    c.id.residency ≠ .ended → c.id.item.toNat ∈ (s.findBarrier e).arrived := by
  rw [AllArrived, if_neg he]

theorem strand_forall {p : StrandId → Prop} : (∀ k, p k) ↔ p .L ∧ p .C ∧ p .S ∧ p .K :=
  ⟨fun h => ⟨h _, h _, h _, h _⟩, fun ⟨hL, hC, hS, hK⟩ k => by cases k <;> assumption⟩

/-- What `advanceBarrier` does, by whether all have arrived. -/
theorem advanceBarrier_cases (s : State) (e : BarScope) :
    (s.AllArrived e ∧ s.advanceBarrier e = if e = .core then s.modCtx (fun c => { c with barGen := s.ctx.barGen + 1 })
      else s.setBarrier e { s.findBarrier e with gen := (s.findBarrier e).gen + 1, arrived := [] }) ∨
    (¬s.AllArrived e ∧ s.advanceBarrier e = s) := by
  unfold advanceBarrier
  by_cases he : e = .core
  · subst he
    simp only [if_true, allArrived_core, strand_forall, Ctx.str_L, Ctx.str_C, Ctx.str_S, Ctx.str_K]
    split
    · next h => exact .inl ⟨by simpa [and_assoc] using h, rfl⟩
    · next h => exact .inr ⟨by simpa [and_assoc] using h, rfl⟩
  · simp only [if_neg he, allArrived_wide he]
    split
    · next h =>
      obtain ⟨c, hc, hin⟩ := List.any_eq_true.mp h
      simp only [Bool.and_eq_true, bne_iff_ne, Bool.not_eq_true', List.contains_eq_mem, decide_eq_false_iff_not] at hin
      obtain ⟨⟨hshares, hended⟩, hout⟩ := hin
      exact .inr ⟨fun hall => hout (hall c hc hshares hended), rfl⟩
    · next h =>
      refine .inl ⟨fun c hc hshares hended => ?_, rfl⟩
      by_contra hout
      exact h (List.any_eq_true.mpr ⟨c, hc, by simp [hshares, hended, hout]⟩)

theorem advanceBarrier_strand : (s.advanceBarrier e).strand = s.strand := by
  obtain ⟨-, h⟩ | ⟨-, h⟩ := s.advanceBarrier_cases e <;> rw [h]
  split <;> rfl

theorem barGenOf_core : s.barGenOf .core = s.ctx.barGen := if_pos rfl
theorem barGenOf_wide (he : e ≠ .core) : s.barGenOf e = (s.findBarrier e).gen := if_neg he

theorem barGenOf_advanceBarrier (h : s.AllArrived e) : (s.advanceBarrier e).barGenOf e = s.barGenOf e + 1 := by
  obtain ⟨-, hs⟩ | ⟨hn, -⟩ := s.advanceBarrier_cases e
  · rw [hs]
    by_cases he : e = .core
    · subst he; rfl
    · rw [if_neg he, barGenOf_wide he, barGenOf_wide he, findBarrier_setBarrier (isBarrier_progress ..)]
  · exact absurd h hn

theorem advanceBarrier_eq_self (h : ¬s.AllArrived e) : s.advanceBarrier e = s := by
  obtain ⟨ha, -⟩ | ⟨-, hs⟩ := s.advanceBarrier_cases e
  · exact absurd ha h
  · exact hs

/-! Arriving -/

/-- A strand of a core, or an item, is counted in: the first half of `arrive`. -/
def countIn (s : State) (st : StrandId) (e : BarScope) : State :=
  let s1 := s.setArrive st e (some (s.barGenOf e))
  if e = .core then s1
  else s1.setBarrier e { s1.findBarrier e with arrived := s1.ctx.id.item.toNat :: (s1.findBarrier e).arrived }

theorem arrive_eq : s.arrive st e = (s.countIn st e).advanceBarrier e := rfl

theorem countIn_core : s.countIn st .core = s.setArrive st .core (some s.ctx.barGen) := rfl

theorem countIn_wide (he : e ≠ .core) : s.countIn st e = (s.setArrive st e (some (s.barGenOf e))).setBarrier e
    { s.findBarrier e with arrived := s.ctx.id.item.toNat :: (s.findBarrier e).arrived } := by
  unfold countIn
  rw [if_neg he, findBarrier_setArrive, setArrive_id]

theorem findBarrier_countIn (he : e ≠ .core) : (s.countIn st e).findBarrier e =
    { s.findBarrier e with arrived := s.ctx.id.item.toNat :: (s.findBarrier e).arrived } := by
  rw [countIn_wide he]
  refine findBarrier_setBarrier ?_
  rw [isBarrier_setArrive]
  exact isBarrier_progress ..

theorem barGenOf_countIn : (s.countIn st e).barGenOf e = s.barGenOf e := by
  by_cases he : e = .core
  · subst he; rw [countIn_core, barGenOf_core, barGenOf_core, setArrive, modCtx_ctx, Ctx.modStr_barGen]
  · rw [barGenOf_wide he, barGenOf_wide he, findBarrier_countIn he]

/-- With a strand counted in, a core's generation is complete when the other three are in. -/
theorem allArrived_countIn_core :
    (s.countIn st .core).AllArrived .core ↔ ∀ j, j ≠ st → (s.ctx.str j).arrived.getD 0 none = some s.ctx.barGen := by
  rw [allArrived_core, countIn_core, setArrive, modCtx_ctx, Ctx.modStr_barGen]
  refine forall_congr' fun j => ?_
  by_cases hj : j = st
  · subst hj
    simp [barScopeNo, Vector.getD]
  · simp [hj, Ctx.str_modStr_ne]

/-- With an item counted in, a wider generation is complete when every other item that takes part and has not ended is in. -/
theorem allArrived_countIn_wide (he : e ≠ .core) : (s.countIn st e).AllArrived e ↔ ∀ c ∈ s.ctx :: s.others,
    s.sharesBarrier e c = true → c.id.residency ≠ .ended → c.id.item = s.ctx.id.item ∨ c.id.item.toNat ∈ (s.findBarrier e).arrived := by
  have hshares : (s.countIn st e).sharesBarrier = s.sharesBarrier := by
    rw [countIn_wide he]
    exact sharesBarrier_setArrive _
  have hid : (s.countIn st e).ctx.id = s.ctx.id := by rw [countIn_wide he]; exact setArrive_id _
  have hothers : (s.countIn st e).others = s.others := by rw [countIn_wide he]; rfl
  have hme : s.sharesBarrier e (s.countIn st e).ctx = s.sharesBarrier e s.ctx := by simp only [sharesBarrier, hid]
  rw [allArrived_wide he, findBarrier_countIn he, hshares, hothers]
  rw [List.forall_mem_cons, List.forall_mem_cons, hme, hid]
  simp only [List.mem_cons, BitVec.toNat_inj]

/-- When the generation completes with an arrive. -/
theorem allArrived_countIn : (s.countIn st e).AllArrived e ↔
    if e = .core then ∀ j, j ≠ st → (s.ctx.str j).arrived.getD 0 none = some s.ctx.barGen
    else ∀ c ∈ s.ctx :: s.others, s.sharesBarrier e c = true → c.id.residency ≠ .ended →
      c.id.item = s.ctx.id.item ∨ c.id.item.toNat ∈ (s.findBarrier e).arrived := by
  by_cases he : e = .core
  · subst he; rw [if_pos rfl, allArrived_countIn_core]
  · rw [if_neg he, allArrived_countIn_wide he]

theorem barGenOf_arrive (h : (s.countIn st e).AllArrived e) : (s.arrive st e).barGenOf e = s.barGenOf e + 1 := by
  rw [arrive_eq, barGenOf_advanceBarrier h, barGenOf_countIn]

theorem barGenOf_arrive_early (h : ¬(s.countIn st e).AllArrived e) : (s.arrive st e).barGenOf e = s.barGenOf e := by
  rw [arrive_eq, advanceBarrier_eq_self h, barGenOf_countIn]

theorem arrive_strand : (s.arrive st e).strand = s.strand := by
  rw [arrive_eq, advanceBarrier_strand]
  unfold countIn
  split <;> rfl

end State

/-! The instructions -/

open State

variable {e sc : BarScope}

theorem arriveM_ok (h : s.strand ≠ .L ∨ s.ctx.loads = []) (hw : (s.advanceBarrier e).barWaits s.strand e = false) :
    arriveM e s = .ok () ((s.advanceBarrier e).arrive s.strand e) := by
  simp only [arriveM, bind_ok (tilesDone_ok h), bind_modify, bind_get, advanceBarrier_strand, hw, Bool.not_false, bind_check_true,
    modify_run]

theorem arriveM_blocked (h : s.strand ≠ .L ∨ s.ctx.loads = []) (hw : (s.advanceBarrier e).barWaits s.strand e = true) :
    arriveM e s = .error (.block .barrier) (s.advanceBarrier e) := by
  simp only [arriveM, bind_ok (tilesDone_ok h), bind_modify, bind_get, advanceBarrier_strand, hw, Bool.not_true, bind_check_false]

theorem barArrive_next (hA : Allowed s (.barArrive sc)) (h : s.strand ≠ .L ∨ s.ctx.loads = [])
    (hw : (s.advanceBarrier (s.barScope sc)).barWaits s.strand (s.barScope sc) = false) :
    exec (.barArrive sc) s = .next ((s.advanceBarrier (s.barScope sc)).arrive s.strand (s.barScope sc)) :=
  run_ok ((bind_ok (enter_ok hA.1 hA.2)).trans (arriveM_ok h hw))

theorem barArrive_blocks (hA : Allowed s (.barArrive sc)) (h : s.strand ≠ .L ∨ s.ctx.loads = [])
    (hw : (s.advanceBarrier (s.barScope sc)).barWaits s.strand (s.barScope sc) = true) : Blocks (.barArrive sc) s .barrier :=
  blocks_of_error rfl ((bind_ok (enter_ok hA.1 hA.2)).trans (arriveM_blocked h hw))

theorem barWait_next (hA : Allowed s (.barWait sc))
    (hw : (s.advanceBarrier (s.barScope sc)).barWaits s.strand (s.barScope sc) = false) :
    exec (.barWait sc) s = .next ((s.advanceBarrier (s.barScope sc)).setArrive s.strand (s.barScope sc) none) := by
  refine run_ok (u := ()) ((bind_ok (enter_ok hA.1 hA.2)).trans ?_)
  simp only [bind_modify, bind_get, advanceBarrier_strand, hw, Bool.not_false, bind_check_true, modify_run]

theorem barWait_blocks (hA : Allowed s (.barWait sc))
    (hw : (s.advanceBarrier (s.barScope sc)).barWaits s.strand (s.barScope sc) = true) : Blocks (.barWait sc) s .barrier := by
  refine blocks_of_error (t := s.advanceBarrier (s.barScope sc)) rfl ((bind_ok (enter_ok hA.1 hA.2)).trans ?_)
  simp only [bind_modify, bind_get, advanceBarrier_strand, hw, Bool.not_true, bind_check_false]

theorem barAw_next (hA : Allowed s (.barAw sc)) (h : s.strand ≠ .L ∨ s.ctx.loads = [])
    (hw : (s.advanceBarrier (s.barScope sc)).barWaits s.strand (s.barScope sc) = false) :
    let a := (s.advanceBarrier (s.barScope sc)).arrive s.strand (s.barScope sc)
    exec (.barAw sc) s = .next (if a.barWaits s.strand (s.barScope sc) then a.modMe (fun p => { p with barWait := some sc })
      else a.setArrive s.strand (s.barScope sc) none) := by
  refine run_ok (u := ()) ((bind_ok (enter_ok hA.1 hA.2)).trans ((bind_ok (arriveM_ok h hw)).trans ?_))
  rw [modify_run, arrive_strand, advanceBarrier_strand]

theorem barAw_blocks (hA : Allowed s (.barAw sc)) (h : s.strand ≠ .L ∨ s.ctx.loads = [])
    (hw : (s.advanceBarrier (s.barScope sc)).barWaits s.strand (s.barScope sc) = true) : Blocks (.barAw sc) s .barrier :=
  blocks_of_error rfl ((bind_ok (enter_ok hA.1 hA.2)).trans (bind_error (arriveM_blocked h hw)))

section
variable {st : StrandId}

theorem barrierRelease_idle (h : (s.ctx.str st).barWait = none) : exec (.barrierRelease st) s = .next s := by
  show execBarrierRelease st s = _
  rw [execBarrierRelease, h]

theorem barrierRelease_waits (h : (s.ctx.str st).barWait = some sc)
    (hw : (s.advanceBarrier (s.barScope sc)).barWaits st (s.barScope sc) = true) :
    exec (.barrierRelease st) s = .next (s.advanceBarrier (s.barScope sc)) := by
  show execBarrierRelease st s = _
  rw [execBarrierRelease, h]
  simp only [hw, if_true]

theorem barrierRelease_done (h : (s.ctx.str st).barWait = some sc)
    (hw : (s.advanceBarrier (s.barScope sc)).barWaits st (s.barScope sc) = false) :
    exec (.barrierRelease st) s = .next (((s.advanceBarrier (s.barScope sc)).setArrive st (s.barScope sc) none).modCtx
      (fun c => c.modStr st (fun p => { p with barWait := none }))) := by
  show execBarrierRelease st s = _
  rw [execBarrierRelease, h]
  simp only [hw, Bool.false_eq_true, if_false]

end

/-! ENG.WAIT and ENG.SEQ -/

section
variable {c : EngClass} {a d : Reg} {n : W32} {eng : Engines}

theorem classHere_eq : classHere c s = require (c == .ce || c == .mxa || s.part.hasNear) .unitAbsent s := rfl

/-- Classes 0 and 1 are on every part, classes 2 and 3 on those with near-bank units. -/
theorem classHere_ok (h : c = .ce ∨ c = .mxa ∨ s.part ≠ .sl3240m) : classHere c s = .ok () s := by
  have hhere : (c == .ce || c == .mxa || s.part.hasNear) = true := by simpa [Part.hasNear, or_assoc] using h
  rw [classHere_eq, hhere, require_true]

theorem classHere_absent (h : ¬(c = .ce ∨ c = .mxa ∨ s.part ≠ .sl3240m)) :
    classHere c s = .error (.trap .unitAbsent (s.issue.word.setWidth 64)) s := by
  have hhere : (c == .ce || c == .mxa || s.part.hasNear) = false := by simpa [Part.hasNear, and_assoc] using h
  rw [classHere_eq, hhere, require_false]

/-- For a number that has been issued, a class is busy while a command of it at or below the number is in flight. -/
theorem busy_iff (hn : (eng.last - n).toNat < 2 ^ 31) :
    eng.busy c n = true ↔ n ≠ 0 ∧ ∃ m ∈ eng.cmds, m.cls = c ∧ (n - m.seq).toNat < 2 ^ 31 := by
  unfold Engines.busy
  rw [if_neg (Nat.not_le.mpr hn)]
  simp only [Bool.and_eq_true, bne_iff_ne, List.any_eq_true, beq_iff_eq, decide_eq_true_eq]

theorem busy_zero : eng.busy c 0 = false := by simp [Engines.busy]

theorem busy_none (h : ∀ m ∈ eng.cmds, m.cls ≠ c) : eng.busy c n = false := by
  simp only [Engines.busy, Bool.and_eq_false_iff, List.any_eq_false]
  exact .inr fun m hm => by simp [h m hm]

theorem engBefore_last : s.engBefore.last = s.ctx.eng.last := by unfold State.engBefore; split <;> rfl

theorem engBefore_cmds : s.engBefore.cmds ⊆ s.ctx.eng.cmds := by
  unfold State.engBefore
  split
  · exact List.Subset.refl _
  · exact List.filter_subset_self ..

theorem engWait_next (hA : Allowed s (.engWait c a)) (hc : c = .ce ∨ c = .mxa ∨ s.part ≠ .sl3240m)
    (h : s.engBefore.busy c ((s.getX a).setWidth 32) = false) : exec (.engWait c a) s = .next s := by
  refine run_ok (u := ()) ((bind_ok (enter_ok hA.1 hA.2)).trans ((bind_ok (classHere_ok hc)).trans ?_))
  simp only [h, Bool.not_false, check_true]

theorem engWait_blocks (hA : Allowed s (.engWait c a)) (hc : c = .ce ∨ c = .mxa ∨ s.part ≠ .sl3240m) (hs : s.issue.snap = none)
    (h : s.ctx.eng.busy c ((s.getX a).setWidth 32) = true) : Blocks (.engWait c a) s .engine := by
  have hbefore : s.engBefore = s.ctx.eng := by rw [State.engBefore, hs]
  refine blocks_of_error (t := s) rfl ((bind_ok (enter_ok hA.1 hA.2)).trans ((bind_ok (classHere_ok hc)).trans ?_))
  simp only [hbefore, rd_eq_ctx hs, h, Bool.not_true, check_false, if_true]

theorem engWait_absent (hA : Allowed s (.engWait c a)) (hc : ¬(c = .ce ∨ c = .mxa ∨ s.part ≠ .sl3240m)) :
    Traps (.engWait c a) s .unitAbsent (s.issue.word.setWidth 64) :=
  traps_of_error rfl ((bind_ok (enter_ok hA.1 hA.2)).trans (bind_error (classHere_absent hc)))

/-- The number before one that is not 0: from 1 the numbers go back to the largest (05 R136). -/
theorem seqBack_one (hn : n ≠ 0) : seqBack n 1 = if n = 1 then 0xFFFFFFFF else n - 1 := by
  unfold seqBack
  by_cases h1 : n = 1
  · subst h1; rfl
  · have hlt : 1 < n.toNat := by bv_omega
    rw [if_pos hlt, if_neg h1]
    rfl

theorem engSeq_idle (hA : Allowed s (.engSeq d c)) (hc : c = .ce ∨ c = .mxa ∨ s.part ≠ .sl3240m)
    (h : s.ctx.eng.cmds.find? (fun m => m.cls == c) = none) : exec (.engSeq d c) s = .next (s.setX d (s.ctx.eng.last.setWidth 64)) := by
  refine run_ok (u := ()) ((bind_ok (enter_ok hA.1 hA.2)).trans ((bind_ok (classHere_ok hc)).trans ?_))
  simp only [h, wx_run]

theorem engSeq_oldest {o : Cmd} (hA : Allowed s (.engSeq d c)) (hc : c = .ce ∨ c = .mxa ∨ s.part ≠ .sl3240m)
    (h : s.ctx.eng.cmds.find? (fun m => m.cls == c) = some o) : exec (.engSeq d c) s =
      .next (s.setX d ((if o.seq = 1 ∧ s.ctx.eng.wrapped = false then 0 else seqBack o.seq 1).setWidth 64)) := by
  refine run_ok (u := ()) ((bind_ok (enter_ok hA.1 hA.2)).trans ((bind_ok (classHere_ok hc)).trans ?_))
  simp only [h, wx_run]

end

/-! ENG.LNCH -/

section
variable {d a : Reg} {ws : List W64} {u : State}

theorem engLnch_misaligned (hA : Allowed s (.engLnch d a)) (h : (s.getX a).toNat % 128 ≠ 0) :
    Traps (.engLnch d a) s .misaligned (s.getX a) := by
  have haligned : ((s.getX a).toNat % 128 == 0) = false := by simpa using h
  refine traps_of_error (t := s) rfl ((bind_ok (enter_ok hA.1 hA.2)).trans ?_)
  simp only [haligned, bind_check_false]

/-- The sixteen words of a launch record as they have been read. -/
def launchRecord (ws : List W64) : Vector W64 16 := Vector.ofFn (fun i : Fin 16 => ws.getD i.val 0)

/-- Once the record has been read, the status decides whether a task is added. -/
theorem engLnch_next (hA : Allowed s (.engLnch d a)) (h : (s.getX a).toNat % 128 = 0) (hl : loadWords 16 (s.getX a) s = .ok ws u) :
    exec (.engLnch d a) s = .next ((if u.launchStatus (launchRecord ws) = 0
      then u.addTask u.ctx.id.die (u.reqOf .K 0).pasid none (launchRecord ws) else u).setX d (u.launchStatus (launchRecord ws))) := by
  have haligned : ((s.getX a).toNat % 128 == 0) = true := by simpa using h
  refine run_ok (u := ()) ((bind_ok (enter_ok hA.1 hA.2)).trans ?_)
  simp only [bind_get, haligned, bind_check_true, bind_ok hl]
  unfold launchRecord
  split <;> rfl

end

end Sys2Proof.Machine

open Sys2Proof.Machine State

/-- Settles O44: an arrive is `countIn` and then `advanceBarrier`, whose cases say when the generation goes up. -/
theorem barriersAndEngineControl : Obligations.BarriersAndEngineControl := by
  refine ⟨fun s sc st => ?barriers, fun s u c d a o ws => ⟨?waitIdle, ?waitBlocks, ?waitPassed, ?waitAbsent, ?seqIdle, ?seqOldest, ?launch⟩⟩
  case barriers =>
    dsimp only
    exact ⟨fun h => barGenOf_arrive (allArrived_countIn.mpr h), fun h => barGenOf_arrive_early (mt allArrived_countIn.mp h),
      fun hA hL => ⟨barArrive_next hA hL, barArrive_blocks hA hL⟩, fun hA => ⟨barWait_next hA, barWait_blocks hA⟩,
      fun hA hL => ⟨barAw_next hA hL, barAw_blocks hA hL⟩, barrierRelease_idle,
      fun h => ⟨barrierRelease_waits h, barrierRelease_done h⟩⟩
  case waitIdle =>
    rintro hA hc (hnone | hzero)
    · exact engWait_next hA hc (busy_none fun m hm => hnone m (engBefore_cmds hm))
    · exact engWait_next hA hc (by rw [hzero, busy_zero])
  case waitBlocks =>
    exact fun hA hc hn hlast hm hs => engWait_blocks hA hc hs ((busy_iff hlast).mpr ⟨hn, hm⟩)
  case waitPassed =>
    intro hA hc hlast hdone
    refine engWait_next hA hc (Bool.eq_false_iff.mpr fun hbusy => ?_)
    obtain ⟨-, m, hm, hcls, hseq⟩ := (busy_iff (engBefore_last.symm ▸ hlast)).mp hbusy
    exact absurd hseq (Nat.not_lt.mpr (hdone m (engBefore_cmds hm) hcls))
  case waitAbsent => exact engWait_absent
  case seqIdle =>
    exact fun hA hc hnone => engSeq_idle hA hc (List.find?_eq_none.mpr fun m hm => by simpa using hnone m hm)
  case seqOldest =>
    intro hA hc ho hseq
    rw [engSeq_oldest hA hc ho, seqBack_one hseq]
  case launch =>
    intro w task hA
    refine ⟨engLnch_misaligned hA, fun h hl => ⟨fun h0 => ?added, fun h1 => ?refused⟩⟩
    case added => rw [engLnch_next hA h hl, show launchRecord ws = w from rfl, h0, if_pos rfl]; rfl
    case refused => rw [engLnch_next hA h hl, show launchRecord ws = w from rfl, if_neg h1]
end

section
/-! PROOF. O27: WD.PUSH, WD.POP and WD.STEAL (02 R48, R49; 20 R427 to R429). The victim of a steal is the least of the candidates in
the order of R49, so a fold that keeps the earlier of two ends with it. -/

namespace Sys2Proof.Machine

variable {s : State}

/-! The order of victims -/

/-- The package core number as the manual counts it: 64 cores on each die. -/
def packageCore (c : Ctx) : Nat := 64 * c.id.die + c.id.core

/-- How far two coordinates of the grid lie apart. -/
def apart (x y : Nat) : Nat := max x y - min x y

/-- The group of a victim: the own cluster, the own die, then the other dies by grid distance (02 R49). -/
def victimGroup (mine c : Ctx) : Nat :=
  if packageCore mine / 4 = packageCore c / 4 then 0 else if mine.id.die = c.id.die then 1 else
    1 + apart (mine.id.die / 8) (c.id.die / 8) + apart (mine.id.die % 8) (c.id.die % 8)

/-- A victim comes before another: by group, then by package core number, and on a core bank A before bank B (02 R49). -/
def VictimBefore (mine c e : Ctx) : Prop :=
  victimGroup mine c < victimGroup mine e ∨ (victimGroup mine c = victimGroup mine e ∧
    (packageCore c < packageCore e ∨ (packageCore c = packageCore e ∧ c.id.kind ≠ .B ∧ e.id.kind = .B)))

theorem coreNo_eq (c : Ctx) : State.coreNo c.id = packageCore c := by
  rw [State.coreNo, packageCore, Nat.mul_comm]

theorem gridDist_eq (a b : Nat) : gridDist a b = apart (a / 8) (b / 8) + apart (a % 8) (b % 8) := by
  have h : ∀ x y : Nat, (if x ≤ y then y - x else x - y) = apart x y := by
    intro x y
    unfold apart
    split <;> omega
  rw [gridDist, h, h]

theorem stealKey_group (mine c : Ctx) : (stealKey mine.id c.id).1 = victimGroup mine c := by
  simp only [stealKey, coreNo_eq, gridDist_eq, victimGroup, Nat.add_assoc]

theorem stealKey_place (mine c : Ctx) :
    (stealKey mine.id c.id).2 = packageCore c * 2 + if c.id.kind = .B then 1 else 0 := by
  simp only [stealKey, coreNo_eq]

theorem comesFirst_stealKey (mine c e : Ctx) :
    comesFirst (stealKey mine.id c.id) (stealKey mine.id e.id) = true ↔ VictimBefore mine c e := by
  have hplace : packageCore c * 2 + (if c.id.kind = .B then 1 else 0) < packageCore e * 2 + (if e.id.kind = .B then 1 else 0) ↔
      packageCore c < packageCore e ∨ (packageCore c = packageCore e ∧ c.id.kind ≠ .B ∧ e.id.kind = .B) := by
    by_cases hc : c.id.kind = .B <;> by_cases he : e.id.kind = .B <;> simp [hc, he] <;> omega
  simp only [comesFirst, stealKey_group, stealKey_place, Bool.or_eq_true, Bool.and_eq_true, decide_eq_true_eq, hplace, VictimBefore]

theorem comesFirst_asymm {a b : Nat × Nat} (h : comesFirst a b = true) : comesFirst b a = false := by
  simp only [comesFirst, Bool.or_eq_true, Bool.and_eq_true, decide_eq_true_eq] at h
  simp only [comesFirst, Bool.or_eq_false_iff, Bool.and_eq_false_iff, decide_eq_false_iff_not]
  omega

/-! The choice of a victim -/

/-- The earlier of two candidates, the one found so far first. -/
def stealPick (best : Option ((Nat × Nat) × Nat)) (v : (Nat × Nat) × Nat) : Option ((Nat × Nat) × Nat) :=
  match best with
  | none => some v
  | some b => if comesFirst v.1 b.1 then some v else some b

theorem stealPick_earlier {best : Option ((Nat × Nat) × Nat)} {x : (Nat × Nat) × Nat}
    (h : ∀ b, best = some b → comesFirst x.1 b.1 = true) : stealPick best x = some x := by
  cases best with
  | none => rfl
  | some b => exact if_pos (h b rfl)

theorem stealPick_later {x v : (Nat × Nat) × Nat} (h : v = x ∨ comesFirst x.1 v.1 = true) : stealPick (some x) v = some x := by
  rcases h with rfl | h
  · exact ite_self _
  · exact if_neg (by simp [comesFirst_asymm h])

/-- What has been picked is the candidate or what was picked before. -/
theorem stealPick_mem {best : Option ((Nat × Nat) × Nat)} {v b : (Nat × Nat) × Nat} (h : stealPick best v = some b) :
    b = v ∨ best = some b := by
  cases best with
  | none => exact .inl (Option.some.inj h).symm
  | some c =>
    unfold stealPick at h
    dsimp only at h
    split at h
    · exact .inl (Option.some.inj h).symm
    · exact .inr h

/-- A candidate that comes before every other one is picked. -/
theorem foldl_stealPick {x : (Nat × Nat) × Nat} {l : List ((Nat × Nat) × Nat)} {best : Option ((Nat × Nat) × Nat)}
    (hl : ∀ v ∈ l, v = x ∨ comesFirst x.1 v.1 = true)
    (hx : best = some x ∨ (x ∈ l ∧ ∀ b, best = some b → comesFirst x.1 b.1 = true)) : l.foldl stealPick best = some x := by
  induction l generalizing best with
  | nil => exact hx.resolve_right fun h => absurd h.1 List.not_mem_nil
  | cons v l ih =>
    obtain ⟨hv, hl⟩ := List.forall_mem_cons.mp hl
    refine ih hl ?_
    rcases hx with rfl | ⟨hmem, hbest⟩
    · exact .inl (stealPick_later hv)
    · by_cases hvx : v = x
      · subst hvx; exact .inl (stealPick_earlier hbest)
      · refine .inr ⟨(List.mem_cons.mp hmem).resolve_left (Ne.symm hvx), fun b hb => ?_⟩
        rcases stealPick_mem hb with rfl | hb
        · exact hv.resolve_left hvx
        · exact hbest b hb

namespace State

/-- An item of the acting item's gang. -/
def SharesGang (s : State) (c : Ctx) : Prop :=
  c.id.kind.isApp = true ∧ c.id.task = s.ctx.id.task ∧ c.id.gang = s.ctx.id.gang

theorem sharesGang_iff {c : Ctx} :
    (c.id.kind.isApp && c.id.task == s.ctx.id.task && c.id.gang == s.ctx.id.gang) = true ↔ s.SharesGang c := by
  simp only [SharesGang, Bool.and_eq_true, beq_iff_eq, and_assoc]

/-- The items that a WD.STEAL can take from, with their keys: those of the gang that hold an entry. -/
def stealCandidates (s : State) : List ((Nat × Nat) × Nat) :=
  (List.range s.others.length).filterMap (fun n => (s.others[n]?).bind (fun c =>
    if c.id.kind.isApp && c.id.task == s.ctx.id.task && c.id.gang == s.ctx.id.gang && !c.deque.isEmpty
    then some (stealKey s.ctx.id c.id, n) else none))

theorem stealFrom_eq : s.stealFrom = s.stealCandidates.foldl stealPick none := rfl

theorem mem_stealCandidates {v : (Nat × Nat) × Nat} : v ∈ s.stealCandidates ↔
    ∃ c, s.others[v.2]? = some c ∧ s.SharesGang c ∧ c.deque ≠ [] ∧ v.1 = stealKey s.ctx.id c.id := by
  simp only [stealCandidates, List.mem_filterMap, List.mem_range, Option.bind_eq_some_iff, Option.ite_none_right_eq_some]
  constructor
  · rintro ⟨n, -, c, hn, hmine, hv⟩
    obtain rfl := Option.some.inj hv
    obtain ⟨hshares, hdeque⟩ := Bool.and_eq_true_iff.mp hmine
    exact ⟨c, hn, sharesGang_iff.mp hshares, by simpa using hdeque, rfl⟩
  · rintro ⟨c, hn, hshares, hdeque, hkey⟩
    refine ⟨v.2, (List.getElem?_eq_some_iff.mp hn).1, c, hn, ?_, by rw [← hkey]⟩
    exact Bool.and_eq_true_iff.mpr ⟨sharesGang_iff.mpr hshares, by simpa using hdeque⟩

theorem stealFrom_none (h : ∀ c ∈ s.others, s.SharesGang c → c.deque = []) : s.stealFrom = none := by
  have hnone : s.stealCandidates = [] := by
    refine List.eq_nil_iff_forall_not_mem.mpr fun v hv => ?_
    obtain ⟨c, hn, hshares, hdeque, -⟩ := mem_stealCandidates.mp hv
    exact hdeque (h c (List.mem_of_getElem? hn) hshares)
  rw [stealFrom_eq, hnone, List.foldl_nil]

theorem stealFrom_first {n : Nat} {c : Ctx} (hn : s.others[n]? = some c) (hshares : s.SharesGang c) (hdeque : c.deque ≠ [])
    (hfirst : ∀ k e, s.others[k]? = some e → s.SharesGang e → e.deque ≠ [] → k = n ∨ VictimBefore s.ctx c e) :
    s.stealFrom = some (stealKey s.ctx.id c.id, n) := by
  rw [stealFrom_eq]
  refine foldl_stealPick (fun v hv => ?_) (.inr ⟨mem_stealCandidates.mpr ⟨c, hn, hshares, hdeque, rfl⟩, fun b hb => nomatch hb⟩)
  obtain ⟨e, hk, he, hne, hkey⟩ := mem_stealCandidates.mp hv
  rcases hfirst v.2 e hk he hne with hv2 | hbefore
  · have hec : e = c := Option.some.inj (hk.symm.trans (hv2 ▸ hn))
    exact .inl (Prod.ext (hec ▸ hkey) hv2)
  · exact .inr (hkey ▸ (comesFirst_stealKey ..).mpr hbefore)

/-! The deques that are examined, and when they take an operation -/

theorem examined_all (h : s.stealFrom = none) (c : Ctx) : s.examined c = true ↔ s.SharesGang c := by
  rw [examined, Bool.and_eq_true_iff, sharesGang_iff, h]
  exact and_iff_left rfl

theorem examined_upTo {n : Nat} {c : Ctx} (h : s.stealFrom = some (stealKey s.ctx.id c.id, n)) (e : Ctx) :
    s.examined e = true ↔ s.SharesGang e ∧ ¬VictimBefore s.ctx c e := by
  rw [examined, Bool.and_eq_true_iff, sharesGang_iff, h, ← comesFirst_stealKey]
  exact and_congr_right fun _ => by simp

/-- A core of a higher number has worked on a deque in this clk (20 R429). -/
def DequeLate (s : State) (c : Ctx) : Prop := c.dequeAt.1 = s.cycle ∧ s.here < c.dequeAt.2

theorem dequeFree_iff {c : Ctx} : s.dequeFree c = true ↔ ¬s.DequeLate c := by
  simp [dequeFree, DequeLate, imp_iff_not_or]

theorem dequeFree_false {c : Ctx} (h : s.DequeLate c) : s.dequeFree c = false :=
  Bool.eq_false_iff.mpr fun hf => dequeFree_iff.mp hf h

/-- The acting item's deque after an operation on it, which notes the clk and the core (20 R429). -/
def withDeque (s : State) (l : List (BitVec 63)) : State := s.modCtx (fun c => { c with deque := l, dequeAt := (s.cycle, s.here) })

/-- Every deque that is examined takes the operation. -/
def StealFree (s : State) : Prop := ∀ c ∈ s.others, s.examined c = true → ¬s.DequeLate c

theorem stealFree_iff : s.others.all (fun c => !s.examined c || s.dequeFree c) = true ↔ s.StealFree := by
  simp only [List.all_eq_true, Bool.or_eq_true, Bool.not_eq_true', StealFree, ← dequeFree_iff, ← Bool.not_eq_true, ← imp_iff_not_or]

/-- A deque that is examined notes the clk and the core. -/
def stampLooked (s : State) (c : Ctx) : Ctx := if s.examined c then { c with dequeAt := (s.cycle, s.here) } else c

theorem stampLooked_deque (c : Ctx) : (s.stampLooked c).deque = c.deque := by unfold stampLooked; split <;> rfl

/-- The machine once a WD.STEAL has examined the deques. -/
def withLooks (s : State) : State := { s with others := s.others.map s.stampLooked }

/-- What another context does depends on what is done to it alone. -/
theorem inOther_congr {f g : State → State} {n : Nat} (h : ∀ c, s.others[n]? = some c →
    f { s with ctx := c, others := s.others.set n s.ctx } = g { s with ctx := c, others := s.others.set n s.ctx }) :
    s.inOther n f = s.inOther n g := by
  unfold inOther
  split
  · rfl
  · next c hc => simp only [h c hc]

/-! The stores posted before a push -/

theorem foldl_eq_self {α β : Type} {f : β → α → β} {b : β} {l : List α} (h : ∀ a ∈ l, f b a = b) : l.foldl f b = b := by
  induction l with
  | nil => rfl
  | cons a l ih =>
    obtain ⟨ha, hl⟩ := List.forall_mem_cons.mp h
    rw [List.foldl_cons, ha, ih hl]

/-- A posted write of the control strand at package scope: one that a push orders (log 55). -/
def PushOrders (s : State) (p : Posted) : Prop := p.strand = .K ∧ p.target.fenceScope s.ctx.id.die ≤ 3

theorem performPushed_none (h : ∀ p ∈ s.ctx.eng.posted, ¬s.PushOrders p) : s.performPushed = s :=
  foldl_eq_self fun p hp => if_neg fun hreach => h p hp ⟨hreach.1, hreach.2.1⟩

/-- A single posted write that a push orders is performed as its own event performs it. -/
theorem performPushed_one {p : Posted} (hp : s.ctx.eng.posted = [p]) (h : s.PushOrders p) :
    exec (.postedWritePerform 0) s = .next s.performPushed := by
  show execPostedWritePerform 0 s = _
  obtain ⟨hstrand, hscope⟩ := h
  unfold execPostedWritePerform performPushed
  by_cases hheld : s.notifyHeld p.target = true
  · simp [hp, hheld]
  · simp [hp, hheld, hstrand, hscope, Scope.code, modCtx]

end State

/-! The instructions -/

open State

variable {d a : Reg} {v : BitVec 63} {rest : List (BitVec 63)}

theorem wdPush_room (hl : ¬s.DequeLate s.ctx) (hA : Allowed s (.wdPush d a)) (hroom : s.ctx.deque.length < 64) :
    exec (.wdPush d a) s = .next ((s.withDeque (BitVec.ofNat 63 (s.getX a).toNat :: s.ctx.deque)).setX d 0) := by
  refine run_ok (u := ()) ((bind_ok (enter_ok hA.1 hA.2)).trans ?_)
  simp only [dequeFree_iff.mpr hl, bind_check_true, hroom, if_true, bind_modify, wx_run]
  rfl

theorem wdPush_full (hl : ¬s.DequeLate s.ctx) (hA : Allowed s (.wdPush d a)) (hfull : 64 ≤ s.ctx.deque.length) :
    exec (.wdPush d a) s = .next ((s.withDeque s.ctx.deque).setX d 1) := by
  refine run_ok (u := ()) ((bind_ok (enter_ok hA.1 hA.2)).trans ?_)
  simp only [dequeFree_iff.mpr hl, bind_check_true, Nat.not_lt.mpr hfull, if_false, bind_modify, wx_run]
  rfl

theorem wdPop_entry (hl : ¬s.DequeLate s.ctx) (hA : Allowed s (.wdPop d)) (hd : s.ctx.deque = v :: rest) :
    exec (.wdPop d) s = .next ((s.withDeque rest).performPushed.setX d (BitVec.ofNat 64 v.toNat)) := by
  refine run_ok (u := ()) ((bind_ok (enter_ok hA.1 hA.2)).trans ?_)
  simp only [dequeFree_iff.mpr hl, bind_check_true, hd, bind_modify, wx_run, modCtx, stampDeque, List.tail_cons, BitVec.ofNat_toNat]
  rfl

theorem wdPop_empty (hl : ¬s.DequeLate s.ctx) (hA : Allowed s (.wdPop d)) (hd : s.ctx.deque = []) :
    exec (.wdPop d) s = .next ((s.withDeque []).setX d 0x8000000000000000) := by
  refine run_ok (u := ()) ((bind_ok (enter_ok hA.1 hA.2)).trans ?_)
  simp only [dequeFree_iff.mpr hl, bind_check_true, hd, bind_modify, wx_run, modCtx, stampDeque, List.tail_nil]
  rfl

/-- An operation on a deque that a core of a higher number has worked on in this clk waits (log 85). -/
theorem ownDeque_blocks {i : Instr} (hl : s.DequeLate s.ctx) (hi : i = .wdPush d a ∨ i = .wdPop d) (hA : Allowed s i) :
    Blocks i s .interlock := by
  rcases hi with rfl | rfl
  all_goals
    refine blocks_of_error (t := s) rfl ((bind_ok (enter_ok hA.1 hA.2)).trans ?_)
    simp only [dequeFree_false hl, bind_check_false]

theorem wdSteal_blocks (hf : ¬s.StealFree) (hA : Allowed s (.wdSteal d)) : Blocks (.wdSteal d) s .interlock := by
  refine blocks_of_error (t := s) rfl ((bind_ok (enter_ok hA.1 hA.2)).trans ?_)
  simp only [Bool.eq_false_iff.mpr (mt stealFree_iff.mp hf), bind_check_false]

theorem wdSteal_none (hf : s.StealFree) (hA : Allowed s (.wdSteal d)) (h : s.stealFrom = none) :
    exec (.wdSteal d) s = .next (s.withLooks.setX d 0x8000000000000000) := by
  refine run_ok (u := ()) ((bind_ok (enter_ok hA.1 hA.2)).trans ?_)
  simp only [stealFree_iff.mpr hf, bind_check_true, bind_modify, h, wx_run]
  rfl

/-- The victim gives the entry at its far end, and its posted stores are performed as its own. -/
theorem wdSteal_entry {n : Nat} {c : Ctx} {key : Nat × Nat} (hf : s.StealFree) (hA : Allowed s (.wdSteal d))
    (h : s.stealFrom = some (key, n)) (hn : s.others[n]? = some c) (hd : c.deque = rest ++ [v]) :
    exec (.wdSteal d) s = .next ((s.withLooks.inOther n (fun t =>
      (t.modCtx (fun c => { c with deque := rest })).performPushed)).setX d (BitVec.ofNat 64 v.toNat)) := by
  have hlast : c.deque.getLast? = some v := by rw [hd, List.getLast?_concat]
  have hgives : s.withLooks.inOther n (fun t => (t.modCtx (fun c => { c with deque := c.deque.dropLast })).performPushed) =
      s.withLooks.inOther n (fun t => (t.modCtx (fun c => { c with deque := rest })).performPushed) := by
    refine inOther_congr fun c' hc' => ?_
    have hlooked : c' = s.stampLooked c := by
      have hmap : s.withLooks.others[n]? = some (s.stampLooked c) := by rw [withLooks, List.getElem?_map, hn]; rfl
      exact Option.some.inj (hc'.symm.trans hmap)
    simp only [modCtx, hlooked, stampLooked_deque, hd, List.dropLast_concat]
  refine run_ok (u := ()) ((bind_ok (enter_ok hA.1 hA.2)).trans ?_)
  simp only [stealFree_iff.mpr hf, bind_check_true, bind_modify, h, hn, Option.bind_some, hlast, wx_run, BitVec.ofNat_toNat]
  rw [← hgives]
  rfl

end Sys2Proof.Machine

open Sys2Proof.Machine State

/-- Settles O27: the victim of a steal is the candidate that comes before every other one (`stealFrom_first`), and each operation is run
from there. -/
theorem workDeques : Obligations.WorkDeques := by
  intro s d a v rest own late shares core apart group first looked free
  refine ⟨fun hl => ⟨wdPush_room hl, wdPush_full hl, wdPop_entry hl, wdPop_empty hl⟩, fun hl i hi hA => ownDeque_blocks hl hi hA,
    wdSteal_blocks, fun hnone => ?noVictim, fun n c l hn hshares hdeque hfirst => ?victim, performPushed_none, fun p hp => performPushed_one hp⟩
  case noVictim =>
    have h : s.stealFrom = none := stealFrom_none hnone
    exact ⟨examined_all h, fun hf hA => wdSteal_none hf hA h⟩
  case victim =>
    have h : s.stealFrom = some (stealKey s.ctx.id c.id, n) := stealFrom_first hn hshares (by simp [hdeque]) hfirst
    exact ⟨examined_upTo h, fun hf hA => wdSteal_entry hf hA h hn hdeque⟩
end

section
/-! PROOF. O28: what a tile operand reads and where a destination is written (02 R31, R35 to R37; 11 R280). -/

namespace Sys2Proof.Machine

variable {s t : State} {v : View} {ix : IxSrc}

/-! Elements of tiles and lines -/

/-- The element at a place of a physical tile register. -/
def Compute.elem (c : Compute) (k i j : Nat) : W32 := ((c.tiles.getD k Tile.zero).getD i (Vector.replicate 64 0)).getD j 0

theorem Tile.at_put {x : Tile} {region : Nat → Nat → Bool} {f : Grid} {i j : Nat} (hi : i < 16) (hj : j < 64) :
    (x.put region f).at_ i j = if region i j then f i j else x.at_ i j := by
  simp [Tile.put, Tile.at_, Vector.getD, hi, hj]

theorem TileOp.on_eq (o : TileOp) (i : Nat) : o.on i = o.guard.getLsbD i := by
  rw [TileOp.on, bitAt, ← BitVec.testBit_toNat, Nat.testBit_eq_decide_div_mod_eq]
  rfl

theorem getD_setIfInBounds {α : Type} {n : Nat} (x : Vector α n) {p k : Nat} (hk : k < n) (a d : α) :
    (x.setIfInBounds p a).getD k d = if k = p then a else x.getD k d := by
  simp [Vector.getD, hk, Array.getElem_setIfInBounds, eq_comm]

/-! Sources -/

/-- The place in a tile of the element that a view supplies (02 R35, R36). -/
theorem viewGrid_eq (x : Tile) (v : View) (n i j : Nat) : viewGrid x v n i j = match v with
    | .whole => x.at_ i j | .row => x.at_ (n % 16) j | .col => x.at_ i (n % 64) | .diag => x.at_ i ((i + n) % 64) := by
  cases v <;> rfl

theorem settled_ok {r : Nat} (h : s.ctx.drains (some (physTile s.rd.comp.trb r)) = false) : settled r s = .ok () s := by
  simp only [settled, bind_get, h, Bool.false_and, Bool.not_false, check_true]

theorem readSrc_tile {r : BitVec 5} {m : Nat} (h : s.ctx.drains (some (physTile s.rd.comp.trb r.toNat)) = false) :
    readSrc m (.tile r v ix) s = .ok (viewGrid (s.rd.comp.tile r.toNat) v (s.rd.comp.index ix)) s := by
  unfold readSrc
  simp only [bind_ok (settled_ok h), bind_get, pure_run]

/-- Lines at the head of a load queue are those of their entries. -/
theorem filterMap_take_lines {g : LqEntry → Option Line} (hg : ∀ x, g (.line x) = some x) (ls : List Line) (es : List LqEntry) :
    ((ls.map LqEntry.line ++ es).take ls.length).filterMap g = ls := by
  rw [List.take_left' (List.length_map ..), List.filterMap_map, show g ∘ LqEntry.line = some from funext hg]
  exact List.filterMap_some

theorem takeLines_ok {q : Nat} {pk : Bool} {ls : List Line} {es : List LqEntry}
    (h : s.ctx.q.lq.getD q [] = ls.map LqEntry.line ++ es) : takeLines q ls.length pk s = .ok ls (if pk then s
      else s.modCtx (fun c => { c with q := { c.q with lq := c.q.lq.setIfInBounds q es } })) := by
  have hrest : (ls.map LqEntry.line ++ es).drop ls.length = es := List.drop_left' (List.length_map ..)
  unfold takeLines
  simp only [bind_get, h, hrest]
  rw [filterMap_take_lines fun _ => rfl]
  simp only [beq_self_eq_true, bind_check_true]
  cases pk <;> rfl

theorem readSrc_lq {q : BitVec 2} {pk : Bool} {ls : List Line} {es : List LqEntry}
    (h : s.ctx.q.lq.getD q.toNat [] = ls.map LqEntry.line ++ es) : readSrc ls.length (.lq q pk) s = .ok (lineGrid ls) (if pk then s
      else s.modCtx (fun c => { c with q := { c.q with lq := c.q.lq.setIfInBounds q.toNat es } })) := by
  unfold readSrc
  simp only [bind_ok (takeLines_ok h), pure_run]

theorem takeMq_ok {q : Nat} {pk : Bool} {e : MqEntry} {rest : List MqEntry} (h : s.ctx.q.mq.getD q [] = e :: rest)
    (he : e.clk ≠ s.cycle) : takeMq q pk s = .ok e (if pk then s
      else s.modCtx (fun c => { c with q := { c.q with mq := c.q.mq.setIfInBounds q rest } })) := by
  unfold takeMq
  simp only [bind_get, h, bne_iff_ne.mpr he, bind_check_true]
  cases pk <;> rfl

theorem readSrc_mq {q : BitVec 3} {m : Nat} {pk : Bool} {e : MqEntry} {rest : List MqEntry}
    (h : s.ctx.q.mq.getD q.toNat [] = e :: rest) (he : e.clk ≠ s.cycle) :
    readSrc m (.mq q pk) s = .ok (fun _ _ => e.value.setWidth 32) (if pk then s
      else s.modCtx (fun c => { c with q := { c.q with mq := c.q.mq.setIfInBounds q.toNat rest } })) := by
  unfold readSrc
  simp only [bind_ok (takeMq_ok h he), pure_run]

/-! Flags -/

/-- A fold that adds to a set of flags sets a bit where it was set or where one of the steps sets it. -/
theorem getLsbD_foldl {α : Type} {b : Nat} {f : Fl → α → Fl} {p : α → Prop}
    (hf : ∀ a x, (f a x).getLsbD b = true ↔ a.getLsbD b = true ∨ p x) (l : List α) (a : Fl) :
    (l.foldl f a).getLsbD b = true ↔ a.getLsbD b = true ∨ ∃ x ∈ l, p x := by
  induction l generalizing a with
  | nil => simp
  | cons x l ih => rw [List.foldl_cons, ih, hf, or_assoc]; simp

/-- The flags of a region are those of its elements (02 R37). -/
theorem getLsbD_flagsOf {region : Nat → Nat → Bool} {f : Nat → Nat → Fl} {b : Nat} : (flagsOf region f).getLsbD b = true ↔
    ∃ i j, i < 16 ∧ j < 64 ∧ region i j = true ∧ (f i j).getLsbD b = true := by
  have hone : ∀ (i : Nat) (a : Fl) (j : Nat), (if region i j then a ||| f i j else a).getLsbD b = true ↔
      a.getLsbD b = true ∨ (region i j = true ∧ (f i j).getLsbD b = true) := by
    intro i a j
    by_cases h : region i j = true <;> simp [h]
  unfold flagsOf
  rw [getLsbD_foldl (fun a i => getLsbD_foldl (hone i) (List.range 64) a), or_iff_right (by simp)]
  simp only [List.mem_range]
  constructor
  · rintro ⟨i, hi, j, hj, hr, hb⟩; exact ⟨i, j, hi, hj, hr, hb⟩
  · rintro ⟨i, j, hi, hj, hr, hb⟩; exact ⟨i, hi, j, hj, hr, hb⟩

/-! Destinations -/

/-- The machine with a region of the tile behind a name replaced: what `putTile` leaves. -/
def State.withTile (s : State) (r : Nat) (region : Nat → Nat → Bool) (f : Grid) : State :=
  let p := physTile s.rd.comp.trb r
  s.modCtx (fun c => { c with comp := { c.comp with
    tiles := c.comp.tiles.setIfInBounds p ((c.comp.tiles.getD p Tile.zero).put region f),
    tilePoison := tileMarks c.comp.tilePoison p region } })

theorem putTile_ok {r : Nat} {region : Nat → Nat → Bool} {f : Grid}
    (h : s.ctx.drains (some (physTile s.rd.comp.trb r)) = false) : putTile r region f s = .ok () (s.withTile r region f) :=
  bind_ok (settled_ok h)

/-- A write of a tile replaces the elements of its region and no other. -/
theorem withTile_elem {r : Nat} {region : Nat → Nat → Bool} {f : Grid} {k i j : Nat} (hk : k < 32) (hi : i < 16) (hj : j < 64) :
    (s.withTile r region f).ctx.comp.elem k i j =
      if k = physTile s.rd.comp.trb r ∧ region i j = true then f i j else s.ctx.comp.elem k i j := by
  unfold State.withTile Compute.elem
  simp only [State.modCtx_ctx, getD_setIfInBounds _ hk]
  by_cases hp : k = physTile s.rd.comp.trb r
  · subst hp
    simp only [if_true, true_and]
    exact Tile.at_put hi hj
  · simp only [hp, if_false, false_and]

theorem putDst_tile {o : TileOp} {r : BitVec 5} {f : Nat → Nat → W32 × Fl}
    (h : s.ctx.drains (some (physTile s.rd.comp.trb r.toNat)) = false) :
    let region := o.region s.rd.comp (.tile r v ix)
    putDst o (.tile r v ix) f s =
      .ok () ((s.withTile r.toNat region (fun i j => (f i j).1)).orFlags (flagsOf region (fun i j => (f i j).2))) := by
  unfold putDst
  simp only [bind_get, bind_ok (putTile_ok h)]
  rfl

theorem pushSq_ok {q : Nat} {ls : List Line} (hd : q = 1 ∨ s.ctx.drains none = false)
    (hl : (s.ctx.q.sq.getD q []).length + ls.length ≤ 32) : pushSq q ls s = .ok () (s.modCtx (fun c => { c with
      q := { c.q with sq := c.q.sq.setIfInBounds q (s.ctx.q.sq.getD q [] ++ ls) } })) := by
  have hdrain : (q != 0 || !s.ctx.drains none) = true := by rcases hd with rfl | h <;> simp [*]
  simp only [pushSq, bind_get, hdrain, decide_eq_true hl, bind_check_true, modify_run]

theorem putDst_sq {o : TileOp} {q : BitVec 1} {f : Nat → Nat → W32 × Fl} (hd : q = 1 ∨ s.ctx.drains none = false)
    (hl : (s.ctx.q.sq.getD q.toNat []).length + o.m ≤ 32) :
    putDst o (.sq q) f s = .ok () ((s.modCtx (fun c => { c with q := { c.q with
        sq := c.q.sq.setIfInBounds q.toNat (s.ctx.q.sq.getD q.toNat [] ++ (List.range o.m).map (rowLine o (fun i j => (f i j).1))) } })).orFlags
      (flagsOf (o.region s.rd.comp (.sq q)) (fun i j => (f i j).2))) := by
  have hq : q.toNat = 1 ∨ s.ctx.drains none = false := hd.imp_left fun h => by rw [h]; rfl
  have hpush := pushSq_ok (ls := (List.range o.m).map (rowLine o (fun i j => (f i j).1))) hq (by simpa using hl)
  unfold putDst
  simp only [bind_get, bind_ok hpush]
  rfl

/-! What a destination writes -/

/-- The elements a tile destination writes: those that its view covers in a row whose guard bit is set (02 R35, R37). -/
def TileOp.Writes (o : TileOp) (v : View) (x i j : Nat) : Prop :=
  o.guard.getLsbD i = true ∧ (match v with
    | .whole => i < o.m ∧ j < o.n | .row => i = x % 16 | .col => j = x % 64 | .diag => j = (i + x) % 64)

theorem region_tile {o : TileOp} {c : Compute} {r : BitVec 5} {i j : Nat} :
    o.region c (.tile r v ix) i j = true ↔ o.Writes v (c.index ix) i j := by
  unfold TileOp.region TileOp.Writes
  rw [Bool.and_eq_true, TileOp.on_eq, and_comm]
  refine and_congr_right fun _ => ?_
  cases v <;> simp [covers]

theorem orFlags_fflags (f : Fl) : (s.orFlags f).ctx.csr.fflags = s.ctx.csr.fflags ||| f := rfl

/-- The flags after results were written are those before and those of the elements written. -/
theorem getLsbD_fflags {region : Nat → Nat → Bool} {f : Nat → Nat → Fl} {w : Nat → Nat → Prop} {b : Nat}
    (hw : ∀ i j, region i j = true ↔ w i j) : (s.orFlags (flagsOf region f)).ctx.csr.fflags.getLsbD b = true ↔
      s.ctx.csr.fflags.getLsbD b = true ∨ ∃ i j, i < 16 ∧ j < 64 ∧ w i j ∧ (f i j).getLsbD b = true := by
  rw [orFlags_fflags, BitVec.getLsbD_or, Bool.or_eq_true, getLsbD_flagsOf]
  simp only [hw]

/-- The lines that the rows of a tile instruction push (02 R31). -/
theorem rowLines_getD {o : TileOp} {f : Grid} {i j : Nat} (hi : i < o.m) (hj : j < 64) :
    (((List.range o.m).map (rowLine o f)).getD i Line.zero).poison = 0 ∧
    (((List.range o.m).map (rowLine o f)).getD i Line.zero).data.getD j 0 =
      if o.guard.getLsbD i ∧ j < o.n then f i j else 0 := by
  have hline : ((List.range o.m).map (rowLine o f)).getD i Line.zero = rowLine o f i := by
    simp [List.getD_eq_getElem?_getD, hi]
  rw [hline]
  refine ⟨rfl, ?_⟩
  simp [rowLine, Vector.getD, hj, TileOp.on_eq]

end Sys2Proof.Machine

open Sys2Proof.Machine State

/-- Settles O28: a source reads as `readSrc_tile`, `readSrc_lq` and `readSrc_mq` say; a destination is written as `withTile_elem` and
`rowLines_getD` say, with the flags of `getLsbD_flagsOf`. -/
theorem tileOperands : Obligations.TileOperands := by
  intro s o r v ix q mq sq pk m ls es e rest f p old cur x written
  refine ⟨fun h => ⟨_, readSrc_tile h, fun i j _ _ => viewGrid_eq ..⟩, ?lines, ?scalar, ?tile, ?store⟩
  case lines =>
    rintro h rfl
    exact ⟨_, _, readSrc_lq h, fun _ _ _ => rfl, rfl⟩
  case scalar => exact fun h he => ⟨_, _, readSrc_mq h he, fun _ _ => (BitVec.ofNat_toNat ..).symm, rfl⟩
  case tile =>
    intro h
    have hw : ∀ i j, o.region s.rd.comp (.tile r v ix) i j = true ↔ written i j := fun i j => region_tile
    refine ⟨_, putDst_tile h, fun k i j hk hi hj => ⟨fun hin => ?_, fun hout => ?_⟩, fun b => getLsbD_fflags hw,
      rfl, rfl, rfl, rfl, rfl, sameBytes_of rfl rfl rfl⟩
    · exact (withTile_elem hk hi hj).trans (if_pos (hin.imp_right (hw i j).mpr))
    · exact (withTile_elem hk hi hj).trans (if_neg fun hin => hout (hin.imp_right (hw i j).mp))
  case store =>
    intro hd hl
    exact ⟨_, _, putDst_sq hd hl, (getD_setIfInBounds _ sq.isLt _ _).trans (if_pos rfl), by simp,
      fun i j hi hj => rowLines_getD hi hj, rfl, rfl, sameBytes_of rfl rfl rfl⟩
end

section
/-! PROOF. O29: the element-wise tile instructions and VCMP (20 R404 to R423). The forms of one, two and three sources complete as
`tile1_ok`, `tile2_ok` and `tile3_ok` say; VCMP gathers its comparisons in the bits of a number. -/

namespace Sys2Proof.Machine

variable {s u1 u2 t : State} {h : TileHd} {g : Grant}

theorem bitAt_toNat {w : Nat} (x : BitVec w) (i : Nat) : bitAt x.toNat i = x.getLsbD i := by
  rw [bitAt, ← BitVec.testBit_toNat, Nat.testBit_eq_decide_div_mod_eq]
  rfl

/-! A number made of bits -/

/-- The number whose bits below a bound are those of a predicate. -/
def bitSum (p : Nat → Bool) (n : Nat) : Nat := (List.range n).foldl (fun a i => a + (if p i then 2 ^ i else 0)) 0

theorem bitSum_succ (p : Nat → Bool) (n : Nat) : bitSum p (n + 1) = bitSum p n + (if p n then 2 ^ n else 0) := by
  simp [bitSum, List.range_succ]

theorem bitSum_lt (p : Nat → Bool) (n : Nat) : bitSum p n < 2 ^ n := by
  induction n with
  | zero => exact Nat.one_pos
  | succ n ih =>
    rw [bitSum_succ, Nat.pow_succ]
    split <;> omega

theorem testBit_bitSum (p : Nat → Bool) {n i : Nat} (hi : i < n) : (bitSum p n).testBit i = p i := by
  induction n with
  | zero => omega
  | succ n ih =>
    have hlow := bitSum_lt p n
    have hsum : bitSum p (n + 1) = 2 ^ n * (p n).toNat + bitSum p n := by
      rw [bitSum_succ]
      cases p n <;> simp [Nat.add_comm]
    rw [hsum, Nat.testBit_two_pow_mul_add _ hlow]
    rcases Nat.lt_succ_iff_lt_or_eq.mp hi with hlt | rfl
    · rw [if_pos hlt, ih hlt]
    · rw [if_neg (Nat.lt_irrefl i), Nat.sub_self]
      cases p i <;> rfl

/-! VCMP -/

/-- The predicate bits after a comparison: those whose guard bit is set are replaced (20 R411). -/
def comparedBits (o : TileOp) (old : W16) (r : Nat → Bool) : W16 :=
  BitVec.ofNat 16 (bitSum (fun i => if o.on i then r i else bitAt old.toNat i) 16)

theorem getLsbD_comparedBits (o : TileOp) (old : W16) (r : Nat → Bool) {i : Nat} (hi : i < 16) :
    (comparedBits o old r).getLsbD i = if o.guard.getLsbD i then r i else old.getLsbD i := by
  rw [comparedBits, BitVec.getLsbD_ofNat, testBit_bitSum _ hi, TileOp.on_eq, bitAt_toNat]
  simp [hi]

/-- The compute state after a comparison. -/
def Compute.compared (k : Compute) (o : TileOp) (pd : BitVec 4) (r : Nat → Bool) : Compute :=
  k.setPred pd (comparedBits o (k.preds.getD pd.toNat 0) r)

/-- A comparison that may start and whose operands can be read writes the bits of Pd. -/
theorem exec_vcmp {pd : BitVec 4} {ta tb : TSrc} {c : Cond} {x y : Grid} (hs : Starts s (.vcmp h pd ta tb c) g) (hn : h.np = 0)
    (ht : numericType g.ty = true) (ha : TSrc.view ta = some .col) (hb : TSrc.view tb = some .col ∨ TSrc.view tb = none)
    (h1 : readSrc g.m ta s = .ok x u1) (h2 : readSrc g.m tb u1 = .ok y u2) :
    exec (.vcmp h pd ta tb c) s = .next (u2.modCtx (fun k => { k with
      comp := k.comp.compared (tileOpOf s h g) pd (fun i => (tileOpOf s h g).env.compare c (x i 0) (y i 0)) })) := by
  have hviews : (TSrc.view ta == some .col && (TSrc.view tb == some .col || TSrc.view tb == none)) = true := by
    rcases hb with hb | hb <;> simp [ha, hb]
  refine run_ok (u := ()) ?_
  rw [bind_ok (startTile_ok hs (by simp [hn]) rfl ht hviews)]
  exact (bind_ok h1).trans ((bind_ok h2).trans rfl)

section
variable (k : Compute) (o : TileOp) {pd : BitVec 4} (r : Nat → Bool)

theorem compared_tiles : (k.compared o pd r).tiles = k.tiles := by
  unfold Compute.compared Compute.setPred; split <;> rfl

theorem compared_slots : (k.compared o pd r).slots = k.slots := by
  unfold Compute.compared Compute.setPred; split <;> rfl

theorem compared_preds {n : Nat} (hn : n < 16) : (k.compared o pd r).preds.getD n 0 =
    if pd ≠ 0 ∧ n = pd.toNat then comparedBits o (k.preds.getD pd.toNat 0) r else k.preds.getD n 0 := by
  unfold Compute.compared Compute.setPred
  by_cases hp : pd = 0
  · simp [hp]
  · simp only [hp, if_false, ne_eq, not_false_eq_true, true_and]
    exact getD_setIfInBounds _ hn _ _

/-- Other predicates stay, and a write of P0 is discarded. -/
theorem compared_preds_other {n : Nat} (hn : n < 16) (h : n ≠ pd.toNat ∨ pd = 0) :
    (k.compared o pd r).preds.getD n 0 = k.preds.getD n 0 := by
  rw [compared_preds k o r hn, if_neg]
  rintro ⟨hp, he⟩
  exact h.elim (· he) hp

theorem compared_bit (hp : pd ≠ 0) {i : Nat} (hi : i < 16) : ((k.compared o pd r).preds.getD pd.toNat 0).getLsbD i =
    if o.guard.getLsbD i then r i else (k.preds.getD pd.toNat 0).getLsbD i := by
  rw [compared_preds k o r pd.isLt, if_pos ⟨hp, rfl⟩, getLsbD_comparedBits o _ r hi]

end

/-! The forms of one, two and three sources -/

section
variable {i : Instr} {td : TDst} {ta tb tc : TSrc} {types : EType → Bool} {x y z : Grid}

theorem completes1 {f : ElemEnv → W32 → W32 × Fl} (he : exec i s = run (tile1 i h td ta types f) s) (hs : Starts s i g) (hn : h.np = 0)
    (ht : types g.ty = true) (hf : fits td [ta] = true) (h1 : readSrc g.m ta s = .ok x u1)
    (h2 : putDst (tileOpOf s h g) td (fun r c => f (tileOpOf s h g).env (x r c)) u1 = .ok () t) : exec i s = .next t :=
  he.trans (tile1_ok hs hn ht hf h1 h2)

theorem completes2 {f : ElemEnv → Nat → W32 → W32 → W32 × Fl} (he : exec i s = run (tile2 i h td ta tb types f) s) (hs : Starts s i g)
    (hn : h.np = 0) (ht : types g.ty = true) (hf : fits td [ta, tb] = true) (h1 : readSrc g.m ta s = .ok x u1)
    (h2 : readSrc g.m tb u1 = .ok y u2)
    (h3 : putDst (tileOpOf s h g) td (fun r c => f (tileOpOf s h g).env r (x r c) (y r c)) u2 = .ok () t) : exec i s = .next t :=
  he.trans (tile2_ok hs hn ht hf h1 h2 h3)

end

end Sys2Proof.Machine

open Sys2Proof.Machine State

/-- Settles O29: each form is one of `tile1_ok`, `tile2_ok` and `tile3_ok`; the bits of VCMP are those of `getLsbD_comparedBits`. -/
theorem elementWiseInstructions : Obligations.ElementWiseInstructions := by
  refine ⟨?elements, ?compare⟩
  case elements =>
    intro s u1 u2 u3 t h td ta tb tc g x y z ps fn code to_ o v one two
    refine ⟨completes2 (f := fun v _ => v.add) rfl, completes2 (f := fun v _ => v.sub) rfl, completes2 (f := fun v _ => v.mul) rfl,
      completes2 (f := fun v _ => v.min) rfl, completes2 (f := fun v _ => v.max) rfl, completes2 (f := fun v _ => v.addSat) rfl,
      completes2 (f := fun v _ => v.subSat) rfl, completes2 (f := fun v _ => v.mulSat) rfl, completes2 (f := fun _ _ a b => (a &&& b, 0)) rfl,
      completes2 (f := fun _ _ a b => (a ||| b, 0)) rfl, completes2 (f := fun _ _ a b => (a ^^^ b, 0)) rfl,
      completes2 (f := fun _ _ a b => (a &&& ~~~b, 0)) rfl, completes2 (f := fun v _ a b => (shiftContainer v.ty true false a b, 0)) rfl,
      completes2 (f := fun v _ a b => (shiftContainer v.ty false false a b, 0)) rfl,
      completes2 (f := fun v _ a b => (shiftContainer v.ty false true a b, 0)) rfl, ?select, ?fused, completes1 (f := ElemEnv.abs) rfl,
      completes1 (f := ElemEnv.neg) rfl, completes1 (f := fun _ a => (a, 0)) rfl, completes1 (f := fun v => v.special fn) rfl,
      ?convert, ?unfit⟩
    case select =>
      intro hs hn ht hf h1 h2 h3
      refine completes2 rfl hs hn ht hf h1 h2 ?_
      simpa only [bitAt_toNat] using h3
    case fused =>
      intro hs hn ht hf h1 h2 h3 h4
      exact tile3_ok hs hn ht hf h1 h2 h3 h4
    case convert =>
      intro hc hb hs hn ht hf h1 h2
      have htypes : (numericType g.ty && (EType.ofCode code).any numericType) = true := by
        rw [ht, hc]
        simp [numericType, hb]
      refine completes1 rfl hs hn htypes hf h1 ?_
      simpa only [hc, Option.getD_some] using h2
    case unfit =>
      intro hs hn hf
      refine traps_of_error (t := s) (m := tile2 _ h td ta tb numericType (fun v _ a b => v.add a b)) rfl ?_
      unfold tile2
      rw [hf]
      exact bind_error (startTile_noFit hs (by simp [hn]) rfl)
  case compare =>
    intro s u1 u2 h pd ta tb c g x y o hs hn ht ha hb h1 h2
    exact ⟨_, exec_vcmp hs hn ht ha hb h1 h2, rfl, compared_tiles .., compared_slots .., fun k hk hp => compared_preds_other _ _ _ hk hp,
      fun hp i hi => compared_bit _ _ _ hp hi⟩
end

section
/-! PROOF. O33: pair instructions and reductions (03 R76 to R82; 18 R338, R339; 20 R409, R417, R418). Their checks pass as `startTile_ok`
says; then they read their operands in order and write. -/

namespace Sys2Proof.Machine

variable {s u1 u2 u3 t : State} {i : Instr} {h : TileHd} {g : Grant} {td : TDst} {ta tb tc : TSrc} {x y : Grid} {p q r : Grid × Grid}

theorem pairM_ok {op : PairOp} (hs : Starts s i g) (hn : h.np = 0) (ht : wideFloat g.ty = true) (hf : fits td [ta, tb] = true)
    (hp : pairDst s.rd.comp.trb td = true) (h1 : readSrc g.m ta s = .ok x u1) (h2 : readSrc g.m tb u1 = .ok y u2)
    (h3 : putPair (tileOpOf s h g) td (fun r c => exactPair g.ty op (x r c) (y r c)) u2 = .ok () t) :
    pairM i h td ta tb op s = .ok () t := by
  unfold pairM
  rw [bind_get, bind_ok (startTile_ok hs (by simp [hn]) hp ht hf)]
  exact (bind_ok h1).trans ((bind_ok h2).trans h3)

/-- A destination that is no pair (02 R43). -/
theorem pairM_noPair {op : PairOp} (hs : Starts s i g) (hn : h.np = 0) (hp : pairDst s.rd.comp.trb td = false) :
    pairM i h td ta tb op s = .error (.trap .illegalPair (s.issue.word.setWidth 64)) s := by
  unfold pairM
  rw [bind_get, hp, bind_error (startTile_noPair hs.1 (by simp [hn]))]

/-- The pair operand that a double-word form lacks is +0. -/
def noPair : Grid × Grid := (fun _ _ => 0, fun _ _ => 0)

/-- Reads a pair operand, where the form has it. -/
def readPair? (m : Nat) (t : Option TSrc) : M (Grid × Grid) :=
  match t with
  | some t => readPair m t
  | none => pure noPair

theorem doubleM_ok {op : DwOp} {b c : Option TSrc} (hs : Starts s i g) (hn : h.np = 0) (ht : g.ty = .fp32)
    (hf : fits td (ta :: (b.toList ++ c.toList)) = true) (hd : pairDst s.rd.comp.trb td = true)
    (hp : (ta :: (b.toList ++ c.toList)).all (pairSrc s.rd.comp.trb) = true) (h1 : readPair g.m ta s = .ok p u1)
    (h2 : readPair? g.m b u1 = .ok q u2) (h3 : readPair? g.m c u2 = .ok r u3)
    (h4 : putPair (tileOpOf s h g) td (fun i j => doubleWord op (p.1 i j, p.2 i j) (q.1 i j, q.2 i j) (r.1 i j, r.2 i j)) u3 = .ok () t) :
    doubleM i h td op ta b c s = .ok () t := by
  have hpairs : (pairDst s.rd.comp.trb td && (ta :: (b.toList ++ c.toList)).all (pairSrc s.rd.comp.trb)) = true := by
    rw [hd, hp, Bool.and_self]
  unfold doubleM
  rw [bind_get, bind_ok (startTile_ok hs (by simp [hn]) hpairs (by simp [ht]) hf)]
  exact (bind_ok h1).trans ((bind_ok h2).trans ((bind_ok h3).trans h4))

section
variable {rows : Bool}

theorem reduceM_ok {types : EType → Bool} {f : EType → Bool → List W32 → W32 × Fl} (hs : Starts s i g) (hn : h.np = 0 ∨ h.np = 5)
    (ht : types g.ty = true) (hv : reduceViews td ta rows = true) (h1 : readSrc g.m ta s = .ok x u1)
    (h2 : putRegion (tileOpOf s h g) td (reduceRegion (tileOpOf s h g) u1.rd.comp td rows)
      (fun i j => f g.ty (h.np = 5) (reduced (tileOpOf s h g) rows x (if rows then i else j))) u1 = .ok () t) :
    reduceM i h td ta rows types f s = .ok () t := by
  unfold reduceM
  rw [bind_ok (startTile_ok hs (by simpa using hn) rfl ht hv)]
  exact (bind_ok h1).trans h2

theorem reduceCaddM_ok (hs : Starts s i g) (hn : h.np = 0) (ht : wideFloat g.ty = true) (hd : pairDst s.rd.comp.trb td = true)
    (hv : reduceViews td ta rows = true) (h1 : readSrc g.m ta s = .ok x u1)
    (h2 : putPairRegion td (reduceRegion (tileOpOf s h g) s.rd.comp td rows)
      (fun i j => reduceCadd g.ty (reduced (tileOpOf s h g) rows x (if rows then i else j))) u1 = .ok () t) :
    reduceCaddM i h td ta rows s = .ok () t := by
  unfold reduceCaddM
  rw [bind_get, bind_ok (startTile_ok hs (by simp [hn]) hd ht hv)]
  exact (bind_ok h1).trans h2

end

end Sys2Proof.Machine

open Sys2Proof.Machine State

/-- Settles O33: a form runs as `pairM_ok`, `doubleM_ok`, `reduceM_ok` or `reduceCaddM_ok` says; a destination that is no pair stops
it as `pairM_noPair` says. -/
theorem pairsAndReductions : Obligations.PairsAndReductions := by
  intro s u1 u2 u3 t h td ta tb tc g x y p q r rows o trb z exact_ dw row region redu
  have hexact : ∀ {i op}, exec i s = run (pairM i h td ta tb op) s → exact_ i op := fun he hs hn ht hf =>
    ⟨fun hp h1 h2 h3 => he.trans (run_ok (pairM_ok hs hn ht hf hp h1 h2 h3)), fun hp => traps_of_error he (pairM_noPair hs hn hp)⟩
  have htwo : ∀ {i op}, exec i s = run (doubleM i h td op ta (some tb) none) s → dw i op 2 := by
    intro i op he hs hn ht hf hd hp h1 h2 h3 h4
    obtain rfl : u3 = u2 := h3
    exact he.trans (run_ok (doubleM_ok hs hn ht hf hd hp h1 h2 rfl h4))
  have hredu : ∀ {i j types f}, (∀ b, exec (if b then i else j) s = run (reduceM (if b then i else j) h td ta b types f) s) →
      redu i j types (f g.ty (decide (h.np = 5))) := by
    intro i j types f he hs hn ht hv h1 h2
    refine (he rows).trans (run_ok (reduceM_ok hs hn ht hv h1 ?_))
    exact h2
  refine ⟨hexact rfl, hexact rfl, hexact rfl, htwo rfl, htwo rfl, ?fused, ?normal, hredu (f := reduceAdd) fun b => ?_,
    hredu (f := fun t _ l => (reducePick t false l, 0)) fun b => ?_, hredu (f := fun t _ l => (reducePick t true l, 0)) fun b => ?_, ?sums⟩
  case fused =>
    intro hs hn ht hf hd hp h1 h2 h3 h4
    exact run_ok (doubleM_ok hs hn ht hf hd hp h1 h2 h3 h4)
  case normal =>
    intro hs hn ht hf hd hp h1 h2 h3 h4
    obtain rfl : u2 = u1 := h2
    obtain rfl : u3 = u2 := h3
    exact run_ok (doubleM_ok hs hn ht hf hd hp h1 rfl rfl h4)
  case sums =>
    intro k hs hn ht hd hv h1 h2
    have he : exec k s = run (reduceCaddM k h td ta rows) s := by
      cases rows <;> rfl
    exact he.trans (run_ok (reduceCaddM_ok hs hn ht hd hv h1 h2))
  all_goals cases b <;> rfl
end

section
/-! PROOF. O30: integer elements (03 R60, R67, R74; 20 R406 to R408, R415, R423). The value of an element is congruent to its bits, so
wrapping results follow from congruences; the lanes of a shift are the digits of a sum. -/

namespace Sys2Proof.Machine

variable {t : EType}

/-! The value of an integer element -/

theorem EType.bits_pos (t : EType) : 0 < t.bits := by cases t <;> decide

theorem EType.bits_le (t : EType) : t.bits ≤ 32 := by cases t <;> decide

theorem elemBits_lt (t : EType) (c : W32) : elemBits t c < 2 ^ t.bits := Nat.mod_lt _ (Nat.two_pow_pos _)

theorem intOf_mod (t : EType) (b : Nat) : intOf t (b % 2 ^ t.bits) = intOf t b := by simp only [intOf, Nat.mod_mod]

/-- A signed element is its bits in two's complement (03 R60). -/
theorem intOf_signed (hs : t.signed = true) (b : Nat) : intOf t b = (BitVec.ofNat t.bits b).toInt := by
  have hw := Nat.two_pow_pred_mul_two t.bits_pos
  rw [BitVec.toInt_eq_toNat_cond, BitVec.toNat_ofNat]
  simp only [intOf, hs, Bool.true_and, decide_eq_true_eq]
  split_ifs <;> omega

theorem intOf_unsigned (hs : t.signed = false) (b : Nat) : intOf t b = (b % 2 ^ t.bits : Nat) := by
  simp [intOf, hs]

theorem intOf_eq (t : EType) (b : Nat) : intOf t b =
    if t.signed then (BitVec.ofNat t.bits b).toInt else ((b % 2 ^ t.bits : Nat) : Int) := by
  cases hs : t.signed
  · simp [intOf_unsigned hs]
  · simp [intOf_signed hs]

theorem intOf_modEq (t : EType) (b : Nat) : intOf t b ≡ (b % 2 ^ t.bits : Nat) [ZMOD (2 ^ t.bits : Nat)] := by
  simp only [intOf]
  split
  · exact (Int.modEq_sub_modulus_iff.mpr rfl).symm
  · rfl

/-- Integers that are congruent to the same number have its bits. -/
theorem intBits_of_modEq {x : Int} {n : Nat} (h : x ≡ n [ZMOD (2 ^ t.bits : Nat)]) : intBits t x = n % 2 ^ t.bits := by
  rw [intBits, h, ← Int.natCast_mod, Int.toNat_natCast]

theorem natCast_sub_modEq {w n : Nat} (h : n ≤ w) : ((w - n : Nat) : Int) ≡ -(n : Int) [ZMOD (w : Nat)] := by
  rw [Nat.cast_sub h, Int.modEq_iff_dvd]
  exact ⟨-1, by ring⟩

theorem intBits_lt (t : EType) (x : Int) : intBits t x < 2 ^ t.bits := by
  have hpos : (0 : Int) < ((2 ^ t.bits : Nat) : Int) := by exact_mod_cast Nat.two_pow_pos _
  have := Int.emod_lt_of_pos x hpos
  have := Int.emod_nonneg x hpos.ne'
  unfold intBits
  omega

theorem lt_of_lt_bits {n : Nat} (h : n < 2 ^ t.bits) : n < 2 ^ 32 := lt_of_lt_of_le h (Nat.pow_le_pow_right (by decide) t.bits_le)

theorem toNat_ofNat_of_lt_bits {n : Nat} (h : n < 2 ^ t.bits) : (BitVec.ofNat 32 n).toNat = n := by
  rw [BitVec.toNat_ofNat, Nat.mod_eq_of_lt (lt_of_lt_bits h)]

/-- An integer of a type's range is the value of its bits. -/
theorem intOf_intBits {x : Int} (h1 : (intRange t).1 ≤ x) (h2 : x ≤ (intRange t).2) :
    intOf t (intBits t x) = x := by
  have hw := Nat.two_pow_pred_mul_two t.bits_pos
  cases hs : t.signed
  · simp only [intRange, hs, Bool.false_eq_true, if_false] at h1 h2
    rw [intOf_unsigned hs, Nat.mod_eq_of_lt (intBits_lt t x), intBits, Int.emod_eq_of_lt h1 (by omega), Int.toNat_of_nonneg h1]
  · simp only [intRange, hs, if_true] at h1 h2
    have hof : BitVec.ofNat t.bits (intBits t x) = BitVec.ofInt t.bits x := by
      apply BitVec.eq_of_toNat_eq
      rw [BitVec.toNat_ofNat, Nat.mod_eq_of_lt (intBits_lt t x), BitVec.toNat_ofInt, intBits]
    rw [intOf_signed hs, hof, BitVec.toInt_ofInt]
    exact Int.bmod_eq_of_le (by omega) (by omega)

/-- The bits of the two integer elements determine them. -/
theorem elemBits_inj {a b : W32} (h : intOf t a.toNat = intOf t b.toNat) : elemBits t a = elemBits t b := by
  have hab : ((elemBits t a : Nat) : Int) ≡ (elemBits t b : Nat) [ZMOD (2 ^ t.bits : Nat)] :=
    (intOf_modEq t a.toNat).symm.trans ((congrArg (· % _) h).trans (intOf_modEq t b.toNat))
  have := Int.natCast_modEq_iff.mp hab
  rwa [Nat.ModEq, Nat.mod_eq_of_lt (elemBits_lt t a), Nat.mod_eq_of_lt (elemBits_lt t b)] at this

/-! Clamping -/

/-- An exact integer, or the nearer end of a range that it lies outside. -/
def clampTo (r : Int × Int) (x : Int) : Int := if x < r.1 then r.1 else if r.2 < x then r.2 else x

theorem intRange_le (t : EType) : (intRange t).1 ≤ (intRange t).2 := by cases t <;> decide

theorem clampInt_eq (t : EType) (x : Int) : clampInt t x =
    (intBits t (clampTo (intRange t) x), if x < (intRange t).1 ∨ (intRange t).2 < x then Fl.sat else 0) := by
  have hle := intRange_le t
  simp only [clampInt, clampTo]
  split
  · simp [*]
  · split <;> simp_all

theorem clampTo_mem {r : Int × Int} (h : r.1 ≤ r.2) (x : Int) : r.1 ≤ clampTo r x ∧ clampTo r x ≤ r.2 := by
  unfold clampTo
  split_ifs <;> omega

/-- A saturating result is the clamped integer, with SAT where it was clamped (03 R75). -/
theorem container_clampInt (t : EType) (x : Int) : let r := container (clampInt t x)
    intOf t r.1.toNat = clampTo (intRange t) x ∧ r.1.toNat < 2 ^ t.bits ∧
      r.2 = if x < (intRange t).1 ∨ (intRange t).2 < x then Fl.sat else 0 := by
  have hlt := intBits_lt t (clampTo (intRange t) x)
  obtain ⟨h1, h2⟩ := clampTo_mem (intRange_le t) x
  simp only [container, clampInt_eq, toNat_ofNat_of_lt_bits hlt]
  exact ⟨intOf_intBits h1 h2, hlt, trivial⟩

/-- The ends of a type's range as the rules write them (03 R60). -/
theorem intRange_eq (t : EType) : intRange t = (if t.signed then -(2 ^ (t.bits - 1) : Int) else 0,
    if t.signed then 2 ^ (t.bits - 1) - 1 else 2 ^ t.bits - 1) := by
  cases t <;> rfl

/-! Order -/

theorem pickElem_least (ht : t.isInt = true) (ftz : Bool) (a b : W32) : pickElem t ftz true a b =
    BitVec.ofNat 32 (if intOf t b.toNat < intOf t a.toNat then elemBits t b else elemBits t a) := by
  unfold pickElem
  rcases lt_or_ge (intOf t b.toNat) (intOf t a.toNat) with h | h
  · simp [ht, h, not_le.mpr h]
  · simp [ht, h, not_lt.mpr h]

theorem pickElem_most (ht : t.isInt = true) (ftz : Bool) (a b : W32) : pickElem t ftz false a b =
    BitVec.ofNat 32 (if intOf t a.toNat < intOf t b.toNat then elemBits t b else elemBits t a) := by
  unfold pickElem
  rcases lt_trichotomy (intOf t a.toNat) (intOf t b.toNat) with h | h | h
  · simp [ht, h, h.le]
  · simp [ht, h, elemBits_inj h]
  · simp [ht, not_le.mpr h, not_lt.mpr h.le]

/-! Lanes -/

/-- The number whose digits, w bits each, are given. -/
def laneSum (w : Nat) (d : Nat → Nat) (n : Nat) : Nat := (List.range n).foldl (fun a i => a + d i * 2 ^ (w * i)) 0

theorem laneSum_succ (w : Nat) (d : Nat → Nat) (n : Nat) : laneSum w d (n + 1) = laneSum w d n + d n * 2 ^ (w * n) := by
  simp [laneSum, List.range_succ]

theorem laneSum_lt {w : Nat} {d : Nat → Nat} (hd : ∀ i, d i < 2 ^ w) (n : Nat) : laneSum w d n < 2 ^ (w * n) := by
  induction n with
  | zero => exact Nat.one_pos
  | succ n ih =>
    have htop : (d n + 1) * 2 ^ (w * n) ≤ 2 ^ w * 2 ^ (w * n) := Nat.mul_le_mul_right _ (hd n)
    rw [laneSum_succ, Nat.mul_succ, Nat.pow_add, Nat.mul_comm (2 ^ (w * n))]
    rw [Nat.add_mul] at htop
    omega

theorem laneSum_lane {w : Nat} {d : Nat → Nat} (hd : ∀ i, d i < 2 ^ w) {n i : Nat} (hi : i < n) :
    laneSum w d n / 2 ^ (w * i) % 2 ^ w = d i := by
  induction n with
  | zero => omega
  | succ n ih =>
    rw [laneSum_succ]
    rcases Nat.lt_succ_iff_lt_or_eq.mp hi with hlt | rfl
    · obtain ⟨k, rfl⟩ := Nat.exists_eq_add_of_lt hlt
      have hsplit : d (i + k + 1) * 2 ^ (w * (i + k + 1)) = 2 ^ (w * i) * (2 ^ w * (d (i + k + 1) * 2 ^ (w * k))) := by
        rw [show w * (i + k + 1) = w * i + (w + w * k) by ring, Nat.pow_add, Nat.pow_add]
        ring
      rw [hsplit, Nat.add_mul_div_left _ _ (Nat.two_pow_pos _), Nat.add_mul_mod_self_left]
      exact ih hlt
    · rw [Nat.add_mul_div_right _ _ (Nat.two_pow_pos _), Nat.div_eq_of_lt (laneSum_lt hd i), Nat.zero_add, Nat.mod_eq_of_lt (hd i)]

theorem shiftLane_left {w x k : Nat} : BitVec.ofNat w (shiftLane w true false x k) = BitVec.ofNat w x <<< k := by
  apply BitVec.eq_of_toNat_eq
  simp only [shiftLane, if_true, BitVec.toNat_ofNat, BitVec.toNat_shiftLeft, Nat.shiftLeft_eq]
  rw [Nat.mod_mul_mod]
  split
  · next h => exact (Nat.mod_eq_zero_of_dvd (Dvd.dvd.mul_left (Nat.pow_dvd_pow 2 h) x)).symm ▸ Nat.zero_mod _
  · rw [Nat.mod_mod]

theorem div_two_pow_of_le {w x k : Nat} (hx : x < 2 ^ w) (hk : w ≤ k) : x / 2 ^ k = 0 :=
  Nat.div_eq_of_lt (lt_of_lt_of_le hx (Nat.pow_le_pow_right (by decide) hk))

theorem shiftLane_right {w x k : Nat} (hx : x < 2 ^ w) : BitVec.ofNat w (shiftLane w false false x k) = BitVec.ofNat w x >>> k := by
  apply BitVec.eq_of_toNat_eq
  have hdiv : x / 2 ^ k < 2 ^ w := lt_of_le_of_lt (Nat.div_le_self ..) hx
  simp only [shiftLane, Bool.false_and, Bool.false_eq_true, if_false, BitVec.toNat_ofNat, BitVec.toNat_ushiftRight,
    Nat.shiftRight_eq_div_pow, Nat.mod_eq_of_lt hx]
  split
  · next h => rw [div_two_pow_of_le hx h, Nat.zero_mod]
  · rw [Nat.mod_eq_of_lt hdiv]

theorem shiftLane_arith {w x k : Nat} (hx : x < 2 ^ w) :
    BitVec.ofNat w (shiftLane w false true x k) = (BitVec.ofNat w x).sshiftRight k := by
  have hmsb : (BitVec.ofNat w x).msb = decide (2 ^ (w - 1) ≤ x) := by
    rw [BitVec.msb_eq_decide, BitVec.toNat_ofNat, Nat.mod_eq_of_lt hx]
  by_cases htop : 2 ^ (w - 1) ≤ x
  · rw [BitVec.sshiftRight_eq_of_msb_true (by simp [hmsb, htop])]
    apply BitVec.eq_of_toNat_eq
    simp only [shiftLane, htop, ge_iff_le, decide_true, Bool.true_and, Bool.false_eq_true, if_true, if_false, BitVec.toNat_ofNat,
      BitVec.toNat_not, BitVec.toNat_ushiftRight, Nat.shiftRight_eq_div_pow, Nat.mod_eq_of_lt hx]
    have hpow := Nat.two_pow_pos w
    split
    · next h => rw [div_two_pow_of_le (by omega) h, Nat.mod_eq_of_lt (by omega), Nat.sub_zero]
    · next h =>
      have hsplit : 2 ^ w = 2 ^ k * 2 ^ (w - k) := by rw [← Nat.pow_add, Nat.add_sub_cancel' (by omega)]
      have hlt : x < 2 ^ k * 2 ^ (w - k) := hsplit ▸ hx
      have hquot : x / 2 ^ k < 2 ^ (w - k) := Nat.div_lt_of_lt_mul hlt
      have hle : 2 ^ (w - k) ≤ 2 ^ w := Nat.pow_le_pow_right (by decide) (Nat.sub_le ..)
      have hcompl : (2 ^ w - 1 - x) / 2 ^ k = 2 ^ (w - k) - (x / 2 ^ k + 1) := by
        rw [← Nat.mul_sub_div _ _ _ hlt, ← hsplit, Nat.sub_sub, Nat.add_comm 1]
      rw [hcompl, Nat.mod_eq_of_lt (by omega)]
      generalize x / 2 ^ k = q at hquot ⊢
      omega
  · rw [BitVec.sshiftRight_eq_of_msb_false (by simp [hmsb, htop]), ← shiftLane_right hx]
    simp [shiftLane, htop]

theorem shiftLane_lt {w : Nat} {left arith : Bool} {x k : Nat} (hx : x < 2 ^ w) : shiftLane w left arith x k < 2 ^ w := by
  have hpow := Nat.two_pow_pos w
  have hdiv : x / 2 ^ k ≤ x := Nat.div_le_self ..
  unfold shiftLane
  split
  · split
    · exact hpow
    · exact Nat.mod_lt _ hpow
  · split
    · split
      · omega
      · have hsplit : 2 ^ w = 2 ^ k * 2 ^ (w - k) := by rw [← Nat.pow_add, Nat.add_sub_cancel' (by omega)]
        have hquot : x / 2 ^ k < 2 ^ (w - k) := Nat.div_lt_of_lt_mul (hsplit ▸ hx)
        have hle : 2 ^ (w - k) ≤ 2 ^ w := Nat.pow_le_pow_right (by decide) (Nat.sub_le ..)
        omega
    · split <;> omega

/-- A lane of a shifted container is the shift of that lane (20 R423). -/
theorem shiftContainer_lane {left arith : Bool} (a b : W32) {i : Nat} (hi : i < 32 / t.bits) :
    BitVec.ofNat t.bits ((shiftContainer t left arith a b).toNat / 2 ^ (t.bits * i)) = BitVec.ofNat t.bits
      (shiftLane t.bits left arith (a.toNat / 2 ^ (t.bits * i) % 2 ^ t.bits) (b.toNat / 2 ^ (t.bits * i) % 2 ^ t.bits)) := by
  have hd : ∀ i, shiftLane t.bits left arith (a.toNat / 2 ^ (t.bits * i) % 2 ^ t.bits) (b.toNat / 2 ^ (t.bits * i) % 2 ^ t.bits) <
      2 ^ t.bits := fun i => shiftLane_lt (Nat.mod_lt _ (Nat.two_pow_pos _))
  have hsize : 2 ^ (t.bits * (32 / t.bits)) = 2 ^ 32 := by cases t <;> rfl
  have hsum := laneSum_lt hd (32 / t.bits)
  apply BitVec.eq_of_toNat_eq
  rw [BitVec.toNat_ofNat, BitVec.toNat_ofNat, Nat.mod_eq_of_lt (hd i)]
  refine (congrArg (· / _ % _) ?_).trans (laneSum_lane hd hi)
  exact (BitVec.toNat_ofNat ..).trans (Nat.mod_eq_of_lt (lt_of_lt_of_eq hsum hsize))

/-! The element operations -/

namespace ElemEnv
variable {v : ElemEnv} (hv : v.ty.isInt = true)
include hv

theorem arith_int {fi : Int → Int → Int → Int} {ff : FVal → FVal → FVal → FVal} {a b c : W32} {n : Nat}
    (h : fi (intOf v.ty a.toNat) (intOf v.ty b.toNat) (intOf v.ty c.toNat) ≡ n [ZMOD (2 ^ v.ty.bits : Nat)]) :
    v.arith fi ff a b c = (BitVec.ofNat 32 (n % 2 ^ v.ty.bits), 0) := by
  rw [arith, if_pos hv, intBits_of_modEq h, container]

theorem arithSat_int (fi : Int → Int → Int) (ff : FVal → FVal → FVal) (a b : W32) :
    v.arithSat fi ff a b = container (clampInt v.ty (fi (intOf v.ty a.toNat) (intOf v.ty b.toNat))) := by
  rw [arithSat, if_pos hv]

theorem abs_int (a : W32) : v.abs a = (BitVec.ofNat 32 ((intOf v.ty a.toNat).natAbs % 2 ^ v.ty.bits), 0) := by
  rw [abs, if_pos hv, intBits_of_modEq Int.ModEq.rfl, container]

theorem neg_int (a : W32) : v.neg a = (BitVec.ofNat 32 ((2 ^ v.ty.bits - a.toNat % 2 ^ v.ty.bits) % 2 ^ v.ty.bits), 0) := by
  have hcong := natCast_sub_modEq (elemBits_lt v.ty a).le
  rw [neg, if_pos hv, zero_sub, intBits_of_modEq ((intOf_modEq v.ty a.toNat).neg.trans hcong.symm), container]
  rfl

end ElemEnv

end Sys2Proof.Machine

open Sys2Proof Sys2Proof.Machine

/-- Settles O30: wrapping results follow from the congruence `intOf_modEq`, saturating ones from `container_clampInt`, and a lane of a
shift is `shiftContainer_lane`. -/
theorem integerElements : Obligations.IntegerElements := by
  intro v a b c i w A B C num lo hi clamped lane
  have hnum : ∀ n, n < 2 ^ w → num n = intOf v.ty n := fun n hn => by
    rw [intOf_eq, Nat.mod_eq_of_lt hn]
  have hval : ∀ x : W32, num (x.toNat % 2 ^ w) = intOf v.ty x.toNat := fun x => (hnum _ (elemBits_lt v.ty x)).trans (intOf_mod ..)
  have hlane : ∀ x : W32, BitVec.ofNat w (x.toNat / 2 ^ (w * i) % 2 ^ w) = lane x := fun x =>
    BitVec.eq_of_toNat_eq (by simp [lane])
  have hdigit : ∀ x : W32, x.toNat / 2 ^ (w * i) % 2 ^ w < 2 ^ w := fun x => Nat.mod_lt _ (Nat.two_pow_pos w)
  have hamount : b.toNat / 2 ^ (w * i) % 2 ^ w = (lane b).toNat := (BitVec.toNat_ofNat ..).symm
  have hclamp : ∀ {r e}, r = container (clampInt v.ty e) → clamped r e := fun {r e} hr => by
    subst hr
    obtain ⟨hv, hlt, hfl⟩ := container_clampInt v.ty e
    rw [intRange_eq] at hv hfl
    exact ⟨(hnum _ hlt).trans hv, hlt, hfl⟩
  have hA := intOf_modEq v.ty a.toNat
  have hB := intOf_modEq v.ty b.toNat
  have hC := intOf_modEq v.ty c.toNat
  have hminus : (((2 ^ w - B : Nat) : Int)) ≡ -(B : Int) [ZMOD (2 ^ w : Nat)] := natCast_sub_modEq (elemBits_lt v.ty b).le
  refine ⟨fun _ hi => ⟨?left, ?right, ?arith⟩, fun ht => ⟨?abs, ?neg, ?add, ?sub, ?mul, ?fma, ?addSat, ?subSat, ?mulSat, ?min, ?max⟩⟩
  case left => exact (shiftContainer_lane a b hi).trans (by rw [shiftLane_left, hlane, hamount])
  case right => exact (shiftContainer_lane a b hi).trans (by rw [shiftLane_right (hdigit a), hlane, hamount])
  case arith => exact (shiftContainer_lane a b hi).trans (by rw [shiftLane_arith (hdigit a), hlane, hamount])
  case abs => rw [v.abs_int ht, hval]
  case neg => exact v.neg_int ht a
  case add => exact v.arith_int ht (by push_cast; exact hA.add hB)
  case sub => exact v.arith_int ht (by rw [Nat.cast_add]; exact (hA.sub hB).trans (Int.ModEq.rfl.add hminus.symm))
  case mul => exact v.arith_int ht (by rw [Nat.cast_mul]; exact hA.mul hB)
  case fma => exact v.arith_int ht (by rw [Nat.cast_add, Nat.cast_mul]; exact (hA.mul hB).add hC)
  case addSat => rw [hval, hval]; exact hclamp (v.arithSat_int ht ..)
  case subSat => rw [hval, hval]; exact hclamp (v.arithSat_int ht ..)
  case mulSat => rw [hval, hval]; exact hclamp (v.arithSat_int ht ..)
  case min => rw [hval, hval]; exact congrArg (·, 0) (pickElem_least ht v.ftz a b)
  case max => rw [hval, hval]; exact congrArg (·, 0) (pickElem_most ht v.ftz a b)
end

section
/-! PROOF. O31, first part: comparisons of exact values, and the rounding to a grid (03 R68). A magnitude is m × 2^e; what `ratCmp`,
`rootCmp` and the words of the statements say of such numbers are comparisons of rationals. -/

namespace Sys2Proof.Machine

/-! Magnitudes as rationals -/

theorem compare_congr {α β : Type} [LinearOrder α] [LinearOrder β] {a b : α} {c d : β} (hlt : a < b ↔ c < d) (hgt : b < a ↔ d < c) :
    compare a b = compare c d := by
  rcases lt_trichotomy a b with h | h | h
  · rw [compare_lt_iff_lt.mpr h, compare_lt_iff_lt.mpr (hlt.mp h)]
  · have hcd : c = d := le_antisymm (not_lt.mp fun h' => (hgt.mpr h').ne' h) (not_lt.mp fun h' => (hlt.mpr h').ne h)
    rw [compare_eq_iff_eq.mpr h, compare_eq_iff_eq.mpr hcd]
  · rw [compare_gt_iff_gt.mpr h, compare_gt_iff_gt.mpr (hgt.mp h)]

theorem cast_shift {b e : Int} (h : b ≤ e) (m : Nat) : ((m * 2 ^ (e - b).toNat : Nat) : ℚ) = m * 2 ^ e / 2 ^ b := by
  rw [mul_div_assoc, ← zpow_sub₀ two_ne_zero, Nat.cast_mul, Nat.cast_pow, ← zpow_natCast, Int.toNat_of_nonneg (by omega)]
  rfl

theorem shift_lt_iff {b e g : Int} (he : b ≤ e) (hg : b ≤ g) (m n : Nat) :
    m * 2 ^ (e - b).toNat < n * 2 ^ (g - b).toNat ↔ (m : ℚ) * 2 ^ e < n * 2 ^ g := by
  rw [← Nat.cast_lt (α := ℚ), cast_shift he, cast_shift hg, div_lt_div_iff_of_pos_right (by positivity)]

theorem shift_eq_iff {b e g : Int} (he : b ≤ e) (hg : b ≤ g) (m n : Nat) :
    m * 2 ^ (e - b).toNat = n * 2 ^ (g - b).toNat ↔ (m : ℚ) * 2 ^ e = n * 2 ^ g := by
  rw [← Nat.cast_inj (R := ℚ), cast_shift he, cast_shift hg, div_left_inj' (by positivity)]

theorem compare_shift {b e g : Int} (he : b ≤ e) (hg : b ≤ g) (m n : Nat) :
    compare (m * 2 ^ (e - b).toNat) (n * 2 ^ (g - b).toNat) = compare ((m : ℚ) * 2 ^ e) (n * 2 ^ g) :=
  compare_congr (shift_lt_iff he hg m n) (shift_lt_iff hg he n m)

/-- A number of half units compared with p / d × 2^e. -/
theorem ratCmp_eq (p d : Nat) (e q : Int) (k : Nat) : ratCmp p d e q k = compare (((k * d : Nat) : ℚ) * 2 ^ (q - 1)) (p * 2 ^ e) :=
  compare_shift (min_le_right ..) (min_le_left ..) _ _

/-- The square of a number of half units compared with p / d × 2^e. -/
theorem rootCmp_eq (p d : Nat) (e q : Int) (k : Nat) :
    rootCmp p d e q k = compare (((k * k * d : Nat) : ℚ) * 2 ^ (2 * (q - 1))) (p * 2 ^ e) :=
  compare_shift (min_le_right ..) (min_le_left ..) _ _

theorem half_units (q : Int) (k : Nat) : ((2 * k * 1 : Nat) : ℚ) * 2 ^ (q - 1) = k * 2 ^ q := by
  rw [zpow_sub_one₀ two_ne_zero]
  push_cast
  ring

/-- A number of units compared with m × 2^e. -/
theorem ratCmp_units (m : Nat) (e q : Int) (k : Nat) : ratCmp m 1 e q (2 * k) = compare ((k : ℚ) * 2 ^ q) (m * 2 ^ e) := by
  rw [ratCmp_eq, half_units]

/-- The leading bit of a magnitude. -/
theorem leadOf_le {m : Nat} (hm : m ≠ 0) (e : Int) : (2 : ℚ) ^ leadOf m e ≤ m * 2 ^ e := by
  rw [leadOf, add_comm, zpow_add₀ two_ne_zero, zpow_natCast]
  refine mul_le_mul_of_nonneg_right ?_ (by positivity)
  exact_mod_cast Nat.log2_self_le hm

theorem lt_leadOf (m : Nat) (e : Int) : (m : ℚ) * 2 ^ e < 2 ^ (leadOf m e + 1) := by
  rw [leadOf, add_assoc, add_comm, zpow_add₀ two_ne_zero]
  refine mul_lt_mul_of_pos_right ?_ (by positivity)
  exact_mod_cast Nat.lt_log2_self

/-! Rounding to a grid -/

/-- Whether a rounding goes away from zero, from the quotient and the remainder by the unit, given its half (03 R68). -/
def roundsUp (mode : Rnd) (neg : Bool) (lo rem half : Nat) : Bool :=
  match mode with
  | .rne => decide (rem > half) || (rem == half && lo % 2 == 1)
  | .rtz => false
  | .rup => !neg && rem != 0
  | .rdn => neg && rem != 0

/-- The multiple of a unit that a mode gives, from the quotient and the remainder. -/
def roundQuot (mode : Rnd) (neg : Bool) (lo rem half : Nat) : Nat := if roundsUp mode neg lo rem half then lo + 1 else lo

theorem roundsUp_exact (mode : Rnd) (neg : Bool) (lo : Nat) {half : Nat} (h : 0 < half) : roundsUp mode neg lo 0 half = false := by
  cases mode <;> simp [roundsUp, h.ne]

variable {mode : Rnd} {neg : Bool}

section
variable {h rem : Nat} (lo : Nat) (hrem : rem < 2 * h)

/-- Half units compared with a magnitude of which the quotient and the remainder by the unit are given. -/
def halfCmp (h lo rem k : Nat) : Ordering := compare (k * h) (2 * (lo * h) + rem)

include hrem

theorem near_inward : halfCmp h lo rem (2 * lo) ≠ .gt ∧ halfCmp h lo rem (2 * lo + 2) = .gt := by
  simp only [halfCmp, ne_eq, compare_gt_iff_gt, Nat.add_mul, Nat.mul_assoc]
  omega

theorem near_outward : let n := if rem = 0 then lo else lo + 1
    halfCmp h lo rem (2 * n) ≠ .lt ∧ (n = 0 ∨ halfCmp h lo rem (2 * n - 2) = .lt) := by
  have hup : (lo + 1) * h = lo * h + h := Nat.succ_mul ..
  simp only [halfCmp, ne_eq, compare_lt_iff_lt, Nat.sub_mul, Nat.mul_assoc]
  split
  · rcases Nat.eq_zero_or_pos lo with rfl | hlo
    · simp [*]
    · have := Nat.mul_pos hlo (show 0 < h by omega)
      omega
  · omega

theorem near_nearest : let n := roundQuot .rne neg lo rem h
    (n = 0 ∨ halfCmp h lo rem (2 * n - 1) ≠ .gt) ∧ halfCmp h lo rem (2 * n + 1) ≠ .lt ∧
      ((0 < n ∧ halfCmp h lo rem (2 * n - 1) = .eq) ∨ halfCmp h lo rem (2 * n + 1) = .eq → n % 2 = 0) := by
  have hup : (lo + 1) * h = lo * h + h := Nat.succ_mul ..
  have hpos : 0 < lo → h ≤ lo * h := Nat.le_mul_of_pos_left h
  simp only [halfCmp, roundQuot, roundsUp, ne_eq, compare_gt_iff_gt, compare_lt_iff_lt, compare_eq_iff_eq, gt_iff_lt, Nat.sub_mul,
    Nat.add_mul (2 * _), Nat.mul_assoc, Nat.one_mul, Bool.or_eq_true, Bool.and_eq_true, decide_eq_true_eq, beq_iff_eq]
  split
  · omega
  · omega

theorem near_roundQuot (mode : Rnd) (neg : Bool) : Near mode neg (halfCmp h lo rem) (roundQuot mode neg lo rem h) := by
  have hin := near_inward lo hrem
  have hout := near_outward lo hrem
  have haway : roundQuot .rup false lo rem h = if rem = 0 then lo else lo + 1 := by
    by_cases hz : rem = 0 <;> simp [roundQuot, roundsUp, hz]
  cases mode with
  | rne => exact near_nearest lo hrem
  | rtz => exact hin
  | rup =>
    cases neg with
    | true => exact hin
    | false => rw [haway]; exact hout
  | rdn =>
    cases neg with
    | false => exact hin
    | true => rw [show roundQuot .rdn true lo rem h = _ from haway]; exact hout

theorem roundQuot_exact_iff (mode : Rnd) (neg : Bool) : rem = 0 ↔ halfCmp h lo rem (2 * roundQuot mode neg lo rem h) = .eq := by
  have hup : (lo + 1) * h = lo * h + h := Nat.succ_mul ..
  rw [halfCmp, compare_eq_iff_eq, Nat.mul_assoc]
  constructor
  · rintro rfl
    rw [roundQuot, roundsUp_exact mode neg lo (by omega)]
    rfl
  · unfold roundQuot
    split <;> omega

end

theorem roundQuot_le (mode : Rnd) (neg : Bool) (lo rem h : Nat) :
    lo ≤ roundQuot mode neg lo rem h ∧ roundQuot mode neg lo rem h ≤ lo + 1 := by
  unfold roundQuot
  split <;> omega

/-- What a rounding to a grid does: the magnitude is divided by the unit of the grid. -/
theorem roundGrid_quot (mode : Rnd) (neg : Bool) (m : Nat) (e q : Int) : ∃ h lo rem, rem < 2 * h ∧
    ratCmp m 1 e q = halfCmp h lo rem ∧ roundGrid mode neg m e q = (roundQuot mode neg lo rem h, rem != 0) ∧
    (rem = 0 ∨ e < q) := by
  by_cases hq : q ≤ e
  · refine ⟨1, m * 2 ^ (e - q).toNat, 0, by decide, ?_, ?_, .inl rfl⟩
    · funext k
      have hexp : (e - (q - 1)).toNat = (e - q).toNat + 1 := by omega
      simp only [ratCmp, halfCmp, min_eq_right (show q - 1 ≤ e by omega), sub_self, hexp]
      congr 1
      · simp
      · rw [Nat.pow_succ]
        ring
    · rw [roundGrid, if_pos hq, roundQuot, roundsUp_exact mode neg _ Nat.one_pos]
      rfl
  · have hexp : (q - e).toNat = (q - 1 - e).toNat + 1 := by omega
    have hunit : 2 ^ (q - e).toNat = 2 * 2 ^ (q - 1 - e).toNat := by rw [hexp, Nat.pow_succ']
    refine ⟨2 ^ (q - 1 - e).toNat, m / 2 ^ (q - e).toNat, m % 2 ^ (q - e).toNat, ?_, ?_, ?_, .inr (not_le.mp hq)⟩
    · rw [← hunit]
      exact Nat.mod_lt _ (Nat.two_pow_pos _)
    · funext k
      have hdiv : 2 * (m / 2 ^ (q - e).toNat * 2 ^ (q - 1 - e).toNat) + m % 2 ^ (q - e).toNat = m := by
        rw [← Nat.mul_assoc, Nat.mul_comm 2, Nat.mul_assoc, ← hunit, Nat.div_add_mod']
      simp only [ratCmp, halfCmp, min_eq_left (show e ≤ q - 1 by omega), sub_self, Int.toNat_zero, pow_zero, mul_one, hdiv]
    · rw [roundGrid, if_neg hq, hexp]
      cases mode <;> rfl

/-- The multiple of the grid is the one that the mode names (03 R68). -/
theorem near_roundGrid (mode : Rnd) (neg : Bool) (m : Nat) (e q : Int) : Near mode neg (ratCmp m 1 e q) (roundGrid mode neg m e q).1 := by
  obtain ⟨h, lo, rem, hrem, hcmp, hr, -⟩ := roundGrid_quot mode neg m e q
  rw [hcmp, hr]
  exact near_roundQuot lo hrem mode neg

/-- A rounding to a grid is exact where the magnitude is the multiple it gives. -/
theorem roundGrid_exact_iff (mode : Rnd) (neg : Bool) (m : Nat) (e q : Int) :
    (roundGrid mode neg m e q).2 = false ↔ ratCmp m 1 e q (2 * (roundGrid mode neg m e q).1) = .eq := by
  obtain ⟨h, lo, rem, hrem, hcmp, hr, -⟩ := roundGrid_quot mode neg m e q
  rw [hcmp, hr, ← roundQuot_exact_iff lo hrem mode neg]
  exact bne_eq_false_iff_eq

/-- A rounding does not pass a multiple of the grid that the magnitude reaches. -/
theorem le_roundGrid {m c : Nat} {e q : Int} (h : (c : ℚ) * 2 ^ q ≤ m * 2 ^ e) : c ≤ (roundGrid mode neg m e q).1 := by
  have hc : ratCmp m 1 e q (2 * c) ≠ .gt := by rwa [ratCmp_units, ne_eq, compare_gt_iff_gt, not_lt]
  obtain ⟨u, lo, rem, hrem, hcmp, hr, -⟩ := roundGrid_quot mode neg m e q
  rw [hr]
  refine le_trans ?_ (roundQuot_le mode neg lo rem u).1
  rw [hcmp, halfCmp, ne_eq, compare_gt_iff_gt, Nat.mul_assoc] at hc
  by_contra hlt
  have := Nat.mul_le_mul_right u (Nat.not_le.mp hlt)
  rw [Nat.succ_mul] at this
  omega

theorem roundGrid_le {m c : Nat} {e q : Int} (h : (m : ℚ) * 2 ^ e < c * 2 ^ q) : (roundGrid mode neg m e q).1 ≤ c := by
  have hc : ratCmp m 1 e q (2 * c) = .gt := by rwa [ratCmp_units, compare_gt_iff_gt]
  obtain ⟨u, lo, rem, hrem, hcmp, hr, -⟩ := roundGrid_quot mode neg m e q
  rw [hr]
  refine le_trans (roundQuot_le mode neg lo rem u).2 ?_
  rw [hcmp, halfCmp, compare_gt_iff_gt, Nat.mul_assoc] at hc
  by_contra hlt
  have := Nat.mul_le_mul_right u (Nat.lt_succ_iff.mp (Nat.not_le.mp hlt))
  omega

/-- A magnitude that is a multiple of the grid is rounded to itself. -/
theorem roundGrid_of_le {m : Nat} {e q : Int} (h : q ≤ e) : roundGrid mode neg m e q = (m * 2 ^ (e - q).toNat, false) := if_pos h

end Sys2Proof.Machine
end

section
/-! PROOF. O31, second part: formats, exact sums and products, and the rounding to a format (03 R59 to R72). A bit pattern is its sign,
its exponent field and its fraction field; `roundMag` is taken apart into what an overflow, a result on the subnormal grid and a normal
result are. -/

namespace Sys2Proof.Machine

namespace FFmt

/-- What every format of R61 has: a fraction, and an exponent field of at least two bits. -/
structure Usual (f : FFmt) : Prop where
  fb_pos : 0 < f.fb
  eb_two : 2 ≤ f.eb

variable {f : FFmt}

/-! The fields of a bit pattern -/

section
variable {x y : Nat} (hx : x < 2 ^ f.eb) (hy : y < 2 ^ f.fb)
include hx hy

theorem fields_lt : x * 2 ^ f.fb + y < 2 ^ (f.fb + f.eb) := by
  have := Nat.mul_le_mul_right (2 ^ f.fb) (Nat.succ_le_of_lt hx)
  rw [Nat.succ_mul] at this
  rw [Nat.pow_add, Nat.mul_comm (2 ^ f.fb)]
  omega

theorem expOf_fields (neg : Bool) : f.expOf (f.signBit neg + (x * 2 ^ f.fb + y)) = x := by
  have hsplit : f.signBit neg + (x * 2 ^ f.fb + y) = y + 2 ^ f.fb * (x + 2 ^ f.eb * neg.toNat) := by
    cases neg <;> simp [signBit, Nat.pow_add] <;> ring
  rw [hsplit, expOf, Nat.add_mul_div_left _ _ (Nat.two_pow_pos _), Nat.div_eq_of_lt hy, Nat.zero_add, Nat.add_mul_mod_self_left,
    Nat.mod_eq_of_lt hx]

omit hx in
theorem fracOf_fields (neg : Bool) : f.fracOf (f.signBit neg + (x * 2 ^ f.fb + y)) = y := by
  have hsplit : f.signBit neg + (x * 2 ^ f.fb + y) = y + 2 ^ f.fb * (x + 2 ^ f.eb * neg.toNat) := by
    cases neg <;> simp [signBit, Nat.pow_add] <;> ring
  rw [hsplit, fracOf, Nat.add_mul_mod_self_left, Nat.mod_eq_of_lt hy]

theorem negOf_fields (neg : Bool) : f.negOf (f.signBit neg + (x * 2 ^ f.fb + y)) = neg := by
  have hlt := fields_lt hx hy
  have hpos := Nat.two_pow_pos (f.fb + f.eb)
  cases neg
  · simp [negOf, signBit, Nat.div_eq_of_lt hlt]
  · simp [negOf, signBit, Nat.add_div_left _ hpos, Nat.div_eq_of_lt hlt]

theorem fields_size (neg : Bool) : f.signBit neg + (x * 2 ^ f.fb + y) < 2 ^ (f.eb + f.fb + 1) := by
  have hlt := fields_lt hx hy
  rw [show f.eb + f.fb + 1 = f.fb + f.eb + 1 by omega, Nat.pow_succ]
  cases neg <;> simp [signBit] <;> omega

end

/-- A pattern with an exponent field of zero is a subnormal number or a zero. -/
theorem decode_subnormal {y : Nat} (hy : y < 2 ^ f.fb) (neg : Bool) : f.decode (f.signBit neg + y) = .num neg y (f.emin - f.fb) := by
  have hx : 0 < 2 ^ f.eb := Nat.two_pow_pos _
  have hexp := expOf_fields hx hy neg
  have hfrac := fracOf_fields (x := 0) hy neg
  have hneg := negOf_fields hx hy neg
  rw [Nat.zero_mul, Nat.zero_add] at hexp hfrac hneg
  rw [decode, hexp, hfrac, hneg]
  rfl

/-- A pattern whose exponent field is neither zero nor that of the special values is a normal number. -/
theorem decode_normal {x y : Nat} (hx : x < 2 ^ f.eb) (hy : y < 2 ^ f.fb) (hx0 : 0 < x)
    (htop : x = 2 ^ f.eb - 1 → f.hasInf = false ∧ y ≠ 2 ^ f.fb - 1) (neg : Bool) :
    f.decode (f.signBit neg + (x * 2 ^ f.fb + y)) = .num neg (2 ^ f.fb + y) (x - f.bias - f.fb) := by
  rw [decode, expOf_fields hx hy neg, fracOf_fields hy neg, negOf_fields hx hy neg]
  have hz : (x == 0) = false := by simp [hx0.ne']
  have hi : (x == 2 ^ f.eb - 1 && f.hasInf) = false := by
    by_cases h : x = 2 ^ f.eb - 1 <;> simp [h, htop]
  have hn : (x == 2 ^ f.eb - 1 && y == 2 ^ f.fb - 1) = false := by
    by_cases h : x = 2 ^ f.eb - 1
    · simp [(htop h).2]
    · simp [h]
  simp [hz, hi, hn]

/-- The fields of a pattern make it up. -/
theorem fields_eq {b : Nat} (hb : b < 2 ^ (f.eb + f.fb + 1)) : b = f.signBit (f.negOf b) + (f.expOf b * 2 ^ f.fb + f.fracOf b) := by
  have hsize : 2 ^ (f.eb + f.fb + 1) = 2 * 2 ^ (f.fb + f.eb) := by rw [Nat.pow_succ', Nat.add_comm f.eb]
  have hhigh : b / 2 ^ (f.fb + f.eb) < 2 := Nat.div_lt_of_lt_mul (by rwa [Nat.mul_comm, ← hsize])
  have hsign : f.signBit (f.negOf b) = 2 ^ (f.fb + f.eb) * (b / 2 ^ (f.fb + f.eb)) := by
    have hcases : b / 2 ^ (f.fb + f.eb) = 0 ∨ b / 2 ^ (f.fb + f.eb) = 1 :=
      Nat.le_one_iff_eq_zero_or_eq_one.mp (Nat.lt_succ_iff.mp hhigh)
    rcases hcases with h | h <;> simp [signBit, negOf, h]
  have hdig : b / 2 ^ f.fb = 2 ^ f.eb * (b / 2 ^ (f.fb + f.eb)) + f.expOf b := by
    rw [Nat.pow_add, ← Nat.div_div_eq_div_mul]
    exact (Nat.div_add_mod ..).symm
  calc b = 2 ^ f.fb * (b / 2 ^ f.fb) + f.fracOf b := (Nat.div_add_mod ..).symm
    _ = 2 ^ f.fb * (2 ^ f.eb * (b / 2 ^ (f.fb + f.eb)) + f.expOf b) + f.fracOf b := by rw [← hdig]
    _ = _ := by rw [hsign, Nat.pow_add]; ring

theorem expOf_lt (f : FFmt) (b : Nat) : f.expOf b < 2 ^ f.eb := Nat.mod_lt _ (Nat.two_pow_pos _)
theorem fracOf_lt (f : FFmt) (b : Nat) : f.fracOf b < 2 ^ f.fb := Nat.mod_lt _ (Nat.two_pow_pos _)

/-- The value of a pattern, read from its fields (03 R61). -/
theorem decode_eq (f : FFmt) (b : Nat) : f.decode b =
    if f.expOf b = 0 then .num (f.negOf b) (f.fracOf b) (f.emin - f.fb)
    else if f.expOf b = 2 ^ f.eb - 1 ∧ f.hasInf = true then (if f.fracOf b = 0 then .inf (f.negOf b) else .nan)
    else if f.expOf b = 2 ^ f.eb - 1 ∧ f.fracOf b = 2 ^ f.fb - 1 then .nan
    else .num (f.negOf b) (2 ^ f.fb + f.fracOf b) (f.expOf b - f.bias - f.fb) := by
  simp [decode]

/-! The special values -/

section
variable (hf : f.Usual) (neg : Bool)
include hf

theorem Usual.four_le : 4 ≤ 2 ^ f.eb := Nat.pow_le_pow_right (by decide : 0 < 2) hf.eb_two
theorem Usual.two_le : 2 ≤ 2 ^ f.fb := Nat.pow_le_pow_right (by decide : 0 < 2) hf.fb_pos

omit hf in
/-- The fields of an infinity. -/
theorem infBits_eq : f.infBits neg = f.signBit neg + ((2 ^ f.eb - 1) * 2 ^ f.fb + 0) := rfl

/-- The fields of the canonical NaN (03 R62). -/
theorem Usual.canonNaN_eq : f.canonNaN = f.signBit false + ((2 ^ f.eb - 1) * 2 ^ f.fb + if f.hasInf then 2 ^ (f.fb - 1) else 2 ^ f.fb - 1) := by
  have h4 := hf.four_le
  have hmul := Nat.mul_le_mul_right (2 ^ f.fb) (show 1 ≤ 2 ^ f.eb by omega)
  have h2 := hf.two_le
  cases hi : f.hasInf
  · simp only [canonNaN, signBit, hi, Bool.false_eq_true, if_false, Nat.pow_add, Nat.sub_mul]
    omega
  · simp [canonNaN, signBit, hi]

/-- The fields of the largest finite value (03 R61). -/
theorem Usual.maxBits_eq : f.maxBits neg = f.signBit neg +
    (if f.hasInf then (2 ^ f.eb - 2) * 2 ^ f.fb + (2 ^ f.fb - 1) else (2 ^ f.eb - 1) * 2 ^ f.fb + (2 ^ f.fb - 2)) := by
  have h4 := hf.four_le
  have hmul := Nat.mul_le_mul_right (2 ^ f.fb) h4
  have h2 := hf.two_le
  cases hi : f.hasInf
  · simp only [maxBits, hi, Bool.false_eq_true, if_false, Nat.pow_add, Nat.sub_mul]
    omega
  · simp only [maxBits, hi, if_true, Nat.sub_mul]
    omega

theorem Usual.decode_infBits (hi : f.hasInf = true) : f.decode (f.infBits neg) = .inf neg := by
  have h4 := hf.four_le
  have hx : 2 ^ f.eb - 1 < 2 ^ f.eb := by omega
  have hy : 0 < 2 ^ f.fb := Nat.two_pow_pos _
  rw [infBits_eq, decode_eq, expOf_fields hx hy, fracOf_fields hy, negOf_fields hx hy, if_neg (by omega), if_pos ⟨rfl, hi⟩, if_pos rfl]

theorem Usual.decode_canonNaN : f.decode f.canonNaN = .nan := by
  have h4 := hf.four_le
  have h2 := hf.two_le
  have hhalf := Nat.two_pow_pred_mul_two hf.fb_pos
  have hx : 2 ^ f.eb - 1 < 2 ^ f.eb := by omega
  rw [hf.canonNaN_eq]
  cases hi : f.hasInf
  · have hy : 2 ^ f.fb - 1 < 2 ^ f.fb := by omega
    simp only [Bool.false_eq_true, if_false]
    rw [decode_eq, expOf_fields hx hy, fracOf_fields hy, if_neg (by omega), if_neg (by simp [hi]), if_pos ⟨rfl, rfl⟩]
  · have hy : 2 ^ (f.fb - 1) < 2 ^ f.fb := by omega
    simp only [if_true]
    rw [decode_eq, expOf_fields hx hy, fracOf_fields hy, if_neg (by omega), if_pos ⟨rfl, hi⟩, if_neg (by omega)]

theorem Usual.infBits_lt : f.infBits neg < 2 ^ (f.eb + f.fb + 1) := by
  have h4 := hf.four_le
  exact f.infBits_eq neg ▸ fields_size (by omega) (Nat.two_pow_pos _) neg

theorem Usual.canonNaN_lt : f.canonNaN < 2 ^ (f.eb + f.fb + 1) := by
  have h4 := hf.four_le
  have h2 := hf.two_le
  have hhalf := Nat.two_pow_pred_mul_two hf.fb_pos
  rw [hf.canonNaN_eq]
  exact fields_size (by omega) (by split <;> omega) false

theorem Usual.maxBits_lt : f.maxBits neg < 2 ^ (f.eb + f.fb + 1) := by
  have h4 := hf.four_le
  have h2 := hf.two_le
  rw [hf.maxBits_eq]
  split
  · exact fields_size (by omega) (by omega) neg
  · exact fields_size (by omega) (by omega) neg

end

end FFmt

/-! The rounding of a magnitude -/

section
variable (f : FFmt) (mode : Rnd) (neg : Bool) (m : Nat) (e : Int)

/-- A magnitude whose leading bit stands at L and which is n at the format's precision overflows (03 R72). -/
def FFmt.TooBig (L : Int) (n : Nat) : Prop :=
  let emax : Int := (2 ^ f.eb - 1 : Nat) - f.bias - (if f.hasInf then 1 else 0)
  emax < L ∨ (L = emax ∧ (if f.hasInf then 2 ^ (f.fb + 1) - 1 else 2 ^ (f.fb + 1) - 2) < n)

/-- It stays below the normal numbers also after rounding with an unbounded exponent (03 R72). -/
def FFmt.Tiny (L : Int) (n : Nat) : Prop := L < 1 - f.bias ∧ ¬(L = 1 - f.bias - 1 ∧ n = 2 ^ (f.fb + 1))

/-- A magnitude at a format's precision. -/
def atPrecision : Nat × Bool := roundGrid mode neg m e (leadOf m e - f.fb)

/-- Whether an overflow of a mode and a sign gives an infinity (03 R69). -/
def FFmt.toInf : Bool := f.hasInf && (match mode with | .rne => true | .rtz => false | .rup => !neg | .rdn => neg)

/-- The place of the leading bit after the rounding, which may carry into one more bit. -/
def FFmt.leadAfter (L : Int) (n : Nat) : Int := if n ≥ 2 ^ (f.fb + 1) then L + 1 else L

/-- The significand after the rounding. -/
def FFmt.sigAfter (n : Nat) : Nat := if n ≥ 2 ^ (f.fb + 1) then n / 2 else n

/-- The model's test of an overflow. -/
def FFmt.overflows (L : Int) (n : Nat) : Bool :=
  let top : Int := (2 ^ f.eb - 1 : Nat) - f.bias
  if f.hasInf then decide (L ≥ top) else decide (L > top) || (L == top && n == 2 ^ (f.fb + 1) - 1)

variable {f m}

theorem atPrecision_mem (hm : m ≠ 0) : 2 ^ f.fb ≤ (atPrecision f mode neg m e).1 ∧ (atPrecision f mode neg m e).1 ≤ 2 ^ (f.fb + 1) := by
  have hunit : ∀ k : Nat, ((2 ^ k : Nat) : ℚ) * 2 ^ (leadOf m e - f.fb) = 2 ^ (leadOf m e - f.fb + k) := fun k => by
    rw [zpow_add₀ two_ne_zero, zpow_natCast, mul_comm]
    push_cast
    rfl
  constructor
  · refine le_roundGrid ?_
    rw [hunit, Int.sub_add_cancel]
    exact leadOf_le hm e
  · refine roundGrid_le ?_
    rw [hunit, Nat.cast_succ, ← Int.add_assoc, Int.sub_add_cancel]
    exact lt_leadOf m e

/-- The rounding of a magnitude, in the words above (03 R69, R72). -/
theorem roundMag_eq (hm : m ≠ 0) : roundMag f mode neg m e =
    (let n := (atPrecision f mode neg m e).1
     let lead := f.leadAfter (leadOf m e) n
     let sub := roundGrid mode neg m e (f.emin - f.fb)
     if f.overflows lead (f.sigAfter n) then
       { bits := if f.toInf mode neg then f.infBits neg else f.maxBits neg, inexact := true, tiny := false, ovf := true }
     else if lead < f.emin then { bits := f.signBit neg + sub.1, inexact := sub.2, tiny := true, ovf := false }
     else if leadOf m e < f.emin then { bits := f.signBit neg + sub.1, inexact := sub.2, tiny := false, ovf := false }
     else { bits := f.signBit neg + (lead + f.bias).toNat * 2 ^ f.fb + (f.sigAfter n - 2 ^ f.fb),
            inexact := (atPrecision f mode neg m e).2, tiny := false, ovf := false }) := by
  unfold FFmt.toInf
  rw [Bool.and_comm]
  exact if_neg hm

theorem overflows_iff (hf : f.Usual) (hm : m ≠ 0) :
    let n := (atPrecision f mode neg m e).1
    f.overflows (f.leadAfter (leadOf m e) n) (f.sigAfter n) = true ↔ f.TooBig (leadOf m e) n := by
  obtain ⟨hlo, hhi⟩ := atPrecision_mem (f := f) mode neg e hm
  have h2 := hf.two_le
  have hpow := Nat.pow_succ 2 f.fb
  generalize (atPrecision f mode neg m e).1 = n at hlo hhi ⊢
  generalize leadOf m e = L
  cases hi : f.hasInf <;>
    simp only [FFmt.TooBig, FFmt.overflows, FFmt.leadAfter, FFmt.sigAfter, hi, Bool.false_eq_true, if_true, if_false,
      Bool.or_eq_true, Bool.and_eq_true, beq_iff_eq] <;>
    split <;> simp only [decide_eq_true_iff] <;> omega

theorem tiny_iff (hm : m ≠ 0) : let n := (atPrecision f mode neg m e).1
    f.leadAfter (leadOf m e) n < f.emin ↔ f.Tiny (leadOf m e) n := by
  obtain ⟨-, hhi⟩ := atPrecision_mem (f := f) mode neg e hm
  generalize (atPrecision f mode neg m e).1 = n at hhi ⊢
  simp only [FFmt.leadAfter, FFmt.Tiny, FFmt.emin]
  split <;> omega

/-- A value below 2^emin is at most 2^fb units of the subnormal grid. -/
theorem roundGrid_subnormal_le (hl : leadOf m e < f.emin) : (roundGrid mode neg m e (f.emin - f.fb)).1 ≤ 2 ^ f.fb := by
  refine roundGrid_le (lt_of_lt_of_le (lt_leadOf m e) ?_)
  have hunit : ((2 ^ f.fb : Nat) : ℚ) * 2 ^ (f.emin - f.fb) = 2 ^ f.emin := by
    rw [zpow_sub₀ two_ne_zero, zpow_natCast]
    push_cast
    field_simp
  rw [hunit]
  exact zpow_le_zpow_right₀ one_le_two hl

/-- The largest multiple of the subnormal grid below the normal numbers, and the smallest normal number, stand as their number of
units. -/
theorem decode_grid (hf : f.Usual) {r : Nat} (hr : r ≤ 2 ^ f.fb) : f.decode (f.signBit neg + r) = .num neg r (f.emin - f.fb) := by
  rcases Nat.lt_or_eq_of_le hr with hlt | rfl
  · exact FFmt.decode_subnormal hlt neg
  · have h4 := hf.four_le
    have hdec := FFmt.decode_normal (f := f) (x := 1) (y := 0) (by omega) (Nat.two_pow_pos _) Nat.one_pos (fun h => by omega) neg
    rw [Nat.one_mul, Nat.add_zero] at hdec
    exact hdec

end

/-! Rounding to a format -/

/-- The flags of a rounding that does not overflow. -/
theorem flags_of_not_ovf {r : Rounded} (h : r.ovf = false) : r.flags &&& ~~~(Fl.uf ||| Fl.nx) = 0 ∧
    (r.flags &&& Fl.nx = 0 ↔ r.inexact = false) ∧ (r.flags &&& Fl.uf = 0 ↔ r.inexact = false ∨ r.tiny = false) := by
  obtain ⟨b, inexact, tiny, ovf⟩ := r
  obtain rfl : ovf = false := h
  cases inexact <;> cases tiny <;> simp [Rounded.flags, Fl.when, Fl.uf, Fl.nx]

theorem flags_ovf (b : Nat) : Rounded.flags { bits := b, inexact := true, tiny := false, ovf := true } = Fl.of ||| Fl.nx := by
  simp [Rounded.flags, Fl.when]

theorem flags_exact (b : Nat) : Rounded.flags { bits := b, inexact := false, tiny := false, ovf := false } = 0 := by
  simp [Rounded.flags, Fl.when]

/-- A zero keeps its sign. -/
theorem round_zero (f : FFmt) (mode : Rnd) (neg : Bool) (e : Int) : (FVal.num neg 0 e).round f mode = (f.signBit neg, 0) :=
  Prod.ext rfl (flags_exact _)

section
variable {f : FFmt} {mode : Rnd} {neg : Bool} {m : Nat} {e : Int} (hf : f.Usual) (hm : m ≠ 0)
include hf hm

/-- An overflow gives the value that its mode names (03 R69). -/
theorem roundMag_tooBig (h : f.TooBig (leadOf m e) (atPrecision f mode neg m e).1) : roundMag f mode neg m e =
    { bits := if f.toInf mode neg then f.infBits neg else f.maxBits neg, inexact := true, tiny := false, ovf := true } :=
  (roundMag_eq mode neg e hm).trans (if_pos ((overflows_iff mode neg e hf hm).mpr h))

/-- A result below the normal numbers before rounding stands on the grid of the subnormal ones. -/
theorem roundMag_subnormal (h : ¬f.TooBig (leadOf m e) (atPrecision f mode neg m e).1) (hl : leadOf m e < f.emin) :
    let sub := roundGrid mode neg m e (f.emin - f.fb)
    roundMag f mode neg m e =
      { bits := f.signBit neg + sub.1, inexact := sub.2, ovf := false,
        tiny := decide (f.leadAfter (leadOf m e) (atPrecision f mode neg m e).1 < f.emin) } := by
  have hbig := (overflows_iff mode neg e hf hm).not.mpr h
  refine (roundMag_eq mode neg e hm).trans ((if_neg hbig).trans ?_)
  by_cases ht : f.leadAfter (leadOf m e) (atPrecision f mode neg m e).1 < f.emin
  · rw [decide_eq_true ht]
    exact if_pos ht
  · rw [decide_eq_false ht]
    exact (if_neg ht).trans (if_pos hl)

/-- A normal result. -/
theorem roundMag_normal (h : ¬f.TooBig (leadOf m e) (atPrecision f mode neg m e).1) (hl : ¬leadOf m e < f.emin) :
    let n := (atPrecision f mode neg m e).1
    roundMag f mode neg m e =
      { bits := f.signBit neg + ((f.leadAfter (leadOf m e) n + f.bias).toNat * 2 ^ f.fb + (f.sigAfter n - 2 ^ f.fb)),
        inexact := (atPrecision f mode neg m e).2, tiny := false, ovf := false } := by
  have hbig := (overflows_iff mode neg e hf hm).not.mpr h
  have ht : ¬f.leadAfter (leadOf m e) (atPrecision f mode neg m e).1 < f.emin := by
    unfold FFmt.leadAfter
    split <;> omega
  refine (roundMag_eq mode neg e hm).trans ((if_neg hbig).trans ((if_neg ht).trans ((if_neg hl).trans ?_)))
  rw [Nat.add_assoc]

omit hm in
/-- The fields of a normal result of n units at the format's precision. -/
theorem decode_normal_result {L : Int} {n : Nat} (hlo : 2 ^ f.fb ≤ n) (hhi : n ≤ 2 ^ (f.fb + 1)) (h : ¬f.TooBig L n) (hl : ¬L < f.emin) :
    let b := f.signBit neg + ((f.leadAfter L n + f.bias).toNat * 2 ^ f.fb + (f.sigAfter n - 2 ^ f.fb))
    b < 2 ^ (f.eb + f.fb + 1) ∧ ∃ m' e', f.decode b = .num neg m' e' ∧ (m' : ℚ) * 2 ^ e' = n * 2 ^ (L - f.fb) := by
  have h2 := hf.two_le
  have h4 := hf.four_le
  have hpow := Nat.pow_succ 2 f.fb
  have hsig : 2 ^ f.fb ≤ f.sigAfter n ∧ f.sigAfter n < 2 ^ (f.fb + 1) := by
    unfold FFmt.sigAfter
    split <;> omega
  have hx : 0 < (f.leadAfter L n + f.bias).toNat ∧ (f.leadAfter L n + f.bias).toNat < 2 ^ f.eb ∧
      ((f.leadAfter L n + f.bias).toNat = 2 ^ f.eb - 1 → f.hasInf = false ∧ f.sigAfter n - 2 ^ f.fb ≠ 2 ^ f.fb - 1) := by
    simp only [FFmt.TooBig, FFmt.emin] at h hl
    unfold FFmt.leadAfter FFmt.sigAfter
    cases hi : f.hasInf
    · simp only [hi, Bool.false_eq_true, if_false] at h
      split <;> simp only [true_and] <;> omega
    · simp only [hi, if_true] at h
      split <;> simp only [Bool.true_eq_false, false_and] <;> omega
  obtain ⟨hx0, hx1, htop⟩ := hx
  have hy : f.sigAfter n - 2 ^ f.fb < 2 ^ f.fb := by omega
  refine ⟨FFmt.fields_size hx1 hy neg, _, _, FFmt.decode_normal hx1 hy hx0 htop neg, ?_⟩
  rw [Nat.add_sub_cancel' hsig.1, Int.toNat_of_nonneg (by omega), Int.add_sub_cancel]
  unfold FFmt.leadAfter FFmt.sigAfter
  split
  · next hn =>
    have hn' : n = 2 * (n / 2) := by omega
    conv_rhs => rw [hn']
    rw [Int.add_sub_assoc, show (1 : Int) - f.fb = -f.fb + 1 by ring, ← Int.add_assoc, zpow_add_one₀ two_ne_zero, ← Int.sub_eq_add_neg]
    push_cast
    ring
  · rfl

/-- What a rounding without overflow leaves: a multiple of the grid that the mode names, its inexactness and its tininess (03 R69,
R72). -/
theorem roundMag_finite (h : ¬f.TooBig (leadOf m e) (atPrecision f mode neg m e).1) :
    let g : Int := max (leadOf m e) f.emin - f.fb
    let r := roundMag f mode neg m e
    let n := (roundGrid mode neg m e g).1
    r.ovf = false ∧ r.inexact = (roundGrid mode neg m e g).2 ∧ (r.tiny = true ↔ f.Tiny (leadOf m e) (atPrecision f mode neg m e).1) ∧
      r.bits < 2 ^ (f.eb + f.fb + 1) ∧ ∃ m' e', f.decode r.bits = .num neg m' e' ∧ (m' : ℚ) * 2 ^ e' = n * 2 ^ g := by
  intro g
  by_cases hl : leadOf m e < f.emin
  · have hg : g = f.emin - f.fb := by simp only [g, max_eq_right hl.le]
    have hr := roundGrid_subnormal_le (f := f) mode neg e hl
    have hsize : f.signBit neg + (roundGrid mode neg m e (f.emin - f.fb)).1 < 2 ^ (f.eb + f.fb + 1) := by
      have h4 := hf.four_le
      have := FFmt.fields_size (f := f) (x := 1) (y := 0) (by omega) (Nat.two_pow_pos _) neg
      omega
    rw [roundMag_subnormal hf hm h hl, hg]
    exact ⟨rfl, rfl, decide_eq_true_iff.trans (tiny_iff mode neg e hm), hsize, _, _, decode_grid neg hf hr, rfl⟩
  · obtain ⟨hlo, hhi⟩ := atPrecision_mem (f := f) mode neg e hm
    have hg : g = leadOf m e - f.fb := by simp only [g, max_eq_left (not_lt.mp hl)]
    rw [roundMag_normal hf hm h hl, hg]
    exact ⟨rfl, rfl, iff_of_false Bool.false_ne_true fun ht => hl ht.1, decode_normal_result hf hlo hhi h hl⟩

/-- A finite value that is not zero is rounded to a format as `RoundsTo` says, by any comparison that agrees with it from the grid of
the format's precision on (03 R69, R72). -/
theorem roundsTo_round {cmp : Int → Nat → Ordering} (hcmp : ∀ q, leadOf m e - f.fb ≤ q → cmp q = ratCmp m 1 e q) :
    RoundsTo f mode neg cmp ((FVal.num neg m e).round f mode) := by
  have hat : ∀ {q} {c : Ordering → Prop} (k : Nat), leadOf m e - f.fb ≤ q → c (compare (((k : Nat) : ℚ) * 2 ^ q) (m * 2 ^ e)) → c (cmp q (2 * k)) :=
    fun k hq h => by rwa [hcmp _ hq, ratCmp_units]
  refine ⟨leadOf m e, (atPrecision f mode neg m e).1, hat (q := leadOf m e) (c := (· ≠ .gt)) 1 (by omega) ?_,
    hat (q := leadOf m e) (c := (· = .gt)) 2 (by omega) ?_, ?_, ?_, ?_⟩
  · rw [ne_eq, compare_gt_iff_gt, not_lt, Nat.cast_one, one_mul]
    exact leadOf_le hm e
  · rw [compare_gt_iff_gt, Nat.cast_two, ← zpow_one_add₀ two_ne_zero, add_comm]
    exact lt_leadOf m e
  · rw [hcmp _ le_rfl]
    exact near_roundGrid ..
  · intro hbig
    simp only [FVal.round, roundMag_tooBig hf hm hbig]
    exact Prod.ext rfl (flags_ovf _)
  · intro hbig
    obtain ⟨hovf, hix, htiny, hsize, m', e', hdec, hval⟩ := roundMag_finite (mode := mode) (neg := neg) hf hm hbig
    obtain ⟨hother, hnx, huf⟩ := flags_of_not_ovf hovf
    have hle : leadOf m e - f.fb ≤ max (leadOf m e) (1 - f.bias) - f.fb := by omega
    refine ⟨_, m', e', hcmp _ hle ▸ near_roundGrid mode neg m e _, hsize, hdec, ?_, hother, ?_, ?_⟩
    · exact (shift_eq_iff (min_le_left ..) (min_le_right ..) _ _).mpr hval
    · rw [hcmp _ hle, ← roundGrid_exact_iff]
      exact hnx.trans (hix ▸ Iff.rfl)
    · rw [hcmp _ hle, ← roundGrid_exact_iff]
      exact huf.trans (or_congr (hix ▸ Iff.rfl) (Bool.eq_false_iff.trans (not_congr htiny)))

end

/-! The formats of R61 -/

theorem EType.fmt_usual (t : EType) : t.fmt.Usual := by cases t <;> exact ⟨by decide, by decide⟩

/-! Exact sums and products -/

theorem signedM_mul (neg : Bool) (m k : Nat) : signedM neg (m * k) = signedM neg m * k := by cases neg <;> simp [signedM]

/-- A significand of a sign as a rational. -/
theorem signedM_shift {b e : Int} (h : b ≤ e) (neg : Bool) (m : Nat) :
    ((signedM neg (m * 2 ^ (e - b).toNat) : Int) : ℚ) = (signedM neg m : Int) * 2 ^ e / 2 ^ b := by
  have := cast_shift h m
  cases neg
  · simpa [signedM] using this
  · simp only [signedM, if_true, Int.cast_neg, Int.cast_natCast, this]
    ring

theorem signedM_natAbs {t : Int} : signedM (decide (t < 0)) t.natAbs = t := by
  rcases lt_or_ge t 0 with h | h
  · simp [signedM, h, abs_of_neg h]
  · simp [signedM, not_lt.mpr h, abs_of_nonneg h]

/-- The exact sum of two finite values on their common grid, as an integer. -/
def sumUnits (na : Bool) (ma : Nat) (ea : Int) (nb : Bool) (mb : Nat) (eb : Int) : Int :=
  signedM na (ma * 2 ^ (ea - min ea eb).toNat) + signedM nb (mb * 2 ^ (eb - min ea eb).toNat)

theorem add_num (mode : Rnd) (na : Bool) (ma : Nat) (ea : Int) (nb : Bool) (mb : Nat) (eb : Int) :
    let t := sumUnits na ma ea nb mb eb
    (FVal.num na ma ea).add mode (.num nb mb eb) =
      if t = 0 then .num (if na = nb then na else decide (mode = .rdn)) 0 (min ea eb) else .num (decide (t < 0)) t.natAbs (min ea eb) := by
  have hsign : (if na = nb then na else decide (mode = .rdn)) = if na == nb then na else (match mode with | .rdn => true | _ => false) := by
    cases na <;> cases nb <;> cases mode <;> rfl
  intro t
  rw [hsign]
  rfl

theorem isSum_add (mode : Rnd) (x y : FVal) : IsSum mode x y (x.add mode y) := by
  cases x with
  | nan => rfl
  | inf a =>
    cases y with
    | nan => rfl
    | inf b => cases a <;> cases b <;> rfl
    | num => rfl
  | num na ma ea =>
    cases y with
    | nan => rfl
    | inf b => rfl
    | num nb mb eb =>
      rw [add_num]
      by_cases ht : sumUnits na ma ea nb mb eb = 0
      · refine ⟨_, _, _, if_pos ht, ?_, fun _ => rfl⟩
        simp only [min_self, Nat.zero_mul]
        exact (by simp [signedM] : signedM _ 0 = 0).trans ht.symm
      · refine ⟨_, _, _, if_neg ht, ?_, fun h => absurd (Int.natAbs_eq_zero.mp h) ht⟩
        simp only [min_self, sub_self, Int.toNat_zero, pow_zero, mul_one, signedM_natAbs]
        rfl

theorem isProduct_mul (x y : FVal) : IsProduct x y (x.mul y) := by
  cases x with
  | nan => rfl
  | inf a =>
    cases y with
    | nan => rfl
    | inf b => rfl
    | num => rfl
  | num na ma ea =>
    cases y with
    | nan => rfl
    | inf b => rfl
    | num nb mb eb => exact ⟨_, _, rfl, rfl⟩

theorem lt_iff_less (x y : FVal) : x.lt y = true ↔ Less x y := by
  cases x with
  | nan => simp [FVal.lt, Less]
  | inf a =>
    cases y with
    | nan => simp [FVal.lt, Less]
    | inf b => simp [FVal.lt, Less]
    | num => simp [FVal.lt, Less]
  | num na ma ea =>
    cases y with
    | nan => simp [FVal.lt, Less]
    | inf b => simp [FVal.lt, Less]
    | num nb mb eb => exact decide_eq_true_iff

/-- The formats of R61 with the sizes of their fields, their bias and their special values (03 R61, R62). -/
def formatTable : List (EType × Nat × Nat × Int × Nat × Option Nat × Nat) :=
  [(.fp32, 8, 23, 127, 0x7FC00000, some 0x7F800000, 0x7F7FFFFF), (.fp16, 5, 10, 15, 0x7E00, some 0x7C00, 0x7BFF),
   (.bf16, 8, 7, 127, 0x7FC0, some 0x7F80, 0x7F7F), (.e5m2, 5, 2, 15, 0x7E, some 0x7C, 0x7B), (.e4m3, 4, 3, 7, 0x7F, none, 0x7E)]

/-- What a line of the table says of its format. -/
structure FormatLine (t : EType) (eb fb : Nat) (bias : Int) (canon : Nat) (inf : Option Nat) (most : Nat) : Prop where
  isFloat : t.isFloat = true
  fmt : t.fmt = { eb := eb, fb := fb, bias := bias, hasInf := inf.isSome }
  canonNaN : t.fmt.canonNaN = canon
  maxBits : ∀ n, t.fmt.maxBits n = (if n then 2 ^ (eb + fb) else 0) + most
  infBits : ∀ n i, inf = some i → t.fmt.infBits n = (if n then 2 ^ (eb + fb) else 0) + i

theorem formatTable_line : ∀ l ∈ formatTable, FormatLine l.1 l.2.1 l.2.2.1 l.2.2.2.1 l.2.2.2.2.1 l.2.2.2.2.2.1 l.2.2.2.2.2.2 := by
  simp only [formatTable, List.forall_mem_cons]
  refine ⟨⟨rfl, rfl, rfl, ?_, ?_⟩, ⟨rfl, rfl, rfl, ?_, ?_⟩, ⟨rfl, rfl, rfl, ?_, ?_⟩, ⟨rfl, rfl, rfl, ?_, ?_⟩, ⟨rfl, rfl, rfl, ?_, ?_⟩, by simp⟩ <;>
    simp only [Option.some.injEq, forall_eq', reduceCtorEq, false_imp_iff, implies_true, Bool.forall_bool] <;> decide

/-- The value of a pattern of a format's size, in the words of R61. -/
theorem decode_of_lt (f : FFmt) {b : Nat} (hb : b < 2 * 2 ^ (f.eb + f.fb)) :
    let x := b / 2 ^ f.fb % 2 ^ f.eb
    let y := b % 2 ^ f.fb
    f.decode b = if x = 0 then .num (decide (2 ^ (f.eb + f.fb) ≤ b)) y (1 - f.bias - f.fb)
      else if x = 2 ^ f.eb - 1 ∧ f.hasInf = true then (if y = 0 then .inf (decide (2 ^ (f.eb + f.fb) ≤ b)) else .nan)
      else if x = 2 ^ f.eb - 1 ∧ y = 2 ^ f.fb - 1 then .nan
      else .num (decide (2 ^ (f.eb + f.fb) ≤ b)) (2 ^ f.fb + y) (x - f.bias - f.fb) := by
  have hneg : f.negOf b = decide (2 ^ (f.eb + f.fb) ≤ b) := by
    rw [FFmt.negOf, Nat.add_comm f.fb]
    have hpos := Nat.two_pow_pos (f.eb + f.fb)
    rcases lt_or_ge b (2 ^ (f.eb + f.fb)) with h | h
    · simp [Nat.div_eq_of_lt h, not_le.mpr h]
    · have h1 : b / 2 ^ (f.eb + f.fb) = 1 := Nat.div_eq_of_lt_le (by omega) (by omega)
      simp [h1, h]
  rw [FFmt.decode_eq, hneg]
  rfl

end Sys2Proof.Machine

open Sys2Proof.Machine

/-- Settles O31: formats read as `decode_of_lt` says with the values of `formatTable_line`, sums and products are `isSum_add` and
`isProduct_mul`, and a rounding is `roundsTo_round`. -/
theorem floatRounding : Obligations.FloatRounding := by
  refine ⟨?formats, fun mode x y => ⟨isSum_add mode x y, isProduct_mul x y, lt_iff_less x y⟩, fun n m e => ⟨rfl, rfl, rfl⟩⟩
  intro t eb fb bias canon inf most hmem f top sign
  have hline := formatTable_line _ hmem
  have hf := t.fmt_usual
  have hfmt : f = { eb := eb, fb := fb, bias := bias, hasInf := inf.isSome } := hline.fmt
  have hinf : f.hasInf = true ↔ inf ≠ none := by rw [hfmt]; exact Option.isSome_iff_ne_none
  refine ⟨hline.isFloat, hfmt, hline.canonNaN, by rw [FFmt.pairNaN, hline.canonNaN], hline.maxBits, hline.infBits, ?decode, ?round⟩
  case decode =>
    intro b hb
    have := decode_of_lt f (b := b) (by rw [hfmt]; exact hb)
    simp only [hinf] at this
    rw [hfmt] at this ⊢
    exact this
  case round =>
    intro mode n e m
    refine ⟨by rw [FVal.round, hline.canonNaN], fun hi => if_pos (hinf.mpr hi), ?_, fun hm => roundsTo_round hf hm.ne' fun _ _ => rfl⟩
    rw [round_zero, FFmt.signBit, Nat.add_comm, hfmt]
end

section
/-! PROOF. O32: floating elements (03 R63, R70, R72 to R75; 20 R406 to R408, R411, R412, R415, R420). An element is read and written
through `flushIn` and `flushOut`; the rest is exact arithmetic and one rounding. -/

namespace Sys2Proof.Machine

/-! Flushing subnormals (03 R70) -/

section
variable (f : FFmt) (ftz : Bool)

/-- Whether FTZ makes a pattern a zero. -/
def FFmt.flushes (n : Nat) : Bool := ftz && n / 2 ^ f.fb % 2 ^ f.eb == 0 && n % 2 ^ f.fb != 0

/-- The sign bit of a pattern in its place. -/
def FFmt.signOf (n : Nat) : Nat := n / 2 ^ (f.eb + f.fb) * 2 ^ (f.eb + f.fb)

/-- A pattern as it is read or written under FTZ. -/
def FFmt.flushed (n : Nat) : Nat := if f.flushes ftz n then f.signOf n else n

theorem FFmt.flushes_eq (n : Nat) : f.flushes ftz n = (ftz && f.isSub n) := Bool.and_assoc ..

variable {f ftz}

theorem FFmt.signOf_eq {n : Nat} (hn : n < 2 ^ (f.eb + f.fb + 1)) : f.signOf n = f.signBit (f.negOf n) := by
  have hhigh : n / 2 ^ (f.eb + f.fb) < 2 := Nat.div_lt_of_lt_mul (by rwa [← Nat.pow_succ])
  rw [FFmt.signOf, FFmt.signBit, FFmt.negOf, Nat.add_comm f.fb]
  rcases Nat.le_one_iff_eq_zero_or_eq_one.mp (Nat.lt_succ_iff.mp hhigh) with h | h <;> simp [h]

theorem FFmt.flushed_lt {n : Nat} (hn : n < 2 ^ (f.eb + f.fb + 1)) : f.flushed ftz n < 2 ^ (f.eb + f.fb + 1) := by
  unfold FFmt.flushed FFmt.signOf
  split
  · exact lt_of_le_of_lt (Nat.div_mul_le_self ..) hn
  · exact hn

theorem FFmt.signOf_mod (n : Nat) : f.signOf n % 2 ^ f.fb = 0 := by
  rw [FFmt.signOf, Nat.pow_add, ← Nat.mul_assoc, Nat.mul_mod_left]

/-- A pattern that is flushed changes. -/
theorem FFmt.signOf_ne {n : Nat} (h : f.flushes ftz n = true) : f.signOf n ≠ n := by
  intro heq
  have := f.signOf_mod n
  rw [heq] at this
  simp [FFmt.flushes, this] at h

end

theorem EType.bits_eq {t : EType} (ht : t.isFloat = true) : t.bits = t.fmt.eb + t.fmt.fb + 1 := by
  revert ht; cases t <;> decide

theorem EType.not_isInt {t : EType} (ht : t.isFloat = true) : t.isInt = false := by
  revert ht; cases t <;> decide

theorem EType.isFloat_of {t : EType} (hi : ¬t.isInt = true) (hb : t ≠ .b4) : t.isFloat = true := by
  cases t <;> simp_all [EType.isInt, EType.isFloat]

/-- A rounded result as it is written, in its container. -/
def written (g : FFmt) (ftz : Bool) (r : Nat × Fl) : W32 × Fl :=
  if g.flushes ftz r.1 then (BitVec.ofNat 32 (g.signOf r.1), r.2 ||| Fl.uf ||| Fl.nx) else (BitVec.ofNat 32 r.1, r.2)

theorem container_flushOut {g : FFmt} (ftz : Bool) {r : Nat × Fl} (hr : r.1 < 2 ^ (g.eb + g.fb + 1)) :
    container (flushOut g ftz r) = written g ftz r := by
  rw [written, FFmt.flushes_eq, FFmt.signOf_eq hr]
  unfold flushOut container
  split <;> rfl

theorem flushIn_eq {t : EType} (ht : t.isFloat = true) (ftz : Bool) {b : Nat} (hb : b < 2 ^ t.bits) :
    flushIn t ftz b = t.fmt.flushed ftz b := by
  rw [EType.bits_eq ht] at hb
  rw [flushIn, ht, Bool.true_and, FFmt.flushed, FFmt.flushes_eq, FFmt.signOf_eq hb]

/-! Rounding, once more -/

section
variable {f : FFmt} {mode : Rnd}

/-- A rounding gives a pattern of the format. -/
theorem round_lt (hf : f.Usual) (x : FVal) : (x.round f mode).1 < 2 ^ (f.eb + f.fb + 1) := by
  cases x with
  | nan => exact hf.canonNaN_lt
  | inf n =>
    change (if f.hasInf then (f.infBits n, 0) else (f.maxBits n, Fl.of ||| Fl.nx)).1 < _
    split
    · exact hf.infBits_lt n
    · exact hf.maxBits_lt n
  | num n m e =>
    rcases Nat.eq_zero_or_pos m with rfl | hm
    · have := FFmt.fields_size (f := f) (x := 0) (y := 0) (Nat.two_pow_pos _) (Nat.two_pow_pos _) n
      rw [round_zero]
      omega
    · by_cases h : f.TooBig (leadOf m e) (atPrecision f mode n m e).1
      · simp only [FVal.round, roundMag_tooBig hf hm.ne' h]
        split
        · exact hf.infBits_lt n
        · exact hf.maxBits_lt n
      · exact (roundMag_finite hf hm.ne' h).2.2.2.1

theorem flags_of_iff (r : Rounded) : (r.flags &&& Fl.of != 0) = r.ovf := by
  obtain ⟨b, inexact, tiny, ovf⟩ := r
  cases inexact <;> cases tiny <;> cases ovf <;> simp [Rounded.flags, Fl.when, Fl.of, Fl.uf, Fl.nx]

/-- A value that overflows is not zero. -/
theorem ne_zero_of_ovf {n : Bool} {m : Nat} {e : Int} (h : (roundMag f mode n m e).ovf = true) : m ≠ 0 := by
  rintro rfl
  cases h

theorem lt_zero_eq {m : Nat} (hm : m ≠ 0) (n : Bool) (e : Int) : (FVal.num n m e).lt FVal.zero = n := by
  have hpos : 0 < m * 2 ^ (e - min e 0).toNat := Nat.mul_pos (Nat.pos_of_ne_zero hm) (Nat.two_pow_pos _)
  have h : (FVal.num n m e).lt FVal.zero = decide (signedM n (m * 2 ^ (e - min e 0).toNat) < signedM false (0 * 2 ^ (0 - min e 0).toNat)) := rfl
  rw [h]
  cases n
  · simp [signedM]
  · simpa [signedM] using Nat.pos_of_ne_zero hm

end

/-! Elements of the floating types -/

namespace ElemEnv
variable (v : ElemEnv)

/-- The pattern of an element as it is read. -/
def flushedBits (x : W32) : Nat := v.ty.fmt.flushed v.ftz (x.toNat % 2 ^ v.ty.bits)

/-- The value of an element as it is read. -/
def value (x : W32) : FVal := v.ty.fmt.decode (v.flushedBits x)

/-- A result as VADD and its like write it, with the values it was made of (03 R69, R72). -/
def rounded (x : FVal) (ops : List FVal) : W32 × Fl :=
  let r := written v.ty.fmt v.ftz (x.round v.ty.fmt v.rnd)
  (r.1, r.2 ||| (if x = .nan ∧ FVal.nan ∉ ops then Fl.nv else 0))

/-- Whether a finite value overflows a format. -/
def overflows (g : FFmt) (x : FVal) : Bool := match x with | .num .. => (x.round g v.rnd).2 &&& Fl.of != 0 | _ => false

/-- The largest finite value of the sign of a result, with its flags. -/
def largest (g : FFmt) (x : FVal) (fl : Fl) : W32 × Fl := (BitVec.ofNat 32 (g.maxBits (x.lt FVal.zero)), fl)

/-- A result as a saturating form writes it (03 R75). -/
def saturated (x : FVal) (ops : List FVal) : W32 × Fl :=
  if v.overflows v.ty.fmt x then largest v.ty.fmt x (Fl.sat ||| Fl.nx) else v.rounded x ops

theorem overflows_num (g : FFmt) (n : Bool) (m : Nat) (e : Int) : v.overflows g (.num n m e) = (roundMag g v.rnd n m e).ovf :=
  flags_of_iff _

theorem isNaN_iff {x : FVal} : x.isNaN = true ↔ x = .nan := by cases x <;> simp [FVal.isNaN]

theorem nan_mem_two {x y : FVal} : (x.isNaN || y.isNaN) = true ↔ FVal.nan ∈ [x, y] := by
  simp only [Bool.or_eq_true, isNaN_iff, List.mem_cons, List.not_mem_nil, or_false, @eq_comm _ FVal.nan]

theorem nan_mem_three {x y z : FVal} : (x.isNaN || y.isNaN || z.isNaN) = true ↔ FVal.nan ∈ [x, y, z] := by
  simp only [Bool.or_eq_true, isNaN_iff, List.mem_cons, List.not_mem_nil, or_false, @eq_comm _ FVal.nan, or_assoc]

theorem nvOf_eq {nan : Bool} {x : FVal} {ops : List FVal} (h : nan = true ↔ FVal.nan ∈ ops) :
    nvOf nan x = if x = .nan ∧ FVal.nan ∉ ops then Fl.nv else 0 := by
  rw [nvOf, Fl.when]
  refine if_congr ?_ rfl rfl
  rw [Bool.and_eq_true, isNaN_iff, Bool.not_eq_true', ← h, Bool.not_eq_true]

variable {v}

theorem finish_eq {nan : Bool} {x : FVal} {ops : List FVal} (h : nan = true ↔ FVal.nan ∈ ops) : v.finish nan x = v.rounded x ops := by
  have hout := container_flushOut v.ftz (round_lt (mode := v.rnd) v.ty.fmt_usual x)
  unfold finish rounded
  rw [nvOf_eq h, ← hout]
  rfl

theorem finishSat_eq {nan : Bool} {x : FVal} {ops : List FVal} (h : nan = true ↔ FVal.nan ∈ ops) :
    v.finishSat nan x = v.saturated x ops := by
  cases x with
  | nan => exact finish_eq h
  | inf n => exact finish_eq h
  | num n m e =>
    have hsat : v.finishSat nan (.num n m e) = if (roundMag v.ty.fmt v.rnd n m e).ovf then
      container (v.ty.fmt.maxBits n, Fl.sat ||| Fl.nx) else v.finish nan (.num n m e) := rfl
    rw [hsat, saturated, overflows_num, finish_eq h]
    split
    · next ho => rw [largest, lt_zero_eq (ne_zero_of_ovf ho), container]
    · rfl

section
variable (hv : v.ty.isFloat = true)
include hv

theorem flushedBits_lt (x : W32) : v.flushedBits x < 2 ^ v.ty.bits := by
  rw [EType.bits_eq hv]
  exact FFmt.flushed_lt (EType.bits_eq hv ▸ Nat.mod_lt _ (Nat.two_pow_pos _))

theorem flushIn_elemBits (x : W32) : flushIn v.ty v.ftz (elemBits v.ty x) = v.flushedBits x := flushIn_eq hv v.ftz (elemBits_lt v.ty x)

theorem elemVal_flushedBits (x : W32) : elemVal v.ty (v.flushedBits x) = v.value x := by
  rw [elemVal, EType.not_isInt hv, Nat.mod_eq_of_lt (flushedBits_lt hv x)]
  rfl

theorem read_eq (x : W32) : v.read x = v.value x := by
  rw [read, flushIn_elemBits hv, elemVal_flushedBits hv]

theorem arith_float (fi : Int → Int → Int → Int) (ff : FVal → FVal → FVal → FVal) (a b c : W32) :
    v.arith fi ff a b c = v.finish ((v.value a).isNaN || (v.value b).isNaN || (v.value c).isNaN)
      (ff (v.value a) (v.value b) (v.value c)) := by
  simp only [arith, EType.not_isInt hv, Bool.false_eq_true, if_false, read_eq hv]

theorem arithSat_float (fi : Int → Int → Int) (ff : FVal → FVal → FVal) (a b : W32) :
    v.arithSat fi ff a b = v.saturated (ff (v.value a) (v.value b)) [v.value a, v.value b] := by
  simp only [arithSat, EType.not_isInt hv, Bool.false_eq_true, if_false, read_eq hv]
  exact finishSat_eq nan_mem_two

omit hv in
/-- The third operand of an instruction of two is +0 and no NaN. -/
theorem value_zero : v.value 0 ≠ .nan := by
  have hz : v.flushedBits 0 = 0 := by simp [flushedBits, FFmt.flushed, FFmt.flushes]
  rw [value, hz]
  simp [FFmt.decode, FFmt.expOf]

theorem arith_float_two (fi : Int → Int → Int → Int) (ff : FVal → FVal → FVal → FVal) (a b : W32) :
    v.arith fi ff a b 0 = v.rounded (ff (v.value a) (v.value b) (v.value 0)) [v.value a, v.value b] := by
  have hz : (v.value 0).isNaN = false := Bool.eq_false_iff.mpr (isNaN_iff.not.mpr value_zero)
  rw [arith_float hv, hz, Bool.or_false]
  exact finish_eq nan_mem_two

theorem fma_float (a b c : W32) : v.fma a b c =
    v.rounded (((v.value a).mul (v.value b)).add v.rnd (v.value c)) [v.value a, v.value b, v.value c] :=
  (arith_float hv ..).trans (finish_eq nan_mem_three)

/-! Minimum, maximum and comparison (03 R63) -/

theorem pickElem_float (least : Bool) (a b : W32) : pickElem v.ty v.ftz least a b =
    if (v.value a).isNaN || (v.value b).isNaN then BitVec.ofNat 32 v.ty.fmt.canonNaN
    else BitVec.ofNat 32 (if least then (if (v.value b).below (v.value a) then v.flushedBits b else v.flushedBits a)
      else (if (v.value a).below (v.value b) then v.flushedBits b else v.flushedBits a)) := by
  simp only [pickElem, EType.not_isInt hv, Bool.false_eq_true, if_false, flushIn_elemBits hv, elemVal_flushedBits hv]

end
end ElemEnv

theorem eqv_iff {x y : FVal} (hx : x ≠ .nan) (hy : y ≠ .nan) : x.eqv y = true ↔ ¬Less x y ∧ ¬Less y x := by
  have h : x.eqv y = (!x.lt y && !y.lt x) := by
    cases x with
    | nan => contradiction
    | inf | num =>
      cases y with
      | nan => contradiction
      | inf | num => rfl
  rw [h, Bool.and_eq_true, Bool.not_eq_true', Bool.not_eq_true', ← lt_iff_less, ← lt_iff_less, Bool.not_eq_true, Bool.not_eq_true]

theorem eqv_nan {x y : FVal} (h : x = .nan ∨ y = .nan) : x.eqv y = false := by
  rcases h with rfl | rfl
  · rfl
  · cases x <;> rfl

theorem below_iff {x y : FVal} (hx : x ≠ .nan) (hy : y ≠ .nan) :
    x.below y = true ↔ Less x y ∨ (¬Less x y ∧ ¬Less y x ∧ x.negative = true ∧ y.negative = false) := by
  rw [FVal.below, Bool.or_eq_true, lt_iff_less, Bool.and_eq_true, Bool.and_eq_true, eqv_iff hx hy, Bool.not_eq_true', and_assoc, and_assoc]

namespace ElemEnv
variable {v : ElemEnv}

section
variable (hv : v.ty.isFloat = true)
include hv

theorem pickElem_nan (least : Bool) {a b : W32} (h : v.value a = .nan ∨ v.value b = .nan) :
    pickElem v.ty v.ftz least a b = BitVec.ofNat 32 v.ty.fmt.canonNaN := by
  rw [pickElem_float hv, if_pos]
  rcases h with h | h <;> simp [h, FVal.isNaN]

theorem pickElem_num (least : Bool) {a b : W32} (ha : v.value a ≠ .nan) (hb : v.value b ≠ .nan) :
    pickElem v.ty v.ftz least a b = BitVec.ofNat 32 (if least then (if (v.value b).below (v.value a) then v.flushedBits b else v.flushedBits a)
      else (if (v.value a).below (v.value b) then v.flushedBits b else v.flushedBits a)) := by
  rw [pickElem_float hv, if_neg]
  simp [isNaN_iff, ha, hb]

theorem min_num {a b : W32} (ha : v.value a ≠ .nan) (hb : v.value b ≠ .nan) : v.min a b =
    (BitVec.ofNat 32 (if (v.value b).below (v.value a) then v.flushedBits b else v.flushedBits a), 0) :=
  congrArg (·, 0) (pickElem_num hv true ha hb)

theorem max_num {a b : W32} (ha : v.value a ≠ .nan) (hb : v.value b ≠ .nan) : v.max a b =
    (BitVec.ofNat 32 (if (v.value a).below (v.value b) then v.flushedBits b else v.flushedBits a), 0) :=
  congrArg (·, 0) (pickElem_num hv false ha hb)

/-- What a comparison finds between two elements (20 R411). -/
theorem compare_iff (c : Cond) (a b : W32) :
    let nans : Prop := v.value a = .nan ∨ v.value b = .nan
    let less : Prop := ¬nans ∧ Less (v.value a) (v.value b)
    let more : Prop := ¬nans ∧ Less (v.value b) (v.value a)
    let same : Prop := ¬nans ∧ ¬Less (v.value a) (v.value b) ∧ ¬Less (v.value b) (v.value a)
    v.compare c a b = true ↔ match c with
      | .eq => same | .ne => ¬same | .lt => less | .le => less ∨ same | .gt => more | .ge => more ∨ same := by
  intro nans less more same
  have hnan : nans ↔ ((v.value a).isNaN || (v.value b).isNaN) = true := by rw [Bool.or_eq_true, isNaN_iff, isNaN_iff]
  have heq : (v.value a).eqv (v.value b) = true ↔ same := by
    by_cases h : nans
    · rw [eqv_nan h]
      exact iff_of_false Bool.false_ne_true fun hs => hs.1 h
    · rw [eqv_iff (fun ha => h (.inl ha)) (fun hb => h (.inr hb))]
      exact (and_iff_right h).symm
  have hlt : (!(v.value a).isNaN && !(v.value b).isNaN && (v.value a).lt (v.value b)) = true ↔ less := by
    rw [← Bool.not_or, Bool.and_eq_true, Bool.not_eq_true', ← Bool.not_eq_true, ← hnan, lt_iff_less]
  have hgt : (!(v.value a).isNaN && !(v.value b).isNaN && (v.value b).lt (v.value a)) = true ↔ more := by
    rw [← Bool.not_or, Bool.and_eq_true, Bool.not_eq_true', ← Bool.not_eq_true, ← hnan, lt_iff_less]
  unfold compare
  rw [read_eq hv, read_eq hv]
  cases c with
  | eq => exact heq
  | ne =>
    rw [Bool.not_eq_true', Bool.eq_false_iff]
    exact not_congr heq
  | lt => exact hlt
  | le => exact (Bool.or_eq_true ..).to_iff.trans (or_congr hlt heq)
  | gt => exact hgt
  | ge => exact (Bool.or_eq_true ..).to_iff.trans (or_congr hgt heq)

/-! Signs (20 R406, R420) -/

theorem signOp_nan (g : Bool → Bool) {a : W32} (h : v.value a = .nan) : v.signOp g a = (BitVec.ofNat 32 v.ty.fmt.canonNaN, 0) := by
  simp only [signOp, flushIn_elemBits hv, elemVal_flushedBits hv, h]
  rfl

theorem abs_nan {a : W32} (h : v.value a = .nan) : v.abs a = (BitVec.ofNat 32 v.ty.fmt.canonNaN, 0) := by
  rw [abs, EType.not_isInt hv, if_neg Bool.false_ne_true, signOp_nan hv _ h]

theorem neg_nan {a : W32} (h : v.value a = .nan) : v.neg a = (BitVec.ofNat 32 v.ty.fmt.canonNaN, 0) := by
  rw [neg, EType.not_isInt hv, if_neg Bool.false_ne_true, signOp_nan hv _ h]

theorem signOp_num (g : Bool → Bool) {a : W32} (h : v.value a ≠ .nan) : v.signOp g a =
    (BitVec.ofNat 32 (v.ty.fmt.signBit (g (v.ty.fmt.negOf (v.flushedBits a))) + v.flushedBits a % 2 ^ (v.ty.fmt.eb + v.ty.fmt.fb)), 0) := by
  have hnan : (v.value a).isNaN = false := Bool.eq_false_iff.mpr (isNaN_iff.not.mpr h)
  have hb : v.ty.bits - 1 = v.ty.fmt.eb + v.ty.fmt.fb := by rw [EType.bits_eq hv]; rfl
  simp only [signOp, flushIn_elemBits hv, elemVal_flushedBits hv, hnan, Bool.false_eq_true, if_false, container, hb]

theorem abs_num {a : W32} (h : v.value a ≠ .nan) :
    v.abs a = (BitVec.ofNat 32 (v.flushedBits a - v.ty.fmt.signOf (v.flushedBits a)), 0) := by
  have hrest : v.flushedBits a % 2 ^ (v.ty.fmt.eb + v.ty.fmt.fb) = v.flushedBits a - v.ty.fmt.signOf (v.flushedBits a) := by
    rw [FFmt.signOf, Nat.mul_comm]
    exact Nat.mod_eq_sub_mul_div
  rw [abs, EType.not_isInt hv, if_neg Bool.false_ne_true, signOp_num hv _ h, hrest, FFmt.signBit, if_neg Bool.false_ne_true, Nat.zero_add]

omit hv in
/-- The top bit of a number inverted. -/
theorem flip_top {n top : Nat} (hn : n < top * 2) : (if !(n / top % 2 == 1) then top else 0) + n % top = (n + top) % (top * 2) := by
  rcases lt_or_ge n top with h | h
  · have hsum : (n + top) % (top * 2) = n + top := Nat.mod_eq_of_lt (by omega)
    rw [Nat.mod_eq_of_lt h, Nat.div_eq_of_lt h, hsum]
    exact Nat.add_comm top n
  · have hdiv : n / top = 1 := Nat.div_eq_of_lt_le (by omega) (by omega)
    have hmod : n % top = n - top := by rw [Nat.mod_eq_sub_mod h, Nat.mod_eq_of_lt (by omega)]
    have hsum : (n + top) % (top * 2) = n - top := by rw [Nat.mod_eq_sub_mod (by omega), Nat.mod_eq_of_lt (by omega)]; omega
    rw [hdiv, hmod, hsum]
    exact Nat.zero_add _

theorem neg_num {a : W32} (h : v.value a ≠ .nan) :
    v.neg a = (BitVec.ofNat 32 ((v.flushedBits a + 2 ^ (v.ty.fmt.eb + v.ty.fmt.fb)) % 2 ^ v.ty.bits), 0) := by
  have hlt := flushedBits_lt hv a
  rw [neg, EType.not_isInt hv, if_neg Bool.false_ne_true, signOp_num hv _ h]
  rw [EType.bits_eq hv, Nat.pow_succ] at hlt ⊢
  rw [FFmt.negOf, FFmt.signBit, Nat.add_comm v.ty.fmt.fb, flip_top hlt]

theorem selected_float (a : W32) : v.selected a =
    (if v.ty.fmt.flushes v.ftz (a.toNat % 2 ^ v.ty.bits) then BitVec.ofNat 32 (v.flushedBits a) else a, 0) := by
  change _ = (if v.ty.fmt.flushes v.ftz (elemBits v.ty a) then BitVec.ofNat 32 (v.flushedBits a) else a, 0)
  simp only [selected, flushIn_elemBits hv, container]
  by_cases h : v.ty.fmt.flushes v.ftz (elemBits v.ty a) = true
  · have hne : v.flushedBits a ≠ elemBits v.ty a := by
      rw [flushedBits, FFmt.flushed, ← elemBits, if_pos h]
      exact FFmt.signOf_ne h
    rw [if_neg hne, if_pos h]
  · have heq : v.flushedBits a = elemBits v.ty a := by rw [flushedBits, FFmt.flushed, ← elemBits, if_neg h]
    rw [if_pos heq, if_neg h]

end
end ElemEnv

/-! Conversions (03 R74, 20 R412) -/

namespace ElemEnv
variable {v : ElemEnv} {k : EType} {a : W32}

/-- An integer at the width of a type, in its container. -/
def intResult (k : EType) (i : Int) (fl : Fl) : W32 × Fl := (BitVec.ofNat 32 (i % 2 ^ k.bits).toNat, fl)

theorem container_intBits (k : EType) (i : Int) (fl : Fl) : container (intBits k i, fl) = intResult k i fl := by
  rw [container, intBits, intResult]
  push_cast
  rfl

/-- The value of an integer element as a conversion reads it. -/
theorem read_int (hv : v.ty.isInt = true) : v.read a = FVal.ofInt (intOf v.ty a.toNat) := by
  have hf : v.ty.isFloat = false := by
    have hall : ∀ t : EType, t.isInt = true → t.isFloat = false := fun t => by cases t <;> decide
    exact hall _ hv
  rw [read, flushIn, hf, Bool.false_and, Bool.false_and, if_neg Bool.false_ne_true, elemVal, if_pos hv, elemBits, intOf_mod]

/-- A rounded value clamped to a type's range, with SAT alone or with NX where it was inexact (03 R74). -/
theorem container_clampInt_flags (k : EType) (i : Int) (ix : Bool) :
    (let r := clampInt k i; container (r.1, if r.2 = 0 then Fl.when ix Fl.nx else r.2)) =
      if i < (intRange k).1 then intResult k (intRange k).1 Fl.sat else if (intRange k).2 < i then intResult k (intRange k).2 Fl.sat
      else intResult k i (if ix = false then 0 else Fl.nx) := by
  have hsat : Fl.sat ≠ 0 := by decide
  have hle := intRange_le k
  rw [clampInt_eq, clampTo]
  by_cases h1 : i < (intRange k).1
  · simp only [h1, true_or, if_true, if_neg hsat, container_intBits]
  · by_cases h2 : (intRange k).2 < i
    · simp only [h1, h2, or_true, if_true, if_false, if_neg hsat, container_intBits]
    · simp only [h1, h2, or_self, if_true, if_false, container_intBits]
      cases ix <;> rfl

section
variable {x : FVal} (hx : v.read a = x)
include hx

theorem convert_int_nan (hk : k.isInt = true) (h : x = .nan) : v.convert k a = (0, Fl.nv) := by
  unfold convert
  rw [hx, if_pos hk, h]

theorem convert_int_inf (hk : k.isInt = true) {n : Bool} (h : x = .inf n) :
    v.convert k a = intResult k (if n then (intRange k).1 else (intRange k).2) Fl.sat := by
  unfold convert
  rw [hx, if_pos hk, h]
  exact container_intBits ..

theorem convert_int_num (hk : k.isInt = true) {n : Bool} {m : Nat} {e : Int} (h : x = .num n m e) :
    ∃ d : Nat, Near v.rnd n (ratCmp m 1 e 0) d ∧
      (let i : Int := if n then -d else d
       v.convert k a = if i < (intRange k).1 then intResult k (intRange k).1 Fl.sat
         else if (intRange k).2 < i then intResult k (intRange k).2 Fl.sat
         else intResult k i (if ratCmp m 1 e 0 (2 * d) = .eq then 0 else Fl.nx)) := by
  refine ⟨_, near_roundGrid v.rnd n m e 0, ?_⟩
  unfold convert
  rw [hx, if_pos hk, h]
  refine (container_clampInt_flags k _ (roundGrid v.rnd n m e 0).2).trans ?_
  simp only [roundGrid_exact_iff]
  rfl

theorem convert_e4m3_inf {n : Bool} (h : x = .inf n) : v.convert .e4m3 a = (BitVec.ofNat 32 (EType.e4m3.fmt.maxBits n), Fl.sat) := by
  unfold convert
  rw [hx, h]
  rfl

theorem convert_e4m3_big (h : v.overflows EType.e4m3.fmt x = true) : v.convert .e4m3 a = largest EType.e4m3.fmt x (Fl.sat ||| Fl.nx) := by
  cases x with
  | nan => cases h
  | inf n => cases h
  | num n m e =>
    rw [overflows_num] at h
    unfold convert
    rw [hx, largest, lt_zero_eq (ne_zero_of_ovf h)]
    exact if_pos h

theorem convert_float (hk : k.isFloat = true) (h : k = .e4m3 → x.isInf = false ∧ v.overflows k.fmt x = false) :
    v.convert k a = written k.fmt v.ftz (x.round k.fmt v.rnd) := by
  unfold convert
  rw [← container_flushOut v.ftz (round_lt k.fmt_usual x), hx, EType.not_isInt hk, if_neg Bool.false_ne_true]
  by_cases h4 : k = .e4m3
  · obtain ⟨hinf, hbig⟩ := h h4
    subst h4
    cases x with
    | nan => rfl
    | inf n => cases hinf
    | num n m e =>
      rw [overflows_num] at hbig
      exact if_neg (Bool.eq_false_iff.mp hbig)
  · cases k <;> first | rfl | contradiction

end
end ElemEnv

end Sys2Proof.Machine

open Sys2Proof Sys2Proof.Machine

/-- Settles O32: an element reads as `ElemEnv.value` and a result is written by `finish_eq` or `finishSat_eq`; the other forms are
`pickElem_num`, `compare_iff`, `abs_num`, `neg_num`, `selected_float` and the conversions. -/
theorem floatElements : Obligations.FloatElements := by
  intro v a b c k cond f sub signOf raw bits val out result overs largest sat below nans less more same s1 s2 p
  refine ⟨fun hv => ?arithmetic, fun hv hk => ?conversion⟩
  case arithmetic =>
    refine ⟨v.arith_float_two hv .., v.arith_float_two hv .., v.arith_float_two hv .., v.fma_float hv a b c, v.arithSat_float hv ..,
      v.arithSat_float hv .., v.arithSat_float hv .., fun h => ?nan, fun h => ?number, v.compare_iff hv cond a b, fun h => ?signNan, fun h =>
      ⟨v.abs_num hv h, v.neg_num hv h⟩, v.selected_float hv a⟩
    case nan => exact ⟨congrArg (·, 0) (v.pickElem_nan hv true h), congrArg (·, 0) (v.pickElem_nan hv false h)⟩
    case number =>
      obtain ⟨ha, hb⟩ := not_or.mp h
      have hmin := v.min_num hv ha hb
      have hmax := v.max_num hv ha hb
      have hba : (v.value b).below (v.value a) = true ↔ below (val b) (val a) := below_iff hb ha
      have hab : (v.value a).below (v.value b) = true ↔ below (val a) (val b) := below_iff ha hb
      exact ⟨fun hl => by rw [hmin, if_pos (hba.mpr hl)]; rfl, fun hl => by rw [hmin, if_neg (hba.not.mpr hl)]; rfl,
        fun hl => by rw [hmax, if_pos (hab.mpr hl)]; rfl, fun hl => by rw [hmax, if_neg (hab.not.mpr hl)]; rfl⟩
    case signNan => exact ⟨v.abs_nan hv h, v.neg_nan hv h⟩
  case conversion =>
    intro whole x lo hi int y
    have hx : v.read a = x := by
      by_cases hi : v.ty.isInt = true
      · rw [v.read_int hi, intOf_eq]
        exact (if_pos hi).symm
      · rw [v.read_eq (EType.isFloat_of hi hv)]
        exact (if_neg hi).symm
    have hrange : intRange k = (lo, hi) := intRange_eq k
    refine ⟨fun ht => ⟨v.convert_int_nan hx ht, fun n h => ?_, fun n m e h => ?_⟩, ?_, v.convert_float hx⟩
    · have := v.convert_int_inf hx ht h
      rw [hrange] at this
      exact this
    · have := v.convert_int_num hx ht h
      rw [hrange] at this
      exact this
    · rintro rfl
      exact ⟨fun n h => v.convert_e4m3_inf hx h, v.convert_e4m3_big hx⟩
end

section
/-! PROOF. O34, first part: values that a format holds, exact pairs and double words (03 R69, R76 to R81). A sequence is its exact steps
in order; what `SeqNote` gathers on the way is read off their list. -/

namespace Sys2Proof.Machine

theorem Fl.or_zero (x : Fl) : x ||| 0 = x := BitVec.or_zero
theorem Fl.zero_or (x : Fl) : 0 ||| x = x := BitVec.zero_or

/-! Values that a format holds are rounded to themselves -/

section
variable {f : FFmt} {mode : Rnd} (hf : f.Usual)
include hf

/-- A normal number at the format's precision is rounded to itself. -/
theorem round_normal_value {x y : Nat} (hx : x < 2 ^ f.eb) (hy : y < 2 ^ f.fb) (hx0 : 0 < x)
    (htop : x = 2 ^ f.eb - 1 → f.hasInf = false ∧ y ≠ 2 ^ f.fb - 1) (neg : Bool) :
    (FVal.num neg (2 ^ f.fb + y) (x - f.bias - f.fb)).round f mode = (f.signBit neg + (x * 2 ^ f.fb + y), 0) := by
  have hpow := Nat.pow_succ 2 f.fb
  have h2 := hf.two_le
  have hlog : Nat.log2 (2 ^ f.fb + y) = f.fb := (Nat.log2_eq_iff (by omega)).mpr ⟨by omega, by omega⟩
  have hlead : leadOf (2 ^ f.fb + y) (x - f.bias - f.fb) = x - f.bias := by rw [leadOf, hlog]; omega
  have hprec : atPrecision f mode neg (2 ^ f.fb + y) (x - f.bias - f.fb) = (2 ^ f.fb + y, false) := by
    rw [atPrecision, hlead, roundGrid_of_le le_rfl, sub_self, Int.toNat_zero, pow_zero, mul_one]
  have hbig : ¬f.TooBig (leadOf (2 ^ f.fb + y) (x - f.bias - f.fb)) (atPrecision f mode neg (2 ^ f.fb + y) (x - f.bias - f.fb)).1 := by
    rw [hlead, hprec, FFmt.TooBig]
    cases hi : f.hasInf
    · simp only [Bool.false_eq_true, if_false]
      omega
    · simp only [hi, Bool.true_eq_false, false_and, imp_false, if_true] at htop ⊢
      omega
  have hnorm := roundMag_normal hf (by omega) hbig (by rw [hlead, FFmt.emin]; omega)
  have hsmall : ¬2 ^ (f.fb + 1) ≤ 2 ^ f.fb + y := by omega
  simp only [hlead, hprec, FFmt.leadAfter, FFmt.sigAfter, ge_iff_le, if_neg hsmall, Int.sub_add_cancel, Int.toNat_natCast,
    Nat.add_sub_cancel_left] at hnorm
  rw [FVal.round, hnorm]
  exact Prod.ext rfl (flags_exact _)

/-- A subnormal number is rounded to itself. -/
theorem round_subnormal_value {y : Nat} (hy : y < 2 ^ f.fb) (neg : Bool) :
    (FVal.num neg y (f.emin - f.fb)).round f mode = (f.signBit neg + y, 0) := by
  rcases Nat.eq_zero_or_pos y with rfl | hpos
  · exact round_zero ..
  · have h4 := hf.four_le
    have hlog : Nat.log2 y < f.fb := (Nat.log2_lt hpos.ne').mpr hy
    have hlead : leadOf y (f.emin - f.fb) < f.emin := by rw [leadOf]; omega
    have hbig : ¬f.TooBig (leadOf y (f.emin - f.fb)) (atPrecision f mode neg y (f.emin - f.fb)).1 := by
      rw [FFmt.emin] at hlead ⊢
      rw [FFmt.TooBig]
      split <;> omega
    have hsub := roundMag_subnormal hf hpos.ne' hbig hlead
    have hexact : roundGrid mode neg y (f.emin - f.fb) (f.emin - f.fb) = (y, false) := by
      rw [roundGrid_of_le le_rfl, sub_self, Int.toNat_zero, pow_zero, mul_one]
    simp only [hexact] at hsub
    rw [FVal.round, hsub]
    refine Prod.ext rfl ?_
    simp [Rounded.flags, Fl.when]

/-- A value that a format holds is rounded to its own pattern, without a flag. -/
theorem round_decode {b : Nat} (hb : b < 2 ^ (f.eb + f.fb + 1)) (hi : f.hasInf = true) (hn : f.decode b ≠ .nan) :
    (f.decode b).round f mode = (b, 0) := by
  have hx := f.expOf_lt b
  have hy := f.fracOf_lt b
  have hb' := FFmt.fields_eq hb
  rw [FFmt.decode_eq] at hn ⊢
  by_cases h0 : f.expOf b = 0
  · rw [if_pos h0, round_subnormal_value hf hy]
    rw [h0, Nat.zero_mul, Nat.zero_add] at hb'
    rw [← hb']
  · rw [if_neg h0] at hn ⊢
    by_cases htop : f.expOf b = 2 ^ f.eb - 1
    · rw [if_pos ⟨htop, hi⟩] at hn ⊢
      by_cases hfrac : f.fracOf b = 0
      · rw [if_pos hfrac, FVal.round, if_pos hi, FFmt.infBits_eq, ← htop, ← hfrac, ← hb']
      · exact absurd (if_neg hfrac) hn
    · rw [if_neg fun h => htop h.1, if_neg fun h => htop h.1,
        round_normal_value hf hx hy (Nat.pos_of_ne_zero h0) (fun h => absurd h htop), ← hb']

/-- A finite value that RN does not take to an infinity becomes a finite value. -/
theorem round_num_rne (hi : f.hasInf = true) (n : Bool) (m : Nat) (e : Int) :
    ((FVal.num n m e).round f .rne = (f.infBits n, Fl.of ||| Fl.nx) ∧ m ≠ 0) ∨
    (((FVal.num n m e).round f .rne).2 &&& Fl.of = 0 ∧ ∃ m' e', f.decode ((FVal.num n m e).round f .rne).1 = .num n m' e') := by
  rcases Nat.eq_zero_or_pos m with rfl | hm
  · rw [round_zero]
    exact .inr ⟨BitVec.zero_and, 0, _, FFmt.decode_subnormal (f := f) (y := 0) (Nat.two_pow_pos _) n⟩
  · by_cases h : f.TooBig (leadOf m e) (atPrecision f .rne n m e).1
    · have hinf : f.toInf .rne n = true := by rw [FFmt.toInf, hi]; rfl
      refine .inl ⟨?_, hm.ne'⟩
      rw [FVal.round, roundMag_tooBig hf hm.ne' h, if_pos hinf]
      exact Prod.ext rfl (flags_ovf _)
    · obtain ⟨hovf, -, -, -, m', e', hdec, -⟩ := roundMag_finite (mode := .rne) (neg := n) hf hm.ne' h
      refine .inr ⟨?_, m', e', hdec⟩
      have := flags_of_iff (roundMag f .rne n m e)
      rw [hovf] at this
      exact bne_eq_false_iff_eq.mp this

theorem rn_nan : rn f .nan = (.nan, 0) := Prod.ext hf.decode_canonNaN rfl

theorem rn_inf (hi : f.hasInf = true) (n : Bool) : rn f (.inf n) = (.inf n, 0) := by
  have hr : (FVal.inf n).round f .rne = (f.infBits n, 0) := if_pos hi
  rw [rn, hr]
  exact Prod.ext (hf.decode_infBits n hi) rfl

/-- Only a NaN becomes a NaN. -/
theorem rn_eq_nan_iff (hi : f.hasInf = true) (x : FVal) : (rn f x).1 = .nan ↔ x = .nan := by
  cases x with
  | nan => rw [rn_nan hf]
  | inf n => rw [rn_inf hf hi]
  | num n m e =>
    refine iff_of_false ?_ (by simp)
    rcases round_num_rne hf hi n m e with ⟨h, -⟩ | ⟨-, m', e', h⟩
    · rw [rn, h]
      simp [hf.decode_infBits n hi]
    · rw [rn]
      simp [h]

/-- The pattern of a rounded value is the one that the rounding gave. -/
theorem bitsOf_rn (hi : f.hasInf = true) (x : FVal) : bitsOf f (rn f x).1 = (x.round f .rne).1 := by
  by_cases hx : x = .nan
  · rw [hx, rn_nan hf]
    rfl
  · have hne := (rn_eq_nan_iff hf hi x).not.mpr hx
    rw [bitsOf, rn] at *
    rw [round_decode hf (round_lt hf x) hi hne]

/-- RN of a finite value is an infinity exactly where it overflows; it keeps the sign. -/
theorem rn_num (hi : f.hasInf = true) (n : Bool) (m : Nat) (e : Int) :
    ((rn f (.num n m e)).1 = .inf n ∧ (rn f (.num n m e)).2 = Fl.of ||| Fl.nx ∧ m ≠ 0) ∨
    ((rn f (.num n m e)).1.isInf = false ∧ (rn f (.num n m e)).2 &&& Fl.of = 0) := by
  rcases round_num_rne hf hi n m e with ⟨h, hm⟩ | ⟨hfl, m', e', h⟩
  · rw [rn, h]
    exact .inl ⟨hf.decode_infBits n hi, rfl, hm⟩
  · rw [rn]
    exact .inr ⟨by simp only [h, FVal.isInf], hfl⟩

end

/-! Sequences of roundings (03 R76 to R79, R81) -/

/-- A step of a sequence: whether it counts towards PI, and its exact value. -/
abbrev SeqStep := Bool × FVal

/-- What a sequence sets aside after a list of steps. -/
def noteOf (f : FFmt) (l : List SeqStep) : SeqNote := l.foldl (fun n s => (seqRn f s.1 s.2 n).2) SeqNote.none

/-- Whether a step makes an infinity of finite values. -/
def SeqStep.overflows (f : FFmt) (s : SeqStep) : Bool := !s.2.isInf && !s.2.isNaN && (rn f s.2).1.isInf

theorem seqRn_noteOf (f : FFmt) (c : Bool) (x : FVal) (l : List SeqStep) :
    seqRn f c x (noteOf f l) = ((rn f x).1, noteOf f (l ++ [(c, x)])) := by
  rw [noteOf, noteOf, List.foldl_append]
  rfl

section
variable {f : FFmt} (hf : f.Usual) (hi : f.hasInf = true)
include hf hi

/-- The sign of the first infinity is that of the exact value that overflowed. -/
theorem seqRn_ovf (c : Bool) (x : FVal) (n : SeqNote) : (seqRn f c x n).2.ovf =
    n.ovf.or (if SeqStep.overflows f (c, x) then some (x.lt FVal.zero) else none) := by
  obtain ⟨pi, ovf⟩ := n
  cases ovf with
  | some s => simp [seqRn]
  | none =>
    cases x with
    | nan => simp [seqRn, rn_nan hf, SeqStep.overflows, FVal.isNaN]
    | inf b => simp [seqRn, rn_inf hf hi, SeqStep.overflows, FVal.isInf]
    | num b m e =>
      rcases rn_num hf hi b m e with ⟨h, -, hm⟩ | ⟨h, -⟩
      · simp [seqRn, h, SeqStep.overflows, FVal.isInf, FVal.isNaN, lt_zero_eq hm]
      · have hno : ∀ s, (rn f (.num b m e)).1 ≠ .inf s := fun s hs => by rw [hs] at h; cases h
        simp only [seqRn, SeqStep.overflows, h, Bool.and_false, Bool.false_eq_true, if_false, Option.none_or]
        cases hr : (rn f (.num b m e)).1 with
        | inf s => exact absurd hr (hno s)
        | nan => rfl
        | num => rfl

/-- What a sequence sets aside, read off its steps. -/
theorem noteOf_eq (l : List SeqStep) : noteOf f l =
    { pi := l.any (fun s => s.1 && (s.2.round f .rne).2 &&& Fl.nx != 0), ovf := (l.find? (SeqStep.overflows f)).map (fun s => s.2.lt FVal.zero) } := by
  induction l using List.reverseRecOn with
  | nil => rfl
  | append_singleton l s ih =>
    have hstep : noteOf f (l ++ [s]) = (seqRn f s.1 s.2 (noteOf f l)).2 := by rw [noteOf, List.foldl_append]; rfl
    have hpi : (noteOf f (l ++ [s])).pi = ((noteOf f l).pi || (s.1 && (s.2.round f .rne).2 &&& Fl.nx != 0)) := by rw [hstep]; rfl
    have hovf := (congrArg SeqNote.ovf hstep).trans (seqRn_ovf hf hi s.1 s.2 (noteOf f l))
    have heta : ∀ n : SeqNote, n = ⟨n.pi, n.ovf⟩ := fun _ => rfl
    rw [heta (noteOf f (l ++ [s])), hpi, hovf, ih]
    congr 1
    · simp
    · rw [List.find?_append, Option.map_or]
      by_cases h : SeqStep.overflows f s <;> simp [h]

/-- The result of a finished sequence, from its steps (03 R79, R81). -/
def finishSteps (f : FFmt) (r : (FVal × FVal) × List SeqStep) : PairRes :=
  let zeroed (x : FVal) : Nat := if x.isZero then 0 else bitsOf f x
  match r.2.find? (SeqStep.overflows f) with
  | some s => pairOf (f.infBits (s.2.lt FVal.zero)) f.pairNaN (Fl.of ||| Fl.pi ||| Fl.nx)
  | none =>
    let pi := r.2.any (fun s => s.1 && (s.2.round f .rne).2 &&& Fl.nx != 0)
    pairOf (bitsOf f r.1.1) (zeroed r.1.2) ((if pi then Fl.pi else 0) ||| (if pi = true ∨ zeroed r.1.2 ≠ 0 then Fl.nx else 0))

theorem seqFinish_eq (r : FVal × FVal) (l : List SeqStep) : seqFinish f r (noteOf f l) = finishSteps f (r, l) := by
  rw [noteOf_eq hf hi, seqFinish, finishSteps]
  cases l.find? (SeqStep.overflows f) with
  | some s => rfl
  | none =>
    simp only [Option.map_none, Fl.when]
    congr 2
    refine if_congr ?_ rfl rfl
    rw [Bool.or_eq_true, bne_iff_ne, or_comm]

end

/-! The sequences as their steps -/

section
variable (f : FFmt)

/-- TwoSum (03 R76). -/
def twoSteps (count : Bool) (x y : FVal) : (FVal × FVal) × List SeqStep :=
  let rn (x : FVal) : FVal := (rn f x).1
  let s := rn (x.add .rne y)
  let w := rn (s.add .rne x.neg)
  let z := rn (s.add .rne w.neg)
  let m := rn (x.add .rne z.neg)
  let n := rn (y.add .rne w.neg)
  ((s, rn (m.add .rne n)), [(false, x.add .rne y), (count, s.add .rne x.neg), (count, s.add .rne w.neg), (count, x.add .rne z.neg),
    (count, y.add .rne w.neg), (count, m.add .rne n)])

/-- FastTwoSum (03 R76). -/
def fastSteps (x y : FVal) : (FVal × FVal) × List SeqStep :=
  let rn (x : FVal) : FVal := (rn f x).1
  let s := rn (x.add .rne y)
  let z := rn (s.add .rne x.neg)
  ((s, rn (y.add .rne z.neg)), [(false, x.add .rne y), (true, s.add .rne x.neg), (true, y.add .rne z.neg)])

/-- DWADD (03 R78). -/
def sumSteps (p q : FVal × FVal) : (FVal × FVal) × List SeqStep :=
  let rn (x : FVal) : FVal := (rn f x).1
  let s := twoSteps f true p.1 q.1
  let w := twoSteps f true p.2 q.2
  let se := rn (s.1.2.add .rne w.1.1)
  let h := fastSteps f s.1.1 se
  let se' := rn (h.1.2.add .rne w.1.2)
  let r := fastSteps f h.1.1 se'
  (r.1, s.2 ++ w.2 ++ [(true, s.1.2.add .rne w.1.1)] ++ h.2 ++ [(true, h.1.2.add .rne w.1.2)] ++ r.2)

/-- DWMUL (03 R78). -/
def mulSteps (p q : FVal × FVal) : (FVal × FVal) × List SeqStep :=
  let rn (x : FVal) : FVal := (rn f x).1
  let m := p.1.mul q.1
  let l := rn (m.add .rne (rn m).neg)
  let w := p.2.mul q.1
  let z := (p.1.mul q.2).add .rne (rn w)
  let r := fastSteps f (rn m) (rn (l.add .rne (rn z)))
  (r.1, [(false, m), (true, m.add .rne (rn m).neg), (true, w), (true, z), (true, l.add .rne (rn z))] ++ r.2)

theorem twoSum_noteOf (count : Bool) (x y : FVal) (l : List SeqStep) :
    twoSum f count x y (noteOf f l) = ((twoSteps f count x y).1, noteOf f (l ++ (twoSteps f count x y).2)) := by
  simp only [twoSum, seqAdd, seqSub, seqRn_noteOf, twoSteps, List.append_assoc, List.cons_append, List.nil_append]

theorem fastTwoSum_noteOf (x y : FVal) (l : List SeqStep) :
    fastTwoSum f x y (noteOf f l) = ((fastSteps f x y).1, noteOf f (l ++ (fastSteps f x y).2)) := by
  simp only [fastTwoSum, seqAdd, seqSub, seqRn_noteOf, fastSteps, List.append_assoc, List.cons_append, List.nil_append]

theorem dwAddSeq_noteOf (p q : FVal × FVal) (l : List SeqStep) :
    dwAddSeq f p q (noteOf f l) = ((sumSteps f p q).1, noteOf f (l ++ (sumSteps f p q).2)) := by
  simp only [dwAddSeq, twoSum_noteOf, fastTwoSum_noteOf, seqAdd, seqRn_noteOf, sumSteps, List.append_assoc]

theorem dwMulSeq_noteOf (p q : FVal × FVal) (l : List SeqStep) :
    dwMulSeq f p q (noteOf f l) = ((mulSteps f p q).1, noteOf f (l ++ (mulSteps f p q).2)) := by
  simp only [dwMulSeq, twoProd, fastTwoSum_noteOf, seqAdd, seqRn_noteOf, mulSteps, List.append_assoc, List.cons_append, List.nil_append]

/-- The steps of a double-word operation. -/
def DwOp.steps : DwOp → FVal × FVal → FVal × FVal → FVal × FVal → (FVal × FVal) × List SeqStep
  | .add, p, q, _ => sumSteps f p q
  | .mul, p, q, _ => mulSteps f p q
  | .norm, p, _, _ => fastSteps f p.1 p.2
  | .fma, p, q, r => let m := mulSteps f p q; let w := sumSteps f m.1 r; (w.1, m.2 ++ w.2)

theorem dwSeq_eq (o : DwOp) (p q r : FVal × FVal) : o.seq f p q r = ((o.steps f p q r).1, noteOf f (o.steps f p q r).2) := by
  have hstart : SeqNote.none = noteOf f [] := rfl
  cases o <;> simp only [DwOp.seq, DwOp.steps, hstart, dwAddSeq_noteOf, dwMulSeq_noteOf, fastTwoSum_noteOf, List.nil_append]

end

/-! Double words (03 R78, R79) -/

/-- The value of a pair of containers. -/
def pairVal (c : W32 × W32) : FVal × FVal := (FFmt.fp32.decode c.1.toNat, FFmt.fp32.decode c.2.toNat)

/-- The operands that a form has. -/
def DwOp.used {α : Type} (o : DwOp) (p q r : α) : List α := match o with | .norm => [p] | .fma => [p, q, r] | _ => [p, q]

/-- An operand that a form lacks is +0, which is neither a NaN nor an infinity. -/
theorem any_used (o : DwOp) {cb cc : W32 × W32} (hb : o = .norm → cb = (0, 0)) (hc : o ≠ .fma → cc = (0, 0)) (p : FVal × FVal)
    {g : FVal × FVal → Bool} (hg : g (pairVal (0, 0)) = false) :
    [p, pairVal cb, pairVal cc].any g = (o.used p (pairVal cb) (pairVal cc)).any g := by
  cases o with
  | add => rw [hc (by decide)]; simp only [DwOp.used, List.any_cons, List.any_nil, hg, Bool.or_false]
  | mul => rw [hc (by decide)]; simp only [DwOp.used, List.any_cons, List.any_nil, hg, Bool.or_false]
  | fma => rfl
  | norm => rw [hb rfl, hc (by decide)]; simp only [DwOp.used, List.any_cons, List.any_nil, hg, Bool.or_false]

theorem any_isNaN_iff (l : List (FVal × FVal)) : l.any (fun p => p.1.isNaN || p.2.isNaN) = true ↔ FVal.nan ∈ l.flatMap (fun z => [z.1, z.2]) := by
  simp only [List.any_eq_true, List.mem_flatMap, ElemEnv.nan_mem_two]

theorem doubleWord_eq (o : DwOp) (ca : W32 × W32) {cb cc : W32 × W32} (hb : o = .norm → cb = (0, 0)) (hc : o ≠ .fma → cc = (0, 0)) :
    let f := FFmt.fp32
    let used := o.used (pairVal ca) (pairVal cb) (pairVal cc)
    let parts := used.flatMap (fun z => [z.1, z.2])
    let h0 := o.plain f (pairVal ca) (pairVal cb) (pairVal cc)
    doubleWord o ca cb cc = if FVal.nan ∈ parts ∨ h0 = .nan then pairOf f.canonNaN f.canonNaN (if FVal.nan ∈ parts then 0 else Fl.nv)
      else if used.any (fun z => z.1.isInf) then pairOf (bitsOf f h0) 0 0
      else finishSteps f (o.steps f (pairVal ca) (pairVal cb) (pairVal cc)) := by
  intro f used parts h0
  have hnan : [pairVal ca, pairVal cb, pairVal cc].any (fun p => p.1.isNaN || p.2.isNaN) = decide (FVal.nan ∈ parts) := by
    rw [any_used o hb hc _ (by decide), Bool.eq_iff_iff, any_isNaN_iff, decide_eq_true_iff]
  have hinf : [pairVal ca, pairVal cb, pairVal cc].any (fun p => p.1.isInf) = used.any (fun z => z.1.isInf) := any_used o hb hc _ (by decide)
  have hseq := dwSeq_eq f o (pairVal ca) (pairVal cb) (pairVal cc)
  have hdef : doubleWord o ca cb cc =
      if ([pairVal ca, pairVal cb, pairVal cc].any (fun p => p.1.isNaN || p.2.isNaN) || h0.isNaN) = true then
        pairOf f.canonNaN f.canonNaN (Fl.when (!([pairVal ca, pairVal cb, pairVal cc].any (fun p => p.1.isNaN || p.2.isNaN))) Fl.nv)
      else if [pairVal ca, pairVal cb, pairVal cc].any (fun p => p.1.isInf) = true then pairOf (bitsOf f h0) 0 0
      else seqFinish f (o.seq f (pairVal ca) (pairVal cb) (pairVal cc)).1 (o.seq f (pairVal ca) (pairVal cb) (pairVal cc)).2 := rfl
  rw [hdef, hnan, hinf, hseq, seqFinish_eq (f := f) EType.fp32.fmt_usual rfl]
  refine if_congr ?_ ?_ rfl
  · rw [Bool.or_eq_true, decide_eq_true_iff, ElemEnv.isNaN_iff]
  · by_cases h : FVal.nan ∈ parts <;> simp [h, Fl.when]

/-! Exact pairs (03 R77) -/

section
variable {t : EType} (ht : wideFloat t = true)
include ht

theorem wideFloat_hasInf : t.fmt.hasInf = true := by revert ht; cases t <;> decide
theorem wideFloat_isFloat : t.isFloat = true := by revert ht; cases t <;> decide

/-- The value of an element of the wide floating types. -/
theorem elemVal_wide (c : W32) : elemVal t (elemBits t c) = t.fmt.decode (c.toNat % 2 ^ t.bits) := by
  rw [elemVal, EType.not_isInt (wideFloat_isFloat ht), if_neg Bool.false_ne_true, elemBits, Nat.mod_mod]

end

theorem PairOp.exact_nan (op : PairOp) {x y : FVal} (h : x = .nan ∨ y = .nan) : op.exact x y = .nan := by
  rcases h with rfl | rfl
  · cases op <;> rfl
  · cases op <;> cases x <;> rfl

theorem add_of_inf {mode : Rnd} {x y : FVal} (h : x.isInf = true ∨ y.isInf = true) :
    x.add mode y = .nan ∨ ∃ n, x.add mode y = .inf n := by
  cases x with
  | nan => exact .inl rfl
  | inf a =>
    cases y with
    | nan => exact .inl rfl
    | inf b =>
      by_cases hab : (a == b) = true
      · exact .inr ⟨a, if_pos hab⟩
      · exact .inl (if_neg hab)
    | num => exact .inr ⟨a, rfl⟩
  | num =>
    cases y with
    | nan => exact .inl rfl
    | inf b => exact .inr ⟨b, rfl⟩
    | num => rcases h with h | h <;> cases h

theorem mul_of_inf {x y : FVal} (h : x.isInf = true ∨ y.isInf = true) : x.mul y = .nan ∨ ∃ n, x.mul y = .inf n := by
  cases x with
  | nan => exact .inl rfl
  | inf a =>
    cases y with
    | nan => exact .inl rfl
    | inf b => exact .inr ⟨a != b, rfl⟩
    | num b m e =>
      by_cases hm : m = 0
      · exact .inl (if_pos hm)
      · exact .inr ⟨a != b, if_neg hm⟩
  | num a m e =>
    cases y with
    | nan => exact .inl rfl
    | inf b =>
      by_cases hm : m = 0
      · exact .inl (if_pos hm)
      · exact .inr ⟨a != b, if_neg hm⟩
    | num => rcases h with h | h <;> cases h

theorem isInf_neg (x : FVal) : x.neg.isInf = x.isInf := by cases x <;> rfl

/-- An operation on an infinity gives an infinity or a NaN. -/
theorem PairOp.exact_inf (op : PairOp) {x y : FVal} (h : x.isInf = true ∨ y.isInf = true) :
    op.exact x y = .nan ∨ ∃ n, op.exact x y = .inf n := by
  cases op with
  | add => exact add_of_inf (mode := .rne) h
  | sub => exact add_of_inf (mode := .rne) (y := y.neg) (isInf_neg y ▸ h)
  | mul => exact mul_of_inf h

/-- An operation on finite values gives a finite value. -/
theorem PairOp.exact_num (op : PairOp) {x y : FVal} (hx : x ≠ .nan) (hy : y ≠ .nan) (hx' : x.isInf = false) (hy' : y.isInf = false) :
    ∃ n m e, op.exact x y = .num n m e := by
  cases x with
  | nan => contradiction
  | inf => cases hx'
  | num =>
    cases y with
    | nan => contradiction
    | inf => cases hy'
    | num =>
      cases op with
      | add => simp only [PairOp.exact, add_num]; split <;> exact ⟨_, _, _, rfl⟩
      | sub => simp only [PairOp.exact, FVal.neg, add_num]; split <;> exact ⟨_, _, _, rfl⟩
      | mul => exact ⟨_, _, _, rfl⟩

section
variable {t : EType} (ht : wideFloat t = true) (op : PairOp) (a b : W32)

/-- The value of an element. -/
def EType.value (t : EType) (c : W32) : FVal := t.fmt.decode (c.toNat % 2 ^ t.bits)

/-- The exact result of a pair operation. -/
def PairOp.result (op : PairOp) (t : EType) (a b : W32) : FVal := op.exact (t.value a) (t.value b)

/-- The low part as it is written: a zero is +0 (03 R77). -/
def lowBits (f : FFmt) (x : FVal) : Nat := if x.isZero then 0 else bitsOf f x

include ht

theorem exactPair_eq : exactPair t op a b =
    (let f := t.fmt
     let x := op.result t a b
     let h := x.round f .rne
     let plain := (h.2 &&& Fl.uf) ||| nvOf ((t.value a).isNaN || (t.value b).isNaN) x
     if ((t.value a).isNaN || (t.value b).isNaN || (rn f x).1.isNaN) = true then pairOf f.canonNaN f.canonNaN plain
     else if ((t.value a).isInf || (t.value b).isInf) = true then pairOf h.1 0 plain
     else if (rn f x).1.isInf = true then pairOf h.1 f.pairNaN (plain ||| Fl.of ||| Fl.pi ||| Fl.nx)
     else
       let l := rn f (x.add .rne (rn f x).1.neg)
       pairOf h.1 (lowBits f l.1) (plain ||| Fl.when ((l.2 &&& Fl.nx) != 0) Fl.pi ||| Fl.when (lowBits f l.1 != 0) Fl.nx)) := by
  rw [exactPair, elemVal_wide ht, elemVal_wide ht]
  rfl

theorem exactPair_nan (hx : op.result t a b = .nan) : exactPair t op a b =
    pairOf t.fmt.canonNaN t.fmt.canonNaN (if t.value a = .nan ∨ t.value b = .nan then 0 else Fl.nv) := by
  have hnan : (rn t.fmt .nan).1.isNaN = true := by rw [rn_nan t.fmt_usual]; rfl
  have hround : ((FVal.nan.round t.fmt .rne).2 &&& Fl.uf) = 0 := BitVec.zero_and
  have hop : ((t.value a).isNaN || (t.value b).isNaN) = decide (t.value a = .nan ∨ t.value b = .nan) := by
    rw [Bool.eq_iff_iff, decide_eq_true_iff, Bool.or_eq_true, ElemEnv.isNaN_iff, ElemEnv.isNaN_iff]
  rw [exactPair_eq ht]
  simp only [hx, hnan, Bool.or_true, if_true, hround, Fl.zero_or, hop, nvOf, Fl.when]
  congr 1
  by_cases h : t.value a = .nan ∨ t.value b = .nan <;> simp [h, FVal.isNaN]

section
variable (hx : op.result t a b ≠ .nan)
include hx

/-- The operands of a result that is no NaN are none. -/
theorem not_isNaN_of_result : ((t.value a).isNaN || (t.value b).isNaN || (rn t.fmt (op.result t a b)).1.isNaN) = false ∧
    nvOf ((t.value a).isNaN || (t.value b).isNaN) (op.result t a b) = 0 := by
  have ha : (t.value a).isNaN = false := Bool.eq_false_iff.mpr fun h => hx (op.exact_nan (.inl (ElemEnv.isNaN_iff.mp h)))
  have hb : (t.value b).isNaN = false := Bool.eq_false_iff.mpr fun h => hx (op.exact_nan (.inr (ElemEnv.isNaN_iff.mp h)))
  have hr : (rn t.fmt (op.result t a b)).1.isNaN = false :=
    Bool.eq_false_iff.mpr fun h => hx ((rn_eq_nan_iff t.fmt_usual (wideFloat_hasInf ht) _).mp (ElemEnv.isNaN_iff.mp h))
  have hn : (op.result t a b).isNaN = false := Bool.eq_false_iff.mpr fun h => hx (ElemEnv.isNaN_iff.mp h)
  simp [ha, hb, hr, hn, nvOf, Fl.when]

theorem exactPair_inf (hi : (t.value a).isInf = true ∨ (t.value b).isInf = true) :
    exactPair t op a b = pairOf (bitsOf t.fmt (op.result t a b)) 0 0 := by
  obtain ⟨hnan, hnv⟩ := not_isNaN_of_result ht op a b hx
  obtain ⟨n, hn⟩ := (op.exact_inf hi).resolve_left hx
  have hround : (FVal.inf n).round t.fmt .rne = (t.fmt.infBits n, 0) := if_pos (wideFloat_hasInf ht)
  have hr : op.result t a b = .inf n := hn
  have hop : ((t.value a).isInf || (t.value b).isInf) = true := Bool.or_eq_true .. ▸ hi
  rw [exactPair_eq ht]
  simp only [hnan, hnv, hop, if_true, Bool.false_eq_true, if_false]
  rw [hr, bitsOf, hround]
  exact congrArg (pairOf _ 0) (by simp)

theorem exactPair_num (ha : (t.value a).isInf = false) (hb : (t.value b).isInf = false) :
    let f := t.fmt
    let x := op.result t a b
    let rest := x.add .rne (rn f x).1.neg
    exactPair t op a b = if (rn f x).2 &&& Fl.of ≠ 0 then pairOf (bitsOf f x) f.pairNaN (Fl.of ||| Fl.pi ||| Fl.nx)
      else pairOf (bitsOf f x) (lowBits f (rn f rest).1) (((rn f x).2 &&& Fl.uf) ||| (if (rn f rest).2 &&& Fl.nx ≠ 0 then Fl.pi else 0) |||
        (if lowBits f (rn f rest).1 ≠ 0 then Fl.nx else 0)) := by
  intro f x rest
  obtain ⟨hnan, hnv⟩ := not_isNaN_of_result ht op a b hx
  have hna : t.value a ≠ .nan := fun h => hx (op.exact_nan (.inl h))
  have hnb : t.value b ≠ .nan := fun h => hx (op.exact_nan (.inr h))
  obtain ⟨n, m, e, hnum⟩ := op.exact_num hna hnb ha hb
  have hr : op.result t a b = .num n m e := hnum
  rw [exactPair_eq ht]
  simp only [hnan, hnv, ha, hb, Bool.or_self, Bool.false_eq_true, if_false, Fl.or_zero, Fl.when, bne_iff_ne]
  rcases rn_num t.fmt_usual (wideFloat_hasInf ht) n m e with ⟨hinf, hfl, -⟩ | ⟨hfin, hfl⟩
  · have hfl' : (((FVal.num n m e).round t.fmt .rne).2 : Fl) = Fl.of ||| Fl.nx := hfl
    have hof : (Fl.of ||| Fl.nx) &&& Fl.of ≠ 0 := by decide
    have huf : (Fl.of ||| Fl.nx) &&& Fl.uf ||| Fl.of ||| Fl.pi ||| Fl.nx = Fl.of ||| Fl.pi ||| Fl.nx := by decide
    have hcond : (rn f x).2 &&& Fl.of ≠ 0 := by rw [show x = .num n m e from hr, hfl]; exact hof
    have hisInf : (FVal.inf n).isInf = true := rfl
    rw [if_pos hcond, hr, hinf, if_pos hisInf, hfl', huf, ← hr]
    rfl
  · have hcond : ¬(rn f x).2 &&& Fl.of ≠ 0 := by rw [show x = .num n m e from hr, hfl]; exact fun h => h rfl
    rw [if_neg hcond, if_neg]
    · rfl
    · rw [hr, hfin]
      exact Bool.false_ne_true

end
end

/-! Compensated sums (03 R81) -/

/-- One element of a compensated sum: the running pair and the steps so far. -/
def caddStep (f : FFmt) (k : (FVal × FVal) × List SeqStep) (z : FVal) : (FVal × FVal) × List SeqStep :=
  let s := twoSteps f false k.1.1 z
  ((s.1.1, (rn f (k.1.2.add .rne s.1.2)).1), k.2 ++ s.2 ++ [(true, k.1.2.add .rne s.1.2)])

/-- A compensated sum of finite values. -/
def caddSteps (f : FFmt) (vs : List FVal) : (FVal × FVal) × List SeqStep :=
  let sum := vs.foldl (caddStep f) ((FVal.zero, FVal.zero), [])
  let last := fastSteps f sum.1.1 sum.1.2
  (last.1, sum.2 ++ last.2)

/-- One element of the model's compensated sum. -/
def caddNote (f : FFmt) (p : (FVal × FVal) × SeqNote) (x : FVal) : (FVal × FVal) × SeqNote :=
  let s := twoSum f false p.1.1 x p.2
  let c := seqAdd f true p.1.2 s.1.2 s.2
  ((s.1.1, c.1), c.2)

theorem caddNote_foldl (f : FFmt) (vs : List FVal) (k : (FVal × FVal) × List SeqStep) :
    vs.foldl (caddNote f) (k.1, noteOf f k.2) = ((vs.foldl (caddStep f) k).1, noteOf f (vs.foldl (caddStep f) k).2) := by
  induction vs generalizing k with
  | nil => rfl
  | cons z vs ih =>
    have hstep : caddNote f (k.1, noteOf f k.2) z = ((caddStep f k z).1, noteOf f (caddStep f k z).2) := by
      simp only [caddNote, twoSum_noteOf, seqAdd, seqRn_noteOf, caddStep]
    rw [List.foldl_cons, List.foldl_cons, hstep, ih]

theorem any_isNaN (vs : List FVal) : vs.any FVal.isNaN = true ↔ FVal.nan ∈ vs := by
  simp only [List.any_eq_true, ElemEnv.isNaN_iff, exists_eq_right]

/-- Whether a list holds an infinity of a sign. -/
theorem any_inf_negative (vs : List FVal) (b : Bool) :
    (vs.filter FVal.isInf).any (fun v => v.negative == b) = true ↔ FVal.inf b ∈ vs := by
  rw [List.any_filter, List.any_eq_true]
  constructor
  · rintro ⟨x, hx, h⟩
    cases x with
    | inf n => simp_all [FVal.isInf, FVal.negative]
    | nan => cases h
    | num => cases h
  · exact fun h => ⟨_, h, by simp [FVal.isInf, FVal.negative]⟩

theorem both_infs (vs : List FVal) : ((vs.filter FVal.isInf).any FVal.negative && (vs.filter FVal.isInf).any (fun v => !v.negative)) = true ↔
    FVal.inf true ∈ vs ∧ FVal.inf false ∈ vs := by
  rw [Bool.and_eq_true, ← any_inf_negative, ← any_inf_negative]
  simp

section
variable {t : EType} (ht : wideFloat t = true) (xs : List W32)
include ht

theorem map_elemVal : xs.map (fun x => elemVal t (elemBits t x)) = xs.map t.value := List.map_congr_left fun x _ => elemVal_wide ht x

/-- The cases of a compensated sum: a NaN or both infinities, an infinity, or finite values alone. -/
theorem reduceCadd_eq : reduceCadd t xs =
    (let f := t.fmt
     let vs := xs.map t.value
     let infs := vs.filter FVal.isInf
     if (vs.any FVal.isNaN || (infs.any FVal.negative && infs.any (fun v => !v.negative))) = true then
       pairOf f.canonNaN f.canonNaN (Fl.when (!(vs.any FVal.isNaN)) Fl.nv)
     else match infs with
       | v :: _ => pairOf (f.infBits v.negative) 0 0
       | [] => finishSteps f (caddSteps f vs)) := by
  have hfold := caddNote_foldl t.fmt (xs.map t.value) ((FVal.zero, FVal.zero), [])
  have hlast := fastTwoSum_noteOf t.fmt
  unfold reduceCadd
  rw [map_elemVal ht]
  refine if_congr Iff.rfl rfl ?_
  cases (xs.map t.value).filter FVal.isInf with
  | cons v _ => rfl
  | nil =>
    change (let r := (xs.map t.value).foldl (caddNote t.fmt) ((FVal.zero, FVal.zero), noteOf t.fmt [])
      let o := fastTwoSum t.fmt r.1.1 r.1.2 r.2
      seqFinish t.fmt o.1 o.2) = _
    simp only [hfold, hlast, seqFinish_eq t.fmt_usual (wideFloat_hasInf ht)]
    rfl

/-- A compensated sum with a NaN or both infinities. -/
theorem reduceCadd_nan (h : FVal.nan ∈ xs.map t.value ∨ (FVal.inf true ∈ xs.map t.value ∧ FVal.inf false ∈ xs.map t.value)) :
    reduceCadd t xs = pairOf t.fmt.canonNaN t.fmt.canonNaN (if FVal.nan ∈ xs.map t.value then 0 else Fl.nv) := by
  have hcond := (Bool.or_eq_true ..).to_iff.trans (or_congr (any_isNaN (xs.map t.value)) (both_infs (xs.map t.value)))
  rw [reduceCadd_eq ht]
  refine (if_pos (hcond.mpr h)).trans (congrArg (pairOf _ _) ?_)
  by_cases hn : FVal.nan ∈ xs.map t.value
  · rw [(any_isNaN _).mpr hn, if_pos hn]
    rfl
  · rw [Bool.eq_false_iff.mpr ((any_isNaN _).not.mpr hn), if_neg hn]
    rfl

section
variable (hn : FVal.nan ∉ xs.map t.value)
include hn

/-- A compensated sum with infinities of one sign. -/
theorem reduceCadd_inf (hb : ¬(FVal.inf true ∈ xs.map t.value ∧ FVal.inf false ∈ xs.map t.value)) {n : Bool}
    (hi : FVal.inf n ∈ xs.map t.value) : reduceCadd t xs = pairOf (t.fmt.infBits n) 0 0 := by
  have hcond := (Bool.or_eq_true ..).to_iff.trans (or_congr (any_isNaN (xs.map t.value)) (both_infs (xs.map t.value)))
  rw [reduceCadd_eq ht]
  refine (if_neg (hcond.not.mpr (not_or.mpr ⟨hn, hb⟩))).trans ?_
  have hmem : FVal.inf n ∈ (xs.map t.value).filter FVal.isInf := List.mem_filter.mpr ⟨hi, rfl⟩
  cases hl : (xs.map t.value).filter FVal.isInf with
  | nil => rw [hl] at hmem; cases hmem
  | cons v l =>
    obtain ⟨hv, hinf⟩ := List.mem_filter.mp (hl ▸ List.mem_cons_self : v ∈ (xs.map t.value).filter FVal.isInf)
    cases v with
    | nan => cases hinf
    | num => cases hinf
    | inf b =>
      have hbn : b = n := by
        by_contra hne
        cases b <;> cases n <;> simp_all
      rw [hbn]
      rfl

/-- A compensated sum of finite values. -/
theorem reduceCadd_num (hi : ∀ n, FVal.inf n ∉ xs.map t.value) : reduceCadd t xs = finishSteps t.fmt (caddSteps t.fmt (xs.map t.value)) := by
  have hcond := (Bool.or_eq_true ..).to_iff.trans (or_congr (any_isNaN (xs.map t.value)) (both_infs (xs.map t.value)))
  have hnone : (xs.map t.value).filter FVal.isInf = [] := by
    refine List.filter_eq_nil_iff.mpr fun x hx h => ?_
    cases x with
    | inf b => exact hi b hx
    | nan => cases h
    | num => cases h
  rw [reduceCadd_eq ht]
  refine (if_neg (hcond.not.mpr (not_or.mpr ⟨hn, fun hb => hi _ hb.1⟩))).trans ?_
  rw [hnone]

end
end

end Sys2Proof.Machine
end

section
/-! PROOF. O34, second part: plain sums, in index order and as the tree of R84, and picks (03 R80, R84). A level of the tree is the list of
its nodes with the flags below each. -/

namespace Sys2Proof.Machine

/-! Values that a format holds -/

section
variable {f : FFmt} (hf : f.Usual) (hi : f.hasInf = true)
include hf hi

/-- The pattern of a value that a format holds stands for it. -/
theorem decode_bitsOf {b : Nat} (hb : b < 2 ^ (f.eb + f.fb + 1)) : f.decode (bitsOf f (f.decode b)) = f.decode b := by
  by_cases hn : f.decode b = .nan
  · rw [hn]
    exact hf.decode_canonNaN
  · rw [bitsOf, round_decode hf hb hi hn]

theorem decode_bitsOf_rn (x : FVal) : f.decode (bitsOf f (rn f x).1) = (rn f x).1 := decode_bitsOf hf hi (round_lt hf x)

end

/-! Sums in index order -/

/-- One more element of a sum in index order. -/
def sumStep (f : FFmt) (p : FVal × Fl) (y : FVal) : FVal × Fl := ((rnAdd f p.1 y).1, p.2 ||| (rnAdd f p.1 y).2)

theorem sumInOrder_cons (f : FFmt) (x : FVal) (xs : List FVal) : sumInOrder f (x :: xs) = xs.foldl (sumStep f) (x, 0) := rfl

theorem sumInOrder_append (f : FFmt) {xs : List FVal} (hx : xs ≠ []) (y : FVal) : sumInOrder f (xs ++ [y]) = sumStep f (sumInOrder f xs) y := by
  cases xs with
  | nil => contradiction
  | cons x xs => rw [List.cons_append, sumInOrder_cons, sumInOrder_cons, List.foldl_append]; rfl

/-- A sum of values that a format holds is one. -/
theorem sumInOrder_held {f : FFmt} (hf : f.Usual) (bs : List Nat) (hb : ∀ b ∈ bs, b < 2 ^ (f.eb + f.fb + 1)) :
    bs ≠ [] → ∃ b, b < 2 ^ (f.eb + f.fb + 1) ∧ (sumInOrder f (bs.map f.decode)).1 = f.decode b := by
  induction bs using List.reverseRecOn with
  | nil => exact fun h => absurd rfl h
  | append_singleton bs b ih =>
    intro _
    rcases List.eq_nil_or_concat' bs with rfl | ⟨_, _, rfl⟩
    · exact ⟨b, hb b (by simp), rfl⟩
    · rw [List.map_append, List.map_singleton, sumInOrder_append f (by simp)]
      exact ⟨_, round_lt hf _, rfl⟩

/-! The tree of NP5 -/

/-- The nodes above a level of nodes: each holds RN of the sum of its children, with the flags met below it (03 R84). -/
def nodeLevel (f : FFmt) : List (FVal × Fl) → List (FVal × Fl)
  | a :: b :: rest => ((rnAdd f a.1 b.1).1, a.2 ||| b.2 ||| (rnAdd f a.1 b.1).2) :: nodeLevel f rest
  | [a] => [((rn f a.1).1, a.2 ||| (rn f a.1).2)]
  | [] => []

/-- The nodes of a level of the tree. -/
def nodes (f : FFmt) (xs : List FVal) : Nat → List (FVal × Fl)
  | 0 => xs.map (fun x => (x, 0))
  | k + 1 => nodeLevel f (nodes f xs k)

/-- The flags of all nodes of a level. -/
def allFlags (l : List (FVal × Fl)) : Fl := l.foldr (fun p a => p.2 ||| a) 0

theorem rnAdd_eq_RN (f : FFmt) (x y : FVal) : RN f (decide (x = .nan ∨ y = .nan)) (x.add .rne y) = rnAdd f x y := by
  have hops : (x.isNaN || y.isNaN) = decide (x = .nan ∨ y = .nan) := by
    rw [Bool.eq_iff_iff, decide_eq_true_iff, Bool.or_eq_true, ElemEnv.isNaN_iff, ElemEnv.isNaN_iff]
  rw [RN, rnAdd, hops, nvOf, Fl.when]
  refine Prod.ext rfl (congrArg (_ ||| ·) (if_congr ?_ rfl rfl))
  rw [Bool.and_eq_true, Bool.not_eq_true', ElemEnv.isNaN_iff]

theorem rn_eq_RN (f : FFmt) (x : FVal) : RN f (decide (x = .nan)) x = rn f x := by
  have hno : ¬(x = .nan ∧ decide (x = .nan) = false) := fun h => of_decide_eq_false h.2 h.1
  rw [RN, if_neg hno, Fl.or_zero]
  rfl

theorem nodeLevel_getElem? (f : FFmt) (l : List (FVal × Fl)) (j : Nat) : (nodeLevel f l)[j]? =
    match l[2 * j]?, l[2 * j + 1]? with
    | some a, some b => some ((rnAdd f a.1 b.1).1, a.2 ||| b.2 ||| (rnAdd f a.1 b.1).2)
    | some a, none => some ((rn f a.1).1, a.2 ||| (rn f a.1).2)
    | none, _ => none := by
  induction l using nodeLevel.induct generalizing j with
  | case1 a b rest ih =>
    cases j with
    | zero => rfl
    | succ j => exact ih j
  | case2 a => cases j <;> rfl
  | case3 => rfl

/-- A node of the tree is the node of its level. -/
theorem treeNode_eq (f : FFmt) (xs : List FVal) (k j : Nat) : treeNode f xs k j = (nodes f xs k)[j]? := by
  induction k generalizing j with
  | zero => simp [treeNode, nodes]
  | succ k ih =>
    rw [nodes, nodeLevel_getElem?, treeNode, ih, ih]
    have hnext : (nodes f xs k)[2 * j]? = none → (nodes f xs k)[2 * j + 1]? = none := fun h =>
      List.getElem?_eq_none (Nat.le_succ_of_le (List.getElem?_eq_none_iff.mp h))
    cases h0 : (nodes f xs k)[2 * j]? with
    | none => rw [hnext h0]
    | some a =>
      cases (nodes f xs k)[2 * j + 1]? with
      | none => simp only [rn_eq_RN]
      | some b => simp only [rnAdd_eq_RN]

/-- The model's level of the tree is the level of nodes, and the flags are those of all its nodes. -/
theorem treeLevel_eq (f : FFmt) (l : List (FVal × Fl)) : (treeLevel f (l.map (·.1))).1 = (nodeLevel f l).map (·.1) ∧
    allFlags (nodeLevel f l) = allFlags l ||| (treeLevel f (l.map (·.1))).2 := by
  induction l using nodeLevel.induct with
  | case1 a b rest ih =>
    obtain ⟨hval, hfl⟩ := ih
    refine ⟨congrArg (_ :: ·) hval, ?_⟩
    simp only [nodeLevel, allFlags, List.foldr_cons, List.map_cons, treeLevel] at hfl ⊢
    rw [hfl]
    ac_rfl
  | case2 a => exact ⟨rfl, by simp [nodeLevel, allFlags, treeLevel]⟩
  | case3 => exact ⟨rfl, (Fl.zero_or 0).symm⟩

theorem foldl_treeLevel (f : FFmt) (xs : List FVal) (k : Nat) :
    (List.range k).foldl (fun (p : List FVal × Fl) _ => let q := treeLevel f p.1; (q.1, p.2 ||| q.2)) (xs, 0) =
      ((nodes f xs k).map (·.1), allFlags (nodes f xs k)) := by
  induction k with
  | zero =>
    have h0 : allFlags (xs.map (fun x => (x, 0))) = 0 := by
      induction xs with
      | nil => rfl
      | cons x xs ih => exact (Fl.zero_or _).trans ih
    exact Prod.ext (by rw [nodes, List.map_map]; exact List.map_id' xs |>.symm) h0.symm
  | succ k ih =>
    obtain ⟨hval, hfl⟩ := treeLevel_eq f (nodes f xs k)
    rw [List.range_succ, List.foldl_append, ih]
    exact Prod.ext hval hfl.symm

theorem length_nodeLevel (f : FFmt) (l : List (FVal × Fl)) : (nodeLevel f l).length = (l.length + 1) / 2 := by
  induction l using nodeLevel.induct with
  | case1 a b rest ih => simp only [nodeLevel, List.length_cons, ih]; omega
  | case2 a => simp [nodeLevel]
  | case3 => simp [nodeLevel]

/-- The root of the tree over at most 64 leaves is node 0 of level 6 (03 R84). -/
theorem tree_eq (f : FFmt) {xs : List FVal} (h0 : xs ≠ []) (h64 : xs.length ≤ 64) : treeNode f xs 6 0 = some (tree f xs) := by
  have hlen : (nodes f xs 6).length = 1 := by
    have hpos := List.length_pos_iff.mpr h0
    simp only [nodes, length_nodeLevel, List.length_map]
    omega
  obtain ⟨p, hp⟩ := List.length_eq_one_iff.mp hlen
  rw [treeNode_eq, tree, foldl_treeLevel, hp]
  exact congrArg some (Prod.ext rfl (Fl.or_zero _).symm)

/-! Reductions -/

theorem reduceAdd_int {t : EType} (ht : t.isInt = true) (np5 : Bool) (xs : List W32) :
    reduceAdd t np5 xs = (BitVec.ofNat 32 ((xs.map (fun x => intOf t x.toNat)).sum % 2 ^ t.bits).toNat, 0) := by
  have hsum : xs.foldl (fun s x => s + intOf t x.toNat) 0 = (xs.map (fun x => intOf t x.toNat)).sum := by
    rw [List.sum_eq_foldl, List.foldl_map]
  rw [reduceAdd, if_pos ht, hsum, ElemEnv.container_intBits]
  rfl

section
variable {t : EType} (ht : wideFloat t = true) {xs : List W32}
include ht

theorem reduceAdd_float (np5 : Bool) (xs : List W32) : reduceAdd t np5 xs =
    (let r := if np5 then tree t.fmt (xs.map t.value) else sumInOrder t.fmt (xs.map t.value)
     (BitVec.ofNat 32 (bitsOf t.fmt r.1), r.2)) := by
  rw [reduceAdd, EType.not_isInt (wideFloat_isFloat ht), if_neg Bool.false_ne_true, map_elemVal ht]
  rfl

theorem reduceAdd_singleton (y : W32) : reduceAdd t false [y] = (BitVec.ofNat 32 (bitsOf t.fmt (t.value y)), 0) := reduceAdd_float ht false [y]

theorem value_ofNat {b : Nat} (hb : b < 2 ^ (t.fmt.eb + t.fmt.fb + 1)) : t.value (BitVec.ofNat 32 b) = t.fmt.decode b := by
  rw [← EType.bits_eq (wideFloat_isFloat ht)] at hb
  rw [EType.value, toNat_ofNat_of_lt_bits hb, Nat.mod_eq_of_lt hb]

/-- A sum written to a container reads back as the sum. -/
theorem value_reduceAdd (hx : xs ≠ []) : t.value (reduceAdd t false xs).1 = (sumInOrder t.fmt (xs.map t.value)).1 := by
  have hsize : ∀ x : W32, x.toNat % 2 ^ t.bits < 2 ^ (t.fmt.eb + t.fmt.fb + 1) := fun x => by
    rw [← EType.bits_eq (wideFloat_isFloat ht)]
    exact Nat.mod_lt _ (Nat.two_pow_pos _)
  obtain ⟨b, hb, hval⟩ := sumInOrder_held t.fmt_usual (xs.map (fun x => x.toNat % 2 ^ t.bits))
    (by simpa using fun x _ => hsize x) (by simpa using hx)
  rw [List.map_map] at hval
  have hval' : (sumInOrder t.fmt (xs.map t.value)).1 = t.fmt.decode b := hval
  rw [reduceAdd_float ht]
  simp only [Bool.false_eq_true, if_false]
  rw [value_ofNat ht (b := bitsOf _ _) (round_lt t.fmt_usual _), hval', decode_bitsOf t.fmt_usual (wideFloat_hasInf ht) hb]

/-- A sum in index order takes one more element by one rounded addition (03 R80). -/
theorem reduceAdd_append (hx : xs ≠ []) (y : W32) :
    let r := reduceAdd t false xs
    let n := (t.value r.1).add .rne (t.value y)
    reduceAdd t false (xs ++ [y]) = (BitVec.ofNat 32 (n.round t.fmt .rne).1,
      r.2 ||| (n.round t.fmt .rne).2 ||| (if n = .nan ∧ t.value r.1 ≠ .nan ∧ t.value y ≠ .nan then Fl.nv else 0)) := by
  intro r n
  have hr := value_reduceAdd ht hx
  have hr2 : r.2 = (sumInOrder t.fmt (xs.map t.value)).2 := by simp only [r, reduceAdd_float ht, Bool.false_eq_true, if_false]
  have hadd : rnAdd t.fmt (sumInOrder t.fmt (xs.map t.value)).1 (t.value y) =
      ((rn t.fmt n).1, (n.round t.fmt .rne).2 ||| (if n = .nan ∧ t.value r.1 ≠ .nan ∧ t.value y ≠ .nan then Fl.nv else 0)) := by
    rw [← hr, rnAdd, ElemEnv.nvOf_eq ElemEnv.nan_mem_two]
    refine Prod.ext rfl (congrArg (_ ||| ·) (if_congr (and_congr_right fun _ => ?_) rfl rfl))
    simp only [List.mem_cons, List.not_mem_nil, or_false, not_or, @eq_comm _ FVal.nan]
    rfl
  rw [reduceAdd_float ht]
  simp only [Bool.false_eq_true, if_false, List.map_append, List.map_singleton]
  rw [sumInOrder_append _ (by simpa using hx), sumStep, hadd, hr2]
  exact Prod.ext (congrArg (BitVec.ofNat 32) (bitsOf_rn t.fmt_usual (wideFloat_hasInf ht) n)) (BitVec.or_assoc ..).symm

/-- A sum under NP5 is the root of the tree (03 R84). -/
theorem reduceAdd_tree (hx : xs ≠ []) (h64 : xs.length ≤ 64) : ∃ z w, treeNode t.fmt (xs.map t.value) 6 0 = some (z, w) ∧
    reduceAdd t true xs = (BitVec.ofNat 32 (bitsOf t.fmt z), w) :=
  ⟨_, _, tree_eq t.fmt (by simpa using hx) (by simpa using h64), reduceAdd_float ht true xs⟩

end

theorem reducePick_append (t : EType) (least : Bool) {xs : List W32} (hx : xs ≠ []) (y : W32) :
    reducePick t least (xs ++ [y]) = pickElem t false least (reducePick t least xs) y := by
  cases xs with
  | nil => contradiction
  | cons x xs => simp [reducePick]

end Sys2Proof.Machine
end

section
/-! PROOF. O34, third part: the special functions (20 R421, R422). A quotient or a root is known to one unit far below the format's
precision, with a sticky bit; the comparisons of a rounding do not see the difference. -/

namespace Sys2Proof.Machine

/-! Values known to a unit -/

section
variable {f : FFmt} {mode : Rnd} {neg : Bool} {q : Nat} {E : Int}

/-- Half units of 2^Q in units of 2^E. -/
def halfUnits (E Q : Int) (k : Nat) : Nat := k * 2 ^ (Q - 1 - E).toNat

theorem cast_halfUnits {Q : Int} (h : E ≤ Q - 1) (k : Nat) : (k : ℚ) * 2 ^ (Q - 1) = (halfUnits E Q k : ℚ) * 2 ^ E := by
  rw [halfUnits, cast_shift h, div_mul_cancel₀ _ (by positivity)]

theorem ratCmp_exact {Q : Int} (h : E ≤ Q - 1) (k : Nat) : ratCmp q 1 E Q k = compare (halfUnits E Q k) q := by
  have hpos : (0 : ℚ) < 2 ^ E := by positivity
  rw [ratCmp_eq, Nat.mul_one, cast_halfUnits h]
  refine (compare_congr ?_ ?_).symm
  · rw [mul_lt_mul_iff_left₀ hpos, Nat.cast_lt]
  · rw [mul_lt_mul_iff_left₀ hpos, Nat.cast_lt]

/-- A sticky value lies strictly between two units. -/
theorem ratCmp_sticky {Q : Int} (h : E ≤ Q - 1) (k : Nat) :
    ratCmp (2 * q + 1) 1 (E - 1) Q k = if halfUnits E Q k ≤ q then .lt else .gt := by
  have hexact := ratCmp_exact (q := 2 * q + 1) (show E - 1 ≤ Q - 1 by omega) k
  have hdouble : halfUnits (E - 1) Q k = 2 * halfUnits E Q k := by
    rw [halfUnits, halfUnits, show (Q - 1 - (E - 1)).toNat = (Q - 1 - E).toNat + 1 by omega, Nat.pow_succ]
    ring
  rw [hexact, hdouble]
  split
  · exact compare_lt_iff_lt.mpr (by omega)
  · exact compare_gt_iff_gt.mpr (by omega)

theorem le_leadOf {m k : Nat} (h : 2 ^ k ≤ m) (e : Int) : e + k ≤ leadOf m e := by
  have hm : m ≠ 0 := by have := Nat.two_pow_pos k; omega
  have := (Nat.le_log2 hm).mpr h
  rw [leadOf]
  omega

/-- A value of q units is rounded by every comparison that counts units. -/
theorem roundsTo_units (hf : f.Usual) {cmp : Int → Nat → Ordering} (hq : 2 ^ (f.fb + 1) ≤ q)
    (hcmp : ∀ Q, E ≤ Q - 1 → ∀ k, cmp Q k = compare (halfUnits E Q k) q) : RoundsTo f mode neg cmp ((FVal.num neg q E).round f mode) := by
  have hlead := le_leadOf hq E
  have hq0 : q ≠ 0 := by have := Nat.two_pow_pos (f.fb + 1); omega
  exact roundsTo_round hf hq0 fun Q hQ => funext fun k => (hcmp Q (by push_cast at hlead; omega) k).trans (ratCmp_exact (by push_cast at hlead; omega) k).symm

/-- A value strictly between q and q + 1 units is rounded as the sticky value is. -/
theorem roundsTo_sticky (hf : f.Usual) {cmp : Int → Nat → Ordering} (hq : 2 ^ (f.fb + 1) ≤ q)
    (hcmp : ∀ Q, E ≤ Q - 1 → ∀ k, cmp Q k = if halfUnits E Q k ≤ q then .lt else .gt) :
    RoundsTo f mode neg cmp ((stickyVal neg q E).round f mode) := by
  have hlead := le_leadOf (show 2 ^ (f.fb + 2) ≤ 2 * q + 1 by rw [Nat.pow_succ]; omega) (E - 1)
  refine roundsTo_round hf (show 2 * q + 1 ≠ 0 by omega) fun Q hQ => funext fun k => ?_
  have hQ' : E ≤ Q - 1 := by push_cast at hlead; omega
  exact (hcmp Q hQ' k).trans (ratCmp_sticky hQ' k).symm

/-- A comparison with a whole number of units below which every number of units stays. -/
theorem compare_between {a b K : Nat} {g : Nat → Nat} (hg : StrictMono g) (hlo : g q ≤ b) (hhi : b < g (q + 1)) (ha : a = g K) :
    (g q = b → compare a b = compare K q) ∧ (g q ≠ b → compare a b = if K ≤ q then .lt else .gt) := by
  subst ha
  refine ⟨fun h => ?_, fun h => ?_⟩
  · subst h
    exact compare_congr hg.lt_iff_lt hg.lt_iff_lt
  · split
    · next hK => exact compare_lt_iff_lt.mpr (lt_of_le_of_lt (hg.monotone hK) (lt_of_le_of_ne hlo h))
    · next hK => exact compare_gt_iff_gt.mpr (lt_of_lt_of_le hhi (hg.monotone (by omega)))

end

/-! Reciprocal and reciprocal root -/

section
variable {f : FFmt} {mode : Rnd} {m : Nat} (hf : f.Usual) (hm : m ≠ 0) (hsize : m < 2 ^ 24) (hfb : f.fb ≤ 23)
include hf hm hsize hfb

/-- RCP is the exact quotient rounded once (20 R422). -/
theorem roundsTo_rcp (neg : Bool) (i : Int) : RoundsTo f mode neg (ratCmp 1 m (-i)) ((rcpVal neg m i).round f mode) := by
  have hmono : StrictMono (fun K => K * m) := fun a b hab => Nat.mul_lt_mul_of_pos_right hab (Nat.pos_of_ne_zero hm)
  have hlo : 2 ^ 128 / m * m ≤ 2 ^ 128 := Nat.div_mul_le_self ..
  have hhi : 2 ^ 128 < (2 ^ 128 / m + 1) * m := by
    rw [Nat.mul_comm]
    exact Nat.lt_mul_div_succ _ (Nat.pos_of_ne_zero hm)
  have hq : 2 ^ (f.fb + 1) ≤ 2 ^ 128 / m := by
    rw [Nat.le_div_iff_mul_le (Nat.pos_of_ne_zero hm)]
    calc 2 ^ (f.fb + 1) * m ≤ 2 ^ 24 * 2 ^ 24 := Nat.mul_le_mul (Nat.pow_le_pow_right (by decide) (by omega)) hsize.le
      _ ≤ 2 ^ 128 := by decide
  have hcmp : ∀ Q, -128 - i ≤ Q - 1 → ∀ k, ratCmp 1 m (-i) Q k = compare (halfUnits (-128 - i) Q k * m) (2 ^ 128) := by
    intro Q hQ k
    have hpos : (0 : ℚ) < 2 ^ (-128 - i) := by positivity
    have hone : (2 : ℚ) ^ (-i) = ((2 ^ 128 : Nat) : ℚ) * 2 ^ (-128 - i) := by
      rw [Nat.cast_pow, Nat.cast_ofNat, ← zpow_natCast, ← zpow_add₀ two_ne_zero]
      congr 1
      push_cast
      ring
    have hk : ((k * m : Nat) : ℚ) * 2 ^ (Q - 1) = ((halfUnits (-128 - i) Q k * m : Nat) : ℚ) * 2 ^ (-128 - i) := by
      rw [Nat.cast_mul, mul_right_comm, cast_halfUnits hQ]
      push_cast
      ring
    rw [ratCmp_eq, hk, Nat.cast_one, one_mul, hone]
    exact (compare_congr (by rw [mul_lt_mul_iff_left₀ hpos, Nat.cast_lt]) (by rw [mul_lt_mul_iff_left₀ hpos, Nat.cast_lt])).symm
  unfold rcpVal
  by_cases h : 2 ^ 128 / m * m = 2 ^ 128
  · simp only [if_pos h]
    exact roundsTo_units hf hq fun Q hQ k => (hcmp Q hQ k).trans ((compare_between hmono hlo hhi rfl).1 h)
  · simp only [if_neg h]
    exact roundsTo_sticky hf hq fun Q hQ k => (hcmp Q hQ k).trans ((compare_between hmono hlo hhi rfl).2 h)

end

theorem isqrtGo_spec (x : Nat) (k r : Nat) (hlo : r * r ≤ x) (hhi : x < (r + 2 ^ k) * (r + 2 ^ k)) :
    isqrtGo x k r * isqrtGo x k r ≤ x ∧ x < (isqrtGo x k r + 1) * (isqrtGo x k r + 1) := by
  induction k generalizing r with
  | zero => exact ⟨hlo, hhi⟩
  | succ k ih =>
    unfold isqrtGo
    by_cases h : (r + 2 ^ k) * (r + 2 ^ k) ≤ x
    · simp only [if_pos h]
      refine ih _ h ?_
      rwa [Nat.add_assoc, ← Nat.two_mul, ← Nat.pow_succ']
    · simp only [if_neg h]
      exact ih _ hlo (Nat.not_le.mp h)

/-- The integer square root of a number of at most 2 k bits. -/
theorem isqrt_spec {k x : Nat} (h : x < 2 ^ k * 2 ^ k) : isqrt k x * isqrt k x ≤ x ∧ x < (isqrt k x + 1) * (isqrt k x + 1) :=
  isqrtGo_spec x k 0 (Nat.zero_le _) (by simpa using h)

section
variable {f : FFmt} {mode : Rnd} {m : Nat} (hf : f.Usual) (hm : m ≠ 0) (hsize : m < 2 ^ 24) (hfb : f.fb ≤ 23)

/-- The root on an even exponent. -/
def rsqCore (m : Nat) (e : Int) : FVal :=
  let q := isqrt 129 (2 ^ 256 / m)
  if q * q * m = 2 ^ 256 then .num false q (-128 - e / 2) else stickyVal false q (-128 - e / 2)

theorem rsqVal_eq (m : Nat) (e : Int) : rsqVal m e = if e % 2 = 1 then rsqCore (2 * m) (e - 1) else rsqCore m e := by
  unfold rsqVal rsqCore
  by_cases h : e % 2 = 1 <;> simp only [h, if_true, if_false]

/-- A comparison with a root by the squares, on an even exponent. -/
theorem rootCmp_units {m : Nat} {j Q : Int} (hQ : -128 - j ≤ Q - 1) (k : Nat) :
    rootCmp 1 m (-(2 * j)) Q k = compare (halfUnits (-128 - j) Q k * halfUnits (-128 - j) Q k * m) (2 ^ 256) := by
  have hpos : (0 : ℚ) < 2 ^ (2 * (-128 - j)) := by positivity
  have hone : (2 : ℚ) ^ (-(2 * j)) = ((2 ^ 256 : Nat) : ℚ) * 2 ^ (2 * (-128 - j)) := by
    rw [Nat.cast_pow, Nat.cast_ofNat, ← zpow_natCast, ← zpow_add₀ two_ne_zero]
    congr 1
    push_cast
    ring
  have hsq : ∀ z : Int, (2 : ℚ) ^ (2 * z) = 2 ^ z * 2 ^ z := fun z => by rw [two_mul, zpow_add₀ two_ne_zero]
  have hk : ((k * k * m : Nat) : ℚ) * 2 ^ (2 * (Q - 1)) =
      ((halfUnits (-128 - j) Q k * halfUnits (-128 - j) Q k * m : Nat) : ℚ) * 2 ^ (2 * (-128 - j)) := by
    have := cast_halfUnits hQ k
    rw [hsq, hsq]
    push_cast
    linear_combination ((k : ℚ) * 2 ^ (Q - 1) + (halfUnits (-128 - j) Q k : ℚ) * 2 ^ (-128 - j)) * m * this
  rw [rootCmp_eq, hk, Nat.cast_one, one_mul, hone]
  exact (compare_congr (by rw [mul_lt_mul_iff_left₀ hpos, Nat.cast_lt]) (by rw [mul_lt_mul_iff_left₀ hpos, Nat.cast_lt])).symm

/-- A magnitude of half the square: an odd exponent is made even. -/
theorem rootCmp_odd (m : Nat) (e Q : Int) (k : Nat) : rootCmp 1 m (e - 1) Q k = rootCmp 1 (2 * m) e Q k := by
  have hhalf : (2 : ℚ) ^ (e - 1) = 2 ^ e / 2 := zpow_sub_one₀ two_ne_zero e
  rw [rootCmp_eq, rootCmp_eq, hhalf]
  have hd : ((k * k * (2 * m) : Nat) : ℚ) * 2 ^ (2 * (Q - 1)) = 2 * (((k * k * m : Nat) : ℚ) * 2 ^ (2 * (Q - 1))) := by
    push_cast
    ring
  rw [hd, Nat.cast_one, one_mul, one_mul]
  generalize ((k * k * m : Nat) : ℚ) * 2 ^ (2 * (Q - 1)) = x
  exact compare_congr (lt_div_iff₀' two_pos) (div_lt_iff₀' two_pos)

include hf hfb

theorem roundsTo_rsqCore (hm : m ≠ 0) (hsize : m < 2 ^ 25) (j : Int) :
    RoundsTo f mode false (rootCmp 1 m (-(2 * j))) ((rsqCore m (2 * j)).round f mode) := by
  have hpos := Nat.pos_of_ne_zero hm
  have hx : 2 ^ 256 / m < 2 ^ 129 * 2 ^ 129 := lt_of_le_of_lt (Nat.div_le_self ..) (by decide)
  obtain ⟨hqlo, hqhi⟩ := isqrt_spec hx
  unfold rsqCore
  rw [Int.mul_ediv_cancel_left _ (by decide : (2 : Int) ≠ 0)]
  generalize isqrt 129 (2 ^ 256 / m) = q at hqlo hqhi ⊢
  have hmono : StrictMono (fun K => K * K * m) := fun a b hab => Nat.mul_lt_mul_of_pos_right (Nat.mul_self_lt_mul_self hab) hpos
  have hlo : q * q * m ≤ 2 ^ 256 := (Nat.mul_le_mul_right m hqlo).trans (Nat.div_mul_le_self ..)
  have hhi : 2 ^ 256 < (q + 1) * (q + 1) * m := by
    rw [← Nat.div_lt_iff_lt_mul hpos]
    exact hqhi
  have hq : 2 ^ (f.fb + 1) ≤ q := by
    by_contra hlt
    have hq24 : q + 1 ≤ 2 ^ 24 := (Nat.succ_le_of_lt (Nat.not_le.mp hlt)).trans (Nat.pow_le_pow_right (by decide) (by omega))
    have := Nat.mul_le_mul (Nat.mul_le_mul hq24 hq24) hsize.le
    omega
  by_cases h : q * q * m = 2 ^ 256
  · simp only [if_pos h]
    exact roundsTo_units hf hq fun Q hQ k => (rootCmp_units hQ k).trans ((compare_between hmono hlo hhi rfl).1 h)
  · simp only [if_neg h]
    exact roundsTo_sticky hf hq fun Q hQ k => (rootCmp_units hQ k).trans ((compare_between hmono hlo hhi rfl).2 h)

include hm hsize

/-- RSQ is the exact root rounded once (20 R422). -/
theorem roundsTo_rsq (i : Int) : RoundsTo f mode false (rootCmp 1 m (-i)) ((rsqVal m i).round f mode) := by
  rw [rsqVal_eq]
  by_cases hodd : i % 2 = 1
  · have hi : i = 2 * (i / 2) + 1 := by omega
    have hcmp : rootCmp 1 m (-i) = rootCmp 1 (2 * m) (-(2 * (i / 2))) := by
      funext Q k
      rw [← rootCmp_odd]
      congr 1
      omega
    rw [if_pos hodd, hcmp, show i - 1 = 2 * (i / 2) by omega]
    exact roundsTo_rsqCore hf hfb (by omega) (by omega) (i / 2)
  · have hi : i = 2 * (i / 2) := by omega
    rw [if_neg hodd, hi]
    exact roundsTo_rsqCore hf hfb hm (by omega) (i / 2)

end

/-! Powers of two and their logarithms -/

theorem leadOf_one (k : Int) : leadOf 1 k = k := by
  rw [leadOf, show Nat.log2 1 = 0 by decide]
  exact Int.add_zero k

/-- A power of two below half a unit is lost, but for the directed modes. -/
theorem roundGrid_one_below (mode : Rnd) (neg : Bool) {e q : Int} (h : e + 2 ≤ q) :
    roundGrid mode neg 1 e q = (if mode = .rup ∧ neg = false ∨ mode = .rdn ∧ neg = true then 1 else 0, true) := by
  have hone : 1 < 2 ^ ((q - e).toNat - 1) := Nat.one_lt_two_pow (by omega)
  have hunit : 1 < 2 ^ (q - e).toNat := Nat.one_lt_two_pow (by omega)
  unfold roundGrid
  rw [if_neg (by omega)]
  simp only [Nat.div_eq_of_lt hunit, Nat.mod_eq_of_lt hunit]
  cases mode with
  | rne => simp
  | rtz => simp
  | rup => cases neg <;> simp
  | rdn => cases neg <;> simp

/-- The wide floating formats lie between 2^−200 and 2^128. -/
theorem EType.fmt_bounds (t : EType) : t.fmt.fb ≤ 23 ∧ -200 < t.fmt.emin - t.fmt.fb ∧
    -200 < (2 ^ t.fmt.eb - 1 : Nat) - t.fmt.bias - (if t.fmt.hasInf then 1 else 0) ∧
    (2 ^ t.fmt.eb - 1 : Nat) - t.fmt.bias - (if t.fmt.hasInf then 1 else 0) < 128 := by
  cases t <;> decide

/-- All powers of two far above a format are rounded alike. -/
theorem round_farAbove (t : EType) (mode : Rnd) {k : Int} (hk : 128 ≤ k) : (FVal.num false 1 k).round t.fmt mode =
    (if t.fmt.toInf mode false then t.fmt.infBits false else t.fmt.maxBits false, Fl.of ||| Fl.nx) := by
  obtain ⟨-, -, -, htop⟩ := t.fmt_bounds
  have hbig : t.fmt.TooBig (leadOf 1 k) (atPrecision t.fmt mode false 1 k).1 := by
    rw [leadOf_one]
    exact .inl (lt_of_lt_of_le htop hk)
  simp only [FVal.round, roundMag_tooBig t.fmt_usual one_ne_zero hbig]
  exact Prod.ext rfl (flags_ovf _)

/-- All powers of two far below a format are rounded alike. -/
theorem round_farBelow (t : EType) (mode : Rnd) {k : Int} (hk : k ≤ -300) : (FVal.num false 1 k).round t.fmt mode =
    (t.fmt.signBit false + (if mode = .rup then 1 else 0), Fl.uf ||| Fl.nx) := by
  obtain ⟨-, hlow, hmax, -⟩ := t.fmt_bounds
  have hbig : ¬t.fmt.TooBig (leadOf 1 k) (atPrecision t.fmt mode false 1 k).1 := by
    rw [leadOf_one]
    unfold FFmt.TooBig
    simp only [not_or, not_and]
    exact ⟨by omega, fun h => by omega⟩
  have hsub : leadOf 1 k < t.fmt.emin := by rw [leadOf_one]; omega
  have htiny : t.fmt.leadAfter (leadOf 1 k) (atPrecision t.fmt mode false 1 k).1 < t.fmt.emin := by
    rw [leadOf_one]
    unfold FFmt.leadAfter
    split <;> omega
  simp only [FVal.round, roundMag_subnormal t.fmt_usual one_ne_zero hbig hsub, decide_eq_true htiny, roundGrid_one_below mode false (show k + 2 ≤ t.fmt.emin - t.fmt.fb by omega)]
  simp [Rounded.flags, Fl.when]

/-- A whole number of units of 2^i. -/
theorem int_of_units {s : Bool} {m : Nat} {i k : Int}
    (h : k = (if s then -1 else 1) * m * 2 ^ i.toNat ∧ 0 ≤ i ∨ k * 2 ^ (-i).toNat = (if s then -1 else 1) * m ∧ i < 0) :
    (0 ≤ i → signedM s (m * 2 ^ i.toNat) = k) ∧ (i < 0 → signedM s m = k * (2 ^ (-i).toNat : Nat)) := by
  constructor
  · intro hi
    rcases h with ⟨hk, -⟩ | ⟨-, hneg⟩
    · rw [hk, signedM_mul]
      cases s <;> simp [signedM]
    · omega
  · intro hi
    rcases h with ⟨-, hpos⟩ | ⟨hk, -⟩
    · omega
    · push_cast
      rw [hk]
      cases s <;> simp [signedM]



section
variable {s : Bool} {m : Nat} {i k : Int}
  (h : (0 ≤ i → signedM s (m * 2 ^ i.toNat) = k) ∧ (i < 0 → signedM s m = k * (2 ^ (-i).toNat : Nat)))
include h

theorem cast_units : (k : ℚ) = (signedM s m : Int) * 2 ^ i := by
  rcases le_or_gt 0 i with hi | hi
  · have := signedM_shift hi s m
    rwa [sub_zero, h.1 hi, zpow_zero, div_one] at this
  · rw [h.2 hi, Int.cast_mul, Int.cast_natCast, Nat.cast_pow, Nat.cast_ofNat, ← zpow_natCast, Int.toNat_of_nonneg (by omega), zpow_neg,
      inv_mul_cancel_right₀ (by positivity)]

/-- The size of a whole number of units lies between powers of two. -/
theorem size_of_units (hm : m ≠ 0) : (2 : ℚ) ^ leadOf m i ≤ |(k : ℚ)| ∧ 0 < (if s then -k else k) := by
  have hpos : (0 : ℚ) < m * 2 ^ i := by positivity
  have hk := cast_units h
  cases s with
  | false =>
    replace hk : (k : ℚ) = m * 2 ^ i := by simpa [signedM] using hk
    refine ⟨?_, by exact_mod_cast hk ▸ hpos⟩
    rw [hk, abs_of_pos hpos]
    exact leadOf_le hm i
  | true =>
    replace hk : (k : ℚ) = -(m * 2 ^ i) := by simpa [signedM] using hk
    refine ⟨?_, ?_⟩
    · rw [hk, abs_neg, abs_of_pos hpos]
      exact leadOf_le hm i
    · have : (k : ℚ) < 0 := by rw [hk]; exact neg_lt_zero.mpr hpos
      simpa using (by exact_mod_cast this : k < 0)

theorem leadOf_nonneg (hk : k ≠ 0) : 0 ≤ leadOf m i := by
  rcases le_or_gt 0 i with hi | hi
  · rw [leadOf]
    omega
  · have hm : m = k.natAbs * 2 ^ (-i).toNat := by
      have := congrArg Int.natAbs (h.2 hi)
      rw [Int.natAbs_mul, Int.natAbs_natCast] at this
      cases s <;> simpa [signedM] using this
    have hle : 2 ^ (-i).toNat ≤ m := hm ▸ Nat.le_mul_of_pos_left _ (Int.natAbs_pos.mpr hk)
    have := le_leadOf hle i
    omega

/-- EXP2 of an integer is rounded as the power of two (20 R422). -/
theorem round_exp2Val (t : EType) (mode : Rnd) (hm : m ≠ 0) : (exp2Val s m i).round t.fmt mode = (FVal.num false 1 k).round t.fmt mode := by
  obtain ⟨hsize, hsign⟩ := size_of_units h hm
  unfold exp2Val
  by_cases hbig : leadOf m i ≥ 10
  · have hk : (1024 : Int) ≤ |k| := by
      have : (2 : ℚ) ^ (10 : Int) ≤ |(k : ℚ)| := (zpow_le_zpow_right₀ one_le_two hbig).trans hsize
      norm_num at this
      exact_mod_cast this
    rw [if_pos hbig]
    cases s with
    | false =>
      rw [if_neg Bool.false_ne_true, abs_of_pos (by simpa using hsign)] at *
      exact (round_farAbove t mode (by decide)).trans (round_farAbove t mode (by omega)).symm
    | true =>
      rw [if_pos rfl] at *
      rw [abs_of_neg (by omega)] at hk
      exact (round_farBelow t mode (by decide)).trans (round_farBelow t mode (by omega)).symm
  · have hsmall : ¬leadOf m i < -200 := not_lt.mpr ((by decide : (-200 : Int) ≤ 0).trans (leadOf_nonneg h (by rintro rfl; split at hsign <;> omega)))
    rw [if_neg hbig, if_neg hsmall]
    by_cases hi : 0 ≤ i
    · rw [if_pos hi, h.1 hi]
    · rw [if_neg hi, h.2 (by omega)]
      have hd : ((2 ^ (-i).toNat : Nat) : Int) ≠ 0 := by positivity
      simp only [Int.mul_emod_left, Int.toNat_zero, if_true, Int.mul_ediv_cancel _ hd]

end

/-- The significand of a finite value has the bits of the format. -/
theorem FFmt.decode_size (f : FFmt) {b : Nat} {s : Bool} {m : Nat} {i : Int} (h : f.decode b = .num s m i) : m < 2 ^ (f.fb + 1) := by
  have hfrac := f.fracOf_lt b
  have hpow : 2 ^ (f.fb + 1) = 2 * 2 ^ f.fb := Nat.pow_succ'
  rw [f.decode_eq] at h
  split at h
  · cases h
    omega
  · split at h
    · split at h <;> cases h
    · split at h
      · cases h
      · cases h
        omega

theorem log2Val_pow (k : Nat) (i : Int) : log2Val (2 ^ k) i = FVal.ofInt (k + i) := by
  rw [log2Val, Nat.log2_two_pow, if_pos rfl, Int.add_comm]

/-! The functions of a finite value that is not zero -/

section
variable {s : Bool} {m : Nat} {i : Int} (hm : m ≠ 0)
include hm

theorem specialVal_rcp : specialVal .rcp (.num s m i) = (rcpVal s m i, 0) := by simp only [specialVal, if_neg hm]

theorem specialVal_exp2 : specialVal .exp2 (.num s m i) = (exp2Val s m i, 0) := by simp only [specialVal, if_neg hm]

theorem specialVal_rsq (hs : s = false) : specialVal .rsq (.num s m i) = (rsqVal m i, 0) := by
  simp only [specialVal, if_neg hm, hs, Bool.false_eq_true, if_false]

theorem specialVal_log2 (hs : s = false) : specialVal .log2 (.num s m i) = (log2Val m i, 0) := by
  simp only [specialVal, if_neg hm, hs, Bool.false_eq_true, if_false]

/-- The logarithm and the reciprocal root of a negative number are invalid. -/
theorem specialVal_neg {fn : SpecialFn} (hfn : fn = .log2 ∨ fn = .rsq) (hs : s = true) : specialVal fn (.num s m i) = (.nan, Fl.nv) := by
  rcases hfn with rfl | rfl
  · simp only [specialVal, if_neg hm, hs, if_true]
  · simp only [specialVal, if_neg hm, hs, if_true]

end

/-! What VSF writes -/

/-- A written result with the flags of a special input. -/
def writtenWith (v : ElemEnv) (r : Nat × Fl) (more : Fl) : W32 × Fl :=
  if v.ty.fmt.flushes v.ftz r.1 then (BitVec.ofNat 32 (v.ty.fmt.signOf r.1), r.2 ||| Fl.uf ||| Fl.nx ||| more)
  else (BitVec.ofNat 32 r.1, r.2 ||| more)

namespace ElemEnv
variable (v : ElemEnv) (hv : v.ty.isFloat = true) (a : W32)
include hv

theorem special_eq (fn : SpecialFn) : v.special fn a =
    writtenWith v ((specialVal fn (v.value a)).1.round v.ty.fmt v.rnd) (specialVal fn (v.value a)).2 := by
  have hw := container_flushOut v.ftz (round_lt (mode := v.rnd) v.ty.fmt_usual (specialVal fn (v.value a)).1)
  obtain ⟨hbits, hflags⟩ := Prod.ext_iff.mp hw
  unfold special
  rw [read_eq hv]
  refine Prod.ext (hbits.trans ?_) ((congrArg (· ||| (specialVal fn (v.value a)).2) hflags).trans ?_)
  · unfold written writtenWith
    split <;> rfl
  · unfold written writtenWith
    split <;> rfl

variable {v a}

theorem special_of {fn : SpecialFn} {r : FVal × Fl} (h : specialVal fn (v.value a) = r) :
    v.special fn a = writtenWith v (r.1.round v.ty.fmt v.rnd) r.2 := h ▸ special_eq v hv a fn

theorem special_nan (fn : SpecialFn) (h : v.value a = .nan) : v.special fn a = (BitVec.ofNat 32 v.ty.fmt.canonNaN, 0) := by
  have hnan : specialVal fn .nan = (.nan, 0) := by cases fn <;> rfl
  have hkeep : v.ty.fmt.flushes v.ftz v.ty.fmt.canonNaN = false := by
    have : ∀ t : EType, t.fmt.flushes true t.fmt.canonNaN = false := fun t => by cases t <;> decide
    cases hf : v.ftz
    · rfl
    · exact this v.ty
  rw [special_of hv ((congrArg (specialVal fn) h).trans hnan)]
  unfold writtenWith
  rw [show (FVal.nan.round v.ty.fmt v.rnd) = (v.ty.fmt.canonNaN, 0) from rfl, hkeep, if_neg Bool.false_ne_true]
  exact Prod.ext rfl (Fl.or_zero 0)

omit hv in
/-- The significand of a value that is read has at most 24 bits. -/
theorem value_size {s : Bool} {m : Nat} {i : Int} (h : v.value a = .num s m i) : m < 2 ^ 24 :=
  (FFmt.decode_size _ h).trans_le (Nat.pow_le_pow_right (by decide) (Nat.succ_le_succ v.ty.fmt_bounds.1))

end ElemEnv

/-- The value of a pair of elements. -/
def EType.pairValue (t : EType) (c : W32 × W32) : FVal × FVal := (t.value c.1, t.value c.2)

theorem pairValue_fp32 (c : W32 × W32) : EType.pairValue .fp32 c = pairVal c :=
  Prod.ext (congrArg FFmt.fp32.decode (Nat.mod_eq_of_lt c.1.isLt)) (congrArg FFmt.fp32.decode (Nat.mod_eq_of_lt c.2.isLt))

/-- A double-word operation, in the words of the elements' type (03 R78). -/
theorem doubleWord_value {t : EType} (ht : t = .fp32) (o : DwOp) (a b : W32) (cb cc : W32 × W32) (hb : o = .norm → cb = (0, 0))
    (hc : o ≠ .fma → cc = (0, 0)) :
    let f := t.fmt
    let used := o.used (t.pairValue (a, b)) (t.pairValue cb) (t.pairValue cc)
    let parts := used.flatMap (fun z => [z.1, z.2])
    let h0 := o.plain f (t.pairValue (a, b)) (t.pairValue cb) (t.pairValue cc)
    doubleWord o (a, b) cb cc = if FVal.nan ∈ parts ∨ h0 = .nan then pairOf f.canonNaN f.canonNaN (if FVal.nan ∈ parts then 0 else Fl.nv)
      else if used.any (fun z => z.1.isInf) then pairOf (bitsOf f h0) 0 0
      else finishSteps f (o.steps f (t.pairValue (a, b)) (t.pairValue cb) (t.pairValue cc)) := by
  subst ht
  simp only [pairValue_fp32]
  exact doubleWord_eq o (a, b) hb hc

end Sys2Proof.Machine

open Sys2Proof.Machine

/-- Settles O34: exact pairs are `exactPair_nan`, `exactPair_inf` and `exactPair_num`, double words are `doubleWord_eq`, sums are
`reduceAdd_append` and `reduceAdd_tree`, compensated sums are `reduceCadd_num` and its companions, and the special functions are
`special_of` with `roundsTo_rcp`, `roundsTo_rsq` and `round_exp2Val`. -/
theorem pairAndReductionValues : Obligations.PairAndReductionValues := by
  intro t op a b c d e g y xs o v least f val bits fl rn zeroed pair nans plus minus two fast sumDw mulDw finish x rest
  have hrn : rn = fun x => (Sys2Proof.Machine.rn f x).1 := rfl
  have htwo : two = twoSteps f := rfl
  have hfast : fast = fastSteps f := rfl
  have hsum : sumDw = sumSteps f := by
    clear_value two fast rn
    subst htwo hfast hrn
    rfl
  have hmul : mulDw = mulSteps f := by
    clear_value fast rn
    subst hfast hrn
    rfl
  have hfinish : finish = finishSteps f := rfl
  refine ⟨?exact, ?double, ?int, ?sums, ?picks, ?special⟩
  case exact =>
    intro ht
    cases op with
    | add => exact ⟨exactPair_nan ht .add a b, exactPair_inf ht .add a b, exactPair_num ht .add a b⟩
    | sub => exact ⟨exactPair_nan ht .sub a b, exactPair_inf ht .sub a b, exactPair_num ht .sub a b⟩
    | mul => exact ⟨exactPair_nan ht .mul a b, exactPair_inf ht .mul a b, exactPair_num ht .mul a b⟩
  case double =>
    intro ht p q r used parts h0 seq
    have h := doubleWord_value ht o a b (if o = .norm then (0, 0) else (c, d)) (if o = .fma then (e, g) else (0, 0))
      (fun ho => if_pos ho) (fun ho => if_neg ho)
    have hseq : seq = o.steps f p (t.pairValue (if o = .norm then (0, 0) else (c, d))) (t.pairValue (if o = .fma then (e, g) else (0, 0))) := by
      simp only [seq, hfast, hsum, hmul]
      cases o <;> rfl
    rw [hfinish, hseq]
    cases o with
    | add => exact h
    | mul => exact h
    | fma => exact h
    | norm => exact h
  case int =>
    intro hi np5
    rw [reduceAdd_int hi]
    simp only [intOf_eq]
    rfl
  case sums =>
    intro ht r n
    refine ⟨reduceAdd_singleton ht y, fun hx => reduceAdd_append ht hx y, reduceAdd_tree ht, ?_⟩
    intro vs both sum last
    refine ⟨reduceCadd_nan ht xs, fun n hn hb hi => reduceCadd_inf ht xs hn hb hi, fun hn hi => ?_⟩
    have hsteps : (last.1, sum.2 ++ last.2) = caddSteps f vs := by
      clear_value two fast rn
      subst htwo hfast hrn
      rfl
    rw [hfinish, hsteps]
    exact reduceCadd_num ht xs hn hi
  case picks =>
    intro hb
    have hpick : ∀ x z : BitVec 32, pickElem t false least x z =
        if least then (ElemEnv.min { ty := t, rnd := .rne, ftz := false } x z).1 else (ElemEnv.max { ty := t, rnd := .rne, ftz := false } x z).1 :=
      fun x z => by cases least <;> rfl
    exact ⟨hpick y y, fun hx => (reducePick_append t least hx y).trans (hpick _ y)⟩
  case special =>
    intro hw
    have hv := wideFloat_isFloat hw
    intro w sub signOf n x out gives rounded
    have hgives : ∀ {fn z r more}, x = z → specialVal fn z = (r, more) → gives fn r more :=
      fun hx hr => ElemEnv.special_of hv ((congrArg (specialVal _) hx).trans hr)
    refine ⟨fun fn h => ElemEnv.special_nan hv fn h, fun h => ?_, fun h => ?_, fun s i h => ?_, fun s m i h hm => ?_⟩
    · exact ⟨hgives h rfl, hgives h rfl, hgives h rfl, hgives h rfl, hgives h rfl, hgives h rfl⟩
    · exact ⟨hgives h rfl, hgives h rfl, hgives h rfl, hgives h rfl, hgives h rfl, hgives h rfl⟩
    · exact ⟨hgives h rfl, hgives h rfl, hgives h rfl, hgives h rfl, hgives h rfl, hgives h rfl⟩
    · refine ⟨fun hs => ⟨?_, ?_⟩, ?_, fun hs => ?_, fun k hk => ?_, fun k hk hs => ?_⟩
      · exact hgives h (specialVal_neg hm (.inl rfl) hs)
      · exact hgives h (specialVal_neg hm (.inr rfl) hs)
      · exact ⟨_, roundsTo_rcp v.ty.fmt_usual hm (ElemEnv.value_size h) v.ty.fmt_bounds.1 s i, hgives h (specialVal_rcp hm)⟩
      · exact ⟨_, roundsTo_rsq v.ty.fmt_usual hm (ElemEnv.value_size h) v.ty.fmt_bounds.1 i, hgives h (specialVal_rsq hm hs)⟩
      · refine ⟨(FVal.num false 1 k).round v.ty.fmt v.rnd, roundsTo_round v.ty.fmt_usual one_ne_zero fun Q _ => rfl, ?_⟩
        rw [← round_exp2Val (int_of_units hk) v.ty v.rnd hm]
        exact hgives h (specialVal_exp2 hm)
      · exact hgives h ((specialVal_log2 hm hs).trans (by rw [hk, log2Val_pow]; rfl))

end

section
/-! PROOF. O43, first part: the least event, the chunks of a command, and a command split at a multiple of its chunk (03 R84, 10 R249).
The event of least key of a list is a fold of an associative operation, so that the events of a split command fall apart. -/

namespace Sys2Proof.Machine

/-! The order of events (10 R249) -/

/-- The order of the keys. -/
def ProvEvent.Before (y x : ProvEvent) : Prop :=
  y.kblk < x.kblk ∨ (y.kblk = x.kblk ∧ (y.row < x.row ∨ (y.row = x.row ∧ (y.col < x.col ∨ (y.col = x.col ∧ y.event < x.event)))))

namespace ProvEvent
variable {x y z : ProvEvent}

theorem before_iff : y.before x = true ↔ y.Before x := by
  simp only [before, Before, Bool.or_eq_true, Bool.and_eq_true, decide_eq_true_iff, beq_iff_eq]

theorem not_before_iff : y.before x = false ↔ ¬y.Before x := by rw [← before_iff, Bool.not_eq_true]

theorem Before.trans (h : x.Before y) (h' : y.Before z) : x.Before z := by
  unfold Before at *
  omega

theorem not_before_trans (h : ¬x.Before y) (h' : ¬y.Before z) : ¬x.Before z := by
  unfold Before at *
  omega

theorem Before.asymm (h : x.Before y) : ¬y.Before x := by
  unfold Before at *
  omega

theorem least_some (x y : ProvEvent) : least (some x) (some y) = if y.before x then some y else some x := rfl

@[simp] theorem least_none_left (b : Option ProvEvent) : least none b = b := by cases b <;> rfl
@[simp] theorem least_none_right (a : Option ProvEvent) : least a none = a := by cases a <;> rfl

theorem least_assoc (a b c : Option ProvEvent) : least (least a b) c = least a (least b c) := by
  cases a with
  | none => simp
  | some x =>
    cases b with
    | none => simp
    | some y =>
      cases c with
      | none => simp
      | some z =>
        simp only [least_some]
        by_cases hyx : y.before x = true <;> by_cases hzy : z.before y = true
        · simp only [hyx, hzy, if_true, least_some, before_iff.mpr ((before_iff.mp hzy).trans (before_iff.mp hyx))]
        · simp only [hyx, hzy, if_true, least_some, if_false, Bool.false_eq_true]
        · simp only [hyx, hzy, if_true, least_some, if_false, Bool.false_eq_true]
        · have hzx : z.before x = false := by
            rw [Bool.not_eq_true] at hyx hzy
            rw [not_before_iff] at hyx hzy ⊢
            exact not_before_trans hzy hyx
          simp only [hyx, hzy, hzx, least_some, if_false, Bool.false_eq_true]

/-- Events of which one lies strictly before the other may change places. -/
theorem least_comm {a b : Option ProvEvent} (h : ∀ x ∈ a, ∀ y ∈ b, y.Before x) : least a b = least b a := by
  cases a with
  | none => simp
  | some x =>
    cases b with
    | none => simp
    | some y =>
      have hyx := h x rfl y rfl
      rw [least_some, least_some, if_pos (before_iff.mpr hyx), if_neg (by rw [before_iff]; exact hyx.asymm)]

/-- Two lists of events of which the heads all lie before the tails. -/
theorem least_least_least {a a' b b' : Option ProvEvent} (h : ∀ x ∈ a', ∀ y ∈ b, y.Before x) :
    least (least a a') (least b b') = least (least a b) (least a' b') := by
  rw [least_assoc, ← least_assoc a', least_comm h, least_assoc, ← least_assoc]

/-- The event as many blocks on. -/
def later (k : Nat) (x : ProvEvent) : ProvEvent := { x with kblk := x.kblk + k }

theorem later_before (k : Nat) : (later k y).before (later k x) = y.before x := by
  rw [Bool.eq_iff_iff, before_iff, before_iff]
  simp only [Before, later, Nat.add_lt_add_iff_right, Nat.add_right_cancel_iff]

theorem least_map_later (k : Nat) (a b : Option ProvEvent) : (least a b).map (later k) = least (a.map (later k)) (b.map (later k)) := by
  cases a with
  | none => simp
  | some x =>
    cases b with
    | none => simp
    | some y =>
      simp only [least_some, Option.map_some, later_before]
      split <;> rfl

end ProvEvent

/-! The least event among many -/

theorem leastEvent_iff {e : Option ProvEvent} {among : ProvEvent → Prop} : LeastEvent e among ↔
    (e = none → ∀ x, ¬among x) ∧ ∀ x ∈ e, among x ∧ ∀ y, among y → ¬y.Before x := Iff.rfl

theorem LeastEvent.congr {e : Option ProvEvent} {p q : ProvEvent → Prop} (h : LeastEvent e p) (hpq : ∀ x, p x ↔ q x) : LeastEvent e q := by
  rwa [show q = p from funext fun x => propext (hpq x).symm]

theorem leastEvent_none {p : ProvEvent → Prop} (h : ∀ x, ¬p x) : LeastEvent none p := ⟨fun _ => h, fun _ hx => nomatch hx⟩

theorem leastEvent_some {p : ProvEvent → Prop} {x : ProvEvent} (h : ∀ y, p y ↔ y = x) : LeastEvent (some x) p := by
  refine ⟨nofun, fun y hy => ?_⟩
  cases hy
  refine ⟨(h x).mpr rfl, fun y hy hlt => ?_⟩
  rw [(h y).mp hy] at hlt
  exact ProvEvent.Before.asymm hlt hlt

theorem leastEvent_self (e : Option ProvEvent) : LeastEvent e (fun x => e = some x) := by
  cases e with
  | none => exact leastEvent_none fun x => nofun
  | some x => exact leastEvent_some fun y => ⟨fun h => (Option.some.inj h).symm, fun h => h ▸ rfl⟩

theorem LeastEvent.least {a b : Option ProvEvent} {p q : ProvEvent → Prop} (ha : LeastEvent a p) (hb : LeastEvent b q) :
    LeastEvent (ProvEvent.least a b) (fun x => p x ∨ q x) := by
  cases a with
  | none =>
    rw [ProvEvent.least_none_left]
    exact hb.congr fun x => (or_iff_right (ha.1 rfl x)).symm
  | some x =>
    cases b with
    | none =>
      rw [ProvEvent.least_none_right]
      exact ha.congr fun x => (or_iff_left (hb.1 rfl x)).symm
    | some y =>
      obtain ⟨hpx, hxmin⟩ := (leastEvent_iff.mp ha).2 x rfl
      obtain ⟨hqy, hymin⟩ := (leastEvent_iff.mp hb).2 y rfl
      rw [ProvEvent.least_some]
      by_cases h : y.before x = true
      · rw [if_pos h]
        refine ⟨nofun, fun z hz => ?_⟩
        cases hz
        have hxy := (ProvEvent.before_iff.mp h).asymm
        exact ⟨.inr hqy, fun z hz => hz.elim (fun hz => ProvEvent.not_before_trans (hxmin z hz) hxy) (hymin z)⟩
      · rw [if_neg h]
        refine ⟨nofun, fun z hz => ?_⟩
        cases hz
        rw [ProvEvent.before_iff] at h
        exact ⟨.inl hpx, fun z hz => hz.elim (hxmin z) (fun hz => ProvEvent.not_before_trans (hymin z hz) h)⟩

section
variable {α : Type} (g : α → Option ProvEvent)

/-- The least event that the elements of a list bring. -/
def leastOf (l : List α) : Option ProvEvent := l.foldl (fun e x => ProvEvent.least e (g x)) none

theorem foldl_least (l : List α) (e : Option ProvEvent) : l.foldl (fun e x => ProvEvent.least e (g x)) e = ProvEvent.least e (leastOf g l) := by
  induction l generalizing e with
  | nil => exact (ProvEvent.least_none_right e).symm
  | cons y l ih =>
    have hcons : leastOf g (y :: l) = ProvEvent.least (g y) (leastOf g l) := (ih _).trans (congrArg (ProvEvent.least · _) (ProvEvent.least_none_left _))
    rw [List.foldl_cons, ih, hcons, ProvEvent.least_assoc]

theorem leastOf_cons (y : α) (l : List α) : leastOf g (y :: l) = ProvEvent.least (g y) (leastOf g l) := by
  rw [leastOf, List.foldl_cons, foldl_least, ProvEvent.least_none_left]

theorem leastEvent_leastOf (l : List α) : LeastEvent (leastOf g l) (fun x => ∃ y ∈ l, g y = some x) := by
  induction l with
  | nil => exact leastEvent_none fun x => by simp
  | cons y l ih =>
    rw [leastOf_cons]
    exact ((leastEvent_self (g y)).least ih).congr fun x => by simp

end

/-! The events of operands -/

/-- The event of an operand element, if it is a NaN or an infinity. -/
def elementEvent (kblk row col opnd : Nat) (t : EType) (v : FVal) : Option ProvEvent :=
  if v.isNaN || v.isInf then some { kblk, row, col, event := if v.isNaN then 1 else 2, opnd, fmt := t.code } else none

section
variable (kdiv row col opnd : Nat) (t : EType)

theorem operandEvent_cons (k : Nat) (v : FVal) (l : List FVal) : operandEvent kdiv row col opnd t k (v :: l) =
    ProvEvent.least (elementEvent (k / kdiv) row col opnd t v) (operandEvent kdiv row col opnd t (k + 1) l) := rfl

theorem operandEvent_append (k : Nat) (l l' : List FVal) : operandEvent kdiv row col opnd t k (l ++ l') =
    ProvEvent.least (operandEvent kdiv row col opnd t k l) (operandEvent kdiv row col opnd t (k + l.length) l') := by
  induction l generalizing k with
  | nil => exact (ProvEvent.least_none_left _).symm
  | cons v l ih => rw [List.cons_append, operandEvent_cons, operandEvent_cons, ih, ProvEvent.least_assoc, List.length_cons, Nat.add_right_comm k, Nat.add_assoc]

variable {kdiv}

/-- The same elements whole blocks later. -/
theorem operandEvent_later (hk : 0 < kdiv) (n k : Nat) (l : List FVal) : operandEvent kdiv row col opnd t (kdiv * n + k) l =
    (operandEvent kdiv row col opnd t k l).map (ProvEvent.later n) := by
  induction l generalizing k with
  | nil => rfl
  | cons v l ih =>
    have helem : elementEvent ((kdiv * n + k) / kdiv) row col opnd t v = (elementEvent (k / kdiv) row col opnd t v).map (ProvEvent.later n) := by
      rw [Nat.mul_add_div hk, Nat.add_comm]
      unfold elementEvent
      split <;> rfl
    rw [operandEvent_cons, operandEvent_cons, ProvEvent.least_map_later, Nat.add_assoc, ih, helem]

/-- The events of operands are those of their elements. -/
theorem leastEvent_operandEvent (k : Nat) (l : List FVal) : LeastEvent (operandEvent kdiv row col opnd t k l)
    (fun x => ∃ i v, l[i]? = some v ∧ elementEvent ((k + i) / kdiv) row col opnd t v = some x) := by
  induction l generalizing k with
  | nil => exact leastEvent_none fun x => by simp
  | cons v l ih =>
    refine ((leastEvent_self _).least (ih (k + 1))).congr fun x => ?_
    constructor
    · rintro (h | ⟨i, w, hw, hx⟩)
      · exact ⟨0, v, rfl, h⟩
      · exact ⟨i + 1, w, hw, by rwa [← Nat.add_assoc, Nat.add_right_comm]⟩
    · rintro ⟨i, w, hw, hx⟩
      cases i with
      | zero => cases hw; exact .inl hx
      | succ i => exact .inr ⟨i, w, hw, by rwa [Nat.add_assoc, Nat.add_comm 1]⟩

theorem elementEvent_kblk {kblk : Nat} {v : FVal} {x : ProvEvent} (h : elementEvent kblk row col opnd t v = some x) : x.kblk = kblk := by
  unfold elementEvent at h
  split at h
  · cases h; rfl
  · cases h

/-- The blocks of the events of operands. -/
theorem operandEvent_kblk {k : Nat} {l : List FVal} {x : ProvEvent} (h : x ∈ operandEvent kdiv row col opnd t k l) :
    x.kblk * kdiv < k + l.length := by
  obtain ⟨i, v, hi, hx⟩ := ((leastEvent_operandEvent row col opnd t k l).2 x h).1
  have hlen : i < l.length := (List.getElem?_eq_some_iff.mp hi).1
  rw [elementEvent_kblk row col opnd t hx]
  have := Nat.div_mul_le_self (k + i) kdiv
  omega

end

/-! Pieces -/

section
variable {α : Type} {n : Nat} (hn : 0 < n)

theorem pieces_nil (fuel : Nat) : pieces n fuel ([] : List α) = [] := by cases fuel <;> rfl

theorem pieces_succ (fuel : Nat) {l : List α} (hl : l ≠ []) : pieces n (fuel + 1) l = l.take n :: pieces n fuel (l.drop n) := by
  cases l with
  | nil => contradiction
  | cons => rfl

include hn

/-- Fuel for the whole list is enough. -/
theorem pieces_fuel {fuel : Nat} {l : List α} (h : l.length ≤ fuel) : pieces n fuel l = pieces n l.length l := by
  induction fuel using Nat.strong_induction_on generalizing l with
  | _ fuel ih =>
    cases l with
    | nil => rw [pieces_nil, pieces_nil]
    | cons x l =>
      obtain ⟨m, rfl⟩ : ∃ m, fuel = m + 1 := ⟨fuel - 1, by simp at h; omega⟩
      have hdrop : ((x :: l).drop n).length ≤ l.length := by rw [List.length_drop, List.length_cons]; omega
      have hl : l.length ≤ m := Nat.le_of_succ_le_succ h
      rw [List.length_cons, pieces_succ _ (by simp), pieces_succ _ (by simp), ih m (by omega) (hdrop.trans hl), ih l.length (by omega) hdrop]

theorem pieces_eq {l : List α} (hl : l ≠ []) : pieces n l.length l = l.take n :: pieces n (l.drop n).length (l.drop n) := by
  obtain ⟨x, l, rfl⟩ := List.exists_cons_of_ne_nil hl
  rw [List.length_cons, pieces_succ _ hl, pieces_fuel hn (by rw [List.length_drop, List.length_cons]; omega)]

/-- A list of at most one piece. -/
theorem pieces_single {l : List α} (hl : l ≠ []) (h : l.length ≤ n) : pieces n l.length l = [l] := by
  rw [pieces_eq hn hl, List.take_of_length_le h, List.drop_of_length_le h, pieces_nil]

/-- A list of whole pieces and another one. -/
theorem pieces_append {l : List α} (h : n ∣ l.length) (l' : List α) :
    pieces n (l ++ l').length (l ++ l') = pieces n l.length l ++ pieces n l'.length l' := by
  obtain ⟨q, hq⟩ := h
  induction q generalizing l with
  | zero => rw [List.length_eq_zero_iff.mp hq, pieces_nil]; rfl
  | succ q ih =>
    have hlen : n ≤ l.length := by rw [hq, Nat.mul_succ]; omega
    have hl : l ≠ [] := List.ne_nil_of_length_pos (by omega)
    have hdrop : (l.drop n).length = n * q := by rw [List.length_drop, hq, Nat.mul_succ]; omega
    rw [pieces_eq hn (by simp [hl]), pieces_eq hn hl, List.take_append_of_le_length hlen, List.drop_append_of_le_length hlen, ih hdrop]
    rfl

theorem pieces_flatten (l : List α) : (pieces n l.length l).flatten = l := by
  induction hlen : l.length using Nat.strong_induction_on generalizing l with
  | _ m ih =>
    subst hlen
    by_cases hl : l = []
    · rw [hl, pieces_nil]
      rfl
    · have hpos := List.length_pos_iff.mpr hl
      rw [pieces_eq hn hl, List.flatten_cons, ih _ (by rw [List.length_drop]; omega) _ rfl, List.take_append_drop]

theorem pieces_ne_nil {fuel : Nat} {l p : List α} (h : p ∈ pieces n fuel l) : p ≠ [] := by
  induction fuel generalizing l with
  | zero => cases h
  | succ fuel ih =>
    by_cases hl : l = []
    · rw [hl, pieces_nil] at h
      cases h
    · rw [pieces_succ _ hl, List.mem_cons] at h
      rcases h with rfl | h
      · simp [hl, hn.ne']
      · exact ih h

end

/-! Runs of chunks -/

/-- What a chunk gives: accumulator, flags and event. -/
abbrev ChunkRes := W32 × Fl × Option ProvEvent

/-- A cell after a chunk of n elements. -/
def CellRun.advance (kdiv : Nat) (c : CellRun) (n : Nat) (r : ChunkRes) : CellRun :=
  { acc := r.1, fl := c.fl ||| r.2.1, event := ProvEvent.least c.event (r.2.2.map (ProvEvent.later (c.k / kdiv))), k := c.k + n }

/-- A cell before a command. -/
def CellRun.start (acc : W32) : CellRun := { acc, fl := 0, event := none, k := 0 }

section
variable {α : Type} (kdiv : Nat) (gives : W32 → List α → ChunkRes)

/-- A cell after some chunks. -/
def runChunks (c : CellRun) (l : List (List α)) : CellRun := l.foldl (fun c x => c.advance kdiv x.length (gives c.acc x)) c

/-- A run does not depend on the flags and events before it. -/
theorem runChunks_acc_fl {c d : CellRun} {f : Fl} (hacc : c.acc = d.acc) (hfl : c.fl = f ||| d.fl) (l : List (List α)) :
    (runChunks kdiv gives c l).acc = (runChunks kdiv gives d l).acc ∧ (runChunks kdiv gives c l).fl = f ||| (runChunks kdiv gives d l).fl := by
  induction l generalizing c d with
  | nil => exact ⟨hacc, hfl⟩
  | cons x l ih =>
    refine ih (c := c.advance kdiv x.length (gives c.acc x)) (d := d.advance kdiv x.length (gives d.acc x)) ?_ ?_
    · simp only [CellRun.advance, hacc]
    · simp only [CellRun.advance, hacc, hfl, BitVec.or_assoc]

variable {kdiv}

/-- A run that starts whole blocks later has the same events so much later. -/
theorem runChunks_event (hk : 0 < kdiv) {c d : CellRun} {e : Option ProvEvent} {n : Nat} (hacc : c.acc = d.acc) (hnext : c.k = kdiv * n + d.k)
    (he : c.event = ProvEvent.least e (d.event.map (ProvEvent.later n))) (l : List (List α)) :
    (runChunks kdiv gives c l).event = ProvEvent.least e ((runChunks kdiv gives d l).event.map (ProvEvent.later n)) := by
  induction l generalizing c d with
  | nil => exact he
  | cons x l ih =>
    refine ih (c := c.advance kdiv x.length (gives c.acc x)) (d := d.advance kdiv x.length (gives d.acc x)) ?_ ?_ ?_
    · simp only [CellRun.advance, hacc]
    · simp only [CellRun.advance, hnext, Nat.add_assoc]
    · have hlater : ∀ r : Option ProvEvent, r.map (ProvEvent.later (c.k / kdiv)) = (r.map (ProvEvent.later (d.k / kdiv))).map (ProvEvent.later n) := by
        intro r
        rw [Option.map_map, hnext, Nat.mul_add_div hk]
        congr 1
        funext x
        simp only [ProvEvent.later, Function.comp, Nat.add_comm n, Nat.add_assoc]
      simp only [CellRun.advance, hacc, he, hlater, ProvEvent.least_map_later, ProvEvent.least_assoc]

variable (kdiv)

theorem runChunks_k (c : CellRun) (l : List (List α)) : (runChunks kdiv gives c l).k = c.k + l.flatten.length := by
  induction l generalizing c with
  | nil => rfl
  | cons x l ih => rw [runChunks, List.foldl_cons, List.flatten_cons, List.length_append, ← Nat.add_assoc]; exact ih _

variable {gives}

/-- The events of a run lie in the blocks before its end. -/
theorem runChunks_kblk (hgives : ∀ a x, ∀ e ∈ (gives a x).2.2, e.kblk = 0) {c : CellRun} (hc : ∀ e ∈ c.event, e.kblk * kdiv < c.k)
    {l : List (List α)} (hl : ∀ x ∈ l, x ≠ []) : ∀ e ∈ (runChunks kdiv gives c l).event, e.kblk * kdiv < (runChunks kdiv gives c l).k := by
  induction l generalizing c with
  | nil => exact hc
  | cons x l ih =>
    refine ih (c := c.advance kdiv x.length (gives c.acc x)) ?_ fun y hy => hl y (List.mem_cons_of_mem _ hy)
    intro e he
    have hx := List.length_pos_iff.mpr (hl x List.mem_cons_self)
    rcases ((leastEvent_self c.event).least (leastEvent_self _)).2 e he |>.1 with h | h
    · exact (hc e h).trans_le (Nat.le_add_right ..)
    · obtain ⟨r, hr, rfl⟩ := Option.map_eq_some_iff.mp h
      have := Nat.div_mul_le_self c.k kdiv
      simp only [ProvEvent.later, hgives _ _ r hr, Nat.zero_add, CellRun.advance]
      omega

end

/-! A cell of a command as a run of chunks -/

section
variable {α : Type} (kdiv n : Nat) (gives : W32 → List α → ChunkRes)

/-- The run of a cell over all its elements. -/
def runCell (acc : W32) (l : List α) : CellRun := runChunks kdiv gives (CellRun.start acc) (pieces n l.length l)

variable {kdiv n}

theorem runCell_single (hn : 0 < n) {l : List α} (hl : l ≠ []) (h : l.length ≤ n) (acc : W32) :
    runCell kdiv n gives acc l = (CellRun.start acc).advance kdiv l.length (gives acc l) := by
  rw [runCell, pieces_single hn hl h]
  rfl

/-- A split after whole chunks. -/
theorem runCell_append (hn : 0 < n) {l : List α} (h : n ∣ l.length) (acc : W32) (l' : List α) :
    (runCell kdiv n gives acc (l ++ l')).acc = (runCell kdiv n gives (runCell kdiv n gives acc l).acc l').acc ∧
    (runCell kdiv n gives acc (l ++ l')).fl = (runCell kdiv n gives acc l).fl ||| (runCell kdiv n gives (runCell kdiv n gives acc l).acc l').fl := by
  unfold runCell
  rw [pieces_append hn h, runChunks, List.foldl_append]
  exact runChunks_acc_fl kdiv gives (c := runChunks kdiv gives (CellRun.start acc) (pieces n l.length l)) (d := CellRun.start _) rfl
    (Fl.or_zero _).symm _

theorem runCell_k (hn : 0 < n) (acc : W32) (l : List α) : (runCell kdiv n gives acc l).k = l.length := by
  rw [runCell, runChunks_k, pieces_flatten hn]
  exact Nat.zero_add _

/-- A split after whole chunks and blocks. -/
theorem runCell_append_event (hn : 0 < n) (hk : 0 < kdiv) {l : List α} (h : n ∣ l.length) {q : Nat} (hq : l.length = kdiv * q) (acc : W32) (l' : List α) :
    (runCell kdiv n gives acc (l ++ l')).event = ProvEvent.least (runCell kdiv n gives acc l).event
      ((runCell kdiv n gives (runCell kdiv n gives acc l).acc l').event.map (ProvEvent.later q)) := by
  have hend := runCell_k (kdiv := kdiv) gives hn acc l
  unfold runCell at hend ⊢
  rw [pieces_append hn h, runChunks, List.foldl_append]
  exact runChunks_event gives hk (c := runChunks kdiv gives (CellRun.start acc) (pieces n l.length l)) (d := CellRun.start _) rfl (hend.trans hq)
    (ProvEvent.least_none_right _).symm _

theorem runCell_kblk (hn : 0 < n) (hgives : ∀ a x, ∀ e ∈ (gives a x).2.2, e.kblk = 0) {acc : W32} {l : List α} {e : ProvEvent}
    (he : e ∈ (runCell kdiv n gives acc l).event) : e.kblk * kdiv < l.length := by
  have h := runChunks_kblk kdiv hgives (c := CellRun.start acc) (l := pieces n l.length l) nofun (fun x hx => pieces_ne_nil hn hx) e he
  rwa [runChunks_k, pieces_flatten hn, CellRun.start, Nat.zero_add] at h

end

/-- Elements of a block of B4 (03 R64). -/
def blockElems (af bf : EType) : Nat := if af = .b4 ∨ bf = .b4 then 32 else 16

theorem blockElems_eq (af bf : EType) : (if af == .b4 || bf == .b4 then 32 else 16) = blockElems af bf :=
  if_congr (by rw [Bool.or_eq_true, beq_iff_eq, beq_iff_eq]) rfl rfl

/-- The value of a chunk and its flags (03 R84, R85). -/
def floatValue (p : Nat) (ab : List (FVal × FVal)) : FVal × Fl := chunkValue p (ab.map (fun x => x.1.mul x.2))

/-- A floating cell after a chunk. -/
def floatSum (p : Nat) (acc : W32) (ab : List (FVal × FVal)) : FVal × Fl := rnAdd .fp32 (FFmt.fp32.decode acc.toNat) (floatValue p ab).1

/-- The flags of the products of a chunk. -/
def productFlags (ab : List (FVal × FVal)) : Fl := ab.foldl (fun f x => f ||| (product x.1 x.2).2) 0

/-- Whether a NaN or an infinity arises in the sum itself (10 R249). -/
def madeInSum (p : Nat) (acc : W32) (ab : List (FVal × FVal)) : Bool :=
  let old := FFmt.fp32.decode acc.toNat
  let r := floatSum p acc ab
  let special := ab.any (fun x => x.1.isNaN || x.1.isInf || x.2.isNaN || x.2.isInf)
  (r.1.isNaN || r.1.isInf) && !(old.isNaN || old.isInf) && !special ||
    (r.1.isNaN && !old.isNaN && (special || old.isInf) && !ab.any (fun x => x.1.isNaN || x.2.isNaN))

/-- What a floating chunk gives (03 R84, R85). -/
def floatGives (p row col : Nat) (acc : W32) (ab : List (FVal × FVal)) : ChunkRes :=
  let r := floatSum p acc ab
  (BitVec.ofNat 32 (bitsOf .fp32 r.1), productFlags ab ||| (floatValue p ab).2 ||| r.2,
    if madeInSum p acc ab then elementEvent 0 row col 2 .fp32 r.1 else none)

theorem floatGives_kblk (p row col : Nat) (acc : W32) (ab : List (FVal × FVal)) : ∀ e ∈ (floatGives p row col acc ab).2.2, e.kblk = 0 := by
  intro e he
  by_cases h : madeInSum p acc ab = true
  · simp only [floatGives, if_pos h] at he
    exact elementEvent_kblk _ _ _ _ he
  · simp only [floatGives, if_neg h] at he
    cases he

/-- What arises in the sum is a NaN or an infinity. -/
theorem odd_of_madeInSum {p : Nat} {acc : W32} {ab : List (FVal × FVal)} (h : madeInSum p acc ab = true) :
    ((floatSum p acc ab).1.isNaN || (floatSum p acc ab).1.isInf) = true := by
  unfold madeInSum at h
  simp only [Bool.or_eq_true, Bool.and_eq_true] at h ⊢
  rcases h with ⟨⟨h, -⟩, -⟩ | ⟨⟨⟨h, -⟩, -⟩, -⟩
  · exact h
  · exact .inl h

theorem floatChunk_eq (p kdiv row col : Nat) (c : CellRun) (ab : List (FVal × FVal)) :
    floatChunk p kdiv row col c ab = c.advance kdiv ab.length (floatGives p row col c.acc ab) := by
  have hprods : (ab.map (fun x => product x.1 x.2)).map (·.1) = ab.map (fun x => x.1.mul x.2) := by
    rw [List.map_map]
    rfl
  have hflags : (ab.map (fun x => product x.1 x.2)).foldl (fun f x => f ||| x.2) 0 = productFlags ab := List.foldl_map
  have hdef : floatChunk p kdiv row col c ab =
      { acc := BitVec.ofNat 32 (bitsOf .fp32 (floatSum p c.acc ab).1),
        fl := c.fl ||| productFlags ab ||| (floatValue p ab).2 ||| (floatSum p c.acc ab).2,
        event := ProvEvent.least c.event (if madeInSum p c.acc ab then
          some { kblk := c.k / kdiv, row, col, event := if (floatSum p c.acc ab).1.isNaN then 1 else 2, opnd := 2, fmt := EType.fp32.code }
          else none),
        k := c.k + ab.length } := by
    unfold floatChunk
    simp only [hprods, hflags]
    rfl
  rw [hdef, CellRun.advance, floatGives]
  simp only [BitVec.or_assoc]
  congr 2
  by_cases h : madeInSum p c.acc ab = true
  · rw [if_pos h, if_pos h, elementEvent, if_pos (odd_of_madeInSum h)]
    simp only [Option.map_some, ProvEvent.later, Nat.zero_add]
  · rw [if_neg h, if_neg h]
    rfl

/-- An integer cell after a chunk, and whether it saturated. -/
def intSum (acc : W32) (ab : List (Int × Int)) : Nat × Fl :=
  clampInt .i32 (intOf .i32 acc.toNat + ab.foldl (fun t x => t + x.1 * x.2) 0)

/-- What an integer chunk gives (03 R84, NP4). -/
def intGives (row col : Nat) (acc : W32) (ab : List (Int × Int)) : ChunkRes :=
  (BitVec.ofNat 32 (intSum acc ab).1, (intSum acc ab).2,
    if (intSum acc ab).2 = 0 then none else some { kblk := 0, row, col, event := 3, opnd := 2, fmt := EType.i32.code })

theorem intChunk_eq (kdiv row col : Nat) (c : CellRun) (ab : List (Int × Int)) :
    intChunk kdiv row col c ab = c.advance kdiv ab.length (intGives row col c.acc ab) := by
  have hdef : intChunk kdiv row col c ab =
      { acc := BitVec.ofNat 32 (intSum c.acc ab).1, fl := c.fl ||| (intSum c.acc ab).2,
        event := ProvEvent.least c.event (if (intSum c.acc ab).2 = 0 then none
          else some { kblk := c.k / kdiv, row, col, event := 3, opnd := 2, fmt := EType.i32.code }),
        k := c.k + ab.length } := rfl
  rw [hdef, CellRun.advance, intGives]
  congr 2
  by_cases h : (intSum c.acc ab).2 = 0
  · rw [if_pos h, if_pos h]
    rfl
  · rw [if_neg h, if_neg h]
    simp only [Option.map_some, ProvEvent.later, Nat.zero_add]

/-! The accumulation of a cell -/

/-- The values of a row of operands. -/
def rowVals (t : EType) (l : OperandRow) : List FVal := l.map (fun x => operandVal t x.1 x.2)

/-- The events of the operands of a cell. -/
def operandEvents (af bf : EType) (row col : Nat) (as bs : OperandRow) : Option ProvEvent :=
  ProvEvent.least (operandEvent (blockElems af bf) row col 0 af 0 (rowVals af as)) (operandEvent (blockElems af bf) row col 1 bf 0 (rowVals bf bs))

section
variable {np : BitVec 8} (af bf : EType) (row col : Nat) (acc : W32) (as bs : OperandRow)

theorem accumulate_float (hp : np.toNat ≤ 5) (h4 : np.toNat ≠ 4) : accumulate np af bf row col acc as bs =
    (let r := runCell (blockElems af bf) (chunkLen np.toNat) (floatGives np.toNat row col) acc ((rowVals af as).zip (rowVals bf bs))
     { r with event := ProvEvent.least (operandEvents af bf row col as bs) r.event }) := by
  have h255 : np ≠ 255 := by rintro rfl; exact absurd hp (by decide)
  have hne : np ≠ 4 := by rintro rfl; exact h4 rfl
  have hstep : floatChunk np.toNat (blockElems af bf) row col = fun c x => c.advance (blockElems af bf) x.length (floatGives np.toNat row col c.acc x) :=
    funext fun c => funext fun x => floatChunk_eq ..
  unfold accumulate
  simp only [if_neg h255, if_neg hne, blockElems_eq, hstep]
  rfl

theorem accumulate_int (hp : np.toNat = 4) : accumulate np af bf row col acc as bs =
    runCell (blockElems af bf) 64 (intGives row col) acc ((as.zip bs).map (fun x => (intOf af x.1.1, intOf bf x.2.1))) := by
  have hnp : np = 4 := BitVec.eq_of_toNat_eq hp
  have hstep : intChunk (blockElems af bf) row col = fun c x => c.advance (blockElems af bf) x.length (intGives row col c.acc x) :=
    funext fun c => funext fun x => intChunk_eq ..
  subst hnp
  unfold accumulate
  simp only [blockElems_eq, hstep]
  rfl

end

/-! A command that is split -/

theorem chunkLen_pos (p : Nat) : 0 < chunkLen p := by
  unfold chunkLen
  split <;> decide

theorem blockElems_pos (af bf : EType) : 0 < blockElems af bf := by
  unfold blockElems
  split <;> decide

section
variable {np : BitVec 8} (hp : np.toNat ≤ 5) (af bf : EType) (row col : Nat) (acc : W32) {as bs : OperandRow} (hlen : as.length = bs.length)
  (hchunk : as.length % chunkLen np.toNat = 0) (as' bs' : OperandRow)
include hlen

theorem zip_rowVals_append : (rowVals af (as ++ as')).zip (rowVals bf (bs ++ bs')) =
    (rowVals af as).zip (rowVals bf bs) ++ (rowVals af as').zip (rowVals bf bs') := by
  unfold rowVals
  rw [List.map_append, List.map_append, List.zip_append (by simpa using hlen)]

theorem length_zip_rowVals : ((rowVals af as).zip (rowVals bf bs)).length = as.length := by
  simp [rowVals, hlen]

include hp hchunk

/-- A split at a multiple of the chunk changes neither the accumulator nor the flags (03 R84). -/
theorem accumulate_append :
    let one := accumulate np af bf row col acc as bs
    let both := accumulate np af bf row col acc (as ++ as') (bs ++ bs')
    let next := accumulate np af bf row col one.acc as' bs'
    both.acc = next.acc ∧ both.fl = one.fl ||| next.fl := by
  have hdvd := Nat.dvd_of_mod_eq_zero hchunk
  by_cases h4 : np.toNat = 4
  · simp only [accumulate_int af bf row col _ _ _ h4, List.zip_append hlen, List.map_append]
    rw [h4] at hdvd
    exact runCell_append _ (by decide) (by rw [List.length_map, List.length_zip, hlen, Nat.min_self, ← hlen]; exact hdvd) acc _
  · simp only [accumulate_float af bf row col _ _ _ hp h4, zip_rowVals_append af bf hlen]
    exact runCell_append _ (chunkLen_pos _) (by rwa [length_zip_rowVals af bf hlen]) acc _

/-- The events of a split command. -/
theorem accumulate_append_event {q : Nat} (hq : as.length = blockElems af bf * q) :
    let one := accumulate np af bf row col acc as bs
    let next := accumulate np af bf row col one.acc as' bs'
    (accumulate np af bf row col acc (as ++ as') (bs ++ bs')).event = ProvEvent.least one.event (next.event.map (ProvEvent.later q)) := by
  have hdvd := Nat.dvd_of_mod_eq_zero hchunk
  have hk := blockElems_pos af bf
  by_cases h4 : np.toNat = 4
  · simp only [accumulate_int af bf row col _ _ _ h4, List.zip_append hlen, List.map_append]
    rw [h4] at hdvd
    exact runCell_append_event _ (by decide) hk (by rw [List.length_map, List.length_zip, hlen, Nat.min_self, ← hlen]; exact hdvd) (by simpa [hlen] using hq) acc _
  · have hsplit : ∀ (opnd : Nat) (t : EType) (l l' : OperandRow), l.length = blockElems af bf * q →
        operandEvent (blockElems af bf) row col opnd t 0 (rowVals t (l ++ l')) =
        ProvEvent.least (operandEvent (blockElems af bf) row col opnd t 0 (rowVals t l))
          ((operandEvent (blockElems af bf) row col opnd t 0 (rowVals t l')).map (ProvEvent.later q)) := by
      intro opnd t l l' hl
      rw [rowVals, List.map_append, operandEvent_append, ← operandEvent_later row col opnd t hk, List.length_map, hl, Nat.zero_add]
      rfl
    have hbefore : ∀ {e e' : Option ProvEvent}, (∀ y ∈ e, y.kblk * blockElems af bf < as.length) →
        ∀ x ∈ e'.map (ProvEvent.later q), ∀ y ∈ e, y.Before x := by
      intro e e' he x hx y hy
      obtain ⟨z, -, rfl⟩ := Option.map_eq_some_iff.mp hx
      have hlt : y.kblk < q := Nat.lt_of_mul_lt_mul_left (a := blockElems af bf) (by rw [← hq, Nat.mul_comm]; exact he y hy)
      exact .inl (hlt.trans_le (Nat.le_add_left q z.kblk))
    have hops : operandEvents af bf row col (as ++ as') (bs ++ bs') =
        ProvEvent.least (operandEvents af bf row col as bs) ((operandEvents af bf row col as' bs').map (ProvEvent.later q)) := by
      rw [operandEvents, hsplit 0 af as as' hq, hsplit 1 bf bs bs' (hlen ▸ hq), ProvEvent.least_least_least, ← ProvEvent.least_map_later]
      · rfl
      · refine hbefore fun y hy => (operandEvent_kblk row col 1 bf hy).trans_eq ?_
        simp [rowVals, hlen]
    simp only [accumulate_float af bf row col _ _ _ hp h4, zip_rowVals_append af bf hlen]
    rw [hops, runCell_append_event _ (chunkLen_pos _) hk (by rwa [length_zip_rowVals af bf hlen]) ((length_zip_rowVals af bf hlen).trans hq),
      ProvEvent.least_least_least, ← ProvEvent.least_map_later]
    refine hbefore fun y hy => (runCell_kblk _ (chunkLen_pos _) (floatGives_kblk _ row col) hy).trans_eq (length_zip_rowVals af bf hlen)

end

end Sys2Proof.Machine
end

section
/-! PROOF. O43, second part: what one chunk gives under NP0 to NP5 (03 R84, R85) and its events (10 R249). -/

namespace Sys2Proof.Machine

/-! Lists of values -/

/-- A value that is neither a NaN nor an infinity. -/
def FVal.Finite (x : FVal) : Prop := x ≠ .nan ∧ x.isInf = false

theorem FVal.Finite.add {x y : FVal} (hx : x.Finite) (hy : y.Finite) : (x.add .rne y).Finite := by
  obtain ⟨hx1, hx2⟩ := hx
  obtain ⟨hy1, hy2⟩ := hy
  cases x with
  | nan => contradiction
  | inf => cases hx2
  | num a m e =>
    cases y with
    | nan => contradiction
    | inf => cases hy2
    | num b k g =>
      rw [add_num]
      split
      · exact ⟨nofun, rfl⟩
      · exact ⟨nofun, rfl⟩

theorem foldl_add_finite {l : List FVal} (hl : ∀ x ∈ l, x.Finite) {x : FVal} (hx : x.Finite) : (l.foldl (fun s y => s.add .rne y) x).Finite := by
  induction l generalizing x with
  | nil => exact hx
  | cons y l ih =>
    exact ih (fun z hz => hl z (List.mem_cons_of_mem _ hz)) (hx.add (hl y List.mem_cons_self))

/-- The exact sum, in the words of the statement. -/
theorem exactSum_eq (l : List FVal) : exactSum l = l.tail.foldl (fun x y => x.add .rne y) (l.headD FVal.zero) := by cases l <;> rfl

theorem exactSum_finite {l : List FVal} (hl : ∀ x ∈ l, x.Finite) : (exactSum l).Finite := by
  cases l with
  | nil => exact ⟨nofun, rfl⟩
  | cons x l => exact foldl_add_finite (fun y hy => hl y (List.mem_cons_of_mem _ hy)) (hl x List.mem_cons_self)

theorem rn_eq_RN_false {x : FVal} (f : FFmt) (hx : x.Finite) : rn f x = RN f false x := by
  rw [← rn_eq_RN, decide_eq_false hx.1]

/-! The specials of a chunk (03 R85) -/

section
variable {ps : List FVal}

theorem any_isInf (n : Bool) : ps.any (fun p => p.isInf && (if n then p.negative else !p.negative)) = true ↔ FVal.inf n ∈ ps := by
  rw [List.any_eq_true]
  constructor
  · rintro ⟨x, hx, h⟩
    cases x with
    | nan => cases h
    | num => cases h
    | inf b =>
      have hb : b = n := by revert h; cases n <;> cases b <;> decide
      exact hb ▸ hx
  · intro h
    exact ⟨_, h, by cases n <;> rfl⟩

theorem chunkSpecial_eq : chunkSpecial ps =
    if FVal.nan ∈ ps then some (.nan, 0)
    else if FVal.inf false ∈ ps ∧ FVal.inf true ∈ ps then some (.nan, Fl.nv)
    else if FVal.inf false ∈ ps then some (.inf false, 0) else if FVal.inf true ∈ ps then some (.inf true, 0) else none := by
  have hpos : ps.any (fun p => p.isInf && !p.negative) = true ↔ FVal.inf false ∈ ps := any_isInf false
  have hneg : ps.any (fun p => p.isInf && p.negative) = true ↔ FVal.inf true ∈ ps := any_isInf true
  unfold chunkSpecial
  simp only [any_isNaN, Bool.and_eq_true, hpos, hneg]

/-- Of a chunk with a special value, no sum is taken. -/
theorem chunkValue_special {r : FVal × Fl} (p : Nat) (h : chunkSpecial ps = some r) : chunkValue p ps = r := by
  unfold chunkValue
  rw [h]

section
variable (hnan : FVal.nan ∉ ps) (hinf : ∀ n, FVal.inf n ∉ ps)
include hnan hinf

theorem chunkSpecial_none : chunkSpecial ps = none := by
  rw [chunkSpecial_eq, if_neg hnan, if_neg fun h => hinf _ h.1, if_neg (hinf false), if_neg (hinf true)]

theorem finite_of_mem {x : FVal} (hx : x ∈ ps) : x.Finite := by
  refine ⟨fun h => hnan (h ▸ hx), ?_⟩
  cases x with
  | inf n => exact absurd hx (hinf n)
  | nan => rfl
  | num => rfl

theorem chunkValue_np0 : chunkValue 0 ps = (ps.headD FVal.zero, 0) := by rw [chunkValue, chunkSpecial_none hnan hinf]

/-- NP1 and NP3 round the exact sum once. -/
theorem chunkValue_np1 {p : Nat} (hp : p = 1 ∨ p = 3) : chunkValue p ps = RN .fp32 false (exactSum ps) := by
  rw [← rn_eq_RN_false _ (exactSum_finite fun x hx => finite_of_mem hnan hinf hx)]
  unfold chunkValue
  rw [chunkSpecial_none hnan hinf]
  rcases hp with rfl | rfl <;> rfl

theorem chunkValue_np5 : chunkValue 5 ps = tree .fp32 ps := by rw [chunkValue, chunkSpecial_none hnan hinf]

theorem chunkValue_np2_nil (h : ps.filter (fun q => !q.isZero) = []) : chunkValue 2 ps = (FVal.zero, 0) := by
  unfold chunkValue
  rw [chunkSpecial_none hnan hinf]
  simp only [h]

omit hnan hinf in
/-- The largest of a list of integers and a start. -/
theorem foldl_max_expo (l : List FVal) (m : Int) : m ≤ l.foldl (fun m x => max m (expo x)) m ∧
    (∀ y ∈ l, expo y ≤ l.foldl (fun m x => max m (expo x)) m) ∧
    ∀ b, m ≤ b → (∀ y ∈ l, expo y ≤ b) → l.foldl (fun m x => max m (expo x)) m ≤ b := by
  induction l generalizing m with
  | nil => exact ⟨le_rfl, nofun, fun b hb _ => hb⟩
  | cons y l ih =>
    obtain ⟨hm, hl, hb⟩ := ih (max m (expo y))
    refine ⟨(le_max_left ..).trans hm, fun z hz => ?_, fun b hmb hlb => ?_⟩
    · rcases List.mem_cons.mp hz with rfl | hz
      · exact (le_max_right ..).trans hm
      · exact hl z hz
    · exact hb b (max_le hmb (hlb y List.mem_cons_self)) fun z hz => hlb z (List.mem_cons_of_mem _ hz)

omit hnan hinf in
/-- The largest exponent of a list. -/
theorem foldl_expo {q x : FVal} {qs : List FVal} (hx : x ∈ q :: qs) (hmax : ∀ y ∈ q :: qs, expo y ≤ expo x) :
    qs.foldl (fun m x => if m < expo x then expo x else m) (expo q) = expo x := by
  have hstep : (fun (m : Int) (x : FVal) => if m < expo x then expo x else m) = fun m x => max m (expo x) := by
    funext m x
    rw [max_def]
    split <;> split <;> omega
  rw [hstep]
  obtain ⟨h1, h2, h3⟩ := foldl_max_expo qs (expo q)
  refine le_antisymm (h3 _ (hmax q List.mem_cons_self) fun y hy => hmax y (List.mem_cons_of_mem _ hy)) ?_
  rcases List.mem_cons.mp hx with rfl | hx
  · exact h1
  · exact h2 x hx

omit hnan hinf in
theorem truncAt_finite {x : FVal} (hx : x.Finite) (g : Int) : (truncAt g x).Finite := by
  obtain ⟨hn, hi⟩ := hx
  cases x with
  | nan => contradiction
  | inf => cases hi
  | num n m e =>
    rw [truncAt]
    by_cases h : e < g
    · rw [if_pos h]
      exact ⟨nofun, rfl⟩
    · rw [if_neg h]
      exact ⟨nofun, rfl⟩

/-- NP2 rounds the sum of the truncated products. -/
theorem chunkValue_np2 {x : FVal} (hx : x ∈ ps.filter (fun q => !q.isZero)) (hmax : ∀ y ∈ ps.filter (fun q => !q.isZero), expo y ≤ expo x) :
    chunkValue 2 ps = RN .fp32 false (exactSum ((ps.filter (fun q => !q.isZero)).map (truncAt (expo x - 40)))) := by
  have hfin : ∀ y ∈ (ps.filter (fun q => !q.isZero)).map (truncAt (expo x - 40)), y.Finite := by
    intro y hy
    obtain ⟨z, hz, rfl⟩ := List.mem_map.mp hy
    exact truncAt_finite (finite_of_mem hnan hinf (List.mem_of_mem_filter hz)) _
  rw [← rn_eq_RN_false _ (exactSum_finite hfin)]
  unfold chunkValue
  rw [chunkSpecial_none hnan hinf]
  generalize ps.filter (fun q => !q.isZero) = l at hx hmax
  cases l with
  | nil => cases hx
  | cons q qs => simp only [foldl_expo hx hmax]

end

end

/-! One chunk into a cell -/

theorem Fl.ite_or_ite (p q : Prop) [Decidable p] [Decidable q] (f : Fl) : (if p then f else 0) ||| (if q then f else 0) = if p ∨ q then f else 0 := by
  by_cases hp : p
  · by_cases hq : q
    · rw [if_pos hp, if_pos hq, if_pos (.inl hp), BitVec.or_self]
    · rw [if_pos hp, if_neg hq, if_pos (.inl hp), Fl.or_zero]
  · by_cases hq : q
    · rw [if_neg hp, if_pos hq, if_pos (.inr hq), Fl.zero_or]
    · rw [if_neg hp, if_neg hq, if_neg (not_or.mpr ⟨hp, hq⟩), Fl.or_zero]

/-- Whether a list of pairs has a product that is a NaN of operands that are none. -/
theorem productFlags_eq (ab : List (FVal × FVal)) :
    productFlags ab = if ∃ z ∈ ab, z.1 ≠ .nan ∧ z.2 ≠ .nan ∧ z.1.mul z.2 = .nan then Fl.nv else 0 := by
  have hone : ∀ z : FVal × FVal, (product z.1 z.2).2 = if z.1 ≠ .nan ∧ z.2 ≠ .nan ∧ z.1.mul z.2 = .nan then Fl.nv else 0 := by
    intro z
    refine (ElemEnv.nvOf_eq ElemEnv.nan_mem_two).trans (if_congr ?_ rfl rfl)
    simp only [List.mem_cons, List.not_mem_nil, or_false, not_or]
    constructor
    · exact fun h => ⟨Ne.symm h.2.1, Ne.symm h.2.2, h.1⟩
    · exact fun h => ⟨h.2.2, Ne.symm h.1, Ne.symm h.2.1⟩
  have hfold : ∀ (l : List (FVal × FVal)) (a : Fl), l.foldl (fun f x => f ||| (product x.1 x.2).2) a =
      a ||| (if ∃ z ∈ l, z.1 ≠ .nan ∧ z.2 ≠ .nan ∧ z.1.mul z.2 = .nan then Fl.nv else 0) := by
    intro l
    induction l with
    | nil => intro a; simp
    | cons z l ih =>
      intro a
      rw [List.foldl_cons, ih, hone, BitVec.or_assoc]
      simp only [List.exists_mem_cons_iff, Fl.ite_or_ite]
  exact (hfold ab 0).trans (Fl.zero_or _)

section
variable (p row col : Nat) (acc : W32) (ab : List (FVal × FVal))

/-- A chunk's value is added to the cell with one RN (03 R84). -/
theorem floatGives_adds {v : FVal} {more : Fl} (h : floatValue p ab = (v, more)) :
    let old := FFmt.fp32.decode acc.toNat
    let z := old.add .rne v
    let r := floatGives p row col acc ab
    r.1 = BitVec.ofNat 32 (z.round .fp32 .rne).1 ∧
    r.2.1 = productFlags ab ||| more ||| (z.round .fp32 .rne).2 ||| (if z = .nan ∧ old ≠ .nan ∧ v ≠ .nan then Fl.nv else 0) := by
  intro old z r
  have hnv : nvOf (old.isNaN || v.isNaN) z = if z = .nan ∧ old ≠ .nan ∧ v ≠ .nan then Fl.nv else 0 := by
    rw [ElemEnv.nvOf_eq ElemEnv.nan_mem_two]
    refine if_congr ?_ rfl rfl
    simp only [List.mem_cons, List.not_mem_nil, or_false, not_or, ne_eq, eq_comm]
  refine ⟨?_, ?_⟩
  · simp only [r, floatGives, floatSum, h, rnAdd]
    rw [bitsOf_rn (f := .fp32) EType.fp32.fmt_usual rfl]
  · simp only [r, floatGives, floatSum, h, rnAdd]
    rw [← hnv, BitVec.or_assoc _ _ (nvOf _ _)]
    rfl

end

end Sys2Proof.Machine
end

section
/-! PROOF. O43, third part: a command of one chunk (03 R84, R85) and what its event names (10 R249). -/

namespace Sys2Proof.Machine

/-! What an event of a value says -/

/-- The EVENT of a NaN or an infinity (10 R249). -/
def FVal.Odd (v : FVal) (event : Nat) : Prop := (v = .nan ∧ event = 1) ∨ (v.isInf = true ∧ event = 2)

theorem exists_odd (v : FVal) : (∃ n, v.Odd n) ↔ (v.isNaN || v.isInf) = true := by
  rw [Bool.or_eq_true, ElemEnv.isNaN_iff]
  constructor
  · rintro ⟨n, ⟨h, -⟩ | ⟨h, -⟩⟩
    · exact .inl h
    · exact .inr h
  · rintro (h | h)
    · exact ⟨1, .inl ⟨h, rfl⟩⟩
    · exact ⟨2, .inr ⟨h, rfl⟩⟩

theorem elementEvent_iff {kblk row col opnd : Nat} {t : EType} {v : FVal} {x : ProvEvent} : elementEvent kblk row col opnd t v = some x ↔
    x.kblk = kblk ∧ x.row = row ∧ x.col = col ∧ x.opnd = opnd ∧ x.fmt = t.code ∧ v.Odd x.event := by
  obtain ⟨xk, xr, xc, xe, xo, xf⟩ := x
  unfold elementEvent FVal.Odd
  cases v with
  | nan =>
    simp only [FVal.isNaN, FVal.isInf, Bool.true_or, if_true, Option.some.injEq, ProvEvent.mk.injEq, true_and, Bool.false_eq_true, false_and, or_false]
    exact ⟨fun ⟨hk, hr, hc, he, ho, hf⟩ => ⟨hk.symm, hr.symm, hc.symm, ho.symm, hf.symm, he.symm⟩,
      fun ⟨hk, hr, hc, ho, hf, he⟩ => ⟨hk.symm, hr.symm, hc.symm, he.symm, ho.symm, hf.symm⟩⟩
  | inf n =>
    simp only [FVal.isNaN, FVal.isInf, Bool.or_true, if_true, Option.some.injEq, ProvEvent.mk.injEq, true_and, Bool.false_eq_true, if_false,
      reduceCtorEq, false_and, false_or]
    exact ⟨fun ⟨hk, hr, hc, he, ho, hf⟩ => ⟨hk.symm, hr.symm, hc.symm, ho.symm, hf.symm, he.symm⟩,
      fun ⟨hk, hr, hc, ho, hf, he⟩ => ⟨hk.symm, hr.symm, hc.symm, he.symm, ho.symm, hf.symm⟩⟩
  | num => simp [FVal.isNaN, FVal.isInf]

/-! Integer chunks -/

/-- A cell after its first chunk. -/
theorem advance_start (acc : W32) (kdiv n : Nat) (r : ChunkRes) :
    (CellRun.start acc).advance kdiv n r = { acc := r.1, fl := r.2.1, event := r.2.2, k := n } := by
  have hlater : ProvEvent.later (0 / kdiv) = id := by rw [Nat.zero_div]; rfl
  rw [CellRun.advance, CellRun.start, hlater, Option.map_id, id, ProvEvent.least_none_left, Fl.zero_or, Nat.zero_add]

section
variable (acc : W32) (ab : List (Int × Int))

theorem foldl_products (l : List (Int × Int)) (a : Int) : l.foldl (fun t x => t + x.1 * x.2) a = a + (l.map (fun x => x.1 * x.2)).sum := by
  induction l generalizing a with
  | nil => simp
  | cons x l ih => rw [List.foldl_cons, ih, List.map_cons, List.sum_cons, add_assoc]

omit ab in
theorem intOf_i32 : intOf .i32 acc.toNat = acc.toInt :=
  (intOf_eq .i32 acc.toNat).trans (congrArg BitVec.toInt (BitVec.ofNat_toNat ..))

/-- NP4 clamps the exact sum to the range of I32. -/
theorem intSum_eq : let sum := acc.toInt + (ab.map (fun x => x.1 * x.2)).sum
    intSum acc ab = (intBits .i32 (if sum < -2 ^ 31 then -2 ^ 31 else if 2 ^ 31 - 1 < sum then 2 ^ 31 - 1 else sum),
      if sum < -2 ^ 31 ∨ 2 ^ 31 - 1 < sum then Fl.sat else 0) := by
  rw [intSum, intOf_i32, foldl_products, clampInt_eq, Int.zero_add]
  rfl

end

/-! One chunk -/

section
variable {np : BitVec 8} (hp : np.toNat ≤ 5) (af bf : EType) (row col : Nat) (acc : W32) {as bs : OperandRow} (hlen : as.length = bs.length)
  (hne : as ≠ []) (hle : as.length ≤ chunkLen np.toNat)
include hlen hne hle

/-- NP4 on one chunk (03 R84). -/
theorem accumulate_int_single (h4 : np.toNat = 4) :
    let r := intGives row col acc ((as.zip bs).map (fun x => (intOf af x.1.1, intOf bf x.2.1)))
    accumulate np af bf row col acc as bs = { acc := r.1, fl := r.2.1, event := r.2.2, k := as.length } := by
  have hzip : ((as.zip bs).map (fun x => (intOf af x.1.1, intOf bf x.2.1))).length = as.length := by simp [hlen]
  rw [accumulate_int af bf row col acc as bs h4, runCell_single _ (by decide) (List.ne_nil_of_length_pos (hzip ▸ List.length_pos_iff.mpr hne))
    (hzip.trans_le (by rwa [h4] at hle)), advance_start, hzip]

include hp

/-- The floating profiles on one chunk (03 R84, R85). -/
theorem accumulate_float_single (h4 : np.toNat ≠ 4) :
    let r := floatGives np.toNat row col acc ((rowVals af as).zip (rowVals bf bs))
    accumulate np af bf row col acc as bs =
      { acc := r.1, fl := r.2.1, event := ProvEvent.least (operandEvents af bf row col as bs) r.2.2, k := as.length } := by
  have hzip := length_zip_rowVals af bf hlen
  rw [accumulate_float af bf row col acc as bs hp h4, runCell_single _ (chunkLen_pos _)
    (List.ne_nil_of_length_pos (hzip ▸ List.length_pos_iff.mpr hne)) (hzip.trans_le hle), advance_start, hzip]

end

/-! The events of one chunk -/

section
variable (af bf : EType) (row col : Nat) {as bs : OperandRow} (hlen : as.length = bs.length)

/-- An event of an operand of a list of pairs. -/
def OfOperand (pairs : List (FVal × FVal)) (x : ProvEvent) : Prop := ∃ k z, pairs[k]? = some z ∧ x.kblk = k / blockElems af bf ∧
  ((x.opnd = 0 ∧ x.fmt = af.code ∧ z.1.Odd x.event) ∨ (x.opnd = 1 ∧ x.fmt = bf.code ∧ z.2.Odd x.event))

include hlen

theorem leastEvent_operandEvents : LeastEvent (operandEvents af bf row col as bs)
    (fun x => x.row = row ∧ x.col = col ∧ OfOperand af bf ((rowVals af as).zip (rowVals bf bs)) x) := by
  have hl : (rowVals af as).length = (rowVals bf bs).length := by simpa [rowVals] using hlen
  refine ((leastEvent_operandEvent row col 0 af 0 (rowVals af as)).least (leastEvent_operandEvent row col 1 bf 0 (rowVals bf bs))).congr fun x => ?_
  simp only [elementEvent_iff, Nat.zero_add, OfOperand, List.getElem?_zip_eq_some]
  constructor
  · rintro (⟨i, v, hv, hk, hr, hc, ho, hf, hodd⟩ | ⟨i, v, hv, hk, hr, hc, ho, hf, hodd⟩)
    · obtain ⟨w, hw⟩ : ∃ w, (rowVals bf bs)[i]? = some w := ⟨_, List.getElem?_eq_getElem (hl ▸ (List.getElem?_eq_some_iff.mp hv).1)⟩
      exact ⟨hr, hc, i, (v, w), ⟨hv, hw⟩, hk, .inl ⟨ho, hf, hodd⟩⟩
    · obtain ⟨w, hw⟩ : ∃ w, (rowVals af as)[i]? = some w := ⟨_, List.getElem?_eq_getElem (hl ▸ (List.getElem?_eq_some_iff.mp hv).1)⟩
      exact ⟨hr, hc, i, (w, v), ⟨hw, hv⟩, hk, .inr ⟨ho, hf, hodd⟩⟩
  · rintro ⟨hr, hc, i, z, ⟨hz1, hz2⟩, hk, ⟨ho, hf, hodd⟩ | ⟨ho, hf, hodd⟩⟩
    · exact .inl ⟨i, z.1, hz1, hk, hr, hc, ho, hf, hodd⟩
    · exact .inr ⟨i, z.2, hz2, hk, hr, hc, ho, hf, hodd⟩

end

section
variable (p row col : Nat) (acc : W32) (ab : List (FVal × FVal))

theorem decode_floatGives : FFmt.fp32.decode (floatGives p row col acc ab).1.toNat = (floatSum p acc ab).1 := by
  have hlt : bitsOf .fp32 (floatSum p acc ab).1 < 2 ^ EType.fp32.bits := round_lt EType.fp32.fmt_usual _
  rw [floatGives, toNat_ofNat_of_lt_bits hlt]
  exact decode_bitsOf_rn (f := .fp32) EType.fp32.fmt_usual rfl _

/-- When a NaN or an infinity is one of the sum (10 R249; log 32). -/
theorem madeInSum_iff :
    let old := FFmt.fp32.decode acc.toNat
    let res := (floatSum p acc ab).1
    let oddPair : Prop := ∃ z ∈ ab, ∃ n, z.1.Odd n ∨ z.2.Odd n
    madeInSum p acc ab = true ↔ (∃ n, res.Odd n) ∧ ((¬oddPair ∧ ∀ n, ¬old.Odd n) ∨
      (res = .nan ∧ old ≠ .nan ∧ (oddPair ∨ old.isInf = true) ∧ ∀ z ∈ ab, z.1 ≠ .nan ∧ z.2 ≠ .nan)) := by
  intro old res oddPair
  have hodd : ab.any (fun x => x.1.isNaN || x.1.isInf || x.2.isNaN || x.2.isInf) = true ↔ oddPair := by
    simp only [List.any_eq_true, oddPair, exists_or, exists_odd, Bool.or_assoc, Bool.or_eq_true]
    simp only [or_assoc]
  have hnan : ab.any (fun x => x.1.isNaN || x.2.isNaN) = true ↔ ¬∀ z ∈ ab, z.1 ≠ .nan ∧ z.2 ≠ .nan := by
    simp only [List.any_eq_true, Bool.or_eq_true, ElemEnv.isNaN_iff]
    push Not
    exact exists_congr fun z => and_congr_right fun _ => or_iff_not_imp_left
  have hall : (∀ z ∈ ab, z.1 ≠ .nan ∧ z.2 ≠ .nan) ↔ ¬ab.any (fun x => x.1.isNaN || x.2.isNaN) = true := by rw [hnan, not_not]
  have hold : (∀ n, ¬old.Odd n) ↔ ¬(old.isNaN || old.isInf) = true := by rw [← exists_odd, not_exists]
  have hdef : madeInSum p acc ab = ((res.isNaN || res.isInf) && !(old.isNaN || old.isInf) &&
      !ab.any (fun x => x.1.isNaN || x.1.isInf || x.2.isNaN || x.2.isInf) || (res.isNaN && !old.isNaN &&
      (ab.any (fun x => x.1.isNaN || x.1.isInf || x.2.isNaN || x.2.isInf) || old.isInf) && !ab.any (fun x => x.1.isNaN || x.2.isNaN))) := rfl
  rw [exists_odd, hold, hall, ← hodd, ne_eq, ← ElemEnv.isNaN_iff, ← ElemEnv.isNaN_iff, hdef]
  simp only [Bool.or_eq_true (_ && _), Bool.and_eq_true, Bool.not_eq_true', ← Bool.not_eq_true]
  constructor
  · rintro (⟨⟨hr, ho⟩, hs⟩ | ⟨⟨⟨ha, hc⟩, hs⟩, hn⟩)
    · exact ⟨hr, .inl ⟨hs, ho⟩⟩
    · exact ⟨Bool.or_eq_true .. ▸ .inl ha, .inr ⟨ha, hc, Bool.or_eq_true .. ▸ hs, hn⟩⟩
  · rintro ⟨hr, ⟨hs, ho⟩ | ⟨ha, hc, hs, hn⟩⟩
    · exact .inl ⟨⟨hr, ho⟩, hs⟩
    · exact .inr ⟨⟨⟨ha, hc⟩, Bool.or_eq_true .. ▸ hs⟩, hn⟩

/-- The event of the sum of a chunk. -/
theorem leastEvent_floatGives : LeastEvent (floatGives p row col acc ab).2.2 (fun x =>
    let old := FFmt.fp32.decode acc.toNat
    let res := (floatSum p acc ab).1
    let oddPair : Prop := ∃ z ∈ ab, ∃ n, z.1.Odd n ∨ z.2.Odd n
    x.row = row ∧ x.col = col ∧ x.kblk = 0 ∧ x.opnd = 2 ∧ x.fmt = EType.fp32.code ∧ res.Odd x.event ∧
      ((¬oddPair ∧ ∀ n, ¬old.Odd n) ∨ (res = .nan ∧ old ≠ .nan ∧ (oddPair ∨ old.isInf = true) ∧ ∀ z ∈ ab, z.1 ≠ .nan ∧ z.2 ≠ .nan))) := by
  have hmade := madeInSum_iff p acc ab
  by_cases h : madeInSum p acc ab = true
  · obtain ⟨-, hwhy⟩ := hmade.mp h
    simp only [floatGives, if_pos h]
    refine (leastEvent_self _).congr fun x => ?_
    rw [elementEvent_iff]
    constructor
    · rintro ⟨hk, hr, hc, ho, hf, hodd⟩
      exact ⟨hr, hc, hk, ho, hf, hodd, hwhy⟩
    · rintro ⟨hr, hc, hk, ho, hf, hodd, -⟩
      exact ⟨hk, hr, hc, ho, hf, hodd⟩
  · simp only [floatGives, if_neg h]
    refine leastEvent_none fun x => ?_
    rintro ⟨-, -, -, -, -, hodd, hwhy⟩
    exact h (hmade.mpr ⟨⟨_, hodd⟩, hwhy⟩)

end

end Sys2Proof.Machine
end

section
/-! PROOF. O43, fourth part: the specials of a chunk, and what an operand element is worth (03 R64, R65, R85). -/

namespace Sys2Proof.Machine

theorem rowVals_zip (af bf : EType) (as bs : OperandRow) :
    (as.zip bs).map (fun z => (operandVal af z.1.1 z.1.2, operandVal bf z.2.1 z.2.2)) = (rowVals af as).zip (rowVals bf bs) := by
  rw [rowVals, rowVals, List.zip_map]
  rfl

theorem chunkLen_eq {p : Nat} (hp : p ≤ 5) : [1, 16, 32, 32, 64, 64].getD p 1 = chunkLen p := by
  interval_cases p <;> rfl

/-- The event of an integer chunk is its saturation. -/
theorem leastEvent_intGives (row col : Nat) (acc : W32) (ab : List (Int × Int)) : LeastEvent (intGives row col acc ab).2.2
    (fun x => (intSum acc ab).2 ≠ 0 ∧ x = { kblk := 0, row, col, event := 3, opnd := 2, fmt := EType.i32.code }) := by
  by_cases h : (intSum acc ab).2 = 0
  · simp only [intGives, if_pos h]
    exact leastEvent_none fun x hx => hx.1 h
  · simp only [intGives, if_neg h]
    exact leastEvent_some fun x => and_iff_right h

section
variable {ps : List FVal}

theorem chunkSpecial_nan (h : FVal.nan ∈ ps) : chunkSpecial ps = some (.nan, 0) := by rw [chunkSpecial_eq, if_pos h]

theorem chunkSpecial_both (hn : FVal.nan ∉ ps) (ht : FVal.inf true ∈ ps) (hf : FVal.inf false ∈ ps) : chunkSpecial ps = some (.nan, Fl.nv) := by
  rw [chunkSpecial_eq, if_neg hn, if_pos ⟨hf, ht⟩]

theorem chunkSpecial_inf (hn : FVal.nan ∉ ps) {n : Bool} (hi : FVal.inf n ∈ ps) (ho : FVal.inf (!n) ∉ ps) : chunkSpecial ps = some (.inf n, 0) := by
  rw [chunkSpecial_eq, if_neg hn]
  cases n with
  | false => rw [if_neg fun h => ho h.2, if_pos hi]
  | true => rw [if_neg fun h => ho h.1, if_neg (show FVal.inf false ∉ ps from ho), if_pos hi]

end

theorem ofNat_intBits_i32 (x : Int) : BitVec.ofNat 32 (intBits .i32 x) = BitVec.ofInt 32 x := by
  apply BitVec.eq_of_toNat_eq
  rw [toNat_ofNat_of_lt_bits (intBits_lt .i32 x), BitVec.toNat_ofInt]
  rfl

/-! Operands -/

/-- Bits above a format's pattern are not read. -/
theorem decode_mod (f : FFmt) (b : Nat) : f.decode (b % 2 ^ (f.eb + f.fb + 1)) = f.decode b := by
  have hsplit : 2 ^ (f.eb + f.fb + 1) = 2 ^ f.fb * 2 ^ (f.eb + 1) := by rw [← Nat.pow_add]; congr 1; omega
  have hexp : f.expOf (b % 2 ^ (f.eb + f.fb + 1)) = f.expOf b := by
    rw [FFmt.expOf, hsplit, Nat.mod_mul_right_div_self, Nat.mod_mod_of_dvd _ (Nat.pow_dvd_pow 2 (Nat.le_succ _)), FFmt.expOf]
  have hfrac : f.fracOf (b % 2 ^ (f.eb + f.fb + 1)) = f.fracOf b := Nat.mod_mod_of_dvd _ (hsplit ▸ Nat.dvd_mul_right ..)
  have hneg : f.negOf (b % 2 ^ (f.eb + f.fb + 1)) = f.negOf b := by
    rw [FFmt.negOf, Nat.add_comm f.eb, Nat.pow_succ, Nat.mod_mul_right_div_self, Nat.mod_mod, FFmt.negOf]
  rw [FFmt.decode_eq, FFmt.decode_eq, hexp, hfrac, hneg]

theorem operandVal_float {t : EType} (raw scale : Nat) (ht : t.isFloat = true) : operandVal t raw scale = t.fmt.decode (raw % 2 ^ t.bits) := by
  have hb : (t == .b4) = false := by revert ht; cases t <;> decide
  rw [operandVal, hb, if_neg Bool.false_ne_true, elemVal, EType.not_isInt ht, if_neg Bool.false_ne_true]

/-- Eighths of a code's entry, by the kind of its scale (03 R65). -/
def b4Eighths (kind raw : Nat) : Nat :=
  if kind = 0 ∧ 8 ≤ raw then 8 * (16 - raw) else
    (([[0, 8, 16, 24, 32, 40, 48, 56], [0, 4, 8, 12, 16, 24, 32, 48], [0, 1, 2, 4, 8, 16, 32, 64],
      [0, 8, 16, 24, 32, 64, 128, 256]] : List (List Nat)).getD kind []).getD (raw % 8) 0

/-- The magnitude of a code in units of its kind. -/
def b4Sig (kind raw : Nat) : Nat :=
  let k := raw % 8
  match kind with
  | 0 => if 8 ≤ raw then 16 - raw else raw
  | 1 => if k ≤ 4 then k else match k with | 5 => 6 | 6 => 8 | _ => 12
  | 2 => if k = 0 then 0 else 2 ^ (k - 1)
  | _ => if k ≤ 4 then k else 2 ^ (k - 2)

/-- The units of a kind, as a power of two of eighths. -/
def b4Shift (kind : Nat) : Nat := match kind with | 0 => 3 | 1 => 2 | 2 => 0 | _ => 3

theorem b4Sig_units : ∀ kind < 4, ∀ raw < 16, b4Sig kind raw * 2 ^ b4Shift kind = b4Eighths kind raw := by decide

theorem units_eq {m n s : Nat} {i e : Int} (h : m * 2 ^ s = n) (hi : i = e + s) :
    m * 2 ^ (i - min i e).toNat = n * 2 ^ (e - min i e).toNat := by
  have hmin : min i e = e := min_eq_right (by omega)
  rw [hmin, hi, Int.sub_self, add_sub_cancel_left]
  simpa using h

theorem b4Val_num {raw scale : Nat} (hr : raw < 16) (hs : scale < 256) (h63 : scale % 64 ≠ 63) : b4Val raw scale =
    .num (decide (8 ≤ raw)) (b4Sig (scale / 64) raw) ((scale % 64 : Nat) - 35 + b4Shift (scale / 64)) := by
  have hkind : scale / 64 < 4 := Nat.div_lt_of_lt_mul (by omega)
  have hraw : raw % 16 = raw := Nat.mod_eq_of_lt hr
  unfold b4Val
  rw [if_neg h63, hraw]
  generalize ((scale % 64 : Nat) : Int) = E
  generalize scale / 64 = kind at hkind
  interval_cases kind
  · have hone : ∀ r : Nat, r < 16 → decide ((if r ≥ 8 then (r : Int) % 16 - 16 else (r : Int) % 16) < 0) = decide (8 ≤ r) ∧
        (if r ≥ 8 then (r : Int) % 16 - 16 else (r : Int) % 16).natAbs = b4Sig 0 r := by decide
    obtain ⟨hneg, hsig⟩ := hone raw hr
    exact congr (congr (congrArg FVal.num (by simpa using hneg)) (by simpa using hsig)) (by rw [b4Shift]; omega)
  · exact congrArg (FVal.num _ _) (by rw [b4Shift]; omega)
  · exact congrArg (FVal.num _ _) (by rw [b4Shift]; omega)
  · exact congrArg (FVal.num _ _) (by simp only [b4Shift]; omega)

/-- A B4 code is its entry times the scale of its block (03 R64, R65). -/
theorem b4Val_units {raw scale : Nat} (hr : raw < 16) (hs : scale < 256) (h63 : scale % 64 ≠ 63) :
    let e : Int := (scale % 64 : Nat) - 35
    ∃ m i, b4Val raw scale = .num (decide (8 ≤ raw)) m i ∧
      m * 2 ^ (i - min i e).toNat = b4Eighths (scale / 64) raw * 2 ^ (e - min i e).toNat :=
  ⟨_, _, b4Val_num hr hs h63, units_eq (b4Sig_units _ (Nat.div_lt_of_lt_mul (by omega)) raw hr) rfl⟩

end Sys2Proof.Machine

end

section
/-! PROOF. O43, fifth part: the execution of an MMA (06 R161): what it reads, the cells it writes, and what it reports. -/

namespace Sys2Proof.Machine

/-- A computation in two steps that ends well. -/
theorem bind_eq_ok {ε α β : Type} {x : EStateM ε State α} {k : α → EStateM ε State β} {s u : State} {b : β} :
    (x >>= k) s = .ok b u ↔ ∃ a t, x s = .ok a t ∧ k a t = .ok b u := by
  constructor
  · intro h
    cases hx : x s with
    | ok a t => exact ⟨a, t, rfl, (bind_ok hx).symm.trans h⟩
    | error e t => rw [bind_error hx] at h; cases h
  · rintro ⟨a, t, hx, hk⟩
    exact (bind_ok hx).trans hk

/-- A footprint that does not wait changes nothing. -/
theorem rowEdge_ok {q : W32} {reads writes : List Range} {s t : State} {a : Unit} (h : rowEdge q reads writes s = .ok a t) : t = s := by
  unfold rowEdge at h
  rw [bind_get] at h
  split at h
  · cases h
  · cases h; rfl

/-! Cells -/

section
variable (qp : W16) (m n block : Nat)

/-- The cells that an MMA covers and whose predicate bit is set (06 R161). -/
def Covered (i j : Nat) : Prop := 16 * (block / 4) ≤ i ∧ i < 16 * (block / 4) + m ∧ 64 * (block % 4) ≤ j ∧ j < 64 * (block % 4) + n ∧
  qp.getLsbD ((i - 16 * (block / 4)) / 8) = true

theorem mem_mmaRows {i : Nat} : i ∈ mmaRows qp m ↔ i < m ∧ qp.getLsbD (i / 8) = true := by
  rw [mmaRows, List.mem_filter, List.mem_range, bitAt_toNat]

variable (c : Compute) (zero : Bool) (prof : BitVec 8) (af bf : EType) (as bs : List OperandRow)

/-- The run of a covered cell. -/
def mmaCell (i j : Nat) : CellRun :=
  accumulate prof af bf i j (if zero then 0 else (c.acc.getD i (Vector.replicate 256 0)).getD j 0) (as.getD (i - 16 * (block / 4)) [])
    (bs.getD (j - 64 * (block % 4)) [])

theorem mem_mmaCells {x : Nat × Nat × CellRun} : x ∈ mmaCells c zero prof af bf m n block qp as bs ↔
    Covered qp m n block x.1 x.2.1 ∧ x.2.2 = mmaCell block c zero prof af bf as bs x.1 x.2.1 := by
  obtain ⟨i, j, r⟩ := x
  simp only [mmaCells, List.mem_flatMap, mem_mmaRows, List.mem_map, List.mem_range, Prod.mk.injEq, Covered, mmaCell]
  constructor
  · rintro ⟨a, ⟨ha, hbit⟩, b, hb, rfl, rfl, rfl⟩
    simp only [Nat.add_sub_cancel_left, and_true]
    exact ⟨by omega, by omega, by omega, by omega, hbit⟩
  · rintro ⟨⟨h1, h2, h3, h4, hbit⟩, rfl⟩
    refine ⟨i - 16 * (block / 4), ⟨by omega, hbit⟩, j - 64 * (block % 4), by omega, by omega, by omega, ?_⟩
    rw [Nat.add_sub_cancel' h1, Nat.add_sub_cancel' h3]

/-- What holds of some cell of an MMA. -/
theorem exists_mmaCells {p : Nat → Nat → CellRun → Prop} : (∃ x ∈ mmaCells c zero prof af bf m n block qp as bs, p x.1 x.2.1 x.2.2) ↔
    ∃ i j, Covered qp m n block i j ∧ p i j (mmaCell block c zero prof af bf as bs i j) := by
  constructor
  · rintro ⟨x, hx, hp⟩
    obtain ⟨hcov, hrun⟩ := (mem_mmaCells qp m n block c zero prof af bf as bs).mp hx
    exact ⟨x.1, x.2.1, hcov, hrun ▸ hp⟩
  · rintro ⟨i, j, hcov, hp⟩
    exact ⟨(i, j, _), (mem_mmaCells qp m n block c zero prof af bf as bs).mpr ⟨hcov, rfl⟩, hp⟩

end

/-- The flags of a list are those of its elements. -/
theorem getLsbD_foldl_or {α : Type} (g : α → Fl) (l : List α) (b : Nat) :
    (l.foldl (fun f x => f ||| g x) 0).getLsbD b = true ↔ ∃ x ∈ l, (g x).getLsbD b = true := by
  rw [getLsbD_foldl (p := fun x => (g x).getLsbD b = true) fun a x => by rw [BitVec.getLsbD_or, Bool.or_eq_true]]
  exact or_iff_right (by simp)

/-! Writing cells -/

/-- A write of one cell. -/
theorem getD_setCell (v : Vector (Vector W32 256) 128) (a b : Nat) (w : W32) {i j : Nat} (hi : i < 128) (hj : j < 256) :
    ((vecMod v a (fun r => r.setIfInBounds b w)).getD i (Vector.replicate 256 0)).getD j 0 =
      if a = i ∧ b = j then w else (v.getD i (Vector.replicate 256 0)).getD j 0 := by
  rw [vecMod_eq v a _ (Vector.replicate 256 0), getD_setIfInBounds _ hi]
  by_cases ha : a = i
  · rw [if_pos ha.symm, getD_setIfInBounds _ hj, ha]
    exact if_congr (by rw [and_iff_right rfl, eq_comm]) rfl rfl
  · rw [if_neg (Ne.symm ha), if_neg fun h => ha h.1]

/-- A list of writes of which each writes what its place calls for. -/
theorem foldl_cells {g : Nat → Nat → W32} {cells : List (Nat × Nat × W32)} (hg : ∀ x ∈ cells, x.2.2 = g x.1 x.2.1)
    (v : Vector (Vector W32 256) 128) {i j : Nat} (hi : i < 128) (hj : j < 256) :
    let w := cells.foldl (fun (v : Vector (Vector W32 256) 128) (x : Nat × Nat × W32) => vecMod v x.1 (fun r => r.setIfInBounds x.2.1 x.2.2)) v
    ((∃ x ∈ cells, x.1 = i ∧ x.2.1 = j) → (w.getD i (Vector.replicate 256 0)).getD j 0 = g i j) ∧
    ((¬∃ x ∈ cells, x.1 = i ∧ x.2.1 = j) → (w.getD i (Vector.replicate 256 0)).getD j 0 = (v.getD i (Vector.replicate 256 0)).getD j 0) := by
  induction cells generalizing v with
  | nil => exact ⟨fun ⟨_, h, _⟩ => (nomatch h), fun _ => rfl⟩
  | cons x l ih =>
    obtain ⟨hin, hout⟩ := ih (fun y hy => hg y (List.mem_cons_of_mem _ hy)) (vecMod v x.1 (fun r => r.setIfInBounds x.2.1 x.2.2))
    rw [getD_setCell v _ _ _ hi hj] at hout
    simp only [List.exists_mem_cons_iff, List.foldl_cons]
    by_cases hl : ∃ y ∈ l, y.1 = i ∧ y.2.1 = j
    · exact ⟨fun _ => hin hl, fun h => absurd (.inr hl) h⟩
    · refine ⟨fun h => (hout hl).trans ?_, fun h => (hout hl).trans (if_neg fun hx => h (.inl hx))⟩
      obtain ⟨rfl, rfl⟩ := h.resolve_right hl
      rw [if_pos ⟨rfl, rfl⟩, hg x List.mem_cons_self]

/-- A list of places that are set to one value. -/
theorem foldl_setBits (t : Bool) (l : List Nat) (v : Vector Bool 32) {d : Nat} (hd : d < 32) :
    (l.foldl (fun (v : Vector Bool 32) b => v.setIfInBounds b t) v).getD d false = if d ∈ l then t else v.getD d false := by
  induction l generalizing v with
  | nil => rfl
  | cons b l ih =>
    rw [List.foldl_cons, ih, getD_setIfInBounds _ hd]
    by_cases hl : d ∈ l
    · rw [if_pos hl, if_pos (List.mem_cons_of_mem _ hl)]
    · rw [if_neg hl]
      exact if_congr (by rw [List.mem_cons, or_iff_left hl]) rfl rfl

/-- The blocks of an MMA are those of its covered cells (06 R155, R156). -/
theorem mem_mmaBlocks {block m n : Nat} {qp : W16} (hn : 64 * (block % 4) + n ≤ 256) {d : Nat} (hd : d < 32) :
    d ∈ mmaBlocks block m n qp ↔ ∃ i j, Covered qp m n block i j ∧ 4 * (i / 16) + j / 64 = d := by
  simp only [mmaBlocks, List.mem_filter, List.mem_range, Bool.and_eq_true, List.any_eq_true, mem_mmaRows, beq_iff_eq, decide_eq_true_iff]
  constructor
  · rintro ⟨-, ⟨⟨i, ⟨hi, hbit⟩, hrow⟩, hlo⟩, hhi⟩
    refine ⟨16 * (block / 4) + i, 64 * (d % 4), ⟨by omega, by omega, by omega, by omega, by rwa [Nat.add_sub_cancel_left]⟩, by omega⟩
  · rintro ⟨i, j, ⟨h1, h2, h3, h4, hbit⟩, rfl⟩
    refine ⟨hd, ⟨⟨i - 16 * (block / 4), ⟨by omega, hbit⟩, by omega⟩, by omega⟩, by omega⟩

/-! The command -/

/-- An MMA that ends well: what it read and wrote. -/
theorem mmaRun_ok {r : Req} {q : W32} {zero : Bool} {prof : BitVec 8} {af bf : EType} {m n k block : Nat} {qp : W16} {a b : W64}
    {s u : State} {out : Fl × Option ProvEvent} (h : mmaRun r q zero prof af bf m n k block qp a b s = .ok out u) :
    ∃ da db as bs s1 s2 s3 s4, readDesc r a af s = .ok da s1 ∧ readDesc r b bf s1 = .ok db s2 ∧
      readOperands r da af k m 0 s2 = .ok as s3 ∧ readOperands r db bf k n 0 s3 = .ok bs s4 ∧
      (let cells := mmaCells s4.ctx.comp zero prof af bf m n block qp as bs
       let types := if zero then some (mmaBlocks block m n qp, prof == 4) else none
       u = s4.modCtx (fun c => { c with comp := c.comp.putCells (cells.map (fun x => (x.1, x.2.1, x.2.2.acc))) types }) ∧
       out = (cells.foldl (fun f x => f ||| x.2.2.fl) 0, leastOf (fun x => x.2.2.event) cells)) := by
  unfold mmaRun at h
  obtain ⟨_, t1, h1, h⟩ := bind_eq_ok.mp h
  obtain ⟨da, s1, h2, h⟩ := bind_eq_ok.mp h
  obtain ⟨db, s2, h3, h⟩ := bind_eq_ok.mp h
  obtain ⟨_, t2, h4, h⟩ := bind_eq_ok.mp h
  obtain ⟨as, s3, h5, h⟩ := bind_eq_ok.mp h
  obtain ⟨bs, s4, h6, h⟩ := bind_eq_ok.mp h
  rw [rowEdge_ok h1] at h2
  rw [rowEdge_ok h4] at h5
  cases h
  exact ⟨da, db, as, bs, s1, s2, s3, s4, h2, h3, h5, h6, rfl, rfl⟩

section
variable (c : Compute) (cells : List (Nat × Nat × W32)) (types : Option (List Nat × Bool))

theorem putCells_acc : (c.putCells cells types).acc =
    cells.foldl (fun (v : Vector (Vector W32 256) 128) (x : Nat × Nat × W32) => vecMod v x.1 (fun r => r.setIfInBounds x.2.1 x.2.2)) c.acc := by
  cases types <;> rfl

theorem putCells_rest : { c.putCells cells types with acc := c.acc, accInt := c.accInt } = c := by cases types <;> rfl

theorem putCells_accInt (l : List Nat) (zero t : Bool) {d : Nat} (hd : d < 32) :
    (c.putCells cells (if zero then some (l, t) else none)).accInt.getD d false = if zero = true ∧ d ∈ l then t else c.accInt.getD d false := by
  cases zero with
  | false => exact (if_neg fun h : false = true ∧ d ∈ l => Bool.false_ne_true h.1).symm
  | true => exact (foldl_setBits t l c.accInt hd).trans (if_congr (by rw [and_iff_right rfl]) rfl rfl)

end

section
variable {qp : W16} {m n block : Nat} (c : Compute) (zero : Bool) (prof : BitVec 8) (af bf : EType) (as bs : List OperandRow)

/-- The cells after an MMA (06 R161). -/
theorem mmaCells_acc (types : Option (List Nat × Bool)) {i j : Nat} (hi : i < 128) (hj : j < 256) :
    let after := (c.putCells ((mmaCells c zero prof af bf m n block qp as bs).map (fun x => (x.1, x.2.1, x.2.2.acc))) types).acc
    (Covered qp m n block i j → (after.getD i (Vector.replicate 256 0)).getD j 0 = (mmaCell block c zero prof af bf as bs i j).acc) ∧
    (¬Covered qp m n block i j → (after.getD i (Vector.replicate 256 0)).getD j 0 = (c.acc.getD i (Vector.replicate 256 0)).getD j 0) := by
  have hwrites := foldl_cells (g := fun i j => (mmaCell block c zero prof af bf as bs i j).acc)
    (cells := (mmaCells c zero prof af bf m n block qp as bs).map (fun x => (x.1, x.2.1, x.2.2.acc))) (fun y hy => by
      obtain ⟨x, hx, rfl⟩ := List.mem_map.mp hy
      exact congrArg CellRun.acc ((mem_mmaCells qp m n block c zero prof af bf as bs).mp hx).2) c.acc hi hj
  have hon : (∃ y ∈ (mmaCells c zero prof af bf m n block qp as bs).map (fun x => (x.1, x.2.1, x.2.2.acc)), y.1 = i ∧ y.2.1 = j) ↔
      Covered qp m n block i j := by
    have hcells := exists_mmaCells (p := fun a b _ => a = i ∧ b = j) qp m n block c zero prof af bf as bs
    constructor
    · rintro ⟨y, hy, hi, hj⟩
      obtain ⟨x, hx, rfl⟩ := List.mem_map.mp hy
      obtain ⟨_, _, h, rfl, rfl⟩ := hcells.mp ⟨x, hx, hi, hj⟩
      exact h
    · intro h
      obtain ⟨x, hx, hi, hj⟩ := hcells.mpr ⟨i, j, h, rfl, rfl⟩
      exact ⟨_, List.mem_map_of_mem hx, hi, hj⟩
  rw [hon] at hwrites
  rw [putCells_acc]
  exact hwrites

end

end Sys2Proof.Machine
end

section
/-! PROOF. O43, sixth part: the stages of a drain (06 R162, R163) and their events (10 R249). -/

namespace Sys2Proof.Machine

/-! A value written in FP32 -/

/-- A value rounded to FP32, with NV where values without a NaN make one (03 R69, R72). -/
def madeFp32 (z : FVal) (ops : List FVal) : W32 × Fl :=
  (BitVec.ofNat 32 (z.round .fp32 .rne).1, (z.round .fp32 .rne).2 ||| (if z = .nan ∧ FVal.nan ∉ ops then Fl.nv else 0))

theorem container_rnAdd (x y : FVal) :
    container (bitsOf .fp32 (rnAdd .fp32 x y).1, (rnAdd .fp32 x y).2) = madeFp32 (x.add .rne y) [x, y] := by
  rw [rnAdd, bitsOf_rn (f := .fp32) EType.fp32.fmt_usual rfl, ElemEnv.nvOf_eq ElemEnv.nan_mem_two]
  rfl

/-! Stages -/

/-- An event that a stage's output brings. -/
def IsStageEvent (row col : Nat) (t : EType) (r : W32 × Fl) (x : ProvEvent) : Prop :=
  let v := if t.isInt then FVal.zero else elemVal t r.1.toNat
  x = { kblk := 0, row, col, event := x.event, opnd := 3, fmt := t.code } ∧
    ((v = .nan ∧ x.event = 1) ∨ (v.isInf = true ∧ x.event = 2) ∨ (v ≠ .nan ∧ v.isInf = false ∧ r.2 &&& Fl.sat ≠ 0 ∧ x.event = 3))

/-- An event of a known kind. -/
theorem event_eq_iff {row col k : Nat} {t : EType} {x : ProvEvent} :
    (x = { kblk := 0, row, col, event := x.event, opnd := 3, fmt := t.code } ∧ x.event = k) ↔
      x = { kblk := 0, row, col, event := k, opnd := 3, fmt := t.code } := by
  constructor
  · rintro ⟨h, rfl⟩
    exact h
  · rintro rfl
    exact ⟨rfl, rfl⟩

/-- The event that a stage records. -/
def stageEvent (row col : Nat) (t : EType) (r : W32 × Fl) : Option ProvEvent :=
  let v := if t.isInt then FVal.zero else elemVal t r.1.toNat
  let kind := if v.isNaN then 1 else if v.isInf then 2 else if r.2 &&& Fl.sat != 0 then 3 else 0
  if kind = 0 then none else some { kblk := 0, row, col, event := kind, opnd := 3, fmt := t.code }

theorem leastEvent_stage (row col : Nat) (t : EType) (r : W32 × Fl) : LeastEvent (stageEvent row col t r) (IsStageEvent row col t r) := by
  unfold stageEvent IsStageEvent
  generalize (if t.isInt then FVal.zero else elemVal t r.1.toNat) = v
  cases v with
  | nan =>
    exact leastEvent_some (x := { kblk := 0, row, col, event := 1, opnd := 3, fmt := t.code }) fun x => by simpa [FVal.isInf] using event_eq_iff
  | inf n =>
    exact leastEvent_some (x := { kblk := 0, row, col, event := 2, opnd := 3, fmt := t.code }) fun x => by simpa [FVal.isInf] using event_eq_iff
  | num n m e =>
    by_cases hs : r.2 &&& Fl.sat = 0
    · simp only [hs]
      exact leastEvent_none fun x => by simp [FVal.isInf]
    · simp only [FVal.isNaN, FVal.isInf, bne_iff_ne, ne_eq, hs, not_false_eq_true, if_true, Bool.false_eq_true, if_false]
      exact leastEvent_some fun x => by simpa [FVal.isInf, hs] using event_eq_iff

/-- A cell of a drain after some stages: its output, its flags, and the events it may name. -/
structure Staged (c : DrainCell) (out : W32) (fl : Fl) (among : ProvEvent → Prop) : Prop where
  out_eq : c.out = out
  fl_eq : c.fl = fl
  event : LeastEvent c.event among

theorem staged_start (x : W32) : Staged { out := x, fl := 0, event := none } x 0 (fun _ => False) :=
  ⟨rfl, rfl, leastEvent_none fun _ => not_false⟩

section
variable {c : DrainCell} {out : W32} {fl : Fl} {among : ProvEvent → Prop} (h : Staged c out fl among)
include h

/-- One more stage. -/
theorem Staged.stage (row col : Nat) (t : EType) (r : W32 × Fl) :
    Staged (drainStage row col t r c) r.1 (fl ||| r.2) (fun x => among x ∨ IsStageEvent row col t r x) := by
  obtain ⟨-, hfl, hev⟩ := h
  exact ⟨rfl, congrArg (· ||| r.2) hfl, hev.least (leastEvent_stage row col t r)⟩

/-- A stage that may be left out, and then passes its input on. -/
theorem Staged.optStage (there : Prop) [Decidable there] (row col : Nat) (t : EType) {r : W32 × Fl} (hr : ¬there → r = (out, 0)) :
    Staged (if there then drainStage row col t r c else c) r.1 (fl ||| r.2) (fun x => among x ∨ (there ∧ IsStageEvent row col t r x)) := by
  by_cases ht : there
  · obtain ⟨hout, hfl, hev⟩ := h.stage row col t r
    rw [if_pos ht]
    exact ⟨hout, hfl, hev.congr fun x => or_congr_right (and_iff_right ht).symm⟩
  · obtain ⟨hout, hfl, hev⟩ := h
    rw [if_neg ht, hr ht]
    exact ⟨hout, hfl.trans (Fl.or_zero fl).symm, hev.congr fun x => (or_iff_left fun hx => ht hx.1).symm⟩

end

/-! Requantisation (06 R163) -/

section
variable (isInt : Bool) (fmt : EType) (scale zp x : W32)

/-- The value that is scaled. -/
def requantIn : FVal := if isInt then .num (decide (x.toInt < 0)) x.toInt.natAbs 0 else FFmt.fp32.decode x.toNat

theorem elemVal_fp32 (n : Nat) : elemVal .fp32 n = FFmt.fp32.decode n := decode_mod .fp32 n

theorem requantIn_eq : (if isInt then elemVal .i32 x.toNat else FFmt.fp32.decode x.toNat) = requantIn isInt x := by
  cases isInt with
  | false => rfl
  | true => exact congrArg FVal.ofInt (intOf_i32 x)

variable {isInt fmt scale zp x} {z : FVal} (hz : (requantIn isInt x).mul (FFmt.fp32.decode scale.toNat) = z)
include hz

theorem requant_int_nan (hk : fmt.isInt = true) (h : z = .nan) : requant isInt fmt scale zp x = (0, Fl.nv) := by
  simp only [requant, requantIn_eq, elemVal_fp32, hz, if_pos hk, h]

theorem requant_int_inf (hk : fmt.isInt = true) {n : Bool} (h : z = .inf n) :
    requant isInt fmt scale zp x = ElemEnv.intResult fmt (if n then (intRange fmt).1 else (intRange fmt).2) Fl.sat := by
  simp only [requant, requantIn_eq, elemVal_fp32, hz, if_pos hk, h]
  exact ElemEnv.container_intBits ..

theorem requant_int_num (hk : fmt.isInt = true) {n : Bool} {m : Nat} {e : Int} (h : z = .num n m e) :
    ∃ d : Nat, Near .rne n (ratCmp m 1 e 0) d ∧
      (let i : Int := (if n then -(d : Int) else d) + zp.toInt
       requant isInt fmt scale zp x = if i < (intRange fmt).1 then ElemEnv.intResult fmt (intRange fmt).1 Fl.sat
         else if (intRange fmt).2 < i then ElemEnv.intResult fmt (intRange fmt).2 Fl.sat
         else ElemEnv.intResult fmt i (if ratCmp m 1 e 0 (2 * d) = .eq then 0 else Fl.nx)) := by
  refine ⟨_, near_roundGrid .rne n m e 0, ?_⟩
  simp only [requant, requantIn_eq, elemVal_fp32, hz, if_pos hk, h, intOf_i32]
  refine (ElemEnv.container_clampInt_flags fmt _ (roundGrid .rne n m e 0).2).trans ?_
  simp only [roundGrid_exact_iff]
  rfl

theorem requant_float_nan (hk : fmt.isFloat = true) (h : z = .nan) : requant isInt fmt scale zp x =
    (BitVec.ofNat 32 fmt.fmt.canonNaN, if requantIn isInt x = .nan ∨ FFmt.fp32.decode scale.toNat = .nan then 0 else Fl.nv) := by
  have hnv : nvOf ((requantIn isInt x).isNaN || (FFmt.fp32.decode scale.toNat).isNaN) .nan =
      if requantIn isInt x = .nan ∨ FFmt.fp32.decode scale.toNat = .nan then 0 else Fl.nv := by
    rw [ElemEnv.nvOf_eq ElemEnv.nan_mem_two, ← ite_not]
    refine if_congr ?_ rfl rfl
    simp only [List.mem_cons, List.not_mem_nil, or_false, true_and, not_not, eq_comm]
  rw [← hnv]
  simp only [requant, requantIn_eq, elemVal_fp32, hz, EType.not_isInt hk, Bool.false_eq_true, if_false, h]
  cases fmt <;> rfl

theorem requant_float_inf (hk : fmt.isFloat = true) {n : Bool} (h : z = .inf n) : requant isInt fmt scale zp x =
    if fmt = .e4m3 then (BitVec.ofNat 32 (fmt.fmt.maxBits n), Fl.sat) else (BitVec.ofNat 32 (fmt.fmt.infBits n), 0) := by
  have hnv : nvOf ((requantIn isInt x).isNaN || (FFmt.fp32.decode scale.toNat).isNaN) (.inf n) = 0 := rfl
  simp only [requant, requantIn_eq, elemVal_fp32, hz, EType.not_isInt hk, Bool.false_eq_true, if_false, h, hnv]
  cases fmt <;> rfl

theorem requant_float_num (hk : fmt.isFloat = true) {n : Bool} {m : Nat} {e : Int} (h : z = .num n m e) : requant isInt fmt scale zp x =
    if (roundMag fmt.fmt .rne n m e).ovf then (BitVec.ofNat 32 (fmt.fmt.maxBits n), Fl.sat ||| Fl.nx)
    else (BitVec.ofNat 32 (z.round fmt.fmt .rne).1, (z.round fmt.fmt .rne).2) := by
  simp only [requant, requantIn_eq, elemVal_fp32, hz, EType.not_isInt hk, Bool.false_eq_true, if_false, h]
  rfl

end

/-! The activation table (06 R162) -/

/-- The place in the table of a distance from its start, in units of 2^e. -/
def actIndex (e : Int) (d : FVal) : Nat :=
  match d with
  | .inf neg => if neg then 0 else 255
  | .num neg m q => if neg then 0 else Nat.min 255 (if e ≤ q then m * 2 ^ (q - e).toNat else m / 2 ^ (e - q).toNat)
  | .nan => 0

/-- One piece of the table on an input. -/
def actPiece (slope icept : Vector W32 256) (v : FVal) (k : Nat) : W32 × Fl :=
  let g := FFmt.fp32.decode (slope.getD k 0).toNat
  let h := FFmt.fp32.decode (icept.getD k 0).toNat
  madeFp32 ((g.mul v).add .rne h) [g, v, h]

section
variable (l x : W32) (e : Int) (slope icept : Vector W32 256)

theorem activate_nan (h : FFmt.fp32.decode x.toNat = .nan) : activate (some (l, e, slope, icept)) x = (0x7FC00000, 0) := by
  simp only [activate, elemVal_fp32, h]
  rfl

theorem activate_eq (hv : FFmt.fp32.decode x.toNat ≠ .nan) : activate (some (l, e, slope, icept)) x =
    actPiece slope icept (FFmt.fp32.decode x.toNat) (actIndex e ((FFmt.fp32.decode x.toNat).add .rne (FFmt.fp32.decode l.toNat).neg)) := by
  have hnan : (FFmt.fp32.decode x.toNat).isNaN = false := Bool.eq_false_iff.mpr (ElemEnv.isNaN_iff.not.mpr hv)
  have hnv : ∀ g h y : FVal, nvOf (g.isNaN || h.isNaN) y = if y = .nan ∧ FVal.nan ∉ [g, FFmt.fp32.decode x.toNat, h] then Fl.nv else 0 := by
    intro g h y
    refine ElemEnv.nvOf_eq ?_
    rw [Bool.or_eq_true, ElemEnv.isNaN_iff, ElemEnv.isNaN_iff]
    simp only [List.mem_cons, List.not_mem_nil, or_false, Ne.symm hv, false_or, eq_comm]
  simp only [activate, elemVal_fp32, hnan, Bool.false_eq_true, if_false, hnv]
  rfl

end

/-- A value below the table's start, or the start itself from below. -/
theorem actIndex_of_less {v lo : FVal} (h : Less v lo) (e : Int) : actIndex e (v.add .rne lo.neg) = 0 := by
  cases v with
  | nan => cases lo <;> cases h
  | inf a =>
    cases lo with
    | nan => cases h
    | inf b => obtain ⟨rfl, rfl⟩ := h; rfl
    | num => cases h; rfl
  | num na ma ea =>
    cases lo with
    | nan => cases h
    | inf b => cases h; rfl
    | num nb mb eb =>
      have hneg : sumUnits na ma ea (!nb) mb eb < 0 := by
        have hflip : ∀ k, signedM (!nb) k = -signedM nb k := by cases nb <;> simp [signedM]
        unfold sumUnits
        rw [hflip]
        have : signedM na (ma * 2 ^ (ea - min ea eb).toNat) < signedM nb (mb * 2 ^ (eb - min ea eb).toNat) := h
        omega
      rw [FVal.neg, add_num, if_neg hneg.ne, decide_eq_true hneg]
      rfl

theorem actIndex_inf {lo : FVal} (hi : lo.isInf = false) (hn : lo ≠ .nan) (e : Int) : actIndex e ((FVal.inf false).add .rne lo.neg) = 255 := by
  cases lo with
  | nan => contradiction
  | inf => cases hi
  | num => rfl

/-- The units below a distance. -/
theorem floor_units (m : Nat) (g e : Int) : let k := if e ≤ g then m * 2 ^ (g - e).toNat else m / 2 ^ (e - g).toNat
    (k : ℚ) * 2 ^ e ≤ m * 2 ^ g ∧ (m : ℚ) * 2 ^ g < (k + 1 : Nat) * 2 ^ e := by
  intro k
  have hpos : (0 : ℚ) < 2 ^ e := by positivity
  by_cases h : e ≤ g
  · have hk : (k : ℚ) * 2 ^ e = m * 2 ^ g := by
      simp only [k, if_pos h]
      rw [cast_shift h, div_mul_cancel₀ _ hpos.ne']
    rw [← hk]
    exact ⟨le_rfl, mul_lt_mul_of_pos_right (by exact_mod_cast Nat.lt_succ_self k) hpos⟩
  · have hk : k = m / 2 ^ (e - g).toNat := if_neg h
    have hg : (0 : ℚ) < 2 ^ g := by positivity
    have he : ((2 ^ (e - g).toNat : Nat) : ℚ) * 2 ^ g = 2 ^ e := by
      have := cast_shift (show g ≤ e by omega) 1
      rw [Nat.one_mul, Nat.cast_one, one_mul] at this
      rw [this, div_mul_cancel₀ _ hg.ne']
    have hunits := Nat.two_pow_pos (e - g).toNat
    rw [← he, ← mul_assoc, ← mul_assoc]
    refine ⟨mul_le_mul_of_nonneg_right ?_ hg.le, mul_lt_mul_of_pos_right ?_ hg⟩
    · rw [hk]
      exact_mod_cast Nat.div_mul_le_self ..
    · rw [hk]
      exact_mod_cast Nat.lt_div_mul_add hunits |>.trans_eq (by ring)

/-- The place is the number of whole units, up to the end of the table. -/
theorem actIndex_floor {m k : Nat} {g e : Int} (hk : k ≤ 255) (hlo : ratCmp m 1 g e (2 * k) ≠ .gt) (hhi : k = 255 ∨ ratCmp m 1 g e (2 * k + 2) = .gt) :
    actIndex e (.num false m g) = k := by
  obtain ⟨h1, h2⟩ := floor_units m g e
  have hpos : (0 : ℚ) < 2 ^ e := by positivity
  have hle : ∀ {a b : Nat}, (a : ℚ) * 2 ^ e < (b : ℚ) * 2 ^ e → a < b := fun h => by exact_mod_cast lt_of_mul_lt_mul_right h hpos.le
  rw [ratCmp_units, ne_eq, compare_gt_iff_gt, not_lt] at hlo
  rw [show 2 * k + 2 = 2 * (k + 1) by ring, ratCmp_units, compare_gt_iff_gt] at hhi
  have hge := hle (hlo.trans_lt h2)
  unfold actIndex
  simp only [Bool.false_eq_true, if_false]
  rcases hhi with rfl | hhi
  · exact Nat.min_eq_left (Nat.le_of_lt_succ hge)
  · have hlt := hle (h1.trans_lt hhi)
    exact (Nat.min_eq_right (by omega)).trans (by omega)

/-! A cell of a drain (06 R163) -/

/-- A cell's place in the accumulator. -/
def drainRow (b r : Nat) : Nat := 16 * (b / 4) + r
def drainCol (b col : Nat) : Nat := 64 * (b % 4) + col

section
variable (c : Compute) (p : DrainPar) (act : Bool) (fmt : EType) (b r col : Nat)

/-- The cell that a drain reads. -/
def drainStart : W32 := (c.acc.getD (drainRow b r) (Vector.replicate 256 0)).getD (drainCol b col) 0

/-- The output of the bias stage. -/
def drainBias : W32 × Fl :=
  match p.bias with
  | none => (drainStart c b r col, 0)
  | some bs =>
    let o := FFmt.fp32.decode (drainStart c b r col).toNat
    let k := FFmt.fp32.decode (natOfBytes ((bs.drop (4 * drainCol b col)).take 4))
    madeFp32 (o.add .rne k) [o, k]

/-- The output of the table stage. -/
def drainAct : W32 × Fl :=
  let x := drainBias c p b r col
  if act then activate (c.act.map (fun t => (t.l, t.e, t.slope, t.icept))) x.1 else (x.1, 0)

/-- The output of the requantisation stage. -/
def drainRequant : W32 × Fl :=
  let x := drainAct c p act b r col
  match p.rq with
  | none => (x.1, 0)
  | some z => requant (c.accInt.getD b false) fmt z.1 z.2 x.1

/-- A cell after the bias, the table and the requantisation, each if it is there. -/
theorem drainCell_eq : drainCell c p act fmt b r col =
    (let c0 : DrainCell := { out := drainStart c b r col, fl := 0, event := none }
     let c1 := if p.bias ≠ none then drainStage (drainRow b r) (drainCol b col) .fp32 (drainBias c p b r col) c0 else c0
     let c2 := if act = true then drainStage (drainRow b r) (drainCol b col) .fp32 (drainAct c p act b r col) c1 else c1
     if p.rq ≠ none then drainStage (drainRow b r) (drainCol b col) fmt (drainRequant c p act fmt b r col) c2 else c2) := by
  obtain ⟨bias, rq⟩ := p
  unfold drainCell drainRequant drainAct drainBias
  simp only [elemVal_fp32, container_rnAdd]
  cases bias <;> cases act <;> cases rq <;> rfl

/-- What a drain makes of a cell: the outputs of its stages, their flags and their events. -/
theorem staged_drainCell :
    let row := drainRow b r
    let cc := drainCol b col
    let x1 := drainBias c p b r col
    let x2 := drainAct c p act b r col
    let x3 := drainRequant c p act fmt b r col
    Staged (drainCell c p act fmt b r col) x3.1 (0 ||| x1.2 ||| x2.2 ||| x3.2) (fun x =>
      ((False ∨ (p.bias ≠ none ∧ IsStageEvent row cc .fp32 x1 x)) ∨ (act = true ∧ IsStageEvent row cc .fp32 x2 x)) ∨
        (p.rq ≠ none ∧ IsStageEvent row cc fmt x3 x)) := by
  intro row cc x1 x2 x3
  have h1 := (staged_start (drainStart c b r col)).optStage (p.bias ≠ none) row cc .fp32 (r := x1) fun h => by
    rw [not_not] at h
    simp only [x1, drainBias, h]
  have h2 := h1.optStage (act = true) row cc .fp32 (r := x2) fun h => by simp only [x2, drainAct, if_neg h, x1]
  have h3 := h2.optStage (p.rq ≠ none) row cc fmt (r := x3) fun h => by
    rw [not_not] at h
    simp only [x3, drainRequant, h, x2]
  rw [drainCell_eq]
  exact h3

end

/-! The lines of a drain -/

section
variable (c : Compute) (p : DrainPar) (act : Bool) (fmt : EType) (bits : W16) (first count : Nat)

/-- The cells of a line, none where its predicate bit is clear. -/
def drainCells (k : Nat) : List DrainCell :=
  if bits.getLsbD (k % 16) then (List.range 64).map (drainCell c p act fmt (first + k / 16) (k % 16)) else []

/-- A line of cells, with zeros where there are none. -/
def lineOf (r : List DrainCell) : Line := { data := Vector.ofFn (fun j : Fin 64 => ((r[j.val]?).map (·.out)).getD 0), poison := 0 }

theorem drainOut_eq : State.drainOut c p act fmt bits first count =
    (let rows := (List.range (16 * count)).map (drainCells c p act fmt bits first)
     { lines := rows.map lineOf,
       flags := rows.flatten.foldl (fun f x => f ||| x.fl) 0,
       event := leastOf (fun x : DrainCell => x.event) rows.flatten }) := by
  unfold State.drainOut
  simp only [bitAt_toNat]
  rfl

/-- What holds of some cell of a drain. -/
theorem exists_drainCells {q : DrainCell → Prop} : (∃ x ∈ ((List.range (16 * count)).map (drainCells c p act fmt bits first)).flatten, q x) ↔
    ∃ k n, (k < 16 * count ∧ bits.getLsbD (k % 16) = true) ∧ n < 64 ∧ q (drainCell c p act fmt (first + k / 16) (k % 16) n) := by
  simp only [List.mem_flatten, List.mem_map, List.mem_range]
  constructor
  · rintro ⟨x, ⟨_, ⟨k, hk, rfl⟩, hx⟩, hq⟩
    unfold drainCells at hx
    by_cases hb : bits.getLsbD (k % 16) = true
    · rw [if_pos hb] at hx
      obtain ⟨n, hn, rfl⟩ := List.mem_map.mp hx
      exact ⟨k, n, ⟨hk, hb⟩, List.mem_range.mp hn, hq⟩
    · rw [if_neg hb] at hx
      cases hx
  · rintro ⟨k, n, ⟨hk, hb⟩, hn, hq⟩
    refine ⟨_, ⟨_, ⟨k, hk, rfl⟩, ?_⟩, hq⟩
    rw [drainCells, if_pos hb]
    exact List.mem_map_of_mem (List.mem_range.mpr hn)

theorem drainOut_length : (State.drainOut c p act fmt bits first count).lines.length = 16 * count := by
  rw [drainOut_eq]
  simp

/-- The flags of a drain are those of its cells. -/
theorem drainOut_flags (x : Nat) : (State.drainOut c p act fmt bits first count).flags.getLsbD x = true ↔
    ∃ k n, (k < 16 * count ∧ bits.getLsbD (k % 16) = true) ∧ n < 64 ∧
      (drainCell c p act fmt (first + k / 16) (k % 16) n).fl.getLsbD x = true := by
  rw [drainOut_eq, getLsbD_foldl_or]
  exact exists_drainCells c p act fmt bits first count

/-- The event of a drain is the least of those of its cells. -/
theorem drainOut_event : LeastEvent (State.drainOut c p act fmt bits first count).event (fun x =>
    ∃ k n, (k < 16 * count ∧ bits.getLsbD (k % 16) = true) ∧ n < 64 ∧
      (drainCell c p act fmt (first + k / 16) (k % 16) n).event = some x) := by
  rw [drainOut_eq]
  exact (leastEvent_leastOf _ _).congr fun x => exists_drainCells c p act fmt bits first count

/-- A line of a drain (06 R163). -/
theorem drainOut_line {k n : Nat} (hk : k < 16 * count) (hn : n < 64) :
    let line := (State.drainOut c p act fmt bits first count).lines.getD k Line.zero
    line.poison = 0 ∧ line.data.getD n 0 = if bits.getLsbD (k % 16) then (drainCell c p act fmt (first + k / 16) (k % 16) n).out else 0 := by
  have hline : (State.drainOut c p act fmt bits first count).lines.getD k Line.zero = lineOf (drainCells c p act fmt bits first k) := by
    rw [drainOut_eq]
    simp [List.getD, hk]
  intro line
  have hdef : line = _ := hline
  rw [hdef]
  refine ⟨rfl, ?_⟩
  unfold lineOf drainCells
  by_cases hb : bits.getLsbD (k % 16) = true
  · simp only [if_pos hb]
    simp [Vector.getD, hn]
  · simp only [if_neg hb]
    simp [Vector.getD, hn]

end

end Sys2Proof.Machine
end

section
/-! PROOF. O43: what MMA accumulates under each profile, and the stages of a drain (03 R64, R65, R83 to R86; 06 R161 to R163; 10 R249). -/

open Sys2Proof.Machine

/-- Settles O43: a command is a run of chunks (`accumulate_append`, `accumulate_float_single`, `accumulate_int_single`), an operand element
is `operandVal_float` or `b4Val_units`, an MMA is `mmaRun_ok`, and a drain is `staged_drainCell` with the lemmas on its stages. -/
theorem matrixNumerics : Obligations.MatrixNumerics := by
  refine ⟨?accumulate, ?operands, ?run, ?drain⟩
  case accumulate =>
    intro np af bf row col acc as bs as' bs' f p chunk one both next pairs ps nv total expo trunc adds specials kdiv odd ofOperand ofSum hp hlen
    have hchunk : chunk = chunkLen p := chunkLen_eq hp
    have hpairs : pairs = (rowVals af as).zip (rowVals bf bs) := rowVals_zip af bf as bs
    refine ⟨fun hdiv => ?_, fun hne hle => ?_⟩
    · rw [hchunk] at hdiv
      obtain ⟨hacc, hfl⟩ := accumulate_append hp af bf row col acc hlen hdiv as' bs'
      refine ⟨hacc, hfl, fun hblk => ?_⟩
      have hq : as.length = blockElems af bf * (as.length / kdiv) := (Nat.mul_div_cancel' (Nat.dvd_of_mod_eq_zero hblk)).symm
      have hev : both.event = _ := accumulate_append_event hp af bf row col acc hlen hdiv as' bs' hq
      rw [hev]
      refine ((leastEvent_self one.event).least (leastEvent_self _)).congr fun x => or_congr_right ?_
      rw [Option.map_eq_some_iff]
      exact exists_congr fun y => and_congr_right fun _ => eq_comm
    · rw [hchunk] at hle
      refine ⟨fun h4 => ?_, fun h4 => ?_, fun h4 => ?_, fun h4 => ?_⟩
      · have hone : one = _ := accumulate_float_single hp af bf row col acc hlen hne hle h4
        rw [← hpairs] at hone
        have hres : f.decode one.acc.toNat = (floatSum p acc pairs).1 := by rw [hone]; exact decode_floatGives p row col acc pairs
        have hops := leastEvent_operandEvents af bf row col hlen
        rw [← hpairs] at hops
        have hev : one.event = ProvEvent.least (operandEvents af bf row col as bs) (floatGives p row col acc pairs).2.2 := by rw [hone]
        rw [hev]
        refine (hops.least (leastEvent_floatGives p row col acc pairs)).congr fun x => ?_
        simp only [ofSum, hres]
        rw [← and_or_left, ← and_or_left]
        rfl
      · have hone : one = _ := accumulate_int_single af bf row col acc hlen hne hle h4
        have hfl : one.fl = (intSum acc ((as.zip bs).map (fun x => (intOf af x.1.1, intOf bf x.2.1)))).2 := by rw [hone]; rfl
        rw [hfl, hone]
        exact leastEvent_intGives row col acc _
      · have hone : one = _ := accumulate_float_single hp af bf row col acc hlen hne hle h4
        rw [← hpairs] at hone
        have hnv : productFlags pairs = nv := (productFlags_eq pairs).trans (if_congr Iff.rfl rfl rfl)
        have hadds : ∀ {v more}, chunkValue p ps = (v, more) → adds v more := by
          intro v more h
          obtain ⟨hacc, hfl⟩ := floatGives_adds p row col acc pairs h
          rw [hnv] at hfl
          simp only [adds, hone]
          exact ⟨hacc, hfl⟩
        have hpick : ∀ {r : FVal × Fl}, chunkSpecial ps = some r → adds r.1 r.2 := fun h => hadds (chunkValue_special p h)
        have hplain : ¬specials → .nan ∉ ps ∧ ∀ n, .inf n ∉ ps := fun h => by
          simp only [specials, not_or] at h
          exact ⟨h.1, fun n => by cases n <;> simp only [h, not_false_eq_true]⟩
        refine ⟨fun hn => ?_, fun hn ht hf => ?_, fun n hn hi ho => ?_, fun hs h0 => ?_, fun hs h1 => ?_, fun hs h2 => ?_, fun hs h5 => ?_⟩
        · exact hpick (chunkSpecial_nan hn)
        · exact hpick (chunkSpecial_both hn ht hf)
        · exact hpick (chunkSpecial_inf hn hi ho)
        · obtain ⟨hn, hi⟩ := hplain hs
          exact hadds (h0 ▸ chunkValue_np0 hn hi)
        · obtain ⟨hn, hi⟩ := hplain hs
          exact hadds ((chunkValue_np1 hn hi h1).trans (congrArg (RN .fp32 false) (exactSum_eq ps)))
        · obtain ⟨hn, hi⟩ := hplain hs
          refine ⟨fun h => hadds (h2 ▸ chunkValue_np2_nil hn hi h), fun x hx hmax => ?_⟩
          have htrunc : trunc (expo x - 40) = truncAt (expo x - 40) := by
            funext y
            cases y <;> rfl
          rw [htrunc]
          exact hadds (by rw [h2, chunkValue_np2 hn hi hx hmax, exactSum_eq]; rfl)
        · obtain ⟨hn, hi⟩ := hplain hs
          have hlen' : ps.length = as.length := by rw [List.length_map, hpairs, length_zip_rowVals af bf hlen]
          have h64 : ps.length ≤ 64 := hlen'.trans_le (by rw [h5] at hle; exact hle)
          have hps : ps ≠ [] := List.ne_nil_of_length_pos (hlen' ▸ List.length_pos_iff.mpr hne)
          exact ⟨_, _, tree_eq f hps h64, hadds (by rw [h5]; exact chunkValue_np5 hn hi)⟩
      · have hone : one = _ := accumulate_int_single af bf row col acc hlen hne hle h4
        have hsum := intSum_eq acc ((as.zip bs).map (fun x => (intOf af x.1.1, intOf bf x.2.1)))
        rw [List.map_map] at hsum
        intro sum
        rw [hone]
        refine ⟨?_, congrArg Prod.snd hsum⟩
        rw [← ofNat_intBits_i32]
        exact congrArg (fun r : Nat × Fl => BitVec.ofNat 32 r.1) hsum
  case operands =>
    intro t raw scale bytes k table kind eighths e
    refine ⟨operandVal_float raw scale, fun hr hs => ⟨fun h63 => ?_, fun h63 => ?_⟩, rfl, fun hb => if_neg (by simpa using hb)⟩
    · exact if_pos h63
    · exact b4Val_units hr hs h63
  case run =>
    intro s u r q zero prof af bf m n k block qp a b fl ev h hm hn
    obtain ⟨da, db, as, bs, s1, s2, s3, s4, hda, hdb, has, hbs, hu, hout⟩ := mmaRun_ok h
    refine ⟨da, db, as, bs, s1, s2, s3, s4, hda, hdb, has, hbs, ?_, ?_⟩
    · rw [hu]
      rfl
    · intro old on cell
      have hcomp : u.ctx.comp = s4.ctx.comp.putCells ((mmaCells s4.ctx.comp zero prof af bf m n block qp as bs).map (fun x => (x.1, x.2.1, x.2.2.acc)))
          (if zero then some (mmaBlocks block m n qp, prof == 4) else none) := by rw [hu]; rfl
      refine ⟨fun i j hi hj => ?_, fun d hd => ?_, fun x => ?_, ?_, ?_⟩
      · rw [hcomp]
        exact mmaCells_acc s4.ctx.comp zero prof af bf as bs _ hi hj
      · intro hit
        have hblocks : (zero = true ∧ d ∈ mmaBlocks block m n qp) ↔ hit := and_congr_right fun _ => mem_mmaBlocks hn hd
        rw [hcomp, putCells_accInt _ _ _ _ _ hd]
        exact ⟨fun h => if_pos (hblocks.mpr h), fun h => if_neg (hblocks.not.mpr h)⟩
      · obtain ⟨hfl, -⟩ := Prod.mk.inj hout
        rw [hfl, getLsbD_foldl_or]
        exact exists_mmaCells (p := fun _ _ r => r.fl.getLsbD x = true) qp m n block s4.ctx.comp zero prof af bf as bs
      · obtain ⟨-, hev⟩ := Prod.mk.inj hout
        rw [hev]
        exact (leastEvent_leastOf _ _).congr fun x =>
          exists_mmaCells (p := fun _ _ r => r.event = some x) qp m n block s4.ctx.comp zero prof af bf as bs
      · rw [hcomp]
        exact putCells_rest ..
  case drain =>
    intro c p act fmt b r col l x scale zp e slope icept int bits first count hr hcol f i j made x0 x1 x2 x3 o y v lo piece w sc z q bot top whole
      tooBig gives lines shown cellAt
    obtain ⟨hout, hfl, hev⟩ := staged_drainCell c p act fmt b r col
    have hx1 : x1 = drainBias c p b r col := rfl
    have hx2 : x2 = drainAct c p act b r col := rfl
    have hx3 : x3 = drainRequant c p act fmt b r col := rfl
    have hactive : v ≠ .nan → y = actPiece slope icept v (actIndex e (v.add .rne lo.neg)) := activate_eq l x e slope icept
    have hin : w = requantIn int x := rfl
    have hz : (requantIn int x).mul (FFmt.fp32.decode scale.toNat) = z := rfl
    have hrange : intRange fmt = (bot, top) := intRange_eq fmt
    refine ⟨⟨drainOut_length c p act fmt bits first count, fun k n hk hn => drainOut_line c p act fmt bits first count hk hn,
      drainOut_flags c p act fmt bits first count, drainOut_event c p act fmt bits first count⟩, ?event, ⟨hout, ?fl⟩, rfl,
      activate_nan l x e slope icept, ?below, ?above, ?within, fun hk => ⟨?int_nan, fun n h => ?int_inf, fun n m g h => ?int_num⟩,
      fun hk => ⟨requant_float_nan hz hk, fun n h => requant_float_inf hz hk h, fun n m g h => ?float_num⟩⟩
    case event =>
      refine hev.congr fun x => ?_
      rw [false_or, or_assoc]
      exact Iff.rfl
    case fl =>
      rw [Fl.zero_or] at hfl
      exact hfl
    case below =>
      rintro hv (h | ⟨g, h⟩)
      · rw [hactive hv, actIndex_of_less h]
        rfl
      · rw [hactive hv, h]
        rfl
    case above =>
      intro hv hi hn
      rw [hactive (by rw [hv]; nofun), hv, actIndex_inf hi hn, ← hv]
      rfl
    case within =>
      intro m g k hd hk hlo hhi
      have hv : v ≠ .nan := fun h => by rw [h] at hd; cases hd
      rw [hactive hv, hd, actIndex_floor hk hlo hhi]
      rfl
    case int_nan => exact requant_int_nan hz hk
    case int_inf =>
      have h' := requant_int_inf hz hk h (zp := zp)
      rw [hrange] at h'
      exact h'
    case int_num =>
      obtain ⟨d, hd, hq⟩ := requant_int_num hz hk h (zp := zp)
      rw [hrange] at hq
      exact ⟨d, hd, hq⟩
    case float_num =>
      have hbig : tooBig = (roundMag fmt.fmt .rne n m g).ovf := by
        simp only [tooBig, h]
        exact flags_of_iff _
      rw [hbig]
      exact requant_float_num hz hk h
end

section
/-! PROOF. O20: a read gives the bytes written, and a write touches no other (05 R119, R123; 04 R431). Every target reads as a row of
bytes: `Mem.byteAt` is a byte of DRAM, directly or through the home L2, and `State.byteT` a byte of any target. A write is the `overlay`
of its bytes over those that stood there. -/

namespace Sys2Proof.Machine

variable {s : State} {m : Mem} {g h : Target} {bs : List Byte} {p : Bool}

/-! Bytes written over bytes -/

/-- What stands at a place `j` once bytes are written from the place `k` upwards over what stood there. -/
def overlay (bs : List Byte) (k j : Nat) (old : Byte) : Byte := if k ≤ j ∧ j < k + bs.length then bs.getD (j - k) 0 else old

theorem overlay_within {i : Nat} (hi : i < bs.length) (k : Nat) (old : Byte) : overlay bs k (k + i) old = bs.getD i 0 := by
  rw [overlay, if_pos ⟨Nat.le_add_right k i, Nat.add_lt_add_left hi k⟩, Nat.add_sub_cancel_left]

theorem overlay_apart {k j : Nat} (h : j < k ∨ k + bs.length ≤ j) (old : Byte) : overlay bs k j old = old :=
  if_neg (by omega)

/-- Only the distance of the two places counts. -/
theorem overlay_shift {k j k' j' : Nat} (h : k + j' = k' + j) (old : Byte) : overlay bs k j old = overlay bs k' j' old := by
  unfold overlay
  rw [show j - k = j' - k' by omega]
  exact if_congr (by omega) rfl rfl

theorem get_cellsPut (c : Cells Byte) (k j : Nat) : Cells.get 0 (cellsPut c k bs) j = overlay bs k j (Cells.get 0 c j) := by
  induction bs generalizing c k with
  | nil => exact (overlay_apart (Nat.lt_or_ge j k) _).symm
  | cons b bs ih =>
    rw [cellsPut, ih, Cells.get_set]
    rcases Nat.lt_trichotomy k j with hlt | rfl | hgt
    · rw [if_neg (Nat.ne_of_lt hlt)]
      unfold overlay
      rw [show j - k = j - (k + 1) + 1 by omega]
      exact if_congr (by rw [List.length_cons]; omega) rfl rfl
    · rw [if_pos rfl, overlay_apart (.inl (Nat.lt_succ_self k))]
      exact (overlay_within (i := 0) (bs := b :: bs) (Nat.zero_lt_succ _) k _).symm
    · rw [if_neg (Nat.ne_of_gt hgt), overlay_apart (.inl (by omega)), overlay_apart (.inl hgt)]

/-! Sectors of DRAM and of the home L2 -/

/-- A byte of DRAM, read directly or as space 0 sees it. -/
def Mem.byteAt (m : Mem) (direct : Bool) (k : Nat) : Byte :=
  if direct then Cells.get 0 m.dram k else (m.sector (k / 32) false).data[k % 32]'(Nat.mod_lt k (by decide))

namespace Mem

theorem dramBytes_eq (k : Nat) : m.dramBytes k bs = { m with dram := cellsPut m.dram k bs } := by
  induction bs generalizing m k with
  | nil => rfl
  | cons b bs ih => rw [dramBytes, ih, cellsPut]

@[simp] theorem dramBytes_held (k n : Nat) : (m.dramBytes k bs).held n = m.held n := by rw [dramBytes_eq]; rfl
@[simp] theorem setPoison_dram (n : Nat) (a b : Bool) : (m.setPoison n a b).dram = m.dram := by unfold setPoison; split <;> rfl
@[simp] theorem setPoison_held (n : Nat) (a b : Bool) (i : Nat) : (m.setPoison n a b).held i = m.held i := by
  unfold setPoison; split <;> rfl
@[simp] theorem dropCopies_held (l n : Nat) : (m.dropCopies l).held n = m.held n := rfl
@[simp] theorem dropCopies_dram (l : Nat) : (m.dropCopies l).dram = m.dram := rfl
@[simp] theorem hold_dram (n : Nat) (x : Sector) : (m.hold n x).dram = m.dram := rfl
@[simp] theorem hold_held (n : Nat) (x : Sector) (i : Nat) : (m.hold n x).held i = if n = i then some x else m.held i :=
  Cells.get_set (d := none) m.l2 n (some x) i

@[simp] theorem dramSector_getElem (n : Nat) (b : Bool) {i : Nat} (hi : i < 32) :
    (m.dramSector n b).data[i] = Cells.get 0 m.dram (32 * n + i) := by
  simp only [dramSector, Vector.getElem_ofFn]

/-- The layout that a read goes by is of no account for the bytes. -/
theorem sector_data (n : Nat) (b : Bool) : (m.sector n b).data = (m.sector n false).data := by
  unfold sector; split <;> rfl

theorem byteAt_direct (k : Nat) : m.byteAt true k = Cells.get 0 m.dram k := rfl

theorem byteAt_held {k : Nat} {x : Sector} (h : m.held (k / 32) = some x) :
    m.byteAt false k = x.data[k % 32]'(Nat.mod_lt k (by decide)) := by
  simp only [byteAt, sector, h, Bool.false_eq_true, if_false]

theorem byteAt_notHeld {k : Nat} (h : m.held (k / 32) = none) : m.byteAt false k = Cells.get 0 m.dram k := by
  simp only [byteAt, sector, h, Bool.false_eq_true, if_false, dramSector_getElem, Nat.div_add_mod]

theorem sector_getElem (n : Nat) (b : Bool) {i : Nat} (hi : i < 32) : (m.sector n b).data[i] = m.byteAt false (32 * n + i) := by
  have hdiv : (32 * n + i) / 32 = n := by omega
  have hmod : (32 * n + i) % 32 = i := by omega
  simp only [sector_data, byteAt, hdiv, hmod, Bool.false_eq_true, if_false]

end Mem

/-- A slice inside a sector is a row of its bytes. -/
theorem Sector.slice_eq_map {x : Sector} {o n : Nat} {f : Nat → Byte} (ho : o + n ≤ 32)
    (hf : ∀ i (hi : o + i < 32), x.data[o + i] = f i) : x.slice o n = (List.range n).map f := by
  refine List.ext_getElem (by simp [slice]; omega) fun i hi _ => ?_
  have hin : o + i < 32 := by simp [slice] at hi; omega
  simpa [slice] using hf i hin

theorem Sector.patch_getElem (x : Sector) (o : Nat) {i : Nat} (hi : i < 32) :
    (x.patch o bs).data[i] = overlay bs o i x.data[i] := by
  simp only [patch, Vector.getElem_ofFn, overlay]

namespace Mem

/-! Reads and writes of DRAM -/

theorem read0_data {k n : Nat} (hfit : k % 32 + n ≤ 32) (bank alloc : Bool) :
    (m.read0 k n bank alloc).1.data = (List.range n).map (fun i => m.byteAt false (k + i)) :=
  Sector.slice_eq_map hfit fun i hi => by
    rw [sector_getElem, sectorOf, ← Nat.add_assoc, Nat.div_add_mod]

theorem read1_data {k n : Nat} (hfit : k % 32 + n ≤ 32) :
    (m.read1 k n).data = (List.range n).map (fun i => m.byteAt true (k + i)) :=
  Sector.slice_eq_map hfit fun i hi => by
    rw [dramSector_getElem, sectorOf, ← Nat.add_assoc, Nat.div_add_mod, byteAt_direct]

/-- A sector that the home L2 begins to hold reads as before. -/
theorem byteAt_read0 (k n : Nat) (bank alloc direct : Bool) (j : Nat) :
    (m.read0 k n bank alloc).2.byteAt direct j = m.byteAt direct j := by
  have hkept : (m.read0 k n bank alloc).2.dram = m.dram := by unfold read0; dsimp only; split <;> rfl
  cases direct with
  | true => simp only [byteAt_direct, hkept]
  | false =>
    unfold read0
    dsimp only
    split
    · next halloc =>
      by_cases hj : sectorOf k = j / 32
      · rw [byteAt_held (x := m.sector (sectorOf k) bank) (by rw [hold_held, if_pos hj]), sector_getElem, hj, Nat.div_add_mod]
      · cases hh : m.held (j / 32) with
        | some x => rw [byteAt_held hh, byteAt_held (by rw [hold_held, if_neg hj, hh])]
        | none => rw [byteAt_notHeld hh, byteAt_notHeld (by rw [hold_held, if_neg hj, hh]), hold_dram]
    · rfl

/-- A direct write puts its bytes into DRAM. -/
theorem byteAt_write1 (k j : Nat) : (m.write1 k bs p).byteAt true j = overlay bs k j (m.byteAt true j) := by
  have hdram : (m.write1 k bs p).dram = cellsPut m.dram k bs := by
    unfold write1; dsimp only; split <;> simp [dramBytes_eq]
  rw [byteAt_direct, byteAt_direct, hdram, get_cellsPut]

/-- A write through the caches puts its bytes into DRAM where it allocates nothing in the home L2. -/
theorem write0_dram (k : Nat) (bank alloc : Bool) :
    (m.write0 k bs bank alloc p).dram = if alloc then m.dram else cellsPut m.dram k bs := by
  cases alloc with
  | true => rfl
  | false =>
    unfold write0
    simp only [Bool.false_eq_true, if_false]
    split <;> split <;> simp [dramBytes_eq]

/-- It puts them into the sector where the home L2 holds it or comes to hold it. -/
theorem write0_held (k : Nat) (bank alloc : Bool) (h : alloc = true ∨ m.held (k / 32) ≠ none) : ∃ y : Sector,
    y.data = ((m.sector (k / 32) bank).patch (k % 32) bs).data ∧
    ∀ n, (m.write0 k bs bank alloc p).held n = if k / 32 = n then some y else m.held n := by
  cases alloc with
  | true => exact ⟨_, by exact rfl, fun n => hold_held ..⟩
  | false =>
    obtain ⟨x, hx⟩ := Option.ne_none_iff_exists'.mp (h.resolve_left Bool.false_ne_true)
    have hx' : (m.dropCopies (k / 128)).held (sectorOf k) = some x := hx
    unfold write0
    simp only [Bool.false_eq_true, if_false, hx', hold_held]
    refine ⟨_, by exact rfl, fun n => if_congr Iff.rfl rfl ?_⟩
    split <;> simp

theorem write0_notHeld (k : Nat) (bank : Bool) (h : m.held (k / 32) = none) (n : Nat) :
    (m.write0 k bs bank false p).held n = m.held n := by
  have h' : (m.dropCopies (k / 128)).held (sectorOf k) = none := h
  unfold write0
  simp only [Bool.false_eq_true, if_false, h']
  split <;> simp

theorem write0_dram_apart {k j : Nat} (bank alloc : Bool) (h : j < k ∨ k + bs.length ≤ j) :
    Cells.get 0 (m.write0 k bs bank alloc p).dram j = Cells.get 0 m.dram j := by
  rw [write0_dram]
  split
  · rfl
  · rw [get_cellsPut, overlay_apart h]

theorem byteAt_write0 {k : Nat} (hfit : k % 32 + bs.length ≤ 32) (bank alloc : Bool) (j : Nat) :
    (m.write0 k bs bank alloc p).byteAt false j = overlay bs k j (m.byteAt false j) := by
  by_cases h : alloc = true ∨ m.held (k / 32) ≠ none
  · obtain ⟨y, hdata, hheld⟩ := write0_held (bs := bs) (p := p) k bank alloc h
    by_cases hj : k / 32 = j / 32
    · rw [byteAt_held ((hheld _).trans (if_pos hj))]
      simp only [hdata, Sector.patch_getElem, sector_getElem, hj, Nat.div_add_mod]
      exact overlay_shift (by omega) _
    · have hapart : j < k ∨ k + bs.length ≤ j := by omega
      have hkept : (m.write0 k bs bank alloc p).held (j / 32) = m.held (j / 32) := (hheld _).trans (if_neg hj)
      rw [overlay_apart hapart]
      cases hh : m.held (j / 32) with
      | some x => rw [byteAt_held hh, byteAt_held (hkept.trans hh)]
      | none => rw [byteAt_notHeld hh, byteAt_notHeld (hkept.trans hh), write0_dram_apart bank alloc hapart]
  · obtain ⟨ha, hn⟩ := not_or.mp h
    obtain rfl := Bool.eq_false_iff.mpr ha
    rw [not_not] at hn
    have hkept := write0_notHeld (bs := bs) (p := p) k bank hn
    cases hh : m.held (j / 32) with
    | some x =>
      have hapart : j < k ∨ k + bs.length ≤ j := by
        have hj : k / 32 ≠ j / 32 := fun hj => by rw [← hj, hn] at hh; cases hh
        omega
      rw [byteAt_held hh, byteAt_held ((hkept _).trans hh), overlay_apart hapart]
    | none =>
      rw [byteAt_notHeld hh, byteAt_notHeld ((hkept _).trans hh), write0_dram, if_neg Bool.false_ne_true, get_cellsPut]

end Mem

/-! Rows of bytes -/

/-- Bytes that have been written read back from their place upwards. -/
theorem map_overlay {k : Nat} {f : Nat → Byte} (old : Nat → Byte) (hf : ∀ j, f j = overlay bs k j (old j)) :
    (List.range bs.length).map (fun i => f (k + i)) = bs := by
  refine List.ext_getElem (by simp) fun i hi hi' => ?_
  rw [List.getElem_map, List.getElem_range, hf, overlay_within hi', List.getD_eq_getElem _ _ hi']

theorem cellsGet_cellsPut (c : Cells Byte) (k : Nat) : cellsGet (cellsPut c k bs) k bs.length = bs :=
  map_overlay (Cells.get 0 c) (get_cellsPut c k)

theorem length_bytesOfNat (n v : Nat) : (bytesOfNat n v).length = n := by rw [bytesOfNat, List.length_map, List.length_range]

/-! Targets -/

/-- No deferred add is pending. -/
structure Mem.NoAdds (m : Mem) : Prop where
  adds : m.adds = []
  host : m.hostAdds = []
  peer : m.peerAdds = []

namespace Mem.NoAdds

variable (hn : m.NoAdds) (k n : Nat)
include hn

theorem foldAdds_eq : foldAdds m k n = m := by rw [foldAdds, hn.adds]; rfl
theorem foldHost_eq : m.foldHost k n = m := by rw [Mem.foldHost, hn.host]; rfl
theorem foldPeer_eq : m.foldPeer k n = m := by rw [Mem.foldPeer, hn.peer]; rfl

end Mem.NoAdds

/-- A memory that differs from another in DRAM with its marks, in the home L2 and in the read copies alone. -/
def Mem.DramDiffer (m m' : Mem) : Prop :=
  m' = { m with dram := m'.dram, poison := m'.poison, lost := m'.lost, l2 := m'.l2, copies := m'.copies }

namespace Mem.DramDiffer

variable {m' m'' : Mem}

theorem trans (h : m.DramDiffer m') (h' : m'.DramDiffer m'') : m.DramDiffer m'' := by rw [DramDiffer, h', h]
theorem host (h : m.DramDiffer m') : m'.host = m.host := by rw [h]
theorem peer (h : m.DramDiffer m') : m'.peer = m.peer := by rw [h]
theorem noAdds (h : m.DramDiffer m') (hn : m.NoAdds) : m'.NoAdds := by rw [h]; exact ⟨hn.adds, hn.host, hn.peer⟩

theorem dramBytes (m : Mem) (k : Nat) (bs : List Byte) : m.DramDiffer (m.dramBytes k bs) := by rw [dramBytes_eq]; rfl
theorem setPoison (m : Mem) (n : Nat) (a b : Bool) : m.DramDiffer (m.setPoison n a b) := by
  unfold Mem.setPoison; split <;> rfl
theorem hold (m : Mem) (n : Nat) (x : Sector) : m.DramDiffer (m.hold n x) := rfl

theorem write1 (m : Mem) (k : Nat) (bs : List Byte) (p : Bool) : m.DramDiffer (m.write1 k bs p) := by
  unfold Mem.write1
  dsimp only
  split
  · exact (dramBytes m k bs).trans (setPoison ..)
  · exact dramBytes m k bs

theorem write0 (m : Mem) (k : Nat) (bs : List Byte) (bank alloc p : Bool) : m.DramDiffer (m.write0 k bs bank alloc p) := by
  have hcopies : m.DramDiffer (m.dropCopies (k / 128)) := rfl
  have hmarked (c : Bool) : m.DramDiffer (if c then ((m.dropCopies (k / 128)).dramBytes k bs).setPoison (sectorOf k) p
      else (m.dropCopies (k / 128)).dramBytes k bs) := by
    split
    · exact (hcopies.trans (dramBytes ..)).trans (setPoison ..)
    · exact hcopies.trans (dramBytes ..)
  cases alloc with
  | true => exact hcopies.trans (hold ..)
  | false =>
    unfold Mem.write0
    simp only [Bool.false_eq_true, if_false]
    split
    · exact (hmarked _).trans (hold ..)
    · exact hmarked _

theorem read0 (m : Mem) (k n : Nat) (bank alloc : Bool) : m.DramDiffer (m.read0 k n bank alloc).2 := by
  unfold Mem.read0
  dsimp only
  split <;> rfl

end Mem.DramDiffer

namespace State

/-- The byte that a read of one byte of a target gives where no deferred add is pending. -/
def byteT (s : State) : Target → Byte
  | .scratch c o => Cells.get 0 (s.cluster c).mem o
  | .hbm k _ _ d => s.mem.byteAt d k
  | .host a => Cells.get 0 s.mem.host a
  | .peer d w a => Cells.get 0 s.mem.peer ((s.peerByte d w a).getD 0)
  | .regs d o => (bytesOfNat 8 ((s.dieWord d (o / 8 * 8)).getD 0).toNat).getD (o % 8) 0
  | .priv d o => if o < 0x10000 then Config.bootRom o else Cells.get 0 (s.die d).cloveMem o

theorem readT_hbm {k : Nat} {b : Bool} {c : Nat} {d : Bool} {n : Nat} (hn : s.mem.NoAdds) (hfit : k % 32 + n ≤ 32) :
    (s.readT (.hbm k b c d) n).1.data = (List.range n).map (fun i => s.mem.byteAt d (k + i)) := by
  cases d with
  | true => exact Mem.read1_data hfit
  | false =>
    simp only [readT, noteMiss_mem, hn.foldAdds_eq, Bool.false_eq_true, if_false]
    exact Mem.read0_data hfit b _

theorem readT_byte (hn : s.mem.NoAdds) (g : Target) : (s.readT g 1).1.data = [s.byteT g] := by
  cases g with
  | scratch c o => rfl
  | hbm k b c d => exact readT_hbm hn (by omega)
  | host a => simp only [readT, hn.foldHost_eq]; rfl
  | peer d w a => simp only [readT, hn.foldPeer_eq]; rfl
  | regs d o =>
    have hin : o % 8 < (bytesOfNat 8 ((s.dieWord d (o / 8 * 8)).getD 0).toNat).length := by
      rw [length_bytesOfNat]; exact Nat.mod_lt _ (by decide)
    simp only [readT, byteT, List.drop_eq_getElem_cons hin, List.take_succ_cons, List.take_zero, List.getD_eq_getElem _ _ hin]
  | priv d o => rfl

/-! Writes -/

theorem noteWrite_eq (s : State) (k n c : Nat) (d : Bool) : s.noteWrite k n c d = { s with hbms := (s.noteWrite k n c d).hbms } := by
  unfold noteWrite; split <;> rfl

theorem writeT_hbm {k : Nat} {b : Bool} {c : Nat} {d : Bool} (hn : s.mem.NoAdds) :
    s.writeT (.hbm k b c d) bs p = { s with
      hbms := (s.noteWrite k bs.length c d).hbms,
      mem := if d then s.mem.write1 k bs p else s.mem.write0 k bs b (decide (c < 2)) p } := by
  have hmem : (s.noteWrite k bs.length c d).mem = s.mem := by rw [noteWrite_eq]
  unfold writeT
  dsimp only
  rw [hmem, hn.foldAdds_eq, noteWrite_eq]
  cases d <;> rfl

/-- A write of DRAM changes nothing else but request records. -/
theorem writeT_dram {k : Nat} {b : Bool} {c : Nat} {d : Bool} (hn : s.mem.NoAdds) :
    ∃ m hb, s.mem.DramDiffer m ∧ s.writeT (.hbm k b c d) bs p = { s with mem := m, hbms := hb } := by
  refine ⟨_, _, ?_, writeT_hbm hn⟩
  split
  · exact .write1 ..
  · exact .write0 ..

theorem writeT_host {a : Nat} (hn : s.mem.NoAdds) : s.writeT (.host a) bs p =
    { s with mem := { s.mem with host := cellsPut s.mem.host a bs, hostPoison := outMark s.mem.hostPoison a bs p } } := by
  simp only [writeT, hn.foldHost_eq]

theorem writeT_peer {d w a k : Nat} (hn : s.mem.NoAdds) (hk : s.peerByte d w a = some k) : s.writeT (.peer d w a) bs p =
    { s with mem := { s.mem with peer := cellsPut s.mem.peer k bs, peerPoison := outMark s.mem.peerPoison k bs p } } := by
  simp only [writeT, hk, hn.foldPeer_eq]

theorem writeT_peer_none {d w a : Nat} (hk : s.peerByte d w a = none) : s.writeT (.peer d w a) bs p = s := by
  simp only [writeT, hk]

theorem writeT_rom {d o : Nat} (ho : o < 0x10000) : s.writeT (.priv d o) bs p = s := if_pos ho

theorem writeT_priv {d o : Nat} (ho : 0x10000 ≤ o) : s.writeT (.priv d o) bs p =
    s.setDie d { s.die d with cloveMem := cellsPut (s.die d).cloveMem o bs } := if_neg (Nat.not_lt.mpr ho)

theorem peerByte_writeT_peer {d w a k : Nat} (hn : s.mem.NoAdds) (hk : s.peerByte d w a = some k) (d' w' a' : Nat) :
    (s.writeT (.peer d w a) bs p).peerByte d' w' a' = s.peerByte d' w' a' := by rw [writeT_peer hn hk]; rfl

/-- A write leaves no deferred add pending. -/
theorem writeT_noAdds (hn : s.mem.NoAdds) (g : Target) : (s.writeT g bs p).mem.NoAdds := by
  cases g with
  | scratch c o => exact hn
  | hbm k b c d =>
    obtain ⟨m', hb, hd, heq⟩ := writeT_dram hn
    rw [heq]
    exact hd.noAdds hn
  | host a => rw [writeT_host hn]; exact ⟨hn.adds, hn.host, hn.peer⟩
  | peer d w a =>
    cases hk : s.peerByte d w a with
    | none => rw [writeT_peer_none hk]; exact hn
    | some k => rw [writeT_peer hn hk]; exact ⟨hn.adds, hn.host, hn.peer⟩
  | regs d o => exact hn
  | priv d o => simp only [writeT]; split <;> exact hn

/-- A change of Clove's own memory leaves the die's registers and peer windows. -/
theorem dieWord_setCloveMem (d : Nat) (c : Cells Byte) (e off : Nat) :
    (s.setDie d { s.die d with cloveMem := c }).dieWord e off = s.dieWord e off := by
  by_cases h : d = e
  · subst h; simp only [dieWord, die_setDie, if_true]
  · simp only [dieWord, die_setDie, if_neg h]

theorem peerByte_setCloveMem (d : Nat) (c : Cells Byte) (e w off : Nat) :
    (s.setDie d { s.die d with cloveMem := c }).peerByte e w off = s.peerByte e w off := by
  by_cases h : d = e
  · subst h; simp only [peerByte, die_setDie, if_true]
  · simp only [peerByte, die_setDie, if_neg h]

/-- A write changes no byte of a target of another kind. -/
theorem byteT_writeT_of_kind (hn : s.mem.NoAdds) (hk : g.ctorIdx ≠ h.ctorIdx) : (s.writeT g bs p).byteT h = s.byteT h := by
  cases g with
  | scratch c o =>
    cases h with
    | scratch => exact absurd rfl hk
    | _ => rfl
  | hbm k b c d =>
    obtain ⟨m', hb, hd, heq⟩ := writeT_dram hn
    rw [heq]
    cases h with
    | hbm => exact absurd rfl hk
    | host a => exact congrArg (Cells.get 0 · a) hd.host
    | peer e w a => exact congrArg (Cells.get 0 · ((s.peerByte e w a).getD 0)) hd.peer
    | _ => rfl
  | host a =>
    rw [writeT_host hn]
    cases h with
    | host => exact absurd rfl hk
    | _ => rfl
  | peer d w a =>
    cases hb : s.peerByte d w a with
    | none => rw [writeT_peer_none hb]
    | some k =>
      rw [writeT_peer hn hb]
      cases h with
      | peer => exact absurd rfl hk
      | _ => rfl
  | regs d o => rfl
  | priv d o =>
    by_cases ho : o < 0x10000
    · rw [writeT_rom ho]
    · rw [writeT_priv (Nat.not_lt.mp ho)]
      cases h with
      | priv => exact absurd rfl hk
      | regs e o' => simp only [byteT, dieWord_setCloveMem]
      | peer e w a => simp only [byteT, peerByte_setCloveMem]; rfl
      | _ => rfl

/-! A write changes the bytes written, and of the targets of its kind no other. -/

theorem byteT_writeT_scratch (c o c' o' : Nat) : (s.writeT (.scratch c o) bs p).byteT (.scratch c' o') =
    if c = c' then overlay bs o o' (s.byteT (.scratch c' o')) else s.byteT (.scratch c' o') := by
  simp only [writeT, byteT, cluster_setCluster]
  split
  · next h => subst h; rw [Cluster.put_mem, get_cellsPut]
  · rfl

theorem byteAt_writeT {k : Nat} {b : Bool} {c : Nat} {d : Bool} (hn : s.mem.NoAdds) (hfit : k % 32 + bs.length ≤ 32) (j : Nat) :
    (s.writeT (.hbm k b c d) bs p).mem.byteAt d j = overlay bs k j (s.mem.byteAt d j) := by
  rw [writeT_hbm hn]
  cases d with
  | true => exact Mem.byteAt_write1 k j
  | false => exact Mem.byteAt_write0 hfit b _ j

theorem byteT_writeT_host (hn : s.mem.NoAdds) (a a' : Nat) :
    (s.writeT (.host a) bs p).byteT (.host a') = overlay bs a a' (s.byteT (.host a')) := by
  rw [writeT_host hn]; exact get_cellsPut _ a a'

theorem byteT_writeT_peer (hn : s.mem.NoAdds) {d w a k d' w' a' k' : Nat} (hk : s.peerByte d w a = some k)
    (hk' : s.peerByte d' w' a' = some k') :
    (s.writeT (.peer d w a) bs p).byteT (.peer d' w' a') = overlay bs k k' (s.byteT (.peer d' w' a')) := by
  simp only [byteT, peerByte_writeT_peer hn hk, hk', Option.getD_some]
  rw [writeT_peer hn hk]
  exact get_cellsPut _ k k'

theorem byteT_writeT_priv {d o d' o' : Nat} (h : d ≠ d' ∨ o' < o ∨ o + bs.length ≤ o') :
    (s.writeT (.priv d o) bs p).byteT (.priv d' o') = s.byteT (.priv d' o') := by
  by_cases ho : o < 0x10000
  · rw [writeT_rom ho]
  · rw [writeT_priv (Nat.not_lt.mp ho)]
    simp only [byteT, die_setDie]
    split
    · rfl
    · split
      · next hd => subst hd; rw [get_cellsPut, overlay_apart (h.resolve_left (not_not.mpr rfl))]
      · rfl

/-! Bytes read back from where they were written -/

theorem readT_writeT_scratch (c o : Nat) : ((s.writeT (.scratch c o) bs p).readT (.scratch c o) bs.length).1.data = bs := by
  simp only [readT, writeT, cluster_setCluster, if_true, Cluster.put_mem]
  exact cellsGet_cellsPut _ o

theorem readT_writeT_host (hn : s.mem.NoAdds) (a : Nat) :
    ((s.writeT (.host a) bs p).readT (.host a) bs.length).1.data = bs := by
  simp only [readT, (writeT_noAdds hn _).foldHost_eq]
  rw [writeT_host hn]
  exact cellsGet_cellsPut _ a

theorem readT_writeT_peer {d w a : Nat} (hn : s.mem.NoAdds) (hk : (s.peerByte d w a).isSome = true) :
    ((s.writeT (.peer d w a) bs p).readT (.peer d w a) bs.length).1.data = bs := by
  obtain ⟨k, hk⟩ := Option.isSome_iff_exists.mp hk
  simp only [readT, (writeT_noAdds hn _).foldPeer_eq]
  rw [peerByte_writeT_peer hn hk, hk, writeT_peer hn hk]
  exact cellsGet_cellsPut _ k

theorem readT_writeT_priv {d o : Nat} (ho : 0x10000 ≤ o) :
    ((s.writeT (.priv d o) bs p).readT (.priv d o) bs.length).1.data = bs := by
  have hram (i : Nat) : ¬o + i < 0x10000 := Nat.not_lt.mpr (Nat.le_add_right_of_le ho)
  rw [writeT_priv ho]
  simp only [readT, die_setDie, if_true, hram, if_false]
  exact cellsGet_cellsPut _ o

/-! Reads -/

/-- A read changes nothing but request records and which sectors the home L2 holds. -/
theorem readT_state (hn : s.mem.NoAdds) (g : Target) (n : Nat) : ∃ m hb, s.mem.DramDiffer m ∧
    (∀ d j, m.byteAt d j = s.mem.byteAt d j) ∧ (s.readT g n).2 = { s with mem := m, hbms := hb } := by
  have hsame : ∃ m hb, s.mem.DramDiffer m ∧ (∀ d j, m.byteAt d j = s.mem.byteAt d j) ∧ s = { s with mem := m, hbms := hb } :=
    ⟨s.mem, s.hbms, rfl, fun _ _ => rfl, rfl⟩
  cases g with
  | hbm k b c d =>
    have hmiss := noteMiss_eq (s := s) k d
    cases d with
    | true => exact ⟨s.mem, _, rfl, fun _ _ => rfl, hmiss⟩
    | false =>
      refine ⟨_, (s.noteMiss k false).hbms, .read0 s.mem k n b (decide (c < 2)), fun d j => Mem.byteAt_read0 .., ?_⟩
      simp only [readT, noteMiss_mem, hn.foldAdds_eq, Bool.false_eq_true, if_false]
      rw [hmiss]
  | host a => simpa only [readT, hn.foldHost_eq] using hsame
  | peer d w a => simpa only [readT, hn.foldPeer_eq] using hsame
  | _ => exact hsame

/-- A read changes no byte. -/
theorem byteT_readT (hn : s.mem.NoAdds) (g h : Target) (n : Nat) : (s.readT g n).2.byteT h = s.byteT h := by
  obtain ⟨m, hb, hd, hbytes, heq⟩ := readT_state hn g n
  rw [heq]
  cases h with
  | hbm k b c d => exact hbytes d k
  | host a => exact congrArg (Cells.get 0 · a) hd.host
  | peer d w a => exact congrArg (Cells.get 0 · ((s.peerByte d w a).getD 0)) hd.peer
  | _ => rfl

theorem readT_noAdds (hn : s.mem.NoAdds) (g : Target) (n : Nat) : (s.readT g n).2.mem.NoAdds := by
  obtain ⟨m, hb, hd, -, heq⟩ := readT_state hn g n
  rw [heq]
  exact hd.noAdds hn

end State
end Sys2Proof.Machine

open Sys2Proof.Machine State

/-- Settles O20: bytes read as `byteT` says (`readT_byte`), and a write is, target by target, the `overlay` of its bytes. -/
theorem writesReadBackAndTouchNothingElse : Obligations.WritesReadBackAndTouchNothingElse := by
  refine ⟨?readBack, ?apart, ?read⟩
  case readBack =>
    intro s g bs ha hh hp hg
    have hn : s.mem.NoAdds := ⟨ha, hh, hp⟩
    cases g with
    | scratch c o => exact readT_writeT_scratch c o
    | hbm k b c d => exact (readT_hbm (writeT_noAdds hn _) hg).trans (map_overlay _ (byteAt_writeT hn hg))
    | host a => exact readT_writeT_host hn a
    | peer d w a => exact readT_writeT_peer hn hg
    | regs d o => exact hg.elim
    | priv d o => exact readT_writeT_priv hg
  case apart =>
    intro s g h bs ha hh hp hfit hapart
    have hn : s.mem.NoAdds := ⟨ha, hh, hp⟩
    rw [readT_byte (writeT_noAdds hn g), readT_byte hn]
    refine congrArg (fun b => [b]) ?_
    by_cases hk : g.ctorIdx = h.ctorIdx
    case neg => exact byteT_writeT_of_kind hn hk
    match g, h with
    | .scratch c o, .scratch c' o' =>
      rw [byteT_writeT_scratch]
      split
      · next hc => exact overlay_apart (hapart.resolve_left (not_not.mpr hc)) _
      · rfl
    | .hbm k b c d, .hbm k' b' c' d' =>
      obtain ⟨rfl, hapart⟩ := hapart
      exact (byteAt_writeT hn hfit k').trans (overlay_apart hapart _)
    | .host a, .host a' => exact (byteT_writeT_host hn a a').trans (overlay_apart hapart _)
    | .peer d w a, .peer d' w' a' =>
      obtain ⟨q, hq, hapart⟩ := hapart
      cases hp : s.peerByte d w a with
      | none => rw [writeT_peer_none hp]
      | some p => exact (byteT_writeT_peer hn hp hq).trans (overlay_apart (hapart p hp) _)
    | .regs d o, .regs d' o' => rfl
    | .priv d o, .priv d' o' => exact byteT_writeT_priv hapart
  case read =>
    intro s g h n ha hh hp
    have hn : s.mem.NoAdds := ⟨ha, hh, hp⟩
    rw [readT_byte (readT_noAdds hn g n), readT_byte hn, byteT_readT hn]

end

section
/-! PROOF. O21: fences (05 R133 to R135; 17 R319; 18 R343). What a fence waits for is read off `fenceWaits`; a flush is a fold of
write-backs, each of which settles its own sector (`Mem.WrittenBack`) and leaves every other. -/

namespace Sys2Proof.Machine

variable {s : State} {m : Mem}

/-! Marks and entries of tables -/

theorem Marks.mem_iff {l : List Nat} {i : Nat} : Marks.mem l i = true ↔ i ∈ l := List.contains_iff_mem

theorem Marks.mem_add (l : List Nat) (i j : Nat) : j ∈ Marks.add l i ↔ j = i ∨ j ∈ l := by
  induction l with
  | nil => exact List.mem_cons
  | cons k l ih =>
    unfold Marks.add
    split
    · exact List.mem_cons
    · split
      · next h => subst h; simp
      · rw [List.mem_cons, List.mem_cons, ih, or_left_comm]

theorem Marks.mem_del (l : List Nat) (i j : Nat) : j ∈ Marks.del l i ↔ j ≠ i ∧ j ∈ l := by
  simp [Marks.del, and_comm]

/-- In a canonical table the entries are what reads of their keys give. -/
theorem Cells.mem_iff_get {α : Type} [DecidableEq α] {d v : α} {lo : Option Nat} {c : Cells α} {k : Nat}
    (hc : Cells.wfFrom d lo c = true) (hv : v ≠ d) : (k, v) ∈ c ↔ Cells.get d c k = v := by
  induction c generalizing lo with
  | nil => simp [hv.symm]
  | cons e c ih =>
    obtain ⟨k', w⟩ := e
    obtain ⟨-, -, hrest⟩ := (Cells.wfFrom_cons ..).mp hc
    rw [List.mem_cons, Cells.get_cons, ih hrest]
    split
    · next hk =>
      subst hk
      have hbelow : Cells.get d c k' = d := Cells.get_of_bound hrest (Nat.le_refl k')
      simp [hbelow, hv.symm, eq_comm]
    · next hk => simp [Ne.symm hk]

/-! Writing a sector back -/

/-- A sector as it stands once it has been written back: clean. -/
def Sector.cleaned (x : Sector) : Sector := { x with dirty := false }

namespace Mem

variable {n j : Nat} {x : Sector}

theorem mem_setPoison (m : Mem) (n : Nat) (a b : Bool) (j : Nat) :
    Marks.mem (m.setPoison n a b).poison j = if n = j then a else Marks.mem m.poison j := by
  rw [Bool.eq_iff_iff]
  by_cases h : j = n
  · cases a <;> simp [setPoison, Marks.mem_iff, Marks.mem_add, Marks.mem_del, h]
  · cases a <;> simp [setPoison, Marks.mem_iff, Marks.mem_add, Marks.mem_del, h, Ne.symm h]

theorem lost_setPoison (m : Mem) (a b : Bool) (h : n ≠ j) : Marks.mem (m.setPoison n a b).lost j = Marks.mem m.lost j := by
  rw [Bool.eq_iff_iff]
  cases a <;> cases b <;> simp [setPoison, Marks.mem_iff, Marks.mem_add, Marks.mem_del, Ne.symm h]

theorem dramPut_dram (m : Mem) (n : Nat) (x : Sector) : (m.dramPut n x).dram = cellsPut m.dram (32 * n) x.data.toList := by
  rw [dramPut, setPoison_dram, dramBytes_eq]

theorem dramPut_held (m : Mem) (n : Nat) (x : Sector) (j : Nat) : (m.dramPut n x).held j = m.held j := by simp [dramPut]

theorem dramPut_dramSector (m : Mem) (n : Nat) (x : Sector) (b : Bool) :
    ((m.dramPut n x).dramSector n b).data = x.data ∧ ((m.dramPut n x).dramSector n b).poison = x.poison := by
  refine ⟨Vector.ext fun i hi => ?_, ?_⟩
  · have hin : i < x.data.toList.length := by rwa [Vector.length_toList]
    rw [dramSector_getElem n b hi, dramPut_dram, get_cellsPut, overlay_within hin, List.getD_eq_getElem _ _ hin, Vector.getElem_toList]
  · exact (mem_setPoison ..).trans (if_pos rfl)

/-- Writing a sector leaves every other. -/
theorem dramPut_dramSector_ne (m : Mem) (x : Sector) (b : Bool) (h : n ≠ j) :
    (m.dramPut n x).dramSector j b = m.dramSector j b := by
  have hbytes (i : Fin 32) : Cells.get 0 (m.dramPut n x).dram (32 * j + i) = Cells.get 0 m.dram (32 * j + i) := by
    rw [dramPut_dram, get_cellsPut, overlay_apart (by rw [Vector.length_toList]; omega)]
  have hpoison : Marks.mem (m.dramPut n x).poison j = Marks.mem m.poison j := by
    rw [dramPut, mem_setPoison, if_neg h, dramBytes_eq]
  have hlost : Marks.mem (m.dramPut n x).lost j = Marks.mem m.lost j := by
    rw [dramPut, lost_setPoison _ _ _ h, dramBytes_eq]
  simp only [dramSector, hbytes, hpoison, hlost]

theorem writeBack_dirty (h : m.held n = some x) (hd : x.dirty = true) : m.writeBack n = (m.dramPut n x).hold n x.cleaned := by
  simp only [writeBack, h, hd, if_true]; rfl

theorem writeBack_clean (h : ∀ x, m.held n = some x → x.dirty = false) : m.writeBack n = m := by
  unfold writeBack
  split
  · next x hx => rw [h x hx, if_neg Bool.false_ne_true]
  · rfl

/-- A write-back leaves every other sector, in DRAM and in the home L2. -/
theorem writeBack_ne (m : Mem) (h : n ≠ j) :
    (m.writeBack n).held j = m.held j ∧ ∀ b, (m.writeBack n).dramSector j b = m.dramSector j b := by
  unfold writeBack
  split
  · split
    · exact ⟨by rw [hold_held, if_neg h, dramPut_held], fun b => dramPut_dramSector_ne m _ b h⟩
    · exact ⟨rfl, fun _ => rfl⟩
  · exact ⟨rfl, fun _ => rfl⟩

/-- A sector has been written back: the home L2 holds it clean, and it stands in DRAM with its mark. -/
structure WrittenBack (m : Mem) (n : Nat) (x : Sector) : Prop where
  held : m.held n = some x.cleaned
  dram : ∀ b, (m.dramSector n b).data = x.data ∧ (m.dramSector n b).poison = x.poison

theorem writeBack_writtenBack (h : m.held n = some x) (hd : x.dirty = true) : (m.writeBack n).WrittenBack n x := by
  rw [writeBack_dirty h hd]
  exact ⟨(hold_held ..).trans (if_pos rfl), dramPut_dramSector m n x⟩

/-- Another write-back changes nothing of it. -/
theorem WrittenBack.writeBack (h : m.WrittenBack n x) (j : Nat) : (m.writeBack j).WrittenBack n x := by
  by_cases hj : j = n
  · subst hj
    have hclean : ∀ y, m.held j = some y → y.dirty = false := by
      intro y hy
      obtain rfl := Option.some.inj (h.held.symm.trans hy)
      rfl
    rwa [writeBack_clean hclean]
  · obtain ⟨hheld, hdram⟩ := writeBack_ne m hj
    exact ⟨hheld.trans h.held, fun b => by rw [hdram]; exact h.dram b⟩

variable {l : List Nat}

theorem foldl_writtenBack (h : m.held n = some x) (hd : x.dirty = true) (hn : n ∈ l) : (l.foldl writeBack m).WrittenBack n x := by
  induction l generalizing m with
  | nil => cases hn
  | cons k l ih =>
    by_cases hk : k = n
    · subst hk
      exact foldl_keeps (P := fun m : Mem => m.WrittenBack k x) (fun m j hm => hm.writeBack j) l (writeBack_writtenBack h hd)
    · exact ih ((writeBack_ne m hk).1.trans h) ((List.mem_cons.mp hn).resolve_left (Ne.symm hk))

theorem foldl_writeBack_notMem (hn : n ∉ l) : (l.foldl writeBack m).held n = m.held n ∧
    ∀ b, (l.foldl writeBack m).dramSector n b = m.dramSector n b := by
  induction l generalizing m with
  | nil => exact ⟨rfl, fun _ => rfl⟩
  | cons k l ih =>
    obtain ⟨hk, hl⟩ := not_or.mp (mt List.mem_cons.mpr hn)
    obtain ⟨hheld, hdram⟩ := ih hl (m := m.writeBack k)
    obtain ⟨hheld', hdram'⟩ := writeBack_ne m (Ne.symm hk)
    exact ⟨hheld.trans hheld', fun b => (hdram b).trans (hdram' b)⟩

end Mem

/-- What a flush writes back: the dirty sectors of BANK pages in the home L2s within its scope (05 R135). -/
theorem mem_bankDirty {die n : Nat} {sc : Scope} (hm : m.wf = true) : n ∈ bankDirty m die sc ↔
    ∃ x, m.held n = some x ∧ x.bank = true ∧ x.dirty = true ∧ (3 ≤ sc.code ∨ stackOf (32 * n) = die) := by
  obtain ⟨-, hl2, -, -⟩ := Mem.wf_iff.mp hm
  have hentry (x : Sector) : (n, some x) ∈ m.l2 ↔ m.held n = some x := Cells.mem_iff_get hl2 nofun
  simp only [← hentry, bankDirty, List.mem_filterMap, Prod.exists]
  constructor
  · rintro ⟨k, _ | x, hk, hx⟩
    · cases hx
    · obtain ⟨hreach, hkn⟩ := Option.ite_none_right_eq_some.mp hx
      obtain rfl := Option.some.inj hkn
      simp only [Bool.and_eq_true, Bool.or_eq_true, decide_eq_true_eq, and_assoc] at hreach
      exact ⟨x, hk, hreach⟩
  · rintro ⟨x, hx, hbank, hdirty, hreach⟩
    exact ⟨n, some x, hx, by simp [hbank, hdirty, hreach]⟩

/-! What a fence waits for -/

variable {e : Engines} {st : StrandId} {die : Nat} {sc : Scope} {q : W32} {b : Block}

/-- A strand has no engine command in flight, and no posted write that a fence of a scope orders (05 R134). -/
def Engines.StrandDone (e : Engines) (st : StrandId) (die : Nat) (sc : Scope) : Prop :=
  (∀ c ∈ e.cmds, c.strand ≠ st) ∧ ∀ w ∈ e.posted, w.strand = st → sc.code < w.target.fenceScope die

/-- No near-bank command and no invalidation below a point is left (05 R135). -/
def Engines.NearDone (e : Engines) (q : W32) : Prop :=
  (∀ c ∈ e.cmds, c.cls = .nbu → seqBelow c.seq q = false) ∧ ∀ v ∈ e.invals, seqBelow v.seq q = false

theorem fenceWaits_none : e.fenceWaits st die sc none = none ↔ e.StrandDone st die sc := by
  have hcmds : e.cmds.any (fun c => c.strand == st) = true ↔ ¬∀ c ∈ e.cmds, c.strand ≠ st := by simp
  have hposted : e.posted.any (fun w => w.strand == st && decide (w.target.fenceScope die ≤ sc.code)) = true ↔
      ¬∀ w ∈ e.posted, w.strand = st → sc.code < w.target.fenceScope die := by simp
  simp only [Engines.fenceWaits, hcmds, hposted, Engines.StrandDone]
  split
  · next h => simp [h]
  · split
    · next h => simp [h]
    · next h h' => exact iff_of_true rfl ⟨not_not.mp h, not_not.mp h'⟩

theorem fenceWaits_some : e.fenceWaits st die sc (some q) = none ↔ e.StrandDone st die sc ∧ e.NearDone q := by
  rw [← fenceWaits_none]
  simp only [Engines.fenceWaits]
  split
  · simp
  · split
    · simp
    · simp [Engines.NearDone]

theorem engBefore_eq_eng (h : s.issue.snap = none) : s.engBefore = s.ctx.eng := by rw [State.engBefore, h]

variable {point : Option W32} {f : Block → Block}

theorem fenceM_ok (hs : s.issue.snap = none) (h : s.ctx.eng.fenceWaits s.strand s.ctx.id.die sc point = none) :
    fenceM sc point f s = .ok () s := by
  simp only [fenceM, bind_get, engBefore_eq_eng hs, h, pure_run]

theorem fenceM_blocks (hs : s.issue.snap = none) (h : s.ctx.eng.fenceWaits s.strand s.ctx.id.die sc point ≠ none) :
    ∃ b, fenceM sc point f s = .error (.block (f b)) s := by
  obtain ⟨b, hb⟩ := Option.ne_none_iff_exists'.mp h
  refine ⟨b, ?_⟩
  simp only [fenceM, bind_get, engBefore_eq_eng hs, State.rd_eq_ctx hs, hb, Option.isSome_some, if_true, throw_run]

/-- The point of a BFENCE: the number that stood at its first attempt (05 R135). -/
def State.fencePoint (s : State) : W32 :=
  match (s.ctx.str s.strand).blocked with
  | some (.fence q) => q
  | _ => s.ctx.eng.seqno

/-- A BFENCE of a part with near-bank units once nothing is left that it waits for. -/
def State.flushed (s : State) (sc : Scope) : State :=
  { s.noteWriteBacks (bankDirty s.mem s.ctx.id.die sc) with mem := flushBank s.mem s.ctx.id.die sc }

theorem flushed_eq (s : State) (sc : Scope) :
    s.flushed sc = { s with mem := flushBank s.mem s.ctx.id.die sc, hbms := (s.flushed sc).hbms } := by
  have hnotes : ∀ l, s.noteWriteBacks l = { s with hbms := (s.noteWriteBacks l).hbms } := fun l =>
    foldl_keeps (P := fun t : State => t = { s with hbms := t.hbms }) (fun t n h => by rw [State.noteRequest_eq, h]) l rfl
  unfold State.flushed
  rw [hnotes]

theorem exec_bfence_far (hp : s.part.hasNear = false) :
    exec (.bfence sc) s = run (do enter (.bfence sc); tilesDone; fenceM sc none id) s := by
  show execBfence sc s = _
  simp only [execBfence, hp, Bool.false_eq_true, if_false]

theorem exec_bfence_near (hs : s.issue.snap = none) (hp : s.part.hasNear = true) : exec (.bfence sc) s =
    run (do enter (.bfence sc); tilesDone; fenceM sc (some s.fencePoint) (fun _ => .fence s.fencePoint); modify (·.flushed sc)) s := by
  show execBfence sc s = _
  simp only [execBfence, hp, if_true, State.rd_eq_ctx hs]
  rfl

/-! The instructions -/

section
variable {i : Instr} {m : M Unit} {t : State} (hl : s.strand ≠ .L ∨ s.ctx.loads = []) (hA : Allowed s i)
  (hi : exec i s = run (do enter i; tilesDone; m) s)
include hl hA hi

/-- A fence whose checks pass and whose tile loads are done does what is left of it. -/
theorem fence_next (h : m s = .ok () t) : exec i s = .next t :=
  hi.trans (run_ok ((bind_ok (enter_ok hA.1 hA.2)).trans ((bind_ok (tilesDone_ok hl)).trans h)))

theorem fence_blocks (h : m s = .error (.block b) t) : Blocks i s b :=
  blocks_of_error hi ((bind_ok (enter_ok hA.1 hA.2)).trans ((bind_ok (tilesDone_ok hl)).trans h))

/-- FENCE, and BFENCE on a part without near-bank units. -/
theorem plainFence (hs : s.issue.snap = none) (hm : m = fenceM sc none id) :
    (s.ctx.eng.StrandDone s.strand s.ctx.id.die sc → exec i s = .next s) ∧
    (¬s.ctx.eng.StrandDone s.strand s.ctx.id.die sc → ∃ b, Blocks i s b) := by
  subst hm
  refine ⟨fun h => fence_next hl hA hi (fenceM_ok hs (fenceWaits_none.mpr h)), fun h => ?_⟩
  obtain ⟨b, hb⟩ := fenceM_blocks hs (mt fenceWaits_none.mp h)
  exact ⟨b, fence_blocks hl hA hi hb⟩

end

end Sys2Proof.Machine

open Sys2Proof.Machine

/-- Settles O21: what a fence waits for is `fenceWaits_none` and `fenceWaits_some`; a flush writes back the sectors of `mem_bankDirty`,
each of which then stands as `foldl_writtenBack` says. -/
theorem fencesWaitAndComplete : Obligations.FencesWaitAndComplete := by
  refine ⟨?fences, ?flush⟩
  case fences =>
    intro s sc e early near point hs hl
    have hfence (hA : Allowed s (.fence sc)) := plainFence hl hA rfl hs rfl
    refine ⟨fun hA => (hfence hA).1, fun hA => (hfence hA).2, fun hA hp => ?far, fun hA hp =>
      ⟨fun hearly hnear => ?near, fun hleft => ?left⟩⟩
    case far => exact plainFence hl hA (exec_bfence_far (by rw [hp]; rfl)) hs rfl
    case near =>
      have hnone := fenceM_ok (f := fun _ => .fence point) hs (fenceWaits_some.mpr ⟨hearly, hnear⟩)
      have hrun := exec_bfence_near (sc := sc) hs (by simpa [Part.hasNear] using hp)
      exact ⟨s.flushed sc, fence_next hl hA hrun ((bind_ok hnone).trans rfl), rfl, flushed_eq s sc⟩
    case left =>
      obtain ⟨b, hb⟩ := fenceM_blocks (f := fun _ => .fence point) hs (mt fenceWaits_some.mp (not_and_or.mpr hleft))
      exact fence_blocks hl hA (exec_bfence_near hs (by simpa [Part.hasNear] using hp)) (bind_error hb)
  case flush =>
    intro m die sc n hm m' leaves
    have hleaves : n ∈ bankDirty m die sc ↔ leaves := mem_bankDirty hm
    refine ⟨fun hl x hx => ?_, fun hl => ?_⟩
    · have hin : n ∈ bankDirty m die sc := hleaves.mpr hl
      obtain ⟨y, hy, -, hdirty, -⟩ := hl
      obtain rfl := Option.some.inj (hx.symm.trans hy)
      have hback := Mem.foldl_writtenBack hx hdirty hin
      exact ⟨hback.held, hback.dram x.bank⟩
    · obtain ⟨hheld, hdram⟩ := Mem.foldl_writeBack_notMem (mt hleaves.mp hl)
      exact ⟨hheld, congrArg (·.data) (hdram false), congrArg (·.poison) (hdram false)⟩

end

section
/-! PROOF. O24: posted writes are performed in order, and their errors are raised deferred (05 R130; 09 R213, R232, R235, R433; 10 R242,
R244; 19 R386). -/

namespace Sys2Proof.Machine

variable {s : State} {p : Posted} {ws : List Posted} {n : Nat}

/-- The machine once a posted write has left the posted writes. -/
def State.withPosted (s : State) (ws : List Posted) : State := s.modCtx (fun c => { c with eng := { c.eng with posted := ws } })

/-- The machine once a posted write has raised an error, which is taken later (09 R433). -/
def State.lateError (s : State) (p : Posted) (cause : BitVec 8) : State :=
  s.raiseDeferred { strand := p.strand, cause, pc := p.pc, addr := p.va }

/-- A notify that finds no latch stays where it is (09 R213). -/
theorem postedWritePerform_held (hp : s.ctx.eng.posted[n]? = some p) (h : s.notifyHeld p.target = true) :
    exec (.postedWritePerform n) s = .next s := by
  show execPostedWritePerform n s = _
  simp only [execPostedWritePerform, hp, h, or_true, if_true]

/-- A posted write behind another of its strand to its target's group stays where it is (05 R130). -/
theorem postedWritePerform_behind {q : Posted} (hp : s.ctx.eng.posted[n]? = some p) (hq : q ∈ s.ctx.eng.posted.take n)
    (hstrand : q.strand = p.strand) (hgroup : q.target.group = p.target.group) :
    exec (.postedWritePerform n) s = .next s := by
  have hbehind : (s.ctx.eng.posted.take n).any (fun q => q.strand == p.strand && q.target.group == p.target.group) = true :=
    List.any_eq_true.mpr ⟨q, hq, by simp [hstrand, hgroup]⟩
  show execPostedWritePerform n s = _
  simp only [execPostedWritePerform, hp, hbehind, true_or, if_true]

/-- The first posted write leaves the posted writes and is performed. -/
theorem postedWritePerform_first {t : State} (hp : s.ctx.eng.posted = p :: ws) (h : s.notifyHeld p.target = false)
    (ht : (s.withPosted ws).performPosted p = t) : exec (.postedWritePerform 0) s = .next t := by
  subst ht
  show execPostedWritePerform 0 s = _
  simp only [execPostedWritePerform, hp, h, List.getElem?_cons_zero, List.take_zero, List.any_nil, Bool.false_eq_true, or_self,
    if_false]
  simp only [State.withPosted, State.modCtx, hp, List.eraseIdx_cons_zero]

namespace State

theorem performPosted_linkDown (h : s.linkError p.target = some (.linkDown, n)) : s.performPosted p = s.lateError p 0x0D := by
  simp only [performPosted, h]; rfl

theorem performPosted_violation (h : s.linkError p.target = some (.accessViolation, n)) : s.performPosted p =
    (s.logViolation s.ctx.id.die n p.va (s.reqOf p.strand 0).pasid (s.partyOf p.strand)).lateError p 0x06 := by
  simp only [performPosted, h]; rfl

theorem performPosted_poisoned (hl : s.linkError p.target = none) (h : s.poisonedT p.target = true) (hn : p.data.length ≠ 32) :
    s.performPosted p = (s.noteEcc 2 (s.lostT p.target) p.va).lateError p 0x0C := by
  have hpart : (s.poisonedT p.target && p.data.length != 32) = true := by simp [h, hn]
  simp only [performPosted, hl, hpart, if_true]; rfl

theorem performPosted_reg {d o : Nat} (hl : s.linkError p.target = none) (ht : p.target = .regs d o)
    (h : s.dieWord d (o / 8 * 8) ≠ none) : s.performPosted p = s.regStore d o p.data := by
  have hsound : (s.poisonedT (.regs d o) && p.data.length != 32) = false := rfl
  rw [ht] at hl
  simp only [performPosted, hl, hsound, Bool.false_eq_true, if_false, ht, Option.isSome_iff_ne_none.mpr h, if_true]

theorem performPosted_noReg {d o : Nat} (hl : s.linkError p.target = none) (ht : p.target = .regs d o)
    (h : s.dieWord d (o / 8 * 8) = none) : s.performPosted p =
      (s.logViolation s.ctx.id.die 4 p.va (s.reqOf p.strand 0).pasid (s.partyOf p.strand)).lateError p 0x06 := by
  have hsound : (s.poisonedT (.regs d o) && p.data.length != 32) = false := rfl
  rw [ht] at hl
  simp only [performPosted, hl, hsound, Bool.false_eq_true, if_false, ht, h, Option.isSome_none]
  rfl

theorem performPosted_memory {t : Target} (hl : s.linkError p.target = none)
    (hs : s.poisonedT p.target = false ∨ p.data.length = 32) (ht : p.target = t) (hreg : ∀ d o, t ≠ .regs d o) :
    s.performPosted p = s.writeT t p.data p.poison := by
  subst ht
  have hsound : (s.poisonedT p.target && p.data.length != 32) = false := by rcases hs with h | h <;> simp [h]
  simp only [performPosted, hl, hsound, Bool.false_eq_true, if_false]

end State
end Sys2Proof.Machine

open Sys2Proof.Machine State

/-- Settles O24: the first posted write goes out (`postedWritePerform_first`), and what its performance does is one `performPosted_`
lemma for each way it can end; the others stay where they are. -/
theorem postedWritesPerform : Obligations.PostedWritesPerform := by
  intro s p ws hp s1 late sound
  refine ⟨postedWritePerform_held (by rw [hp]; rfl), fun hfree hopen => ⟨fun hsound hreg => ?performed, fun hpart => ?poisoned,
    fun d o ht hnone => postedWritePerform_first hp hfree (performPosted_noReg hopen ht hnone)⟩, fun hfree =>
    ⟨fun hdown => postedWritePerform_first hp hfree (performPosted_linkDown hdown),
      fun k hviol => postedWritePerform_first hp hfree (performPosted_violation hviol)⟩, ?behind⟩
  case performed =>
    refine postedWritePerform_first hp hfree ?_
    cases ht : p.target with
    | regs d o => exact performPosted_reg hopen ht (hreg d o ht)
    | _ => exact performPosted_memory hopen hsound ht nofun
  case poisoned =>
    obtain ⟨hpoisoned, hlength⟩ := not_or.mp hpart
    exact postedWritePerform_first hp hfree (performPosted_poisoned hopen (eq_true_of_ne_false hpoisoned) hlength)
  case behind =>
    intro q rest hws hstrand hgroup
    have hq : s.ctx.eng.posted[1]? = some q := by rw [hp, hws]; rfl
    have hfirst : p ∈ s.ctx.eng.posted.take 1 := by rw [hp]; exact List.mem_cons_self
    exact postedWritePerform_behind hq hfirst hstrand.symm hgroup.symm

end

section
/-! PROOF. O41 and O42, shared part: how an engine command is issued (05 R136, R142), the lease of the matrix array and what counts under
it (06 R151 to R153). -/

namespace Sys2Proof.Machine

variable {s : State} {cls : EngClass} {d1 d2 : BitVec 6} {foot : Foot} {body : CmdBody}

/-! Issuing a command -/

/-- Without commands in flight no footprint can conflict. -/
theorem checkFoot_ok (h : s.ctx.eng.cmds = []) : checkFoot cls d1 d2 foot s = .ok () s := by
  unfold checkFoot
  rw [bind_get]
  split
  · simp only [h, List.filter_nil, List.any_nil, Bool.not_false, bind_check_true, require_true]
  · rfl

theorem slotForCmd_ok (h : s.ctx.eng.cmds = []) : slotForCmd s = .ok () s := by
  simp only [slotForCmd, bind_get, h, List.length_nil, Nat.zero_lt_succ, decide_true, check_true]

/-- A command is put in flight under the number kept for it, or the next one. -/
theorem pushCmd_ok : pushCmd cls d1 d2 foot body s = .ok s.commandNumber (s.withCommand cls d1 d2 foot body) := by
  simp only [pushCmd, bind_get, bind_modify, pure_run, State.commandNumber, State.withCommand, State.keptNumber]
  cases s.ctx.eng.cmds.find? (fun m => m.unread && m.strand == s.strand && m.pc == s.issue.pc) <;> rfl

namespace State

/-! The lease -/

theorem holdsLease_iff : s.holdsLease = true ↔ (s.cluster s.hereCluster).holder = some s.leaseName := beq_iff_eq

theorem holdsLease_false (h : (s.cluster s.hereCluster).holder ≠ some s.leaseName) : s.holdsLease = false := beq_false_of_ne h

/-- A bundle may use the lease where its context holds it or held it as the bundle began to issue. -/
theorem bundleLease_iff : s.bundleLease = true ↔
    s.rdCluster.holder = some s.leaseName ∨ (s.cluster s.hereCluster).holder = some s.leaseName := by
  rw [bundleLease, Bool.or_eq_true, beq_iff_eq, holdsLease_iff]

theorem rdCluster_eq (h : s.issue.snap = none) : s.rdCluster = s.cluster s.hereCluster := by
  rw [rdCluster, h]
  rfl

/-- The acting context's lease given up. -/
def leaseLapsed (s : State) : State :=
  s.setCluster s.hereCluster { s.cluster s.hereCluster with holder := none, lastHolder := s.here % 4, issued := 0 }

theorem lapseLease_here_held (h : (s.cluster s.hereCluster).holder = some s.leaseName) :
    s.lapseLease s.here s.ctx.id.kind = s.leaseLapsed := if_pos h

theorem lapseLease_here_other (h : (s.cluster s.hereCluster).holder ≠ some s.leaseName) :
    s.lapseLease s.here s.ctx.id.kind = s := if_neg h

/-- A command under the lease counts; the one that uses up the limit gives the lease to a request that waits, or starts the count again. -/
theorem countLease_held (h : (s.cluster s.hereCluster).holder = some s.leaseName) : s.countLease =
    if (s.cluster s.hereCluster).issued + 1 < leaseLimit s.hereCore then
      s.setCluster s.hereCluster { s.cluster s.hereCluster with issued := (s.cluster s.hereCluster).issued + 1 }
    else if s.others.any (s.wantsLease s.hereCluster) then s.leaseLapsed
    else s.setCluster s.hereCluster { s.cluster s.hereCluster with issued := 0 } := by
  simp only [countLease, holdsLease_iff.mpr h, Bool.true_eq_false, if_false, lapseLease_here_held h]

theorem countLease_gone (h : (s.cluster s.hereCluster).holder ≠ some s.leaseName) : s.countLease = s := if_pos (holdsLease_false h)

/-- A command in flight leaves the lease as it is until it is counted. -/
theorem countLease_withCommand_held (h : (s.cluster s.hereCluster).holder = some s.leaseName) :
    let r := s.withCommand cls d1 d2 foot body
    r.countLease = if (s.cluster s.hereCluster).issued + 1 < leaseLimit s.hereCore then
      r.setCluster s.hereCluster { s.cluster s.hereCluster with issued := (s.cluster s.hereCluster).issued + 1 }
    else if s.others.any (s.wantsLease s.hereCluster) then r.leaseLapsed
    else r.setCluster s.hereCluster { s.cluster s.hereCluster with issued := 0 } :=
  countLease_held (s := s.withCommand cls d1 d2 foot body) h

theorem countLease_withCommand_gone (h : (s.cluster s.hereCluster).holder ≠ some s.leaseName) :
    (s.withCommand cls d1 d2 foot body).countLease = s.withCommand cls d1 d2 foot body :=
  countLease_gone (s := s.withCommand cls d1 d2 foot body) h

end State

theorem needLease_ok (h : s.bundleLease = true) : needLease s = .ok () s := by
  simp only [needLease, bind_get, h, check_true]

theorem needLease_blocked (h : s.bundleLease = false) : needLease s = .error (.block .lease) s := by
  simp only [needLease, bind_get, h, check_false]

theorem pushMx_ok (hlease : s.bundleLease = true) (hidle : s.ctx.eng.cmds = []) :
    pushMx d1 d2 foot body s = .ok s.commandNumber (s.withCommand .mxa d1 d2 foot body).countLease := by
  simp only [pushMx, bind_ok (needLease_ok hlease), bind_ok (slotForCmd_ok hidle), bind_ok pushCmd_ok, bind_modify, pure_run]

theorem pushMx_blocked (hlease : s.bundleLease = false) : pushMx d1 d2 foot body s = .error (.block .lease) s :=
  bind_error (needLease_blocked hlease)

theorem commandNumber_idle (h : s.ctx.eng.cmds = []) : s.commandNumber = s.ctx.eng.seqno := by
  simp only [State.commandNumber, State.keptNumber, h, List.find?_nil, Option.map_none, Option.getD_none]

end Sys2Proof.Machine
end

section
/-! PROOF. O41: the lease of the matrix array, the format table, the scale cache and MX.ACT (06 R151 to R154, R158, R159, R162; 18 R361,
R364 to R366). A free lease goes to the request of the least key, and the key orders requests by priority and then by turn. -/

namespace Sys2Proof.Machine

open State

variable {s : State} {d a b : Reg} {k : Nat}

/-! Granting a free lease -/

/-- How long a context's core waits for its turn: the core after the last holder's has the first (06 R152). -/
def leaseTurn (s : State) (k : Nat) (z : Ctx) : Nat := (coreNo z.id % 4 + 7 - (s.cluster k).lastHolder) % 4

/-- The key of a request, the least of which is granted. -/
def leaseKey (s : State) (k : Nat) (z : Ctx) : Nat := (255 - s.prioOf z) * 4 + leaseTurn s k z

/-- The contexts that request a cluster's lease. -/
def leaseRequests (s : State) (k : Nat) : List Ctx := (s.ctx :: s.others).filter (s.wantsLease k)

/-- A cluster's lease in the hands of a context. -/
def leaseGranted (s : State) (k : Nat) (z : Ctx) : State :=
  s.setCluster k { s.cluster k with holder := some (coreNo z.id % 4, z.id.kind), lastHolder := coreNo z.id % 4, issued := 0,
                                    grants := (s.cluster k).grants + 1, lease := (s.cluster k).grants + 1 }

theorem grantLease_taken (h : (s.cluster k).holder ≠ none) : s.grantLease k = s := if_pos (Option.isSome_iff_ne_none.mpr h)

/-- The request of the lesser key, the one found so far first. -/
def leasePick (s : State) (k : Nat) (best : Option Ctx) (x : Ctx) : Option Ctx :=
  match best with
  | none => some x
  | some b => if leaseKey s k x < leaseKey s k b then some x else some b

theorem foldl_leasePick (l : List Ctx) : l.foldl (leasePick s k) none = l.argmin (leaseKey s k) := by
  unfold List.argmin
  congr 1
  funext best x
  cases best <;> rfl

/-- The request granted is the first of the least key. -/
theorem grantLease_free (h : (s.cluster k).holder = none) :
    s.grantLease k = ((leaseRequests s k).argmin (leaseKey s k)).elim s (leaseGranted s k) := by
  have hfree : ¬(s.cluster k).holder.isSome = true := by simp [h]
  rw [← foldl_leasePick]
  unfold grantLease
  rw [if_neg hfree]
  dsimp only
  split
  · next hnone => rw [show (leaseRequests s k).foldl (leasePick s k) none = none from hnone]; rfl
  · next z hsome => rw [show (leaseRequests s k).foldl (leasePick s k) none = some z from hsome]; rfl

theorem prioOf_le (z : Ctx) : s.prioOf z ≤ 255 := by
  unfold prioOf
  cases s.tasks.find? (fun t => t.id == z.id.task) with
  | none => exact Nat.zero_le _
  | some t => exact Nat.le_of_lt_succ (Nat.mod_lt _ (by decide))

/-- The least key is that of the highest priority, among equals that of the first turn. -/
theorem leaseKey_le_iff {z v : Ctx} : leaseKey s k z ≤ leaseKey s k v ↔
    s.prioOf v < s.prioOf z ∨ (s.prioOf v = s.prioOf z ∧ leaseTurn s k z ≤ leaseTurn s k v) := by
  have hz : s.prioOf z ≤ 255 := prioOf_le z
  have hv : s.prioOf v ≤ 255 := prioOf_le v
  have htz : leaseTurn s k z < 4 := Nat.mod_lt _ (by decide)
  have htv : leaseTurn s k v < 4 := Nat.mod_lt _ (by decide)
  unfold leaseKey
  omega

theorem leaseGrant_taken (h : (s.cluster k).holder ≠ none) : exec (.leaseGrant k) s = .next s :=
  congrArg Host.Outcome.next (grantLease_taken h)

theorem leaseGrant_unasked (h : (s.cluster k).holder = none) (hnone : ∀ z ∈ s.ctx :: s.others, s.wantsLease k z = false) :
    exec (.leaseGrant k) s = .next s := by
  have hreq : leaseRequests s k = [] := List.filter_eq_nil_iff.mpr fun z hz => by simp [hnone z hz]
  refine congrArg Host.Outcome.next ((grantLease_free h).trans ?_)
  rw [hreq]
  rfl

theorem leaseGrant_next (h : (s.cluster k).holder = none) (hasked : ∃ z ∈ s.ctx :: s.others, s.wantsLease k z = true) :
    ∃ z ∈ s.ctx :: s.others, s.wantsLease k z = true ∧
      (∀ v ∈ s.ctx :: s.others, s.wantsLease k v = true → leaseKey s k z ≤ leaseKey s k v) ∧
      exec (.leaseGrant k) s = .next (leaseGranted s k z) := by
  cases hmin : (leaseRequests s k).argmin (leaseKey s k) with
  | none =>
    obtain ⟨z, hz, hwants⟩ := hasked
    have hmem : z ∈ leaseRequests s k := List.mem_filter.mpr ⟨hz, hwants⟩
    exact absurd (List.argmin_eq_none.mp hmin) (List.ne_nil_of_mem hmem)
  | some z =>
    obtain ⟨hz, hwants⟩ := List.mem_filter.mp (List.argmin_mem hmin)
    refine ⟨z, hz, hwants, fun v hv hvw => List.le_of_mem_argmin (List.mem_filter.mpr ⟨hv, hvw⟩) hmin, ?_⟩
    refine congrArg Host.Outcome.next ((grantLease_free h).trans ?_)
    rw [hmin]
    rfl

/-! The instructions -/

theorem mxLease_holds (hA : Allowed s (.mxLease d)) (h : (s.cluster s.hereCluster).holder = some s.leaseName) :
    exec (.mxLease d) s = .next (s.setX d (BitVec.ofNat 64 (leaseLimit s.hereCore - (s.cluster s.hereCluster).issued))) := by
  refine run_ok (u := ()) ((bind_ok (enter_ok hA.1 hA.2)).trans ((bind_ok (needLease_ok (bundleLease_iff.mpr (.inr h)))).trans ?_))
  simp only [wx_run, holdsLease_iff.mpr h, if_true]

theorem mxLease_gone (hA : Allowed s (.mxLease d)) (h : (s.cluster s.hereCluster).holder ≠ some s.leaseName)
    (hhad : s.rdCluster.holder = some s.leaseName) : exec (.mxLease d) s = .next (s.setX d 0) := by
  refine run_ok (u := ()) ((bind_ok (enter_ok hA.1 hA.2)).trans ((bind_ok (needLease_ok (bundleLease_iff.mpr (.inl hhad)))).trans ?_))
  simp only [wx_run, holdsLease_false h, Bool.false_eq_true, if_false]

theorem bundleLease_false (h : (s.cluster s.hereCluster).holder ≠ some s.leaseName) (hhad : s.rdCluster.holder ≠ some s.leaseName) :
    s.bundleLease = false := Bool.eq_false_iff.mpr fun hb => (bundleLease_iff.mp hb).elim hhad h

theorem mxLease_blocks (hA : Allowed s (.mxLease d)) (h : s.bundleLease = false) : Blocks (.mxLease d) s .lease :=
  blocks_of_error rfl ((bind_ok (enter_ok hA.1 hA.2)).trans (bind_error (needLease_blocked h)))

theorem mxFree_next (hA : Allowed s .mxFree) : exec .mxFree s = .next (s.lapseLease s.here s.ctx.id.kind) :=
  run_ok (u := ()) (bind_ok (enter_ok hA.1 hA.2))

/-- The entry's operand is no knob's value, or the context is not deterministic (08 R206). -/
theorem formatOperand_clean (h : s.ctx.isDet = false ∨ s.tainted b = false) : (!(s.ctx.isDet && s.tainted b)) = true := by
  rcases h with h | h
  · rw [h, Bool.false_and, Bool.not_false]
  · rw [h, Bool.and_false, Bool.not_false]

theorem mxFmt_accepted (hA : Allowed s (.mxFmt d a b)) (ht : s.ctx.isDet = false ∨ s.tainted b = false)
    (hi : (s.getX a).toNat < 16) (hok : fmtEntryOk (s.getX b) = true) : exec (.mxFmt d a b) s = .next ((s.modCtx (fun c =>
      { c with comp := { c.comp with fmt := c.comp.fmt.setIfInBounds (s.getX a).toNat (s.getX b) } })).setX d 0) := by
  refine run_ok (u := ()) ((bind_ok (enter_ok hA.1 hA.2)).trans ?_)
  simp only [formatOperand_clean ht, bind_require_true, hi, hok, and_self, if_true, bind_modify, wx_run]

theorem mxFmt_refused (hA : Allowed s (.mxFmt d a b)) (ht : s.ctx.isDet = false ∨ s.tainted b = false)
    (hbad : 16 ≤ (s.getX a).toNat ∨ fmtEntryOk (s.getX b) = false) : exec (.mxFmt d a b) s = .next (s.setX d 1) := by
  have hno : ¬((s.getX a).toNat < 16 ∧ fmtEntryOk (s.getX b) = true) := fun ⟨hi, hok⟩ =>
    hbad.elim (Nat.not_le.mpr hi) (by simp [hok])
  refine run_ok (u := ()) ((bind_ok (enter_ok hA.1 hA.2)).trans ?_)
  simp only [formatOperand_clean ht, bind_require_true, hno, if_false, wx_run]

/-- What MX.SCL names: one tensor, or all. -/
def sclTensor (s : State) (a : Reg) (all : Bool) : Option W32 := if all then none else some ((s.getX a).setWidth 32)

theorem mxScl_idle {all : Bool} (hA : Allowed s (.mxScl a all)) (h : ∀ m ∈ s.ctx.eng.cmds, m.cls ≠ .mxa) :
    exec (.mxScl a all) s = .next (s.dropScales s.hereCluster (s.reqOf .C 10).pasid (sclTensor s a all)) := by
  have hnone : s.ctx.eng.cmds.any (fun c => c.cls == .mxa) = false := List.any_eq_false.mpr fun m hm => by simp [h m hm]
  refine run_ok (u := ()) ((bind_ok (enter_ok hA.1 hA.2)).trans ?_)
  simp only [bind_get, bind_modify, dropScales, setCluster_ctx, hnone, Bool.false_eq_true, if_false, pure_run]
  rfl

theorem mxScl_noted {all : Bool} (hA : Allowed s (.mxScl a all)) (h : ∃ m ∈ s.ctx.eng.cmds, m.cls = .mxa) :
    exec (.mxScl a all) s = .next ((s.dropScales s.hereCluster (s.reqOf .C 10).pasid (sclTensor s a all)).modCtx
      (fun c => { c with eng := { c.eng with scls := c.eng.scls ++ [(c.eng.seqno, sclTensor s a all)] } })) := by
  have hsome : s.ctx.eng.cmds.any (fun c => c.cls == .mxa) = true := by simpa using h
  refine run_ok (u := ()) ((bind_ok (enter_ok hA.1 hA.2)).trans ?_)
  simp only [bind_get, bind_modify, dropScales, setCluster_ctx, hsome, if_true, modify_run]
  rfl

/-- A tensor that MX.SCL does not name. -/
theorem sclTensor_other {all : Bool} (e : ScaleEntry) :
    (sclTensor s a all).any (· != e.tid) = (!all && e.tid != (s.getX a).setWidth 32) := by
  cases all with
  | true => rfl
  | false => exact bne_comm

theorem dropScales_sclTensor {all : Bool} : s.dropScales k (s.reqOf .C 10).pasid (sclTensor s a all) =
    s.setCluster k { s.cluster k with scales := (s.cluster k).scales.filter (fun e =>
      e.pasid != (s.reqOf .C 10).pasid || (!all && e.tid != (s.getX a).setWidth 32)) } := by
  simp only [dropScales, sclTensor_other]

/-- The footprint of MX.ACT: the table's image (06 R162). -/
def actFoot (va : W64) : Foot := { reads := [rangeAt va 2064], writes := [] }

theorem mxAct_next (hA : Allowed s (.mxAct d a)) (hva : (s.getX a).toNat % 16 = 0) (hidle : s.ctx.eng.cmds = [])
    (hlease : s.bundleLease = true) : exec (.mxAct d a) s = .next
      ((s.withCommand .mxa 0 0 (actFoot (s.getX a)) (.act (s.getX a))).countLease.setX d (s.ctx.eng.seqno.setWidth 64)) := by
  have haligned : ((s.getX a).toNat % 16 == 0) = true := beq_iff_eq.mpr hva
  refine run_ok (u := ()) ((bind_ok (enter_ok hA.1 hA.2)).trans ?_)
  simp only [haligned, bind_check_true, bind_ok (checkFoot_ok hidle), bind_ok (pushMx_ok hlease hidle), wx_run,
    commandNumber_idle hidle]
  rfl

theorem mxAct_blocks (hA : Allowed s (.mxAct d a)) (hva : (s.getX a).toNat % 16 = 0) (hidle : s.ctx.eng.cmds = [])
    (hlease : s.bundleLease = false) : Blocks (.mxAct d a) s .lease := by
  have haligned : ((s.getX a).toNat % 16 == 0) = true := beq_iff_eq.mpr hva
  refine blocks_of_error (t := s) rfl ((bind_ok (enter_ok hA.1 hA.2)).trans ?_)
  simp only [haligned, bind_check_true, bind_ok (checkFoot_ok hidle), bind_error (pushMx_blocked hlease)]

theorem mxAct_misaligned (hA : Allowed s (.mxAct d a)) (hva : (s.getX a).toNat % 16 ≠ 0) :
    Traps (.mxAct d a) s .misaligned (s.getX a) := by
  have haligned : ((s.getX a).toNat % 16 == 0) = false := beq_false_of_ne hva
  refine traps_of_error (t := s) rfl ((bind_ok (enter_ok hA.1 hA.2)).trans ?_)
  simp only [haligned, bind_check_false]

end Sys2Proof.Machine

open Sys2Proof.Machine State

/-- Settles O41: a free lease goes to the least key (`leaseGrant_next`, `leaseKey_le_iff`), a command counts as `countLease_held` says,
and each instruction is run from there. -/
theorem matrixLeases : Obligations.MatrixLeases := by
  intro s d a b all k kc c mine limit had lapsed x y prio turn
  refine ⟨fun hA => ⟨mxLease_holds hA, mxLease_gone hA, fun h hhad => mxLease_blocks hA (bundleLease_false h hhad)⟩,
    fun hsnap => ?snap, fun hA => ⟨fun h => ?freed, fun h => ?kept⟩, leaseGrant_taken, leaseGrant_unasked, fun h hasked => ?granted,
    fun hA ht => ⟨mxFmt_accepted hA ht, mxFmt_refused hA ht⟩, fun hA => ⟨fun h => ?scl, fun h => ?sclNoted⟩,
    fun hA hva hidle => ⟨fun h => ?act, fun h hhad => ?actGone, fun h hhad => mxAct_blocks hA hva hidle (bundleLease_false h hhad)⟩,
    mxAct_misaligned⟩
  case snap => exact iff_of_eq (congrArg (fun z : Cluster => z.holder = some s.leaseName) (rdCluster_eq hsnap))
  case freed => rw [mxFree_next hA, lapseLease_here_held h]; rfl
  case kept => rw [mxFree_next hA, lapseLease_here_other h]
  case granted =>
    obtain ⟨z, hz, hwants, hleast, hnext⟩ := leaseGrant_next h hasked
    exact ⟨z, hz, hwants, fun v hv hvw => leaseKey_le_iff.mp (hleast v hv hvw), hnext⟩
  case scl => rw [mxScl_idle hA h, dropScales_sclTensor]
  case sclNoted => rw [mxScl_noted hA h, dropScales_sclTensor]; rfl
  case act =>
    rw [mxAct_next hA hva hidle (bundleLease_iff.mpr (.inr h)), countLease_withCommand_held h]
    rfl
  case actGone =>
    rw [mxAct_next hA hva hidle (bundleLease_iff.mpr (.inl hhad)), countLease_withCommand_gone h]
    rfl
end

section
/-! PROOF. O42, first part: the issue of MMA, MMA.Z and MX.DRAIN (06 R155 to R163; 18 R358, R362, R363). What an instruction finds in its
slot's grant or in its entry of the format table is a record, under which its checks pass one after another. -/

namespace Sys2Proof.Machine

open State

variable {s : State}

/-- The word of a shape slot as the bundle reads it (06 R149). -/
def slotWord (s : State) (n : Nat) : Nat := (s.rd.comp.slots.getD n emptySlot).toNat

/-- The entry of the format table that LIDX0 chooses (06 R159). -/
def tableWord (s : State) : Nat := (s.rd.comp.fmt.getD (s.rd.c.loop0.idx.toNat % 16) 0).toNat

theorem slotWord_eq (n : Nat) : (s.rd.comp.slots.getD n emptySlot).toNat = slotWord s n := rfl
theorem tableWord_eq : (s.rd.comp.fmt.getD (s.rd.c.loop0.idx.toNat % 16) 0).toNat = tableWord s := rfl

/-- The top bit of a slot's word is clear where it holds a grant (06 R149). -/
theorem slotWord_granted {n : Nat} (h : slotWord s n / 2 ^ 63 = 0) : bitAt (slotWord s n) 63 = false := by rw [bitAt, h]; rfl

theorem slotWord_refused {n : Nat} (h : slotWord s n / 2 ^ 63 = 1) : bitAt (slotWord s n) 63 = true := by rw [bitAt, h]; rfl

/-! MMA and MMA.Z -/

/-- What an MMA finds: its profile and format codes, from its own word and the grant or from the format table, and the grant's extents
(06 R159, R160). -/
structure MmaForm where
  prof : BitVec 8
  ca : BitVec 4
  cb : BitVec 4
  m : Nat
  n : Nat
  k : Nat

def mmaForm (s : State) (slot : BitVec 2) (ft : Bool) (np : BitVec 8) : MmaForm :=
  let w := slotWord s slot.toNat
  let e := tableWord s
  { prof := if ft then BitVec.ofNat 8 (e / 256) else np
    ca := BitVec.ofNat 4 (if ft then e else w / 2 ^ 36)
    cb := BitVec.ofNat 4 (if ft then e / 16 else w / 2 ^ 40)
    m := w % 128 + 1
    n := w / 128 % 512 + 1
    k := w / 65536 % 65536 + 1 }

section
variable {slot : BitVec 2} {ft : Bool} {np : BitVec 8}

theorem mmaForm_prof : (if ft then bvAt 8 (tableWord s) 8 else np) = (mmaForm s slot ft np).prof := rfl

theorem mmaForm_ca : (if ft then bvAt 4 (tableWord s) 0 else bvAt 4 (slotWord s slot.toNat) 36) = (mmaForm s slot ft np).ca := by
  cases ft
  · rfl
  · simp only [if_true, bvAt, Nat.pow_zero, Nat.div_one, mmaForm]

theorem mmaForm_cb : (if ft then bvAt 4 (tableWord s) 4 else bvAt 4 (slotWord s slot.toNat) 40) = (mmaForm s slot ft np).cb := by
  cases ft <;> rfl

theorem mmaForm_m : fld (slotWord s slot.toNat) 0 7 + 1 = (mmaForm s slot ft np).m := by
  simp only [fld, Nat.pow_zero, Nat.div_one, mmaForm, Nat.reducePow]

theorem mmaForm_n : fld (slotWord s slot.toNat) 7 9 + 1 = (mmaForm s slot ft np).n := rfl

theorem mmaForm_k : fld (slotWord s slot.toNat) 16 16 + 1 = (mmaForm s slot ft np).k := rfl

end

section
variable {i : Instr} {zero : Bool} {qp : BitVec 4} {acc : BitVec 5} {a b : Reg} {slot : BitVec 2} {ft : Bool} {d1 d2 : BitVec 6}
  {np : BitVec 8} {af bf : EType} {F : MmaForm}

/-- Every check of an MMA passes, and its command is put in flight and counted. -/
theorem mmaM_ok (hF : mmaForm s slot ft np = F) (hA : Allowed s i) (hprof : profileLegal F.prof s.ctx.isDet = true)
    (hgrant : slotWord s slot.toNat / 2 ^ 63 = 0) (hca : EType.ofCode F.ca = some af) (hcb : EType.ofCode F.cb = some bf)
    (haccepts : profileAccepts F.prof s.ctx.isDet af bf = true) (hrows : 16 * (acc.toNat / 4) + F.m ≤ 128)
    (hcols : 64 * (acc.toNat % 4) + F.n ≤ 256) (hscaled : ft = false ∨ (af ≠ .b4 ∧ bf ≠ .b4) ∨ F.k % 32 = 0)
    (htypes : zero = true ∨ ∀ j ∈ mmaBlocks acc.toNat F.m F.n (s.rd.comp.pred qp), s.ctx.blockInt j = profileInt F.prof af)
    (hva : (s.getX a).toNat % 8 = 0) (hvb : (s.getX b).toNat % 8 = 0) (hlease : s.bundleLease = true) (hidle : s.ctx.eng.cmds = []) :
    mmaM i zero qp acc a b slot ft d1 d2 np s = .ok () (s.withCommand .mxa d1 d2 (mmaFoot s (s.getX a) (s.getX b) af bf F.m F.n F.k)
      (.mma zero F.prof F.ca F.cb F.m F.n F.k acc.toNat (s.rd.comp.pred qp) (s.getX a) (s.getX b))).countLease := by
  have hblocks : (!(ft && (af == .b4 || bf == .b4) && F.k % 32 != 0)) = true := by
    rcases hscaled with h | ⟨ha, hb⟩ | h
    · simp [h]
    · simp [ha, hb]
    · simp [h]
  have hbits : (zero || (mmaBlocks acc.toNat F.m F.n (s.rd.comp.pred qp)).all
      (fun x => s.ctx.blockInt x == profileInt F.prof af)) = true := by
    simpa using htypes
  have haligned : ((s.getX a).toNat % 8 == 0) = true := beq_iff_eq.mpr hva
  have hbligned : ((s.getX b).toNat % 8 == 0) = true := beq_iff_eq.mpr hvb
  unfold mmaM
  simp only [bind_ok (enter_ok hA.1 hA.2), bind_get, slotWord_eq, tableWord_eq, mmaForm_prof (slot := slot), mmaForm_ca (np := np),
    mmaForm_cb (np := np), mmaForm_m (ft := ft) (np := np), mmaForm_n (ft := ft) (np := np), mmaForm_k (ft := ft) (np := np), hF]
  simp only [hprof, slotWord_granted hgrant, hca, hcb, Option.getD_some, Option.isSome_some, haccepts, Bool.and_true, Bool.or_true,
    Bool.not_false, hrows, hcols, decide_true, hblocks, hbits, bind_require_true, bind_ok (checkFoot_ok hidle), haligned,
    hbligned, bind_check_true, bind_ok (pushMx_ok hlease hidle), pure_run]

/-- A slot without a grant raises Shape-Invalid, its own formats not being looked at. -/
theorem mmaM_refused (hA : Allowed s i) (hprof : profileLegal np s.ctx.isDet = true) (hgrant : slotWord s slot.toNat / 2 ^ 63 = 1) :
    mmaM i zero qp acc a b slot false d1 d2 np s = .error (.trap .shapeInvalid (s.issue.word.setWidth 64)) s := by
  unfold mmaM
  simp only [bind_ok (enter_ok hA.1 hA.2), bind_get, slotWord_eq, Bool.false_eq_true, if_false, hprof,
    slotWord_refused hgrant, Bool.not_false, Bool.true_and, Bool.true_or, Bool.not_true, Bool.false_and, bind_require_true,
    bind_require_false]

end

/-- MMA or MMA.Z. -/
def mmaInstr (zero : Bool) (qp : BitVec 4) (acc : BitVec 5) (a b : Reg) (slot : BitVec 2) (ft : Bool) (d1 d2 : BitVec 6)
    (np : BitVec 8) : Instr :=
  if zero then .mmaZ qp acc a b slot ft d1 d2 np else .mma qp acc a b slot ft d1 d2 np

theorem exec_mmaInstr (zero : Bool) (qp : BitVec 4) (acc : BitVec 5) (a b : Reg) (slot : BitVec 2) (ft : Bool) (d1 d2 : BitVec 6)
    (np : BitVec 8) : exec (mmaInstr zero qp acc a b slot ft d1 d2 np) s =
      run (mmaM (mmaInstr zero qp acc a b slot ft d1 d2 np) zero qp acc a b slot ft d1 d2 np) s := by
  cases zero <;> rfl

/-! MX.DRAIN -/

/-- The format code of a drain's output: the grant's of slot 0, or the format table's (06 R159, R163). -/
def drainFormat (s : State) (ft : Bool) : BitVec 4 := BitVec.ofNat 4 (if ft then tableWord s / 65536 else slotWord s 0 / 2 ^ 44)

theorem drainFormat_eq {ft : Bool} : (if ft then bvAt 4 (tableWord s) 16 else bvAt 4 (slotWord s 0) 44) = drainFormat s ft := by
  cases ft <;> rfl

/-- The parameter block that a drain reads (18 R362). -/
def drainFoot (va : W64) (bias rq : Bool) : Foot :=
  { reads := (if bias then [rangeAt va 1024] else []) ++ (if rq then [rangeAt (va + 1024) 8] else []), writes := [] }

section
variable {qp : BitVec 4} {td : TDst} {blk : BitVec 5} {cnt : BitVec 6} {a : Reg} {bias act rq ft : Bool}

/-- Every check of a drain passes, and its command is put in flight and counted. -/
theorem mxDrain_next (hA : Allowed s (.mxDrain qp td blk cnt a bias act rq ft 0)) (hfit : blk.toNat + (cnt.toNat + 1) ≤ 32)
    (hdst : drainDst td (cnt.toNat + 1) = true)
    (htypes : (bias = false ∧ act = false) ∨ ∀ j, j < cnt.toNat + 1 → s.ctx.blockInt (blk.toNat + j) = false)
    (hformat : rq = false ∨ ((ft = true ∨ slotWord s 0 / 2 ^ 63 = 0) ∧
      ∃ ty, EType.ofCode (drainFormat s ft) = some ty ∧ numericType ty = true))
    (hva : (bias = false ∧ rq = false) ∨ (s.getX a).toNat % 16 = 0) (hlease : s.bundleLease = true) (hidle : s.ctx.eng.cmds = []) :
    exec (.mxDrain qp td blk cnt a bias act rq ft 0) s = .next (s.withCommand .mxa 0 0 (drainFoot (s.getX a) bias rq)
      (.drain td s.rd.comp.trb (s.rd.comp.pred qp) blk.toNat (cnt.toNat + 1) (s.getX a) bias act rq (drainFormat s ft) none)).countLease := by
  have hplain : (!(bias || act) || (List.range (cnt.toNat + 1)).all (fun j => !s.ctx.blockInt (blk.toNat + j))) = true := by
    rcases htypes with ⟨hb, ha⟩ | h
    · simp [hb, ha]
    · have hall : (List.range (cnt.toNat + 1)).all (fun j => !s.ctx.blockInt (blk.toNat + j)) = true :=
        List.all_eq_true.mpr fun j hj => by simp [h j (List.mem_range.mp hj)]
      rw [hall, Bool.or_true]
  have hopen : (!rq || ((ft || !bitAt (slotWord s 0) 63) && (EType.ofCode (drainFormat s ft)).any numericType)) = true := by
    rcases hformat with h | ⟨hgrant, ty, hty, hnum⟩
    · simp [h]
    · have hfree : (ft || !bitAt (slotWord s 0) 63) = true := by
        rcases hgrant with h | h
        · rw [h, Bool.true_or]
        · rw [slotWord_granted h, Bool.not_false, Bool.or_true]
      rw [hfree, hty, Option.any_some, hnum, Bool.and_true, Bool.or_true]
  have haligned : (!(bias || rq) || (s.getX a).toNat % 16 == 0) = true := by
    rcases hva with ⟨hb, hr⟩ | h
    · simp [hb, hr]
    · simp [h]
  refine run_ok (u := ()) ((bind_ok (enter_ok hA.1 hA.2)).trans ?_)
  simp only [slotWord_eq, tableWord_eq, drainFormat_eq, decide_true, bind_require_true, hfit, hdst, Bool.and_true, hplain, hopen,
    haligned, bind_check_true, bind_ok (checkFoot_ok hidle), bind_ok (pushMx_ok hlease hidle), pure_run]
  rfl

theorem mxDrain_outside (hA : Allowed s (.mxDrain qp td blk cnt a bias act rq ft 0)) (hfit : 32 < blk.toNat + (cnt.toNat + 1)) :
    Traps (.mxDrain qp td blk cnt a bias act rq ft 0) s .shapeInvalid (s.issue.word.setWidth 64) := by
  refine traps_of_error (t := s) rfl ((bind_ok (enter_ok hA.1 hA.2)).trans ?_)
  simp only [decide_true, bind_require_true, Nat.not_le.mpr hfit, decide_false, Bool.false_and, bind_require_false]

end

end Sys2Proof.Machine
end

section
/-! PROOF. O42, second part: the execution of class-1 commands (06 R151, R158, R161 to R165; 18 R363, R366) and the provenance records (10
R249, R250). The MX.SCL noted before a command change the scale cache and their own list alone, so whether the command may start is what
it was before them. -/

namespace Sys2Proof.Machine

namespace State

variable {s : State} {c : Cmd} {e : ScaleEntry} {n : W32 × Option W32}

/-! MX.SCL that stand noted -/

/-- A noted MX.SCL drops what it names from the scale cache. -/
def dropNoted (s : State) (n : W32 × Option W32) : State := s.dropScales s.hereCluster (s.reqOf .C 10).pasid n.2

/-- A noted MX.SCL names a scale of the acting context's address space: one of its tensor, or any. -/
def Names (s : State) (n : W32 × Option W32) (e : ScaleEntry) : Prop :=
  e.pasid = (s.reqOf .C 10).pasid ∧ (n.2 = none ∨ n.2 = some e.tid)

/-- A noted MX.SCL is before a command. -/
def isDue (c : Cmd) (n : W32 × Option W32) : Bool := !seqBelow c.seq n.1

theorem applyScls_eq : s.applyScls c = ((s.ctx.eng.scls.filter (isDue c)).foldl dropNoted s).modCtx
    (fun x => { x with eng := { x.eng with scls := x.eng.scls.filter (fun n => !isDue c n) } }) := rfl

theorem foldl_dropNoted_ctx (l : List (W32 × Option W32)) : (l.foldl dropNoted s).ctx = s.ctx := by
  induction l generalizing s with
  | nil => rfl
  | cons n l ih => exact ih

theorem foldl_dropNoted_others (l : List (W32 × Option W32)) : (l.foldl dropNoted s).others = s.others := by
  induction l generalizing s with
  | nil => rfl
  | cons n l ih => exact ih

theorem mem_scales_dropNoted : e ∈ ((s.dropNoted n).cluster s.hereCluster).scales ↔
    e ∈ (s.cluster s.hereCluster).scales ∧ ¬s.Names n e := by
  obtain ⟨q, tid⟩ := n
  simp only [dropNoted, dropScales, cluster_setCluster, if_true, List.mem_filter, Names]
  refine and_congr_right fun _ => ?_
  cases tid <;> simp [imp_iff_not_or]

theorem mem_scales_foldl_dropNoted (l : List (W32 × Option W32)) :
    e ∈ ((l.foldl dropNoted s).cluster s.hereCluster).scales ↔ e ∈ (s.cluster s.hereCluster).scales ∧ ∀ n ∈ l, ¬s.Names n e := by
  induction l generalizing s with
  | nil => simp
  | cons n l ih =>
    rw [List.foldl_cons, List.forall_mem_cons, ← and_assoc, ← mem_scales_dropNoted]
    exact ih (s := s.dropNoted n)

theorem applyScls_others : (s.applyScls c).others = s.others := foldl_dropNoted_others _

theorem applyScls_ctx : (s.applyScls c).ctx = { s.ctx with eng := { s.ctx.eng with
    scls := s.ctx.eng.scls.filter (fun n => !isDue c n) } } := by
  rw [applyScls_eq, modCtx_ctx, foldl_dropNoted_ctx]

theorem mem_scales_applyScls : e ∈ ((s.applyScls c).cluster s.hereCluster).scales ↔ e ∈ (s.cluster s.hereCluster).scales ∧
    ¬(e.pasid = (s.reqOf .C 10).pasid ∧ ∃ n ∈ s.ctx.eng.scls, isDue c n = true ∧ (n.2 = none ∨ n.2 = some e.tid)) := by
  rw [applyScls_eq, cluster_modCtx, mem_scales_foldl_dropNoted]
  refine and_congr_right fun _ => ⟨fun h ⟨hpasid, n, hn, hdue, htid⟩ => ?_, fun h n hn hnames => ?_⟩
  · exact h n (List.mem_filter.mpr ⟨hn, hdue⟩) ⟨hpasid, htid⟩
  · obtain ⟨hn, hdue⟩ := List.mem_filter.mp hn
    exact h ⟨hnames.1, n, hn, hdue, hnames.2⟩

theorem mem_scls_applyScls : n ∈ (s.applyScls c).ctx.eng.scls ↔ n ∈ s.ctx.eng.scls ∧ ¬isDue c n = true := by
  rw [applyScls_ctx, List.mem_filter, Bool.not_eq_true', Bool.not_eq_true]

/-- Whether a command may start is read off the context, and not off the MX.SCL in it. -/
theorem mayStart_applyScls : (s.applyScls c).mayStart c = s.mayStart c := by
  simp only [mayStart, postedBefore, heldBefore, fencedOff, applyScls_ctx]
  rfl

theorem leaseBefore_applyScls : (s.applyScls c).leaseBefore c = s.leaseBefore c := by
  simp only [leaseBefore, hereCluster, here, applyScls_others, applyScls_ctx]

/-! The next class-1 command -/

variable {cs : List Cmd}

theorem leaseBefore_iff : s.leaseBefore c = true ↔ ∃ z ∈ s.others, coreNo z.id / 4 = s.hereCluster ∧ z.id.residency ≠ .saved ∧
    ∃ m ∈ z.eng.cmds, m.cls = .mxa ∧ m.finished = false ∧ m.lease < c.lease := by
  simp only [leaseBefore, List.any_eq_true, Bool.and_eq_true, beq_iff_eq, bne_iff_ne, Bool.not_eq_true', decide_eq_true_eq, and_assoc]

theorem find_mxa (hc : s.ctx.eng.cmds = c :: cs) (hcls : c.cls = .mxa) :
    s.ctx.eng.cmds.find? (fun c => c.cls == .mxa) = some c := by
  rw [hc]
  exact List.find?_cons_of_pos (beq_iff_eq.mpr hcls)

/-- While a command of an earlier lease is left, nothing happens. -/
theorem mxStep_waits (hc : s.ctx.eng.cmds = c :: cs) (hcls : c.cls = .mxa) (h : s.leaseBefore c = true) : s.mxStep = s := by
  simp only [mxStep, find_mxa hc hcls, leaseBefore_applyScls, h, Bool.or_true, if_true]

/-- A command that may start and has none of an earlier lease before it is executed. -/
theorem mxReady (hlease : s.leaseBefore c = false) (hstart : s.mayStart c = true) :
    (!(s.applyScls c).mayStart c || (s.applyScls c).leaseBefore c) = false := by
  rw [mayStart_applyScls, leaseBefore_applyScls, hstart, hlease]
  rfl

theorem mxEnd_ok {α : Type} {r : EStateM.Result EngStop State α} {k : α → State → State} {v : α} {t : State} (h : r = .ok v t) :
    s.mxEnd c r k = k v t := by
  rw [h]
  rfl

section
variable {f : Fl} {ev : Option ProvEvent} {u : State} {bits : W16} {first count : Nat} {va : W64} {bias act rq : Bool} {fmt : BitVec 4}
  {trb : BitVec 4} {par : DrainPar} (hc : s.ctx.eng.cmds = c :: cs) (hcls : c.cls = .mxa) (hlease : s.leaseBefore c = false)
  (hstart : s.mayStart c = true)
include hc hcls hlease hstart

theorem mxStep_mma {zero : Bool} {prof : BitVec 8} {ca cb : BitVec 4} {m n k block : Nat} {a b : W64}
    (hbody : c.body = .mma zero prof ca cb m n k block bits a b)
    (hrun : mmaRun ((s.applyScls c).reqOf c.strand 10) c.seq zero prof ((EType.ofCode ca).getD .fp32) ((EType.ofCode cb).getD .fp32)
      m n k block bits a b (s.applyScls c) = .ok (f, ev) u) : s.mxStep = u.mxDone c.seq f ev := by
  simp only [mxStep, find_mxa hc hcls, mxReady hlease hstart, Bool.false_eq_true, if_false, hbody, mxEnd_ok hrun]

theorem mxStep_act {table : Option ActTable} (hbody : c.body = .act va)
    (hrun : actRun ((s.applyScls c).reqOf c.strand 10) c.seq va (s.applyScls c) = .ok table u) :
    s.mxStep = (u.modCtx (fun x => { x with comp := { x.comp with act := table } })).mxDone c.seq 0 none := by
  simp only [mxStep, find_mxa hc hcls, mxReady hlease hstart, Bool.false_eq_true, if_false, hbody, mxEnd_ok hrun]

theorem mxStep_drain_tile {reg : BitVec 5} {v : View} {ix : IxSrc}
    (hbody : c.body = .drain (.tile reg v ix) trb bits first count va bias act rq fmt none)
    (hrun : drainPar ((s.applyScls c).reqOf c.strand 10) c.seq bias rq va (s.applyScls c) = .ok par u) :
    let o := drainOut u.ctx.comp par act ((EType.ofCode fmt).getD .fp32) bits first count
    s.mxStep = (u.drainTiles o trb reg.toNat count bits).mxDone c.seq o.flags o.event := by
  simp only [mxStep, find_mxa hc hcls, mxReady hlease hstart, Bool.false_eq_true, if_false, hbody, mxEnd_ok hrun]

theorem mxStep_drain_sq {sq : BitVec 1} (hbody : c.body = .drain (.sq sq) trb bits first count va bias act rq fmt none)
    (hrun : drainPar ((s.applyScls c).reqOf c.strand 10) c.seq bias rq va (s.applyScls c) = .ok par u) :
    s.mxStep = u.drainPush c (drainOut u.ctx.comp par act ((EType.ofCode fmt).getD .fp32) bits first count)
      (fun o => .drain (.sq sq) trb bits first count va bias act rq fmt (some o)) := by
  simp only [mxStep, find_mxa hc hcls, mxReady hlease hstart, Bool.false_eq_true, if_false, hbody, mxEnd_ok hrun]

end

/-- A drain whose lines all have room in SQ0 pushes them and retires. -/
theorem drainPush_room {o : DrainOut} {again : DrainOut → CmdBody} (h : (s.ctx.q.sq.getD 0 []).length + o.lines.length ≤ 32) :
    s.drainPush c o again = (s.modCtx (fun x => { x with q := { x.q with
      sq := x.q.sq.setIfInBounds 0 (s.ctx.q.sq.getD 0 [] ++ o.lines) } })).mxDone c.seq o.flags o.event := by
  have hroom : o.lines.length ≤ 32 - (s.ctx.q.sq.getD 0 []).length := Nat.le_sub_of_add_le' h
  simp only [drainPush, if_pos hroom, List.take_of_length_le hroom]

/-! Provenance records -/

section
variable {seq : W32} {near : Bool} {e : ProvEvent} {m : Nat}

/-- A provenance record is in use (10 R250). -/
def ProvValid (s : State) (m : Nat) : Prop := (s.ctx.csr.prov.getD (2 * m) 0).getLsbD 0 = true

theorem provFree_iff : decide ((s.ctx.csr.prov.getD (2 * m) 0).toNat % 2 = 0) = true ↔ ¬s.ProvValid m := by
  rw [decide_eq_true_eq, ProvValid, BitVec.getLsbD, Nat.testBit_zero, decide_eq_true_eq]
  exact Nat.mod_two_ne_one.symm

theorem recordEvent_full (h : ∀ k, k < 4 → s.ProvValid k) : s.recordEvent seq near (some e) = s := by
  have hnone : (List.range 4).find? (fun m => (s.ctx.csr.prov.getD (2 * m) 0).toNat % 2 = 0) = none :=
    List.find?_eq_none.mpr fun k hk => mt provFree_iff.mp (not_not_intro (h k (List.mem_range.mp hk)))
  simp only [recordEvent, hnone]

theorem recordEvent_free (hm : m < 4) (hfree : ¬s.ProvValid m) (hbefore : ∀ k, k < m → s.ProvValid k) :
    s.recordEvent seq near (some e) = s.modCtx (fun c => { c with csr := { c.csr with
      prov := (c.csr.prov.setIfInBounds (2 * m) (provWords seq near e).1).setIfInBounds (2 * m + 1) (provWords seq near e).2 } }) := by
  have hfirst : (List.range 4).find? (fun m => (s.ctx.csr.prov.getD (2 * m) 0).toNat % 2 = 0) = some m := by
    refine List.find?_range_eq_some.mpr ⟨provFree_iff.mpr hfree, List.mem_range.mpr hm, fun k hk => ?_⟩
    rw [Bool.not_eq_true', ← Bool.not_eq_true]
    exact mt provFree_iff.mp (not_not_intro (hbefore k hk))
  simp only [recordEvent, hfirst]

/-- The words of a record whose fields fit (10 R250). -/
theorem provWords_eq (hrow : e.row < 128) (hcol : e.col < 256) (hevent : e.event < 4) (hopnd : e.opnd < 4) (hkblk : e.kblk < 2 ^ 32) :
    provWords seq near e = (BitVec.ofNat 64 (seq.toNat * 2 ^ 32 + e.row * 2 ^ 25 + e.col * 2 ^ 17 + e.event * 2 ^ 15 + e.opnd * 2 ^ 13 +
      e.fmt.toNat * 2 ^ 9 + (if near then 2 else 0) + 1), BitVec.ofNat 64 e.kblk) := by
  simp only [provWords, Nat.mod_eq_of_lt hrow, Nat.mod_eq_of_lt hcol, Nat.mod_eq_of_lt hevent, Nat.mod_eq_of_lt hopnd,
    Nat.mod_eq_of_lt hkblk]

end

end State
end Sys2Proof.Machine
end

section
/-! PROOF. O42: MMA, MMA.Z and MX.DRAIN from their issue to their retirement (06 R151, R155 to R165; 10 R249, R250). -/

open Sys2Proof.Machine State

/-- Settles O42: an MMA is issued as `mmaM_ok` and a drain as `mxDrain_next` say, the oldest command is executed by the `mxStep_` lemma of
its kind, and its event goes to the first free record (`recordEvent_free`). -/
theorem matrixCommands : Obligations.MatrixCommands := by
  intro s s0 u qp acc a b slot ft zero d1 d2 np af bf td blk cnt bias act rq cs c f ev table par comp e x y kc lease
  refine ⟨fun hA hprof => ⟨fun hgrant hca hcb haccepts hrows hcols hscaled htypes hva hvb hl hidle => ?mma,
      fun hgrant hft => ?mmaRefused⟩, fun hA hnp => ?drain, fun hc hcls hearlier => ?waits,
    fun hc hcls hlease hstart => ?runs, fun e near m => ?events⟩
  case mma =>
    have hok := mmaM_ok (d1 := d1) (d2 := d2) (F := mmaForm s slot ft np) rfl hA hprof hgrant hca hcb haccepts hrows hcols hscaled
      htypes hva hvb (bundleLease_iff.mpr (.inr hl)) hidle
    exact (exec_mmaInstr zero qp acc a b slot ft d1 d2 np).trans (run_ok hok)
  case mmaRefused =>
    subst hft
    exact traps_of_error (exec_mmaInstr zero qp acc a b slot false d1 d2 np) (mmaM_refused hA hprof hgrant)
  case drain =>
    subst hnp
    exact ⟨fun hfit hdst htypes hformat hva hl hidle => mxDrain_next hA hfit hdst htypes hformat hva (bundleLease_iff.mpr (.inr hl)) hidle,
      mxDrain_outside hA⟩
  case waits => exact congrArg Host.Outcome.next (mxStep_waits hc hcls (leaseBefore_iff.mpr hearlier))
  case runs =>
    intro s r due
    have hdue : ∀ n, due n ↔ isDue c n = true := fun n => by rw [isDue, Bool.not_eq_true']
    refine ⟨fun e => ?scales, fun n => ?noted,
      fun z prof ca cb m n k block bits va vb hbody hrun => congrArg Host.Outcome.next (mxStep_mma hc hcls hlease hstart hbody hrun),
      fun va hbody hrun => congrArg Host.Outcome.next (mxStep_act hc hcls hlease hstart hbody hrun),
      fun reg v ix trb bits first count va p q g fmt hbody hrun =>
        congrArg Host.Outcome.next (mxStep_drain_tile hc hcls hlease hstart hbody hrun),
      fun sq trb bits first count va p q g fmt hbody hrun hroom =>
        congrArg Host.Outcome.next ((mxStep_drain_sq hc hcls hlease hstart hbody hrun).trans (drainPush_room hroom)), rfl⟩
    case scales =>
      simp only [hdue]
      exact mem_scales_applyScls
    case noted =>
      rw [hdue]
      exact mem_scls_applyScls
  case events =>
    refine ⟨rfl, recordEvent_full, fun hm hfree hbefore hrow hcol hevent hopnd hkblk => ?_⟩
    rw [recordEvent_free hm hfree hbefore, provWords_eq hrow hcol hevent hopnd hkblk]
end

section
/-! PROOF. O47 and O48, shared part: a command of the near-bank units or of the graph search engine on its way into flight (05 R136, R142),
a change of a command in flight, and the value of a floating element. -/

namespace Sys2Proof.Machine

variable {s : State} {cls : EngClass} {d1 d2 : BitVec 6} {foot : Foot} {body : CmdBody} {q : W32} {m : Cmd}

theorem hasNear_true {p : Part} (h : p ≠ .sl3240m) : p.hasNear = true := bne_iff_ne.mpr h
theorem hasNear_false {p : Part} (h : ¬p ≠ .sl3240m) : p.hasNear = false := Bool.eq_false_iff.mpr (mt bne_iff_ne.mp h)

/-- Only a deterministic context with commands in flight has footprints to check (05 R142). -/
theorem checkFoot_plain (h : s.ctx.isDet = false ∨ s.ctx.eng.cmds = []) : checkFoot cls d1 d2 foot s = .ok () s := by
  rcases h with hdet | hidle
  · simp only [checkFoot, bind_get, hdet, Bool.false_eq_true, if_false, pure_run]
  · exact checkFoot_ok hidle

theorem slotForCmd_room (h : s.ctx.eng.cmds.length < 64) : slotForCmd s = .ok () s := by
  simp only [slotForCmd, bind_get, h, decide_true, check_true]

namespace State

/-- A command is found again after a change that keeps the numbers. -/
theorem cmd_modCmd (hm : s.cmd m.seq = some m) {f : Cmd → Cmd} (hf : ∀ c, (f c).seq = c.seq) : (s.modCmd m.seq f).cmd m.seq = some (f m) := by
  have hsame : ((fun c : Cmd => c.seq == m.seq) ∘ fun c => if c.seq = m.seq then f c else c) = fun c => c.seq == m.seq := by
    funext c
    simp only [Function.comp_apply]
    split
    · rw [hf]
    · rfl
  show (s.ctx.eng.cmds.map fun c => if c.seq = m.seq then f c else c).find? (fun c => c.seq == m.seq) = _
  rw [List.find?_map, hsame, show s.ctx.eng.cmds.find? (fun c => c.seq == m.seq) = some m from hm, Option.map_some, if_pos rfl]

/-- Of two changes of a command that keep its number and of which the second undoes the first, the second is left. -/
theorem modCmd_modCmd {f g : Cmd → Cmd} (hf : ∀ c, (f c).seq = c.seq) (hfg : ∀ c, g (f c) = g c) :
    (s.modCmd q f).modCmd q g = s.modCmd q g := by
  have hlist : (s.ctx.eng.cmds.map fun c => if c.seq = q then f c else c).map (fun c => if c.seq = q then g c else c) =
      s.ctx.eng.cmds.map fun c => if c.seq = q then g c else c := by
    rw [List.map_map]
    refine List.map_congr_left fun c _ => ?_
    by_cases hc : c.seq = q
    · simp only [Function.comp_apply, if_pos hc, hf, hfg]
    · simp only [Function.comp_apply, if_neg hc]
  simp only [modCmd, modCtx, hlist]

end State

/-! Elements -/

theorem ofCode_code (ty : EType) : EType.ofCode ty.code = some ty := by cases ty <;> rfl

theorem elemVal_float {ty : EType} (hty : ty.isFloat = true) (n : Nat) : elemVal ty n = ty.fmt.decode n := by
  rw [elemVal, EType.not_isInt hty, if_neg Bool.false_ne_true, EType.bits_eq hty, decode_mod]

end Sys2Proof.Machine
end

section
/-! PROOF. O48, first part: GS.CFG and GS.QRY, and the steps of a query from its start to its retirement (07 R185 to R187, R190, R191; 18
R344, R345). -/

namespace Sys2Proof.Machine

open State

variable {s t u : State} {d a b : Reg} {slot : BitVec 2} {d1 d2 : BitVec 6} {np : BitVec 8} {ws : List W64} {g : GraphDesc} {m : Cmd}
  {va vb : W64} {x y : GsRun}

/-! GS.CFG -/

section
variable (hA : Allowed s (.gsCfg (some d) a b)) (hnear : s.part ≠ .sl3240m) (haligned : (s.getX a).toNat % 16 = 0)
  (hfree : ∀ c ∈ s.ctx.eng.cmds, ∀ g q p o n z, c.body = .gs g q p o n z → q.toNat ≠ (s.getX b).toNat % 4)
  (hwords : loadWords 66 (s.getX a) s = .ok ws u)
include hA hnear haligned hfree hwords

/-- A descriptor that has been read is answered or captured. -/
theorem gsCfg_next : exec (.gsCfg (some d) a b) s = .next (match graphOf s.part ws with
    | .inl k => u.setX d (if (s.getX b).toNat < 4 then BitVec.ofNat 64 k else 1)
    | .inr g => if (s.getX b).toNat < 4 then
        (u.modCtx (fun c => { c with eng := { c.eng with graphs := c.eng.graphs.setIfInBounds ((s.getX b).toNat % 4) (some g) } })).setX d 0
      else u.setX d 1) := by
  have hbusy : (s.ctx.eng.cmds.any fun c => match c.body with | .gs _ q _ _ _ _ => q.toNat == (s.getX b).toNat % 4 | _ => false) = false := by
    refine List.any_eq_false.mpr fun c hc => ?_
    split
    · next g q p o n z hbody => simpa using hfree c hc g q p o n z hbody
    · exact Bool.false_ne_true
  have hva : ((s.getX a).toNat % 16 == 0) = true := beq_iff_eq.mpr haligned
  refine run_ok (u := ()) ((bind_ok (enter_ok hA.1 hA.2)).trans ?_)
  simp only [hasNear_true hnear, bind_require_true, hva, bind_check_true]
  refine (bind_ok (congrArg (fun busy => check (!busy) (.block .engine) s) hbusy)).trans ((bind_ok hwords).trans ?_)
  cases graphOf s.part ws with
  | inl k => rfl
  | inr g => by_cases hslot : (s.getX b).toNat < 4 <;> simp only [hslot, if_true, if_false] <;> rfl

theorem gsCfg_captured (hgraph : graphOf s.part ws = .inr g) (hslot : (s.getX b).toNat < 4) : exec (.gsCfg (some d) a b) s =
    .next ((u.modCtx (fun c => { c with eng := { c.eng with graphs := c.eng.graphs.setIfInBounds (s.getX b).toNat (some g) } })).setX d 0) := by
  rw [gsCfg_next hA hnear haligned hfree hwords, hgraph]
  simp only [if_pos hslot, Nat.mod_eq_of_lt hslot]

theorem gsCfg_refused {k : Nat} (hgraph : graphOf s.part ws = .inl k) (hslot : (s.getX b).toNat < 4) :
    exec (.gsCfg (some d) a b) s = .next (u.setX d (BitVec.ofNat 64 k)) := by
  rw [gsCfg_next hA hnear haligned hfree hwords, hgraph]
  simp only [if_pos hslot]

theorem gsCfg_noSlot (hslot : 4 ≤ (s.getX b).toNat) : exec (.gsCfg (some d) a b) s = .next (u.setX d 1) := by
  rw [gsCfg_next hA hnear haligned hfree hwords]
  cases graphOf s.part ws with
  | inl k => simp only [if_neg (Nat.not_lt.mpr hslot)]
  | inr g => simp only [if_neg (Nat.not_lt.mpr hslot)]

end

/-! GS.QRY -/

section
variable (hA : Allowed s (.gsQry d a b slot d1 d2 np))
include hA

theorem gsQry_absent (hnear : ¬s.part ≠ .sl3240m) : Traps (.gsQry d a b slot d1 d2 np) s .unitAbsent (s.issue.word.setWidth 64) := by
  refine traps_of_error (t := s) rfl ((bind_ok (enter_ok hA.1 hA.2)).trans ?_)
  simp only [hasNear_false hnear, bind_require_false]

variable (hnear : s.part ≠ .sl3240m)
include hnear

theorem gsQry_next (hgraph : s.ctx.eng.graphs.getD slot.toNat none = some g) (hprof : gsProfile (some g) np = true)
    (hroom : s.ctx.eng.cmds.length < 64) (hplain : s.ctx.isDet = false ∨ s.ctx.eng.cmds = []) :
    exec (.gsQry d a b slot d1 d2 np) s = .next ((s.withCommand .gse d1 d2 (gsFoot g (s.getX a) (s.getX b))
      (.gs g slot (s.getX a) (s.getX b) np none)).setX d (s.commandNumber.setWidth 64)) := by
  refine run_ok (u := ()) ((bind_ok (enter_ok hA.1 hA.2)).trans ?_)
  simp only [hasNear_true hnear, bind_require_true, hgraph, hprof, bind_ok (checkFoot_plain hplain), bind_ok (slotForCmd_room hroom),
    bind_ok pushCmd_ok, wx_run]

/-- A slot without a graph accepts the profiles that some graph does, and then has no shape. -/
theorem gsQry_unconfigured (hgraph : s.ctx.eng.graphs.getD slot.toNat none = none) (hprof : np = 0 ∨ np = 4 ∨ np = 5) :
    Traps (.gsQry d a b slot d1 d2 np) s .shapeInvalid (s.issue.word.setWidth 64) := by
  have hok : gsProfile none np = true := by simpa [gsProfile, or_assoc] using hprof
  refine traps_of_error (t := s) rfl ((bind_ok (enter_ok hA.1 hA.2)).trans ?_)
  simp only [hasNear_true hnear, bind_require_true, hgraph, hok]
  rfl

end

/-! The start of a query -/

section
variable (hm : s.cmd m.seq = some m) (hbody : m.body = .gs g slot va vb np none) (hfin : m.finished = false) (hstart : s.mayStart m = true)
  (hedge : s.edgeWaits m.seq m.foot = false)
include hm hbody hfin hstart hedge

theorem gsQueryStart_misaligned (hvb : vb.toNat % 8 ≠ 0) :
    exec (.gsQueryStart m.seq) s = .next ((s.addCause m.seq .misaligned vb).finish m.seq) := by
  show execGsQueryStart m.seq s = _
  simp only [execGsQueryStart, hm, hbody, hfin, Option.any_none, hstart, hedge, Bool.not_true, Bool.or_self, Bool.false_eq_true, if_false,
    if_pos hvb]

variable (hvb : vb.toNat % 8 = 0)
include hvb

/-- The result buffer has been found: the query has started, and its packet is read. -/
theorem gsQueryStart_found {out : List (W64 × Nat × Target)} (hplan : ePlan (s.reqOf m.strand 9) true vb (sectorPieces 19 vb 544) s = .ok out t)
    (hpacket : gsPacket (s.reqOf m.strand 9) g va (gsFresh out)
      ((t.setGs m.seq (gsFresh out)).modCmd m.seq (fun c => { c with started := true })) = .ok y u) :
    exec (.gsQueryStart m.seq) s = .next (u.setGs m.seq y) := by
  show execGsQueryStart m.seq s = _
  simp only [execGsQueryStart, hm, hbody, hfin, Option.any_none, hstart, hedge, Bool.not_true, Bool.or_self, Bool.false_eq_true, if_false,
    if_neg (not_not_intro hvb), hplan, hpacket, gsEnd]

theorem gsQueryStart_refused {k : Nat} {e : W64}
    (hplan : ePlan (s.reqOf m.strand 9) true vb (sectorPieces 19 vb 544) s = .error (.error .accessViolation k e) t) :
    exec (.gsQueryStart m.seq) s = .next (((t.logEngine m k e).addCause m.seq .accessViolation vb).finish m.seq) := by
  show execGsQueryStart m.seq s = _
  simp only [execGsQueryStart, hm, hbody, hfin, Option.any_none, hstart, hedge, Bool.not_true, Bool.or_self, Bool.false_eq_true, if_false,
    if_neg (not_not_intro hvb), hplan, if_true]

end

/-! The steps of a query that runs -/

namespace State

/-- The number of a command is not part of its running state. -/
theorem setGs_setGs (q : W32) (x y : GsRun) : (s.setGs q x).setGs q y = s.setGs q y := by
  refine modCmd_modCmd (fun c => ?_) (fun ⟨_, _, _, _, _, _, _, _, _, body, _, _, _, _, _, _⟩ => ?_)
  · split <;> rfl
  · cases body <;> rfl

/-- What a query has found stands as it ends with status FAULT. -/
theorem gsFault_cmd (hm : s.cmd m.seq = some m) (hbody : m.body = .gs g slot va vb np (some x)) : (s.gsFault m.seq).cmd m.seq =
    some { m with stalled := none, body := .gs g slot va vb np (some { x with loaded := true, visiting := [], status := some 5 }) } := by
  refine (cmd_modCmd hm fun c => ?_).trans ?_
  · split <;> rfl
  · rw [hbody]

end State

section
variable (hm : s.cmd m.seq = some m) (hbody : m.body = .gs g slot va vb np (some x))
include hm hbody

theorem gsExpansion_idle (h : x.loaded = false ∨ x.status ≠ none) : exec (.gsExpansion m.seq) s = .next s := by
  have hoff : (x.loaded && x.status.isNone) = false := by
    rcases h with h | h
    · rw [h, Bool.false_and]
    · rw [Option.isNone_eq_false_iff.mpr (Option.isSome_iff_ne_none.mpr h), Bool.and_false]
  show execGsExpansion m.seq s = _
  simp only [execGsExpansion, hm, hbody, hoff, Bool.false_eq_true, if_false]

theorem gsExpansion_runs (hloaded : x.loaded = true) (hstatus : x.status = none) : exec (.gsExpansion m.seq) s =
    .next (s.gsEnd m (gsAdvance m.seq (s.reqOf m.strand 9) s.part g np s.ctx.id.die x s)) := by
  show execGsExpansion m.seq s = _
  simp only [execGsExpansion, hm, hbody, hloaded, hstatus, Option.isNone_none, Bool.and_self, if_true]

theorem gsFaultDelivery {e : W64} (hstalled : m.stalled = some e) (hcls : m.cls = .gse) (hstatus : x.status = none) :
    exec (.engineFaultDelivery m.seq) s = .next (s.gsFault m.seq) := by
  show Host.Outcome.next (s.engineFault m.seq) = _
  simp only [engineFault, hm, hstalled, hcls, hbody, hstatus, Option.isNone_none, if_true]

theorem gsRemoteDistance_none (h : x.visiting = []) : exec (.gsRemoteDistance m.seq) s = .next s := by
  show execGsRemoteDistance m.seq s = _
  simp only [execGsRemoteDistance, hm, hbody, h, List.find?_nil]

theorem gsRemoteDistance_returns {v dist : W32}
    (hfirst : x.visiting.find? (fun o => o.2.isNone && o.1.toNat / 2 ^ 27 != s.ctx.id.die) = some (v, none))
    (heval : gsEval (s.reqOf m.strand 9) s.part g np x.query v s = .ok dist u) :
    exec (.gsRemoteDistance m.seq) s = .next (u.setGs m.seq (x.answer v dist)) := by
  show execGsRemoteDistance m.seq s = _
  simp only [execGsRemoteDistance, hm, hbody, hfirst, gsDistances, bind_ok heval, bind_modify, pure_run, gsEnd, setGs_setGs]

end

section
variable (hbody : m.body = .gs g slot va vb np (some x)) (holdest : s.ctx.eng.cmds.find? (fun c => c.cls == .gse) = some m)
include hbody holdest

theorem gsQueryFinish_waits (hstatus : x.status = none) : exec (.gsQueryFinish m.seq) s = .next s := by
  show execGsQueryFinish m.seq s = _
  simp only [execGsQueryFinish, holdest, ne_eq, not_true, if_false, hbody, hstatus]

theorem gsQueryFinish_retires {st : BitVec 4} {p q : Option W64} (hstatus : x.status = some st)
    (hres : eWritePieces (cleanBytes (gsBytes m.seq x st).1) 0 (clipPieces 0 (gsBytes m.seq x st).1.length 0 x.out) s = .ok p t)
    (hrec : eWritePieces (cleanBytes (gsBytes m.seq x st).2) 0 (clipPieces 512 32 0 x.out) t = .ok q u) :
    exec (.gsQueryFinish m.seq) s = .next (u.finish m.seq) := by
  show execGsQueryFinish m.seq s = _
  simp only [execGsQueryFinish, holdest, ne_eq, not_true, if_false, hbody, hstatus, bind_ok hres, hrec]

end

end Sys2Proof.Machine
end

section
/-! PROOF. O48, second part: the distance of a vertex (07 R188; 03 R84, R85). The terms are added up piece by piece, as `chunkValue` gives
the value of each piece. -/

namespace Sys2Proof.Machine

variable {g : GraphDesc} {np : BitVec 8} {ty : EType}

/-! Pieces by their numbers -/

/-- The pieces of a list, each by its number. -/
theorem pieces_eq_map {α : Type} {n : Nat} (hn : 0 < n) (l : List α) : pieces n l.length l =
    (List.range ((l.length + n - 1) / n)).map (fun j => (l.drop (n * j)).take n) := by
  induction hlen : l.length using Nat.strong_induction_on generalizing l with
  | _ k ih =>
    subst hlen
    by_cases hl : l = []
    · rw [hl, pieces_nil, List.length_nil, Nat.zero_add, Nat.div_eq_of_lt (Nat.sub_lt hn Nat.one_pos)]
      rfl
    · have hpos := List.length_pos_iff.mpr hl
      have hcount : (l.length + n - 1) / n = ((l.drop n).length + n - 1) / n + 1 := by
        rw [List.length_drop, ← Nat.add_div_right _ hn]
        rcases Nat.le_total n l.length with h | h
        · congr 1; omega
        · rw [Nat.sub_eq_zero_of_le h, Nat.zero_add, Nat.div_eq_of_lt_le (k := 1) (by omega) (by omega),
            Nat.div_eq_of_lt_le (k := 1) (by omega) (by omega)]
      rw [pieces_eq hn hl, ih _ (by rw [List.length_drop]; omega) _ rfl, hcount, List.range_succ_eq_map, List.map_cons, List.map_map,
        Nat.mul_zero, List.drop_zero]
      congr 1
      refine List.map_congr_left fun j _ => ?_
      rw [Function.comp_apply, List.drop_drop, Nat.mul_succ, Nat.add_comm n]

/-- Pieces are not empty and no longer than they may be. -/
theorem piece_bounds {α : Type} {n : Nat} (hn : 0 < n) {l : List α} {j : Nat} (hj : j < (l.length + n - 1) / n) :
    (l.drop (n * j)).take n ≠ [] ∧ ((l.drop (n * j)).take n).length ≤ n := by
  have hmul := (Nat.lt_div_iff_mul_lt hn).mp hj
  refine ⟨List.ne_nil_of_length_pos ?_, List.length_take_le ..⟩
  rw [List.length_take, List.length_drop, Nat.mul_comm n]
  omega

/-! The sum of the terms -/

/-- The bits of a distance: an inner product is negated, and a zero is +0 (07 R188). -/
def distBits (inner : Bool) (acc : FVal) : W32 :=
  let d := if inner then acc.neg else acc
  if d.isZero then 0 else BitVec.ofNat 32 (d.round .fp32 .rne).1

/-- What one pair of elements brings. -/
def distTerm (inner : Bool) (x y : FVal) : FVal := if inner then x.mul y else (x.add .rne y.neg).mul (x.add .rne y.neg)

/-- The value of an element of a list of bytes. -/
def vertexElem (ty : EType) (bs : List Byte) (k : Nat) : FVal := ty.fmt.decode (elemRaw ty bs k)

/-- The terms of a distance. -/
def distTerms (g : GraphDesc) (ty : EType) (qs bs : List Byte) : List FVal :=
  (List.range g.dim).map fun k => distTerm g.inner (vertexElem ty qs k) (vertexElem ty bs k)

theorem length_distTerms (qs bs : List Byte) : (distTerms g ty qs bs).length = g.dim := by simp [distTerms]

/-- Values added up in FP32, each sum rounded. -/
def roundedSum (vs : List FVal) : FVal :=
  vs.foldl (fun acc v => FFmt.fp32.decode ((acc.add .rne v).round .fp32 .rne).1) FVal.zero

/-- The floating types of a graph's vertices (07 R184). -/
def FloatVertex (ty : EType) : Prop := ty = .fp16 ∨ ty = .bf16 ∨ ty = .e4m3

theorem FloatVertex.isFloat (hty : FloatVertex ty) : ty.isFloat = true := by rcases hty with rfl | rfl | rfl <;> rfl

theorem graphDist_float (hty : FloatVertex ty) (hfmt : g.vfmt = ty.code) (hnp : np ≠ 4) (qs bs : List Byte) : graphDist g np qs bs =
    distBits g.inner (roundedSum ((pieces (chunkLen np.toNat) g.dim (distTerms g ty qs bs)).map fun c => (chunkValue np.toNat c).1)) := by
  unfold graphDist
  simp only [hfmt, ofCode_code, Option.getD_some, if_neg hnp, elemVal_float hty.isFloat]
  rw [roundedSum, List.foldl_map]
  rfl

/-- The sum of whole pieces, as any function gives the value of a piece that agrees with its profile's. -/
theorem graphDist_pieces (hty : FloatVertex ty) (hfmt : g.vfmt = ty.code) (hnp : np ≠ 4) {n : Nat} (hn : chunkLen np.toNat = n)
    {chunk : List FVal → FVal} (hchunk : ∀ ts, ts ≠ [] → ts.length ≤ n → (chunkValue np.toNat ts).1 = chunk ts) (qs bs : List Byte) :
    graphDist g np qs bs = distBits g.inner
      (roundedSum ((List.range ((g.dim + n - 1) / n)).map fun j => chunk (((distTerms g ty qs bs).drop (n * j)).take n))) := by
  have hpos : 0 < n := hn ▸ chunkLen_pos _
  have hlen := length_distTerms (g := g) (ty := ty) qs bs
  have hpieces := pieces_eq_map hpos (distTerms g ty qs bs)
  rw [hlen] at hpieces
  rw [graphDist_float hty hfmt hnp, hn, hpieces, List.map_map]
  refine congrArg (fun vs => distBits g.inner (roundedSum vs)) (List.map_congr_left fun j hj => ?_)
  obtain ⟨hne, hle⟩ := piece_bounds hpos (l := distTerms g ty qs bs) (by rw [hlen]; exact List.mem_range.mp hj)
  exact hchunk _ hne hle

/-! The value of a piece -/

/-- A piece of one term is that term under NP0. -/
theorem chunkValue_single {ts : List FVal} (hne : ts ≠ []) (hle : ts.length ≤ 1) : (chunkValue 0 ts).1 = ts.headD FVal.zero := by
  obtain ⟨x, rfl⟩ := List.length_eq_one_iff.mp (Nat.le_antisymm hle (List.length_pos_iff.mpr hne))
  cases x with
  | nan => rfl
  | inf neg => cases neg <;> rfl
  | num => rfl

/-- A value is that of a piece of terms in a pairwise tree: its NaNs and infinities decide it before the sum does (03 R84, R85). -/
structure IsTreeValue (ts : List FVal) (z : FVal) : Prop where
  nan : .nan ∈ ts ∨ (.inf true ∈ ts ∧ .inf false ∈ ts) → z = .nan
  inf : ∀ n, .nan ∉ ts → .inf n ∈ ts → .inf (!n) ∉ ts → z = .inf n
  sum : .nan ∉ ts → .inf true ∉ ts → .inf false ∉ ts → ∃ w, treeNode .fp32 ts 6 0 = some (z, w)

theorem chunkValue_tree {ts : List FVal} (hne : ts ≠ []) (hle : ts.length ≤ 64) {z : FVal} (hz : IsTreeValue ts z) :
    (chunkValue 5 ts).1 = z := by
  by_cases hnan : FVal.nan ∈ ts
  · rw [chunkValue_special 5 (chunkSpecial_nan hnan), hz.nan (.inl hnan)]
  by_cases hneg : FVal.inf true ∈ ts
  · by_cases hpos : FVal.inf false ∈ ts
    · rw [chunkValue_special 5 (chunkSpecial_both hnan hneg hpos), hz.nan (.inr ⟨hneg, hpos⟩)]
    · rw [chunkValue_special 5 (chunkSpecial_inf hnan hneg hpos), hz.inf true hnan hneg hpos]
  by_cases hpos : FVal.inf false ∈ ts
  · rw [chunkValue_special 5 (chunkSpecial_inf hnan hpos hneg), hz.inf false hnan hpos hneg]
  obtain ⟨w, hw⟩ := hz.sum hnan hneg hpos
  rw [chunkValue_np5 hnan fun n => by cases n <;> assumption]
  rw [tree_eq .fp32 hne hle] at hw
  exact congrArg Prod.fst (Option.some.inj hw)

/-- NP0 rounds after every term. -/
theorem graphDist_termwise (hty : FloatVertex ty) (hfmt : g.vfmt = ty.code) (qs bs : List Byte) : graphDist g 0 qs bs = distBits g.inner
    (roundedSum ((List.range ((g.dim + 1 - 1) / 1)).map fun j => (((distTerms g ty qs bs).drop (1 * j)).take 1).headD FVal.zero)) :=
  graphDist_pieces (np := 0) hty hfmt (by decide) rfl (chunk := fun ts => ts.headD FVal.zero) (fun _ => chunkValue_single) qs bs

/-- NP5 rounds in trees of 64 terms. -/
theorem graphDist_tree (hty : FloatVertex ty) (hfmt : g.vfmt = ty.code) {chunk : List FVal → FVal}
    (hchunk : ∀ ts, ts ≠ [] → ts.length ≤ 64 → IsTreeValue ts (chunk ts)) (qs bs : List Byte) : graphDist g 5 qs bs = distBits g.inner
    (roundedSum ((List.range ((g.dim + 64 - 1) / 64)).map fun j => chunk (((distTerms g ty qs bs).drop (64 * j)).take 64))) :=
  graphDist_pieces (np := 5) hty hfmt (by decide) rfl (fun ts hne hle => chunkValue_tree hne hle (hchunk ts hne hle)) qs bs

/-! Integer vertices -/

theorem foldl_add_ite {α : Type} (c : Bool) (f h : α → Int) (l : List α) (a : Int) :
    l.foldl (fun n k => if c then n + f k else n + h k) a = a + (l.map fun k => if c then f k else h k).sum := by
  induction l generalizing a with
  | nil => simp
  | cons k l ih =>
    rw [List.foldl_cons, ih, List.map_cons, List.sum_cons]
    cases c <;> simp only [if_true, if_false, Bool.false_eq_true, add_assoc]

/-- An I8 distance is the exact sum of its terms, rounded once. -/
theorem graphDist_int (hfmt : g.vfmt = 0) (qs bs : List Byte) : graphDist g 4 qs bs =
    let el (l : List Byte) (n : Nat) : Int := intOf .i8 (elemRaw .i8 l n)
    let sum := ((List.range g.dim).map fun n => if g.inner then el qs n * el bs n else (el qs n - el bs n) * (el qs n - el bs n)).sum
    distBits g.inner (FFmt.fp32.decode ((FVal.ofInt sum).round .fp32 .rne).1) := by
  unfold graphDist
  simp only [hfmt, show EType.ofCode 0 = some .i8 from rfl, Option.getD_some, if_true, foldl_add_ite, Int.zero_add]
  rfl

/-! Reading a vertex -/

theorem gsEval_read {s u : State} {r : Req} {p : Part} {v : W32} {va : W64} {qs bs : List Byte} (hrec : g.record p v = some va)
    (hread : eReadClean r va (g.dim * g.size) s = .ok bs u) : gsEval r p g np qs v s = .ok (graphDist g np qs bs) u := by
  simp only [gsEval, hrec, bind_ok hread, pure_run]

end Sys2Proof.Machine
end

section
/-! PROOF. O48, third part: the search of a query, step by step (07 R188, R189), and the statement. -/

namespace Sys2Proof.Machine

open State

/-! Keys -/

section
variable {c key : GKey} {keys : List GKey} {x : GsRun}

/-- The value of a key's distance. -/
def GKey.value (k : GKey) : FVal := FFmt.fp32.decode k.dist.toNat

theorem less_nan_left (y : FVal) : ¬Less .nan y := by cases y <;> exact not_false

/-- Numbers stand by their values and before the NaN, equal distances by their vertices. -/
theorem GKey.before_iff : c.before key = true ↔ (c.value ≠ .nan ∧ key.value = .nan) ∨ Less c.value key.value ∨
    (¬Less c.value key.value ∧ ¬Less key.value c.value ∧ (c.value = .nan ↔ key.value = .nan) ∧ c.id.toNat < key.id.toNat) := by
  unfold before
  simp only [elemVal_fp32, show FFmt.fp32.decode c.dist.toNat = c.value from rfl, show FFmt.fp32.decode key.dist.toNat = key.value from rfl]
  generalize c.value = a
  generalize key.value = b
  by_cases ha : a = .nan
  · by_cases hb : b = .nan
    · simp [ha, hb, FVal.isNaN, less_nan_left]
    · simp [ha, hb, FVal.isNaN, less_nan_left]
  · by_cases hb : b = .nan
    · simp [ha, hb, FVal.isNaN]
    · have hnum : a.isNaN = false := Bool.eq_false_iff.mpr (mt ElemEnv.isNaN_iff.mp ha)
      have hnum' : b.isNaN = false := Bool.eq_false_iff.mpr (mt ElemEnv.isNaN_iff.mp hb)
      by_cases hlt : Less a b
      · simp [hnum, hnum', (lt_iff_less a b).mpr hlt, hlt]
      · have hlt' : a.lt b = false := Bool.eq_false_iff.mpr (mt (lt_iff_less a b).mp hlt)
        by_cases hgt : Less b a
        · simp [ha, hb, hnum, hnum', hlt', (lt_iff_less b a).mpr hgt, hlt, hgt]
        · have hgt' : b.lt a = false := Bool.eq_false_iff.mpr (mt (lt_iff_less b a).mp hgt)
          simp [ha, hb, hnum, hnum', hlt', hgt', hlt, hgt]

/-- A key goes behind those that come before it. -/
theorem insertKey_split (key : GKey) (keys : List GKey) : ∃ l1 l2, keys = l1 ++ l2 ∧ insertKey key keys = l1 ++ key :: l2 ∧
    (∀ z ∈ l1, z.before key = true) ∧ ∀ z, l2.head? = some z → z.before key = false := by
  induction keys with
  | nil => exact ⟨[], [], rfl, rfl, nofun, nofun⟩
  | cons b keys ih =>
    by_cases hb : b.before key = true
    · obtain ⟨l1, l2, hkeys, hins, hbefore, hafter⟩ := ih
      refine ⟨b :: l1, l2, by rw [hkeys]; rfl, ?_, fun z hz => ?_, hafter⟩
      · rw [insertKey, if_pos hb, hins]; rfl
      · rcases List.mem_cons.mp hz with rfl | hz
        · exact hb
        · exact hbefore z hz
    · refine ⟨[], b :: keys, rfl, if_neg hb, nofun, fun z hz => ?_⟩
      obtain rfl := Option.some.inj hz
      exact Bool.eq_false_iff.mpr hb

theorem enterKey_room (h : x.res.length < x.ef) : x.enterKey key = { x with res := insertKey key x.res, cand := insertKey key x.cand } := if_pos h

theorem enterKey_full (h : x.ef ≤ x.res.length) (hres : x.res = keys ++ [c]) : x.enterKey key =
    if key.before c then { x with res := insertKey key keys, cand := insertKey key x.cand } else x := by
  have hlast : x.res.getLast? = some c := by rw [hres, List.getLast?_concat]
  unfold GsRun.enterKey
  rw [if_neg (Nat.not_lt.mpr h), hlast, hres, List.dropLast_concat]

end

/-! Distances that return -/

section
variable {q : W32} {r : Req} {p : Part} {g : GraphDesc} {np : BitVec 8} {home : Nat} {x y : GsRun} {s t u : State} {v dist : W32}

theorem gsDistances_cons (vs : List W32) (heval : gsEval r p g np x.query v s = .ok dist u) : gsDistances q r p g np (v :: vs) x s =
    gsDistances q r p g np vs (x.answer v dist) (u.setGs q (x.answer v dist)) := by
  simp only [gsDistances, bind_ok heval, bind_modify]

/-- The vertices of the home stack whose distances are awaited. -/
def GsRun.awaited (x : GsRun) (home : Nat) : List W32 := (x.visiting.filter (fun v => v.2.isNone && v.1.toNat / 2 ^ 27 == home)).map (·.1)

/-- A query all of whose distances have returned: they are admitted in list order. -/
def GsRun.admitted (y : GsRun) : GsRun :=
  { y.visiting.foldl (fun z o => z.enterKey { dist := o.2.getD 0, id := o.1 }) y with visiting := [] }

theorem gsAdvance_awaits (hdist : gsDistances q r p g np (x.awaited home) x s = .ok y t) (h : ∃ o ∈ y.visiting, o.2 = none) :
    gsAdvance q r p g np home x s = .ok y t := by
  have hany : (y.visiting.any fun o => o.2.isNone) = true := List.any_eq_true.mpr (by simpa using h)
  refine (bind_ok hdist).trans ?_
  simp only [hany, if_true, pure_run]

theorem gsAdvance_admits (hdist : gsDistances q r p g np (x.awaited home) x s = .ok y t) (h : ∀ o ∈ y.visiting, o.2 ≠ none) :
    gsAdvance q r p g np home x s = gsNext q r p g y.admitted (t.setGs q y.admitted) := by
  have hany : (y.visiting.any fun o => o.2.isNone) = false := List.any_eq_false.mpr (by simpa using h)
  refine (bind_ok hdist).trans ?_
  simp only [hany, Bool.false_eq_true, if_false, bind_modify]
  rfl

end

/-! The next vertices -/

section
variable {q : W32} {r : Req} {p : Part} {g : GraphDesc} {x : GsRun} {s : State} {v : W32} {c : GKey} {keys : List GKey}

section
variable (hv : x.entries[x.taken]? = some v)
include hv

theorem gsNext_entry_absent (hrec : g.record p v = none) : gsNext q r p g x s = .ok { x with status := some 4 } s := by
  simp only [gsNext, hv, hrec, Option.isNone_none, if_true, pure_run]

variable (hrec : g.record p v ≠ none)
include hrec

theorem gsNext_entry_again (h : v ∈ x.visited) : gsNext q r p g x s = .ok { x with taken := x.taken + 1 } s := by
  simp only [gsNext, hv, Option.isNone_iff_eq_none, hrec, List.contains_iff_mem, h, if_true, if_false, pure_run]

variable (hnew : v ∉ x.visited)
include hnew

theorem gsNext_entry_overflow (h : x.visited.length = 2 ^ x.vcap) : gsNext q r p g x s = .ok { x with status := some 3 } s := by
  simp only [gsNext, hv, Option.isNone_iff_eq_none, hrec, List.contains_iff_mem, hnew, h, if_true, if_false, pure_run]

theorem gsNext_entry_taken (h : x.visited.length ≠ 2 ^ x.vcap) : gsNext q r p g x s =
    .ok { x with taken := x.taken + 1, visited := x.visited ++ [v], visiting := [(v, none)] } s := by
  simp only [gsNext, hv, Option.isNone_iff_eq_none, hrec, List.contains_iff_mem, hnew, h, if_false, pure_run]

end

section
variable (hv : x.entries[x.taken]? = none)
include hv

theorem gsNext_current (h : x.current = some c) : gsNext q r p g x s = gsExpand r p g x c s := by
  simp only [gsNext, hv, h]

variable (hnone : x.current = none)
include hnone

theorem gsNext_exhausted (h : x.cand = []) : gsNext q r p g x s = .ok { x with status := some 1 } s := by
  simp only [gsNext, hv, hnone, h, pure_run]

/-- Full results all of which come before the candidate. -/
def GsRun.Better (x : GsRun) (c : GKey) : Prop := x.res.length = x.ef ∧ ∃ z, x.res.getLast? = some z ∧ z.before c = true

/-- The limit does not allow one more expansion. -/
def GsRun.Spent (x : GsRun) : Prop := x.maxExp ≠ 0 ∧ x.maxExp < x.expansions + 1

omit hv hnone in
theorem better_iff : (x.res.length == x.ef && x.res.getLast?.any (fun m => m.before c)) = true ↔ x.Better c := by
  rw [Bool.and_eq_true, beq_iff_eq, Option.any_eq_true, GsRun.Better]

omit hv hnone in
theorem spent_iff : (x.maxExp != 0 && decide (x.maxExp < x.expansions + 1)) = true ↔ x.Spent := by
  rw [Bool.and_eq_true, bne_iff_ne, decide_eq_true_iff, GsRun.Spent]

variable (hcand : x.cand = c :: keys)
include hcand

theorem gsNext_done (h : x.Better c) : gsNext q r p g x s = .ok { x with cand := keys, status := some 1 } s := by
  simp only [gsNext, hv, hnone, hcand, better_iff, h, if_true, pure_run]

theorem gsNext_limit (h : ¬x.Better c) (hs : x.Spent) : gsNext q r p g x s =
    .ok { x with cand := keys, expansions := x.expansions + 1, status := some 2 } s := by
  simp only [gsNext, hv, hnone, hcand, better_iff, spent_iff, h, hs, if_true, if_false, pure_run]

theorem gsNext_expands (h : ¬x.Better c) (hs : ¬x.Spent) :
    let y : GsRun := { x with cand := keys, expansions := x.expansions + 1, current := some c }
    gsNext q r p g x s = gsExpand r p g y c (s.setGs q y) := by
  simp only [gsNext, hv, hnone, hcand, better_iff, spent_iff, h, hs, if_false, bind_modify]

end

end

/-! Neighbours -/

section
variable {p : Part} {g : GraphDesc} {cap : Nat} {v : W32} {ids vs l : List W32}

theorem gsNeighbours_end : gsNeighbours p g cap (0xFFFFFFFF :: ids) vs l = (vs, l, none) := by rw [gsNeighbours, if_pos rfl]

variable (hv : v ≠ 0xFFFFFFFF)
include hv

theorem gsNeighbours_absent (hrec : g.record p v = none) : gsNeighbours p g cap (v :: ids) vs l = (vs, [], some 4) := by
  rw [gsNeighbours, if_neg hv, hrec, Option.isNone_none, if_pos rfl]

variable (hrec : g.record p v ≠ none)
include hrec

theorem gsNeighbours_again (h : v ∈ vs) : gsNeighbours p g cap (v :: ids) vs l = gsNeighbours p g cap ids vs l := by
  rw [gsNeighbours, if_neg hv, if_neg (mt Option.isNone_iff_eq_none.mp hrec), if_pos (List.contains_iff_mem.mpr h)]

variable (hnew : v ∉ vs)
include hnew

theorem gsNeighbours_overflow (h : vs.length = cap) : gsNeighbours p g cap (v :: ids) vs l = (vs, [], some 3) := by
  rw [gsNeighbours, if_neg hv, if_neg (mt Option.isNone_iff_eq_none.mp hrec), if_neg (mt List.contains_iff_mem.mp hnew), if_pos h]

theorem gsNeighbours_taken (h : vs.length ≠ cap) : gsNeighbours p g cap (v :: ids) vs l = gsNeighbours p g cap ids (vs ++ [v]) (l ++ [v]) := by
  rw [gsNeighbours, if_neg hv, if_neg (mt Option.isNone_iff_eq_none.mp hrec), if_neg (mt List.contains_iff_mem.mp hnew), if_neg h]

end

/-- A vertex whose neighbours have been read. -/
theorem gsExpand_read {r : Req} {p : Part} {g : GraphDesc} {x : GsRun} {c : GKey} {bs : List Byte} {s u : State}
    (hread : eReadClean r ((g.record p c.id).getD 0 + BitVec.ofNat 64 (up64 (g.dim * g.size))) (4 * g.deg) s = .ok bs u) :
    let o := gsNeighbours p g (2 ^ x.vcap) ((List.range g.deg).map fun n => BitVec.ofNat 32 (natOfBytes ((bs.drop (4 * n)).take 4))) x.visited []
    gsExpand r p g x c s = .ok { x with current := none, visited := o.1, visiting := o.2.1.map (fun z => (z, none)), status := o.2.2 } u := by
  simp only [gsExpand, bind_ok hread, pure_run]

end Sys2Proof.Machine

open Sys2Proof.Machine State

/-- Settles O48: each step of a query runs as its lemma says, a distance is a sum of pieces (`graphDist_pieces`, `graphDist_int`), and the
search goes on as `gsAdvance`, `gsNext` and `gsNeighbours` do case by case. -/
theorem graphSearch : Obligations.GraphSearch := by
  intro s t u d a b slot d1 d2 np ws g m va vb x y out k v dist st ids vs l bs qs c key keys here i cfg r
  refine ⟨fun hA hnear haligned hfree hwords => ?configure, fun hA hnear hgraph hprof hroom hplain => gsQry_next hA hnear hgraph hprof hroom hplain,
    fun hA hnear hgraph hprof => gsQry_unconfigured hA hnear hgraph hprof, fun hA hnear => gsQry_absent hA hnear,
    fun hm hbody hfin hstart hedge => ?start, fun hm hbody => ⟨?advances, ?stops, fun e => gsFaultDelivery hm hbody, gsFault_cmd hm hbody,
      gsExpansion_idle hm hbody, gsRemoteDistance_returns hm hbody, gsRemoteDistance_none hm hbody, fun holdest => ?finish⟩, ?distances,
    ⟨GKey.before_iff, insertKey_split key keys, enterKey_room, enterKey_full⟩, ?search⟩
  case configure =>
    exact ⟨gsCfg_captured hA hnear haligned hfree hwords, gsCfg_refused hA hnear haligned hfree hwords,
      gsCfg_noSlot hA hnear haligned hfree hwords⟩
  case start =>
    exact ⟨fun hvb hplan => gsQueryStart_found hm hbody hfin hstart hedge hvb hplan,
      fun e hvb hplan => gsQueryStart_refused hm hbody hfin hstart hedge hvb hplan, gsQueryStart_misaligned hm hbody hfin hstart hedge⟩
  case finish => exact ⟨gsQueryFinish_waits hbody holdest, fun p q => gsQueryFinish_retires hbody holdest⟩
  case search =>
    refine ⟨rfl, gsDistances_cons vs, fun hdist => ⟨gsAdvance_awaits hdist, gsAdvance_admits hdist⟩, fun hv => ?entry, fun hv => ?candidate,
      gsExpand_read, ?neighbours⟩
    case entry => exact ⟨gsNext_entry_absent hv, gsNext_entry_again hv, gsNext_entry_overflow hv, gsNext_entry_taken hv⟩
    case candidate =>
      exact ⟨gsNext_current hv, gsNext_exhausted hv, fun hnone hcand => ⟨gsNext_done hv hnone hcand, gsNext_limit hv hnone hcand,
        gsNext_expands hv hnone hcand⟩⟩
    case neighbours =>
      exact ⟨rfl, fun hv => hv ▸ gsNeighbours_end, gsNeighbours_absent, gsNeighbours_again, gsNeighbours_overflow, gsNeighbours_taken⟩
  case advances =>
    intro hloaded hstatus hadvance
    rw [gsExpansion_runs hm hbody hloaded hstatus,
      show gsAdvance m.seq (s.reqOf m.strand 9) s.part g np s.ctx.id.die x s = .ok y u from hadvance]
    rfl
  case stops =>
    intro c e hloaded hstatus hadvance
    rw [gsExpansion_runs hm hbody hloaded hstatus,
      show gsAdvance m.seq (s.reqOf m.strand 9) s.part g np s.ctx.id.die x s = .error (.error c k e) u from hadvance]
    cases c <;> rfl
  case distances =>
    refine ⟨rfl, gsEval_read, fun ty hty hfmt => ⟨fun hnp => ?termwise, fun chunk hchunk hnp => ?tree⟩, fun hfmt hnp => ?int⟩
    case termwise =>
      subst hnp
      rw [graphDist_termwise hty hfmt, roundedSum, List.foldl_map]
      rfl
    case tree =>
      subst hnp
      have htree : ∀ ts, ts ≠ [] → ts.length ≤ 64 → IsTreeValue ts (chunk ts) := fun ts hne hle =>
        let ⟨hnan, hinf, hsum⟩ := hchunk ts hne hle
        ⟨hnan, hinf, hsum⟩
      rw [graphDist_tree hty hfmt htree, roundedSum, List.foldl_map]
      rfl
    case int =>
      subst hnp
      exact graphDist_int hfmt qs bs
end

section
/-! PROOF. O47, first part: how a near-bank command is issued, starts and runs from step to step (07 R168, R174 to R179; 19 R367, R368). -/

namespace Sys2Proof.Machine

open State

variable {s t : State} {m : Cmd} {fn : NbFn} {va vb vc : W64} {np : BitVec 8} {n w : Nat} {r : NbRun}

/-! Issue -/

section
variable {i : Instr} {d a b c : Reg} {rows d1 d2 : BitVec 6} (hi : exec i s = run (nbIssue i fn d a b c rows d1 d2 np) s) (hA : Allowed s i)
include hi hA

theorem nbIssue_absent (hnear : ¬s.part ≠ .sl3240m) : Traps i s .unitAbsent (s.issue.word.setWidth 64) := by
  refine traps_of_error (t := s) hi ((bind_ok (enter_ok hA.1 hA.2)).trans ?_)
  simp only [bind_get, hasNear_false hnear, bind_require_false]

variable (hnear : s.part ≠ .sl3240m)
include hnear

theorem nbIssue_profile (hprof : (if fn = .mv then profileLegal np s.ctx.isDet else decide (np = 0)) = false) :
    Traps i s .profileInvalid (s.issue.word.setWidth 64) := by
  refine traps_of_error (t := s) hi ((bind_ok (enter_ok hA.1 hA.2)).trans ?_)
  simp only [bind_get, hasNear_true hnear, bind_require_true, hprof, bind_require_false]

theorem nbIssue_next (hprof : (if fn = .mv then profileLegal np s.ctx.isDet else decide (np = 0)) = true)
    (hroom : s.ctx.eng.cmds.length < 64) (hplain : s.ctx.isDet = false ∨ s.ctx.eng.cmds = []) :
    exec i s = .next ((s.withCommand .nbu d1 d2 (nbFoot s fn (s.getX a) (s.getX b) (s.getX c) (rows.toNat + 1) s.ctx.isDet)
      (.nb fn (s.getX a) (s.getX b) (s.getX c) (rows.toNat + 1) np (nbWindow s.rd.csr.nbwin) none)).setX d (s.commandNumber.setWidth 64)) := by
  refine hi.trans (run_ok (u := ()) ((bind_ok (enter_ok hA.1 hA.2)).trans ?_))
  simp only [bind_get, hasNear_true hnear, bind_require_true, hprof, bind_ok (checkFoot_plain hplain), bind_ok (slotForCmd_room hroom),
    bind_ok pushCmd_ok, wx_run]

end

/-! Start -/

/-- The start checks of a command (07 R174, R175). -/
def nbChecks (m : Cmd) (fn : NbFn) (a b c : W64) (n : Nat) (np : BitVec 8) : E (Sum Nat (NbRun × List Range)) :=
  if fn = .mv then mvStart m a b c n np else rowStart m fn a c n

section
variable (hm : s.cmd m.seq = some m) (hbody : m.body = .nb fn va vb vc n np w none) (hnew : m.started = false) (hfin : m.finished = false)
  (hfirst : ∀ o ∈ s.ctx.eng.cmds, o.cls = .nbu → seqBelow o.seq m.seq = true → o.started = true ∨ o.finished = true)
  (hstart : s.mayStart m = true) (hedge : s.edgeWaits m.seq m.foot = false)
include hm hbody hnew hfin hfirst hstart hedge

/-- A command that may start does what its checks say. -/
theorem nbStart_checks : exec (.nbStart m.seq) s = .next (s.nbStarted m fn (nbChecks m fn va vb vc n np s)) := by
  have hearlier : (s.ctx.eng.cmds.any fun o => o.cls == .nbu && seqBelow o.seq m.seq && !o.started && !o.finished) = false := by
    refine List.any_eq_false.mpr fun o ho hwaits => ?_
    simp only [Bool.and_eq_true, beq_iff_eq, Bool.not_eq_true'] at hwaits
    obtain ⟨⟨⟨hcls, hbelow⟩, hnot⟩, hopen⟩ := hwaits
    rcases hfirst o ho hcls hbelow with h | h
    · rw [h] at hnot; cases hnot
    · rw [h] at hopen; cases hopen
  show execNbStart m.seq s = _
  simp only [execNbStart, hm, hbody, hnew, hfin, hearlier, hstart, hedge, Bool.not_true, Bool.or_self, Bool.false_eq_true, if_false]
  rfl

theorem nbStart_code {k : Nat} (hchecks : nbChecks m fn va vb vc n np s = .ok (.inl k) t) : exec (.nbStart m.seq) s =
    .next ((t.modCmd m.seq (fun o => { o with code := BitVec.ofNat 4 k })).finish m.seq) := by
  rw [nbStart_checks hm hbody hnew hfin hfirst hstart hedge, hchecks]
  rfl

theorem nbStart_accepted {x : List Range} (hchecks : nbChecks m fn va vb vc n np s = .ok (.inr (r, x)) t) :
    let foot : Foot := { m.foot with reads := m.foot.reads ++ x.filter (fun g => !m.foot.reads.contains g) }
    let r' := { r with banks := (nbKeys fn r).map t.bankId }
    t.edgeWaits m.seq foot = false → exec (.nbStart m.seq) s = .next (((t.setRun m.seq r').modCmd m.seq (fun o =>
      { o with started := true, stalled := none, foot })).joinPchs r' (t.nbName m.seq)) := by
  intro foot r' hclear
  rw [nbStart_checks hm hbody hnew hfin hfirst hstart hedge, hchecks]
  exact congrArg Host.Outcome.next (if_neg (Bool.eq_false_iff.mp hclear))

end

/-! The steps of a command that runs -/

/-- A command that may make a step: it is held by nothing, stands first and waits for no service (07 R177, R178). -/
def Goes (s : State) (m : Cmd) (r : NbRun) : Prop :=
  m.finished = false ∧ r.held = false ∧ s.standsFirst r (s.nbName m.seq) = true ∧ s.served r = true

/-- A command one step on. -/
def NbRun.stepped (r : NbRun) : NbRun := { r with mpc := r.mpc + 1 }

/-- The work of a row command's step, and below it the reads of an NB.MV's, once the step's row reads have been counted. -/
def rowWorkIn (s : State) (fn : NbFn) (b : W64) (n : Nat) (r : NbRun) : State × NbRun := rowWork fn b (s.countReads r.home (stepReads fn n r)) r
def mvReadIn (s : State) (fn : NbFn) (n : Nat) (r : NbRun) : State × NbRun := mvRead n (s.countReads r.home (stepReads fn n r)) r

section
variable (hm : s.cmd m.seq = some m) (hbody : m.body = .nb fn va vb vc n np w (some r))
include hm hbody

section
variable (hgoes : Goes s m r)
include hgoes

theorem nbRowStep_goes : exec (.nbRowStep m.seq) s = .next (
    if r.suspended then (if s.requestsWait r then s else s.setRun m.seq { r with suspended := false, sinceCheck := 0 })
    else if !s.admits r.home (stepReads fn n r) then (s.nbHold r true).setRun m.seq { r with held := true }
    else if fn = .mv then
      let y := mvReadIn s fn n r
      if y.2.stepped.mpc < mvSteps r n then nbBoundary w y.1 m.seq y.2.stepped
      else match mvFinish np n y.2.stepped y.1 with
        | .ok z t => nbFinish t m.seq z
        | .error _ _ => s
    else
      let y := rowWorkIn s fn vb n r
      if y.2.stepped.row < n then nbBoundary w y.1 m.seq y.2.stepped else nbFinish y.1 m.seq y.2.stepped) := by
  obtain ⟨hfin, hheld, hfirst, hserved⟩ := hgoes
  show execNbRowStep m.seq s = _
  simp only [execNbRowStep, hm, hbody, hfin, hheld, hfirst, hserved, Bool.not_true, Bool.or_self, Bool.false_eq_true, if_false]
  rfl

theorem nbRowStep_suspended (hsusp : r.suspended = true) : exec (.nbRowStep m.seq) s =
    .next (if s.requestsWait r then s else s.setRun m.seq { r with suspended := false, sinceCheck := 0 }) := by
  rw [nbRowStep_goes hm hbody hgoes, if_pos hsusp]

variable (hsusp : r.suspended = false)
include hsusp

theorem nbRowStep_held (hadm : s.admits r.home (stepReads fn n r) = false) : exec (.nbRowStep m.seq) s =
    .next ((s.nbHold r true).setRun m.seq { r with held := true }) := by
  rw [nbRowStep_goes hm hbody hgoes, if_neg (Bool.eq_false_iff.mp hsusp), hadm]
  rfl

variable (hadm : s.admits r.home (stepReads fn n r) = true)
include hadm

theorem nbRowStep_row (hfn : fn ≠ .mv) : exec (.nbRowStep m.seq) s = .next (
    let y := rowWorkIn s fn vb n r
    if y.2.stepped.row < n then nbBoundary w y.1 m.seq y.2.stepped else nbFinish y.1 m.seq y.2.stepped) := by
  rw [nbRowStep_goes hm hbody hgoes, if_neg (Bool.eq_false_iff.mp hsusp), hadm, Bool.not_true, if_neg Bool.false_ne_true, if_neg hfn]

theorem nbRowStep_more (hfn : fn = .mv) (hmore : (mvReadIn s fn n r).2.stepped.mpc < mvSteps r n) :
    exec (.nbRowStep m.seq) s = .next (nbBoundary w (mvReadIn s fn n r).1 m.seq (mvReadIn s fn n r).2.stepped) := by
  rw [nbRowStep_goes hm hbody hgoes, if_neg (Bool.eq_false_iff.mp hsusp), hadm, Bool.not_true, if_neg Bool.false_ne_true, if_pos hfn]
  exact congrArg Host.Outcome.next (if_pos hmore)

theorem nbRowStep_last {z : NbRun} (hfn : fn = .mv) (hlast : mvSteps r n ≤ (mvReadIn s fn n r).2.stepped.mpc)
    (hfinish : mvFinish np n (mvReadIn s fn n r).2.stepped (mvReadIn s fn n r).1 = .ok z t) :
    exec (.nbRowStep m.seq) s = .next (nbFinish t m.seq z) := by
  rw [nbRowStep_goes hm hbody hgoes, if_neg (Bool.eq_false_iff.mp hsusp), hadm, Bool.not_true, if_neg Bool.false_ne_true, if_pos hfn]
  refine congrArg Host.Outcome.next ((if_neg (Nat.not_lt.mpr hlast)).trans ?_)
  rw [hfinish]

end

theorem nbAllowanceAdmit_released (hheld : r.held = true) (hadm : s.admits r.home (stepReads fn n r) = true) :
    exec (.nbAllowanceAdmit m.seq) s = .next ((s.modPchs r (fun p => { p with allowance := false })).setRun m.seq { r with held := false }) := by
  show execNbAllowanceAdmit m.seq s = _
  simp only [execNbAllowanceAdmit, hm, hbody, hheld, hadm, Bool.and_self, if_true]
  rfl

theorem nbAllowanceAdmit_idle (h : r.held = false ∨ s.admits r.home (stepReads fn n r) = false) : exec (.nbAllowanceAdmit m.seq) s = .next s := by
  have hoff : (r.held && s.admits r.home (stepReads fn n r)) = false := by
    rcases h with h | h <;> rw [h] <;> simp
  show execNbAllowanceAdmit m.seq s = _
  simp only [execNbAllowanceAdmit, hm, hbody, hoff, Bool.false_eq_true, if_false]

end

/-! Boundaries -/

theorem nbBoundary_eq (q : W32) : nbBoundary w s q r = s.setRun q (if r.sinceCheck + 1 < w then { r with sinceCheck := r.sinceCheck + 1 }
    else { r with sinceCheck := 0, suspended := s.requestsBefore r }) := by
  unfold nbBoundary
  split <;> rfl

theorem requestsBefore_iff : s.requestsBefore r = true ↔
    ∃ p ∈ r.pchs, ∃ q ∈ (Cells.get Pch.reset (s.stack r.home).pchs p).requests, q.at_ < s.cycle.toNat := by
  simp only [requestsBefore, List.any_eq_true, decide_eq_true_iff]

end Sys2Proof.Machine
end

section
/-! PROOF. O47, second part: the requests that a pseudo-channel serves, and the invalidation of L2 copies (05 R144; 07 R178). -/

namespace Sys2Proof.Machine

open State

variable {s : State} {stack pch : Nat} {name : Nat × W32 × W32}

/-! Services -/

/-- A write-back that waits leaves with its service. -/
theorem dropSector_hbms (n : Nat) : (s.dropSector n).hbms = s.hbms := by
  unfold dropSector
  split <;> rfl

theorem get_modPch (f : Pch → Pch) : Cells.get Pch.reset ((s.modPch stack pch f).stack stack).pchs pch =
    f (Cells.get Pch.reset (s.stack stack).pchs pch) := by
  show Cells.get Pch.reset (Cells.get Stack.reset (Cells.set Stack.reset s.hbms stack _) stack).pchs pch = _
  rw [Cells.get_set, if_pos rfl, Cells.get_set, if_pos rfl]

theorem serveAll_requests : (Cells.get Pch.reset ((s.serveAll stack pch).stack stack).pchs pch).requests = [] := by
  unfold serveAll servePch
  refine foldl_keeps (P := fun t : State => (Cells.get Pch.reset (t.stack stack).pchs pch).requests = []) (fun t k h => ?_) _ ?_
  · rwa [State.stack, dropSector_hbms]
  · rw [get_modPch]
    exact List.drop_length

/-- A pseudo-channel that has served its first request, and who may now make an access there. -/
def State.servedFirst (s : State) (stack pch : Nat) (rest : List Request) (more : List Asker) : State :=
  s.modPch stack pch (fun y => { y with
    requests := rest, servedAt := s.cycle.toNat,
    passed := (if s.cycle.toNat < (Cells.get Pch.reset (s.stack stack).pchs pch).servedAt + 24
      then (Cells.get Pch.reset (s.stack stack).pchs pch).passed else []) ++ more })

/-- What one service does. -/
theorem servePch_one {q : Request} {rest : List Request} (h : (Cells.get Pch.reset (s.stack stack).pchs pch).requests = q :: rest) :
    s.servePch stack pch 1 = match q.who with
      | none => s.servedFirst stack pch rest []
      | some (.writeBack i) => (s.servedFirst stack pch rest []).dropSector i
      | some o => s.servedFirst stack pch rest [o] := by
  have hmod (more : List Asker) : s.modPch stack pch (fun y => { y with
      requests := y.requests.drop 1, servedAt := s.cycle.toNat, passed := (if y.serving s.cycle.toNat then y.passed else []) ++ more }) =
      s.servedFirst stack pch rest more := by
    unfold modPch servedFirst modPch
    simp only [h, List.drop_one, List.tail_cons, Pch.serving, decide_eq_true_iff]
  obtain ⟨at_, who⟩ := q
  unfold servePch
  simp only [h, List.take_succ_cons, List.take_zero]
  cases who with
  | none => exact hmod []
  | some o =>
    cases o with
    | strand ctx k handler => exact hmod [.strand ctx k handler]
    | event ctx i => exact hmod [.event ctx i]
    | writeBack i => exact congrArg (dropSector · i) (hmod [])

/-- The command that stands first at a pseudo-channel is suspended. -/
def FirstSuspended (s : State) (name : Nat × W32 × W32) : Prop := ∃ c, (c = s.ctx ∨ c ∈ s.others) ∧ c.suspends name = true

theorem any_suspends_iff : (s.ctx :: s.others).any (·.suspends name) = true ↔ FirstSuspended s name := by
  simp only [List.any_eq_true, List.mem_cons, FirstSuspended]

theorem nbRequestService_free (h : (Cells.get Pch.reset (s.stack stack).pchs pch).accepted = []) :
    exec (.nbRequestService stack pch) s = .next s := by
  show execNbRequestService stack pch s = _
  simp only [execNbRequestService, h, List.head?_nil, Option.any_none, Bool.false_eq_true, if_false]

section
variable (hhead : (Cells.get Pch.reset (s.stack stack).pchs pch).accepted.head? = some name)
include hhead

theorem nbRequestService_running (h : ¬FirstSuspended s name) : exec (.nbRequestService stack pch) s = .next s := by
  show execNbRequestService stack pch s = _
  simp only [execNbRequestService, hhead, Option.any_some, any_suspends_iff, h, if_false]

theorem nbRequestService_serves (h : FirstSuspended s name) : exec (.nbRequestService stack pch) s = .next (s.servePch stack pch 1) := by
  show execNbRequestService stack pch s = _
  simp only [execNbRequestService, hhead, Option.any_some, any_suspends_iff, h, if_true]

end

/-! Invalidation -/

section
variable {m : Mem} {n j : Nat}

/-- The four sectors of a line leave the home L2, and the line its other caches. -/
def Mem.dropLine (m : Mem) (k : Nat) : Mem := (List.range 4).foldl (fun (m : Mem) i => m.drop (4 * k + i)) (m.dropCopies k)

/-- The eight lines of a row. -/
def Mem.dropRow (m : Mem) (key : Nat) : Mem := (List.range 8).foldl (fun (m : Mem) i => m.dropLine (key / 128 + i)) m

theorem drop_held (m : Mem) (n j : Nat) : (m.drop n).held j = if n = j then none else m.held j := Cells.get_erase m.l2 n j

/-- Of what a list of operations drops, nothing comes back, and DRAM stays as it is. -/
theorem foldl_drops {α : Type} {f : Mem → α → Mem} {gone : α → Prop} {j : Nat} (hf : ∀ m a, gone a ∨ m.held j = none → (f m a).held j = none)
    {l : List α} (h : (∃ a ∈ l, gone a) ∨ m.held j = none) : (l.foldl f m).held j = none := by
  induction l generalizing m with
  | nil => exact h.resolve_left fun ⟨_, ha, _⟩ => nomatch ha
  | cons a l ih =>
    refine ih ?_
    rcases h with ⟨b, hb, hgone⟩ | h
    · rcases List.mem_cons.mp hb with rfl | hb
      · exact .inr (hf _ _ (.inl hgone))
      · exact .inl ⟨b, hb, hgone⟩
    · exact .inr (hf _ _ (.inr h))

theorem dropLine_held {k : Nat} (h : j / 4 = k ∨ m.held j = none) : (m.dropLine k).held j = none := by
  refine foldl_drops (gone := fun i => 4 * k + i = j) (fun m i hi => ?_) ?_
  · rw [drop_held]
    split
    · rfl
    · next hne => exact hi.resolve_left hne
  · exact h.imp (fun hk => ⟨j % 4, List.mem_range.mpr (Nat.mod_lt _ (by decide)), by omega⟩) id

theorem dropRow_held {key : Nat} (h : key / 1024 = j / 32 ∧ key % 1024 = 0 ∨ m.held j = none) : (m.dropRow key).held j = none := by
  refine foldl_drops (gone := fun i => j / 4 = key / 128 + i) (fun m i hi => dropLine_held hi) ?_
  exact h.imp (fun ⟨hrow, hkey⟩ => ⟨j / 4 - key / 128, List.mem_range.mpr (by omega), by omega⟩) id

theorem dropLine_dram (m : Mem) (k : Nat) : (m.dropLine k).dram = m.dram := by
  unfold Mem.dropLine
  exact foldl_keeps (f := fun (x : Mem) i => x.drop (4 * k + i)) (P := fun x : Mem => x.dram = m.dram) (fun _ _ hx => hx) _ rfl

theorem dropRow_dram (m : Mem) (key : Nat) : (m.dropRow key).dram = m.dram :=
  foldl_keeps (P := fun x : Mem => x.dram = m.dram) (fun x _ hx => (dropLine_dram x _).trans hx) _ rfl

theorem dropRows_dram (m : Mem) (l : List Nat) : (l.foldl Mem.dropRow m).dram = m.dram :=
  foldl_keeps (P := fun x : Mem => x.dram = m.dram) (fun x key hx => (dropRow_dram x key).trans hx) _ rfl

theorem dropRows_held {l : List Nat} {key : Nat} (hl : key ∈ l) (hkey : key % 1024 = 0) (hj : j < 32) :
    (l.foldl Mem.dropRow m).held (key / 32 + j) = none := by
  refine foldl_drops (gone := fun k => k / 1024 = (key / 32 + j) / 32 ∧ k % 1024 = 0) (fun m k hk => dropRow_held hk) ?_
  exact .inl ⟨key, hl, by omega, hkey⟩

/-- The invalidations of a command that has retired. -/
theorem nbL2Invalidate_next {v : NbInval} (h : s.ctx.eng.invals = [v]) : exec (.nbL2Invalidate v.seq) s =
    .next ({ s with mem := v.rows.foldl Mem.dropRow s.mem }.modCtx (fun c => { c with eng := { c.eng with invals := c.eng.invals.erase v } })) := by
  show execNbL2Invalidate v.seq s = _
  simp only [execNbL2Invalidate, h, List.find?_cons, beq_self_eq_true]
  rfl

end

end Sys2Proof.Machine
end

section
/-! PROOF. O47, third part: the rows of DRAM that a step reads and writes (05 R139, R146; 07 R171 to R173). -/

namespace Sys2Proof.Machine

open State

/-! Lists of equal parts -/

/-- Numbers counted part by part. -/
theorem flatMap_range {α : Type} (a b : Nat) (f : Nat → α) :
    (List.range a).flatMap (fun i => (List.range b).map fun j => f (b * i + j)) = (List.range (b * a)).map f := by
  induction a with
  | zero => rfl
  | succ a ih =>
    rw [List.range_succ, List.flatMap_append, ih, Nat.mul_succ, List.range_add, List.map_append, List.map_map, List.flatMap_singleton]
    rfl

/-- One of several parts of the same length. -/
theorem take_drop_flatMap {α β : Type} {w : Nat} {f : α → List β} (hw : ∀ a, (f a).length = w) {l : List α} {k : Nat} (hk : k < l.length) :
    ((l.flatMap f).drop (k * w)).take w = f l[k] := by
  induction l generalizing k with
  | nil => cases hk
  | cons a l ih =>
    cases k with
    | zero => rw [Nat.zero_mul, List.drop_zero, List.flatMap_cons, ← hw a, List.take_left]; rfl
    | succ k =>
      rw [List.flatMap_cons, Nat.succ_mul, Nat.add_comm, ← List.drop_drop, ← hw a, List.drop_left, hw a]
      exact ih (Nat.lt_of_succ_lt_succ hk)

/-! Rows -/

/-- The bytes of a row stand in DRAM one after another. -/
theorem dramRow_fst (m : Mem) {key : Nat} (hkey : key % 32 = 0) :
    (dramRow m key).1 = (List.range 1024).map fun i => Cells.get 0 m.dram (key + i) := by
  have hsector (i : Nat) : (m.dramSector (key / 32 + i) true).data.toList =
      (List.range 32).map fun j => Cells.get 0 m.dram (key + (32 * i + j)) := by
    refine List.ext_getElem (by simp) fun j hj _ => ?_
    rw [Vector.length_toList] at hj
    rw [Vector.getElem_toList, Mem.dramSector_getElem _ _ hj, List.getElem_map, List.getElem_range]
    congr 1
    omega
  unfold dramRow
  simp only [List.flatMap_map, hsector]
  exact flatMap_range 32 32 fun i => Cells.get 0 m.dram (key + i)

/-- A row all of whose sectors carry the same mark. -/
theorem dramRow_snd {m : Mem} {key : Nat} {p : Bool} (h : ∀ i, i < 32 → Marks.mem m.poison (key / 32 + i) = p) :
    (dramRow m key).2 = if p then some 0 else none := by
  cases p with
  | false =>
    have hnone : (((List.range 32).map fun i => m.dramSector (key / 32 + i) true).findIdx? (·.poison)) = none :=
      List.findIdx?_eq_none_iff.mpr fun x hx => by
        obtain ⟨i, hi, rfl⟩ := List.mem_map.mp hx
        exact h i (List.mem_range.mp hi)
    exact congrArg (Option.map (32 * ·)) hnone
  | true =>
    have hfirst : (((List.range 32).map fun i => m.dramSector (key / 32 + i) true).findIdx? (·.poison)) = some 0 := by
      rw [List.range_succ_eq_map, List.map_cons, List.findIdx?_cons]
      exact if_pos (h 0 (by decide))
    exact congrArg (Option.map (32 * ·)) hfirst

theorem putDramRow_dram (m : Mem) (key : Nat) (bs : List Byte) (p : Bool) : (putDramRow m key bs p).dram = cellsPut m.dram key bs :=
  foldl_keeps (P := fun x : Mem => x.dram = cellsPut m.dram key bs) (fun x i hx => (Mem.setPoison_dram ..).trans hx) _
    (by rw [Mem.dramBytes_eq])

theorem putDramRow_poison (m : Mem) (key : Nat) (bs : List Byte) (p : Bool) {i : Nat} (hi : i < 32) :
    Marks.mem (putDramRow m key bs p).poison (key / 32 + i) = p := by
  have hmarks (l : List Nat) (x : Mem) (h : i ∈ l ∨ Marks.mem x.poison (key / 32 + i) = p) :
      Marks.mem (l.foldl (fun (m : Mem) j => m.setPoison (key / 32 + j) p) x).poison (key / 32 + i) = p := by
    induction l generalizing x with
    | nil => exact h.resolve_left (List.not_mem_nil)
    | cons j l ih =>
      by_cases hj : j = i
      · exact ih _ (.inr (by rw [Mem.mem_setPoison, if_pos (by rw [hj])]))
      · refine ih _ (h.imp (fun hi => (List.mem_cons.mp hi).resolve_left (Ne.symm hj)) fun h => ?_)
        rwa [Mem.mem_setPoison, if_neg (by omega)]
  exact hmarks _ _ (.inl (List.mem_range.mpr hi))

/-- A written row reads as written, every sector with its mark. -/
theorem dramRow_putDramRow (m : Mem) {key : Nat} {bs : List Byte} (p : Bool) (hkey : key % 32 = 0) (hbs : bs.length = 1024) :
    dramRow (putDramRow m key bs p) key = (bs, if p then some 0 else none) := by
  refine Prod.ext ?_ (dramRow_snd fun i hi => putDramRow_poison m key bs p hi)
  rw [dramRow_fst _ hkey, putDramRow_dram, ← hbs]
  exact map_overlay (Cells.get 0 m.dram) (get_cellsPut m.dram key)

theorem length_dramRow (m : Mem) (key : Nat) : (dramRow m key).1.length = 1024 := by
  simp only [dramRow, List.length_flatMap, Vector.length_toList, List.map_map, Function.comp_def, List.map_const', List.length_range,
    List.sum_replicate]
  rfl

/-! What a step leaves alone -/

section
variable {s : State} {r : NbRun} {row : W64 × Nat} {off : Option Nat} {key : Nat}

theorem foldRow_eq (h : s.mem.adds = []) : s.foldRow key = s := by
  unfold foldRow foldAdds
  rw [h]
  rfl

theorem markStale_mem : (s.markStale key).mem = s.mem := by
  unfold markStale
  dsimp only
  split <;> rfl

theorem nbPoison_mem : (nbPoison s r row off).1.mem = s.mem := by cases off <;> rfl
theorem nbPoison_row : (nbPoison s r row off).2.row = r.row := by cases off <;> rfl
theorem nbPoison_flags : (nbPoison s r row off).2.flags = r.flags := by cases off <;> rfl
theorem nbPoison_pages : (nbPoison s r row off).2.pages = r.pages := by cases off <;> rfl
theorem nbPoison_got : (nbPoison s r row off).2.got = r.got := by cases off <;> rfl
theorem nbPoison_event : (nbPoison s r row off).2.event = r.event := by cases off <;> rfl

/-- A row is written, once the adds that are pending on it have been folded, and its stripe is stale. -/
def State.putRow (s : State) (key : Nat) (bs : List Byte) (poison : Bool) : State :=
  { s with mem := putDramRow (s.foldRow key).mem key bs poison }.markStale key

theorem dramRow_putRow {bs : List Byte} (p : Bool) (hkey : key % 32 = 0) (hbs : bs.length = 1024) :
    dramRow (s.putRow key bs p).mem key = (bs, if p then some 0 else none) := by
  rw [State.putRow, markStale_mem]
  exact dramRow_putDramRow _ p hkey hbs

end

/-! RZERO and RCPY (07 R172, R173) -/

section
variable {s : State} {r : NbRun} {b : W64}

/-- What a row holds once a step has been made. -/
def rowAfter (fn : NbFn) (b : W64) (s : State) (r : NbRun) (key : Nat) : List Byte × Option Nat := dramRow (rowWork fn b s r).1.mem key

theorem rowAfter_put {fn : NbFn} {t : State} {key : Nat} {bs : List Byte} {p : Bool} (hwork : (rowWork fn b s r).1 = t.putRow key bs p)
    (hkey : key % 32 = 0) (hbs : bs.length = 1024) : rowAfter fn b s r key = (bs, if p then some 0 else none) := by
  rw [rowAfter, hwork, dramRow_putRow p hkey hbs]

/-- The keys of a command's rows. -/
def NbRun.srcKey (r : NbRun) : Nat := r.src.2 + 1024 * r.row
def NbRun.dstKey (r : NbRun) : Nat := r.dst.2 + 1024 * r.row

/-- A command whose row is done. -/
def NbRun.rowDone (r : NbRun) (key : Nat) : NbRun := { r with row := r.row + 1, written := r.written ++ [key], buffer := none }

theorem rzero_row (hkey : r.dstKey % 32 = 0) : (rowAfter .rzero b s r r.dstKey).1 = List.replicate 1024 0 := by
  have hwork : (rowWork .rzero b s r).1 = s.putRow r.dstKey (List.replicate 1024 0) false := rfl
  rw [rowAfter_put hwork hkey List.length_replicate]

/-- The second step of a buffered copy. -/
theorem rcpy_write {bs : List Byte} {p : Bool} (hkey : r.dstKey % 32 = 0) (h : r.buffer = some (bs, p)) (hbs : bs.length = 1024) :
    (rowAfter .rcpy b s r r.dstKey).1 = bs ∧ (rowWork .rcpy b s r).2.row = r.row + 1 ∧ (rowWork .rcpy b s r).2.buffer = none := by
  have hwork : rowWork .rcpy b s r = (s.putRow r.dstKey bs p, r.rowDone r.dstKey) := by
    unfold rowWork
    rw [h]
    rfl
  rw [rowAfter_put (congrArg Prod.fst hwork) hkey hbs, hwork]
  exact ⟨rfl, rfl, rfl⟩

/-- The row of a copy as it is read. -/
def copyRow (s : State) (r : NbRun) : List Byte × Option Nat := dramRow (s.foldRow r.srcKey).mem r.srcKey

/-- The state and the command once it has been read. -/
def srcRead (s : State) (r : NbRun) : State × NbRun := nbPoison (s.foldRow r.srcKey) r (rowAt r.src r.row) (copyRow s r).2

/-- A copy inside the DRAM. -/
theorem rcpy_direct (hkey : r.dstKey % 32 = 0) (h : r.buffer = none) (hsub : inSubarray r r.srcKey r.dstKey = true) :
    (rowAfter .rcpy b s r r.dstKey).1 = (copyRow s r).1 ∧ (rowWork .rcpy b s r).2.row = r.row + 1 := by
  have hwork : rowWork .rcpy b s r =
      ((srcRead s r).1.putRow r.dstKey (copyRow s r).1 (copyRow s r).2.isSome, (srcRead s r).2.rowDone r.dstKey) := by
    unfold rowWork
    rw [h]
    exact if_pos hsub
  rw [rowAfter_put (congrArg Prod.fst hwork) hkey (length_dramRow ..), hwork]
  exact ⟨by dsimp only, congrArg (· + 1) nbPoison_row⟩

/-- The first step of a buffered copy. -/
theorem rcpy_read (h : r.buffer = none) (hsub : inSubarray r r.srcKey r.dstKey = false) :
    (rowWork .rcpy b s r).1.mem = (s.foldRow r.srcKey).mem ∧ (rowWork .rcpy b s r).2.row = r.row ∧
      (rowWork .rcpy b s r).2.buffer = some ((copyRow s r).1, (copyRow s r).2.isSome) := by
  have hwork : rowWork .rcpy b s r =
      ((srcRead s r).1, { (srcRead s r).2 with buffer := some ((copyRow s r).1, (copyRow s r).2.isSome) }) := by
    unfold rowWork
    rw [h]
    exact if_neg (Bool.eq_false_iff.mp hsub)
  rw [hwork]
  exact ⟨nbPoison_mem, nbPoison_row, rfl⟩

end

/-! SAXPY (07 R171) -/

theorem natOfBytes_bytesOfNat (w v : Nat) : natOfBytes (bytesOfNat w v) = v % 256 ^ w := by
  induction w generalizing v with
  | zero => rw [Nat.pow_zero, Nat.mod_one]; rfl
  | succ w ih =>
    have hcons : bytesOfNat (w + 1) v = BitVec.ofNat 8 v :: bytesOfNat w (v / 256) := by
      unfold bytesOfNat
      rw [List.range_succ_eq_map, List.map_cons, List.map_map]
      refine congrArg₂ List.cons (by simp) (List.map_congr_left fun i _ => ?_)
      rw [Function.comp_apply, Nat.div_div_eq_div_mul, Nat.mul_succ, Nat.pow_add, Nat.mul_comm]
    rw [hcons, natOfBytes, ih, BitVec.toNat_ofNat, show 256 ^ (w + 1) = 256 * 256 ^ w from Nat.pow_succ', Nat.mod_mul]

/-- Bytes and flags gathered element by element. -/
theorem foldl_append_or {α : Type} (f : α → List Byte) (g : α → Fl) (l : List α) (bs : List Byte) (fl : Fl) :
    l.foldl (fun (p : List Byte × Fl) k => (p.1 ++ f k, p.2 ||| g k)) (bs, fl) = (bs ++ l.flatMap f, l.foldl (fun a k => a ||| g k) fl) := by
  induction l generalizing bs fl with
  | nil => rw [List.flatMap_nil, List.append_nil]; rfl
  | cons k l ih => rw [List.foldl_cons, ih, List.flatMap_cons, List.append_assoc]; rfl

theorem or_foldl {α : Type} (g : α → Fl) (l : List α) (a b : Fl) :
    a ||| l.foldl (fun f k => f ||| g k) b = l.foldl (fun f k => f ||| g k) (a ||| b) := by
  induction l generalizing b with
  | nil => rfl
  | cons k l ih => rw [List.foldl_cons, ih, List.foldl_cons, BitVec.or_assoc]

section
variable {ty : EType} {a : W64} {xs ys : List Byte}

/-- The types of SAXPY's elements. -/
def WideElem (ty : EType) : Prop := ty = .fp16 ∨ ty = .bf16 ∨ ty = .fp32

/-- The exact value of an element of the result. -/
def saxpyVal (ty : EType) (a : W64) (xs ys : List Byte) (k : Nat) : FVal :=
  ((FFmt.fp32.decode (a.toNat % 2 ^ 32)).mul (ty.fmt.decode (elemRaw ty xs k))).add .rne (ty.fmt.decode (elemRaw ty ys k))

/-- NV where operands without a NaN make one (03 R72). -/
def saxpyNv (ty : EType) (a : W64) (xs ys : List Byte) (k : Nat) : Fl :=
  if saxpyVal ty a xs ys k = .nan ∧ FFmt.fp32.decode (a.toNat % 2 ^ 32) ≠ .nan ∧ ty.fmt.decode (elemRaw ty xs k) ≠ .nan ∧
    ty.fmt.decode (elemRaw ty ys k) ≠ .nan then Fl.nv else 0

/-- The result and the flags of an element, rounded once. -/
def saxpyOut (ty : EType) (a : W64) (xs ys : List Byte) (k : Nat) : Nat × Fl := (saxpyVal ty a xs ys k).round ty.fmt .rne

variable (hty : WideElem ty)
include hty

theorem saxpyElem_eq (k : Nat) : saxpyElem ty (a.setWidth 32) (elemRaw ty xs k) (elemRaw ty ys k) =
    ((saxpyOut ty a xs ys k).1, (saxpyOut ty a xs ys k).2 ||| saxpyNv ty a xs ys k) := by
  have hfloat : ty.isFloat = true := by rcases hty with rfl | rfl | rfl <;> rfl
  have hwidth : (a.setWidth 32).toNat = a.toNat % 2 ^ 32 := BitVec.toNat_setWidth ..
  unfold saxpyElem
  simp only [elemVal_float hfloat, elemVal_fp32, hwidth, ElemEnv.nvOf_eq ElemEnv.nan_mem_three]
  refine Prod.ext rfl (congrArg (_ ||| ·) (if_congr ?_ rfl rfl))
  simp only [List.mem_cons, List.not_mem_nil, or_false, not_or, ne_eq, @eq_comm _ FVal.nan]
  rfl

theorem saxpyRow_eq : saxpyRow ty (a.setWidth 32) xs ys =
    ((List.range (8192 / ty.bits)).flatMap fun k => bytesOfNat (ty.bits / 8) (saxpyOut ty a xs ys k).1,
      (List.range (8192 / ty.bits)).foldl (fun f k => f ||| ((saxpyOut ty a xs ys k).2 ||| saxpyNv ty a xs ys k)) 0) := by
  have helems : rowElems ty = 8192 / ty.bits := by rcases hty with rfl | rfl | rfl <;> rfl
  unfold saxpyRow
  rw [helems]
  simp only [saxpyElem_eq hty]
  exact foldl_append_or _ _ _ _ _

theorem length_saxpyRow : (saxpyRow ty (a.setWidth 32) xs ys).1.length = 1024 := by
  rw [saxpyRow_eq hty, List.length_flatMap]
  simp only [length_bytesOfNat, List.map_const', List.sum_replicate, List.length_range]
  rcases hty with rfl | rfl | rfl <;> decide

/-- An element of the row that is written. -/
theorem elemRaw_saxpyRow {k : Nat} (hk : k < 8192 / ty.bits) : elemRaw ty (saxpyRow ty (a.setWidth 32) xs ys).1 k = (saxpyOut ty a xs ys k).1 := by
  have hb4 : (ty == .b4) = false := by rcases hty with rfl | rfl | rfl <;> rfl
  have hbits : 256 ^ (ty.bits / 8) = 2 ^ (ty.fmt.eb + ty.fmt.fb + 1) := by rcases hty with rfl | rfl | rfl <;> decide
  have hlen : k < (List.range (8192 / ty.bits)).length := by rwa [List.length_range]
  rw [saxpyRow_eq hty, elemRaw, hb4, if_neg Bool.false_ne_true, take_drop_flatMap (fun _ => length_bytesOfNat ..) hlen, List.getElem_range,
    natOfBytes_bytesOfNat, hbits]
  exact Nat.mod_eq_of_lt (round_lt ty.fmt_usual _)

end

section
variable {s : State} {r : NbRun} {b : W64} {ty : EType}

/-- Memory once both operands' adds have been folded, and the two rows. -/
def saxpyState (s : State) (r : NbRun) : State := (s.foldRow r.srcKey).foldRow r.dstKey
def saxpyX (s : State) (r : NbRun) : List Byte × Option Nat := dramRow (saxpyState s r).mem r.srcKey
def saxpyY (s : State) (r : NbRun) : List Byte × Option Nat := dramRow (saxpyState s r).mem r.dstKey

/-- The state and the command once both rows have been read. -/
def saxpyRead (s : State) (r : NbRun) : State × NbRun :=
  let x := nbPoison (saxpyState s r) r (rowAt r.src r.row) (saxpyX s r).2
  nbPoison x.1 x.2 (rowAt r.dst r.row) (saxpyY s r).2

theorem saxpyRead_row : (saxpyRead s r).2.row = r.row := nbPoison_row.trans nbPoison_row
theorem saxpyRead_flags : (saxpyRead s r).2.flags = r.flags := nbPoison_flags.trans nbPoison_flags

/-- The row that SAXPY writes, with its flags. -/
def saxpyRes (ty : EType) (b : W64) (s : State) (r : NbRun) : List Byte × Fl := saxpyRow ty (b.setWidth 32) (saxpyX s r).1 (saxpyY s r).1

theorem rowWork_saxpy (hfmt : r.efmt = ty.code) : rowWork .saxpy b s r =
    ((saxpyRead s r).1.putRow r.dstKey (saxpyRes ty b s r).1 ((saxpyX s r).2.isSome || (saxpyY s r).2.isSome),
      NbRun.rowDone { (saxpyRead s r).2 with flags := (saxpyRead s r).2.flags ||| (saxpyRes ty b s r).2 } r.dstKey) := by
  unfold rowWork
  rw [hfmt, ofCode_code, Option.getD_some]
  rfl

/-- A step of SAXPY: each element of the row is rounded once, the flags are gathered, and a row that met poison is written poisoned. -/
theorem saxpy_row (hty : WideElem ty) (hfmt : r.efmt = ty.code) (hkey : r.dstKey % 32 = 0) :
    let out := saxpyOut ty b (saxpyX s r).1 (saxpyY s r).1
    let nv := saxpyNv ty b (saxpyX s r).1 (saxpyY s r).1
    (rowWork .saxpy b s r).2.row = r.row + 1 ∧
    (∀ k, k < 8192 / ty.bits → elemRaw ty (rowAfter .saxpy b s r r.dstKey).1 k = (out k).1) ∧
    (rowWork .saxpy b s r).2.flags = (List.range (8192 / ty.bits)).foldl (fun f k => f ||| (out k).2 ||| nv k) r.flags ∧
    (rowAfter .saxpy b s r r.dstKey).2.isSome = ((saxpyX s r).2.isSome || (saxpyY s r).2.isSome) := by
  intro out nv
  have hwork := rowWork_saxpy (s := s) (b := b) hfmt
  rw [rowAfter_put (congrArg Prod.fst hwork) hkey (length_saxpyRow hty), hwork]
  refine ⟨congrArg (· + 1) saxpyRead_row, fun k hk => elemRaw_saxpyRow hty hk, ?_, ?_⟩
  · show (saxpyRead s r).2.flags ||| (saxpyRes ty b s r).2 = _
    rw [saxpyRead_flags, saxpyRes, saxpyRow_eq hty, or_foldl, Fl.or_zero]
    simp only [BitVec.or_assoc]
    rfl
  · cases (saxpyX s r).2.isSome || (saxpyY s r).2.isSome <;> rfl

end

end Sys2Proof.Machine
end

section
/-! PROOF. O47, fourth part: the rows, the outputs and the end of an NB.MV (07 R169, R170, R173, R176), and the statement. -/

namespace Sys2Proof.Machine

open State

/-! The rows of a step -/

section
variable {s : State} {r : NbRun} {n k : Nat}

/-- The weight row of a page that a step reads. -/
def weightAt (r : NbRun) (n k q : Nat) : W64 × Nat := rowAt (r.pages.getD q (0, 0)) (k % n)

/-- One page's turn: its row is read into what the command has got. -/
def readPage (n k : Nat) (p : State × NbRun) (q : Nat) : State × NbRun :=
  let row := weightAt p.2 n k q
  let s0 := p.1.foldRow row.2
  let d := dramRow s0.mem row.2
  let z := nbPoison s0 p.2 row d.2
  (z.1, { z.2 with got := z.2.got ++ [(64 * q + k % n, d.1)], bad := if d.2.isSome then z.2.bad ++ [k % n] else z.2.bad })

theorem mvRead_eq : mvRead n s r = (mvPages r n r.mpc).foldl (readPage n r.mpc) (s, r) := rfl

theorem readPage_mem {p : State × NbRun} {q : Nat} (h : p.1.mem.adds = []) : (readPage n k p q).1.mem = p.1.mem :=
  nbPoison_mem.trans (by rw [foldRow_eq h])

theorem readPage_pages {p : State × NbRun} {q : Nat} : (readPage n k p q).2.pages = p.2.pages := nbPoison_pages

theorem readPage_got {p : State × NbRun} {q : Nat} (h : p.1.mem.adds = []) : (readPage n k p q).2.got =
    p.2.got ++ [(64 * q + k % n, (dramRow p.1.mem (weightAt p.2 n k q).2).1)] := by
  unfold readPage
  simp only [foldRow_eq h, nbPoison_got]

theorem foldl_readPage_got (qs : List Nat) {p : State × NbRun} (h : p.1.mem.adds = []) : (qs.foldl (readPage n k) p).2.got =
    p.2.got ++ qs.map fun q => (64 * q + k % n, (dramRow p.1.mem (weightAt p.2 n k q).2).1) := by
  induction qs generalizing p with
  | nil => exact (List.append_nil _).symm
  | cons q qs ih =>
    have hmem := readPage_mem (n := n) (k := k) (q := q) h
    have hweight (i : Nat) : weightAt (readPage n k p q).2 n k i = weightAt p.2 n k i := by rw [weightAt, readPage_pages, weightAt]
    rw [List.foldl_cons, ih (by rw [hmem]; exact h), readPage_got h, hmem, List.map_cons, List.append_assoc]
    simp only [hweight]
    rfl

/-- A step adds the rows of the pages whose turn it is, in their order. -/
theorem mvRead_got (h : s.mem.adds = []) : (mvRead n s r).2.got = r.got ++ (mvPages r n r.mpc).map fun q =>
    (64 * q + r.mpc % n, (dramRow s.mem ((r.pages.getD q (0, 0)).2 + 1024 * (r.mpc % n))).1) := by
  rw [mvRead_eq, foldl_readPage_got _ h]
  rfl

theorem mvRead_event : (mvRead n s r).2.event = r.event := by
  rw [mvRead_eq]
  exact foldl_keeps (f := readPage n r.mpc) (b := (s, r)) (P := fun p : State × NbRun => p.2.event = r.event)
    (fun p q h => nbPoison_event.trans h) _ rfl

end

/-! The outputs -/

section
variable {np : BitVec 8} {n j : Nat} {r : NbRun} {x old : List Byte} {xf ef : EType}

/-- An output is the accumulation of its row of all pages, as an MMA of one row and one column gives it. -/
theorem mvOutputs_getElem (hx : r.xfmt = xf.code) (he : r.efmt = ef.code) (hj : j < n) : (mvOutputs np r n x old)[j]? =
    some (accumulate np xf ef j 0 (if r.z then 0 else BitVec.ofNat 32 (natOfBytes ((old.drop (4 * j)).take 4)))
      ((List.range (r.pages.length * rowElems ef)).map fun k => (elemRaw xf x k, 0))
      ((List.range r.pages.length).flatMap fun q => weightRow ef (gotRow r q j))) := by
  unfold mvOutputs
  simp only [hx, he, ofCode_code, Option.getD_some]
  rw [List.getElem?_map, List.getElem?_range hj, Option.map_some]

theorem rowElems_eq (t : EType) : rowElems t = if t = .b4 then 1920 else 8192 / t.bits := if_congr beq_iff_eq rfl rfl

theorem weightRow_eq (t : EType) (bs : List Byte) : weightRow t bs = (List.range (if t = .b4 then 1920 else 8192 / t.bits)).map fun k =>
    (elemRaw t bs k, if t = .b4 then (bs.getD (960 + k / 32) 0).toNat else 0) := by
  rw [weightRow, rowElems_eq]
  exact List.map_congr_left fun k _ => congrArg _ (if_congr beq_iff_eq rfl rfl)

end

/-! The end -/

section
variable {s t1 t2 t3 : State} {np : BitVec 8} {n : Nat} {r : NbRun} {xb old : List (Byte × Bool)}

/-- Whether an output met poison: in a row, in x or in its old value. -/
def mvBad (r : NbRun) (xb old : List (Byte × Bool)) (j : Nat) : Bool :=
  r.bad.contains j || xb.any (·.2) || ((old.drop (4 * j)).take 4).any (·.2)

/-- The word that is written for an output. -/
def mvWord (np : BitVec 8) (r : NbRun) (n : Nat) (xb old : List (Byte × Bool)) (j : Nat) : W32 :=
  if mvBad r xb old j then (if profileInt np ((EType.ofCode r.xfmt).getD .i8) then 0x80000000 else 0x7FC00000)
  else ((mvOutputs np r n (xb.map (·.1)) (old.map (·.1))).map (·.acc)).getD j 0

/-- The outputs that met none. -/
def mvSound (np : BitVec 8) (r : NbRun) (n : Nat) (xb old : List (Byte × Bool)) : List (Nat × CellRun) :=
  ((List.range n).zip (mvOutputs np r n (xb.map (·.1)) (old.map (·.1)))).filter fun e => !mvBad r xb old e.1

/-- The poisoned piece of x, or else of the old y, that is recorded. -/
def mvFirst (r : NbRun) (xb old : List (Byte × Bool)) : Option (W64 × Target) := (firstPoisoned r.x xb).or (firstPoisoned r.y old)

/-- The command with what its sound outputs bring. -/
def mvEnded (np : BitVec 8) (r : NbRun) (n : Nat) (xb old : List (Byte × Bool)) : NbRun :=
  { r with flags := (mvSound np r n xb old).foldl (fun f o => f ||| o.2.fl) r.flags, event := leastOf (·.2.event) (mvSound np r n xb old) }

theorem mvFinish_ok (hevent : r.event = none) (hx : eReadPieces none r.x s = .ok xb t1)
    (hy : if r.z then old = [] ∧ t2 = t1 else eReadPieces none r.y t1 = .ok old t2)
    (hw : eWritePieces (cleanBytes ((List.range n).flatMap fun j => bytesOfNat 4 (mvWord np r n xb old j).toNat)) 0 r.y t2 = .ok none t3) :
    mvFinish np n r s = .ok
      { mvEnded np r n xb old with poisoned := r.poisoned.or ((mvFirst r xb old).map fun e => sectorVa e.1) }
      (match mvFirst r xb old with | some (a, t) => t3.noteEcc 2 (t2.lostT t) (sectorVa a) | none => t3) := by
  have hold : (if r.z then pure [] else eReadPieces none r.y : E (List (Byte × Bool))) t1 = .ok old t2 := by
    split at hy
    · next hz => rw [if_pos hz, hy.1, hy.2]; rfl
    · next hz => rw [if_neg hz]; exact hy
  have hnone : (firstPoisoned r.x xb).or ((firstPoisoned r.y old).or none) = mvFirst r xb old := by rw [Option.or_none, mvFirst]
  refine (bind_ok hx).trans ((bind_ok hold).trans ?_)
  refine (bind_ok (a := none) (t := t3) hw).trans ?_
  simp only [bind_modify, pure_run, Option.bind_none, Option.map_none]
  rw [hnone, hevent]
  rfl

/-- The last step of an NB.MV: the first poison that its x and old y carry is recorded, and raised as the command retires. -/
theorem nbRowStep_ends {m : Cmd} {va vb vc : W64} {w : Nat} {r0 : NbRun} (hm : s.cmd m.seq = some m)
    (hbody : m.body = .nb .mv va vb vc n np w (some r0)) (hgoes : Goes s m r0) (hsusp : r0.suspended = false)
    (hadm : s.admits r0.home (stepReads .mv n r0) = true) (hr : (mvReadIn s .mv n r0).2.stepped = r) (hlast : mvSteps r0 n ≤ r.mpc)
    (hevent : r0.event = none) (hx : eReadPieces none r.x (mvReadIn s .mv n r0).1 = .ok xb t1)
    (hy : if r.z then old = [] ∧ t2 = t1 else eReadPieces none r.y t1 = .ok old t2)
    (hw : eWritePieces (cleanBytes ((List.range n).flatMap fun j => bytesOfNat 4 (mvWord np r n xb old j).toNat)) 0 r.y t2 = .ok none t3) :
    (mvFirst r xb old = none → exec (.nbRowStep m.seq) s = .next (nbFinish t3 m.seq (mvEnded np r n xb old))) ∧
    ∀ p, mvFirst r xb old = some p → exec (.nbRowStep m.seq) s = .next (nbFinish (t3.noteEcc 2 (t2.lostT p.2) (sectorVa p.1)) m.seq
      { mvEnded np r n xb old with poisoned := r.poisoned.or (some (sectorVa p.1)) }) := by
  have hnone : r.event = none := hr ▸ mvRead_event.trans hevent
  have hfinish := mvFinish_ok hnone hx hy hw
  subst hr
  have hrun := nbRowStep_last hm hbody hgoes hsusp hadm rfl hlast hfinish
  refine ⟨fun hfirst => hrun.trans ?_, fun p hfirst => hrun.trans ?_⟩
  · simp only [hfirst, Option.map_none, Option.or_none]
    rfl
  · simp only [hfirst, Option.map_some]

end

end Sys2Proof.Machine

open Sys2Proof.Machine State

/-- Settles O47: a command is issued as `nbIssue_next` says, starts by its checks (`nbStart_checks`), and a step is the work of a row
(`rowWork`), a read of rows (`mvRead_got`) or the end of an NB.MV (`mvFinish_ok`); requests pass as `servePch_one` says. -/
theorem nearBankUnits : Obligations.NearBankUnits := by
  intro s t t1 t2 t3 d a b c rows d1 d2 np m fn va vb vc n w k run_ r x name stack pch v xb old here word issues
  have hissue : ∀ {i fn b c y z ok}, exec i s = run (nbIssue i fn d a b c rows d1 d2 np) s → s.getX b = y → s.getX c = z →
      (if fn = .mv then profileLegal np s.ctx.isDet else decide (np = 0)) = ok → issues i fn y z ok := by
    intro i fn b c y z ok hi hb hc hok
    subst hb hc hok
    exact ⟨fun hA hnear hprof => nbIssue_next hi hA hnear hprof, fun hA => nbIssue_absent hi hA, fun hA hnear => nbIssue_profile hi hA hnear⟩
  refine ⟨hissue rfl rfl rfl rfl, hissue rfl rfl rfl rfl, hissue rfl rfl rfl rfl, hissue rfl rfl rfl rfl,
    fun hm hbody hnew hfin hfirst hstart hedge => ?start, fun hm hbody => ?steps, ?rows,
    ⟨nbRequestService_free, nbRequestService_running, fun q rest hhead hsusp hreq => ?service, serveAll_requests⟩,
    fun z key bs p hkey hbs => dramRow_putDramRow z p hkey hbs, fun hinvals => ?invalidate⟩
  case start => exact ⟨nbStart_code hm hbody hnew hfin hfirst hstart hedge, nbStart_accepted hm hbody hnew hfin hfirst hstart hedge⟩
  case steps =>
    refine ⟨fun hgoes hsusp hadm => ⟨nbRowStep_row hm hbody hgoes hsusp hadm, fun hfn =>
      ⟨nbRowStep_more hm hbody hgoes hsusp hadm hfn, fun hlast => ?last⟩⟩, nbRowStep_suspended hm hbody, nbRowStep_held hm hbody,
      nbAllowanceAdmit_released hm hbody, nbAllowanceAdmit_idle hm hbody, nbBoundary_eq m.seq, requestsBefore_iff⟩
    subst hfn
    intro hevent hx hy outs nan bad sound hw
    obtain ⟨hsound, hpoisoned⟩ := nbRowStep_ends hm hbody hgoes hsusp hadm rfl hlast hevent hx hy hw
    refine ⟨_, leastEvent_leastOf (·.2.event) sound, ?_⟩
    intro r''
    split
    · next hfirst => exact hsound hfirst
    · next p hfirst => exact hpoisoned p hfirst
  case rows =>
    refine ⟨foldRow_eq, fun hkey => ⟨rzero_row hkey, rfl, rcpy_direct hkey, rcpy_read, fun b p => rcpy_write hkey,
      fun ty hty hfmt => saxpy_row hty hfmt hkey⟩, mvRead_got, ?_⟩
    intro xf ef j hxf hef hj e row xs ws
    rw [mvOutputs_getElem hxf hef hj]
    simp only [weightRow_eq, rowElems_eq]
    rfl
  case service =>
    have hserve := nbRequestService_serves hhead hsusp
    rw [servePch_one hreq] at hserve
    refine ⟨fun hwho => ?_, fun o hwho hback => ?_, fun i hwho => ?_⟩
    · rw [hwho] at hserve
      exact hserve
    · rw [hwho] at hserve
      cases o with
      | strand ctx k handler => exact hserve
      | event ctx i => exact hserve
      | writeBack i => exact absurd rfl (hback i)
    · rw [hwho] at hserve
      exact hserve
  case invalidate =>
    refine ⟨_, nbL2Invalidate_next hinvals, ?_, dropRows_dram .., fun key hkey hrow j hj => dropRows_held hkey hrow hj⟩
    show s.ctx.eng.invals.erase v = []
    rw [hinvals, List.erase_cons_head]
end
